-- ==== Sys2Proof/Word.lean ====
section
/-! DEFINITION. The widths of the part (R7), the codes of its named sets, and the plain records that
an event of the outside world carries. Word.lean holds types and the plainest arithmetic only. -/

namespace Sys2Proof

/-- A byte, 8 bits (R7). -/
abbrev Byte := BitVec 8
/-- A half, 16 bits (R7). -/
abbrev Half := BitVec 16
/-- A word, 32 bits (R7). -/
abbrev Word := BitVec 32
/-- A dword, 64 bits (R7). -/
abbrev Dword := BitVec 64
/-- One bit for each lane of a group (R133). -/
abbrev LaneMask := BitVec 32
/-- A 7-bit operand code (R25). -/
abbrev Code := BitVec 7

/-- Who writes a control-window register: a host port, or the supervisor of a partition (R359). -/
inductive Writer where
  | port (n : Nat)
  | core (p : Nat)
  deriving DecidableEq, Repr

/-- What the world decides during bring-up (R382): which dies fail calibration, train only at the fall-back or fail
training, whether the memory trains and the fills succeed. -/
structure BringUp where
  calibrationFailed : List Nat
  memoryTrained : Bool
  linkSlow : List Nat              -- trained only on the retry at 16 GT/s and x32 (R349)
  linkFailed : List Nat
  fillOk : Bool
  deriving DecidableEq, Repr

/-- A protected 4 bytes of a group's registers (R188): a v register of a lane, an s register, 32 predicates of a lane,
a rejoin mask. -/
inductive RegPlace where
  | v (lane reg : Nat)
  | s (reg : Nat)
  | k (lane word : Nat)
  | m (i : Nat)
  deriving DecidableEq, Repr

/-- Where a soft error is found (R188, R189): LPDDR-6, the LLC's copy of it, the chip scratchpad, a block's
scratchpad, share, accumulators or a lane's slice, a register of a group, or a metadata entry of a slice or core. -/
inductive ErrorPlace where
  | memory (pa : Nat)
  | cache (pa : Nat)
  | chip (off : Nat)
  | scratch (blk off : Nat)
  | share (blk off : Nat)
  | tiles (blk off : Nat)
  | slice (blk thread off : Nat)
  | register (core slot : Nat) (r : RegPlace)
  | metadata (slice : Nat) (isCore : Bool)
  deriving DecidableEq, Repr

/-- A host's access to module memory (R361). -/
structure HostAccess where
  pasid : Nat
  va : Nat
  write : Bool
  data : List Byte
  deriving DecidableEq, Repr

/-- An access arriving on a peer port (R367). -/
structure PeerAccess where
  port : Nat
  q : Nat
  pa : Nat
  write : Bool
  data : List Byte
  atomic : Option Nat              -- an atomic's AOP (R237); `data` is then its source, its old value the answer
  deriving DecidableEq, Repr

/-- A departure packet (R298, R372). -/
structure Packet where
  id : BitVec 64
  part : Nat
  toStation : Nat
  child : Nat
  round : BitVec 32
  deadline : BitVec 32
  late : Bool
  manifest : List Nat              -- contributors, ascending
  repeats : Nat
  data : List (BitVec 32)
  deriving DecidableEq, Repr

/-- Where a departure packet comes from: one on its way within the module, by place in the list; one on its way
that is lost to an error (R302); one that arrives on a peer port (R367). -/
inductive PacketSource where
  | within (k : Nat)
  | lost (k : Nat)
  | peer (port : Nat) (p : Packet)
  deriving DecidableEq, Repr

/-- The route an SPDM request takes (R388). -/
inductive SpdmRoute where
  | host (port : Nat)
  | partition (p : Nat)
  deriving DecidableEq, Repr

/-- An SPDM request and the buffer its response goes to (R388). -/
structure SpdmRequest where
  route : SpdmRoute
  request : List Byte
  buffer : Nat
  deriving DecidableEq, Repr

end Sys2Proof
end

