-- ==== Sys2Proof/Machine/Exact.lean ====
section
/-! DEFINITION. Exact numbers and the rounding functions of chapter 03 (R41 to R54): every digital
result is an exact rational, rounded once. Exact values are `n / d` with a sign, an infinity or NaN. -/

namespace Sys2Proof.Machine

/-- An exact value; a zero keeps its sign, and `d` is never 0. -/
inductive Num where
  | nan
  | inf (neg : Bool)
  | fin (neg : Bool) (n d : Nat)
  deriving DecidableEq, Repr

/-- Exact `n × 2^e`. -/
def dyadic (neg : Bool) (n : Nat) (e : Int) : Num :=
  if 0 ≤ e then .fin neg (n * 2 ^ e.toNat) 1 else .fin neg n (2 ^ (-e).toNat)

/-- An exact integer. -/
def Num.ofInt (i : Int) : Num := .fin (i < 0) i.natAbs 1
def Num.zero : Num := .fin false 0 1

def Num.isNan : Num → Bool
  | .nan => true
  | _ => false
def Num.isInf : Num → Bool
  | .inf _ => true
  | _ => false
def Num.isZero : Num → Bool
  | .fin _ n _ => n == 0
  | _ => false
def Num.neg : Num → Num
  | .nan => .nan
  | .inf s => .inf !s
  | .fin s n d => .fin (!s) n d
def Num.abs : Num → Num
  | .nan => .nan
  | .inf _ => .inf false
  | .fin _ n d => .fin false n d

/-- A signed numerator. -/
def signed (s : Bool) (n : Nat) : Int := if s then -(n : Int) else n

/-- The exact sum; an exact zero is +0 but for (−0) + (−0) (R43). -/
def Num.add : Num → Num → Num
  | .nan, _ => .nan
  | _, .nan => .nan
  | .inf s, .inf t => if s = t then .inf s else .nan
  | .inf s, _ => .inf s
  | _, .inf t => .inf t
  | .fin s a c, .fin t b d =>
    if a = 0 ∧ b = 0 then .fin (s && t) 0 1
    else
      let m := if c % d = 0 then c else if d % c = 0 then d else c * d
      let v := signed s a * (m / c : Nat) + signed t b * (m / d : Nat)
      .fin (v < 0) v.natAbs m

def Num.sub (a b : Num) : Num := a.add b.neg

/-- The exact product (R43). -/
def Num.mul : Num → Num → Num
  | .nan, _ => .nan
  | _, .nan => .nan
  | .inf s, .inf t => .inf (s != t)
  | .inf s, .fin t b _ => if b = 0 then .nan else .inf (s != t)
  | .fin s a _, .inf t => if a = 0 then .nan else .inf (s != t)
  | .fin s a c, .fin t b d => .fin (s != t) (a * b) (c * d)

/-- The exact quotient; a zero divisor gives an infinity, 0 / 0 is invalid (R43, R56). -/
def Num.div : Num → Num → Num
  | .nan, _ => .nan
  | _, .nan => .nan
  | .inf _, .inf _ => .nan
  | .inf s, .fin t _ _ => .inf (s != t)
  | .fin s _ _, .inf t => .fin (s != t) 0 1
  | .fin s a c, .fin t b d =>
    if b = 0 then (if a = 0 then .nan else .inf (s != t)) else .fin (s != t) (a * d) (c * b)

/-- Numeric order; false with a NaN (R121). -/
def Num.lt : Num → Num → Bool
  | .nan, _ => false
  | _, .nan => false
  | .inf s, .inf t => s && !t
  | .inf s, _ => s
  | _, .inf t => !t
  | .fin s a c, .fin t b d => signed s a * (d : Int) < signed t b * (c : Int)
def Num.le (a b : Num) : Bool := !a.isNan && !b.isNan && !b.lt a
def Num.eq (a b : Num) : Bool := a.le b && b.le a

/-! ## Formats -/

/-- A binary format: exponent bits, mantissa bits; narrow formats use every code for a finite value. -/
structure Fmt where
  eb : Nat
  mb : Nat
  narrow : Bool
  deriving DecidableEq, Repr

def fp32 : Fmt := { eb := 8, mb := 23, narrow := false }   -- R42
def bf16 : Fmt := { eb := 8, mb := 7, narrow := false }    -- R47
def fp16 : Fmt := { eb := 5, mb := 10, narrow := false }   -- R47
def zf8 : Fmt := { eb := 4, mb := 3, narrow := true }      -- R49
def zf6 : Fmt := { eb := 3, mb := 2, narrow := true }      -- R49
def zf4 : Fmt := { eb := 2, mb := 1, narrow := true }      -- R49

def Fmt.bias (f : Fmt) : Int := 2 ^ (f.eb - 1) - 1
/-- The exponent of the least subnormal. -/
def Fmt.emin (f : Fmt) : Int := 1 - f.bias - f.mb
/-- The bit that holds the sign. -/
def Fmt.signBit (f : Fmt) : Nat := 2 ^ (f.eb + f.mb)
/-- The magnitude code of the largest finite value. -/
def Fmt.maxCode (f : Fmt) : Nat := if f.narrow then f.signBit - 1 else (2 ^ f.eb - 1) * 2 ^ f.mb - 1
/-- The canonical NaN (R42, R47, R49). -/
def Fmt.nan (f : Fmt) : Nat :=
  if f.narrow then f.signBit else (2 ^ f.eb - 1) * 2 ^ f.mb + 2 ^ (f.mb - 1)
/-- The magnitude code of an infinity, in a format that has one. -/
def Fmt.infCode (f : Fmt) : Nat := (2 ^ f.eb - 1) * 2 ^ f.mb

/-- The value of a code (R42, R47, R49). -/
def Fmt.value (f : Fmt) (code : Nat) : Num :=
  let neg := code / f.signBit % 2 == 1
  let m := code % 2 ^ f.mb
  let e := code / 2 ^ f.mb % 2 ^ f.eb
  if f.narrow then
    if neg && e == 0 && m == 0 then .nan
    else if e = 0 then dyadic neg m f.emin
    else dyadic neg (2 ^ f.mb + m) (f.emin + (e - 1 : Nat))
  else if e = 2 ^ f.eb - 1 then (if m = 0 then .inf neg else .nan)
  else if e = 0 then dyadic neg m f.emin
  else dyadic neg (2 ^ f.mb + m) (f.emin + (e - 1 : Nat))

/-- floor(log2 (n / d)) for n, d > 0. -/
def ilog (n d : Nat) : Int :=
  let a : Int := (Nat.log2 n : Int) - Nat.log2 d
  if 0 ≤ a then (if n < d * 2 ^ a.toNat then a - 1 else a)
  else if n * 2 ^ (-a).toNat < d then a - 1 else a

/-- n / d in units of 2^q: the floor and the remainder's place, `(k, r, m)` with value `k + r / m`. -/
def inUnits (n d : Nat) (q : Int) : Nat × Nat × Nat :=
  let n' := if 0 ≤ q then n else n * 2 ^ (-q).toNat
  let d' := if 0 ≤ q then d * 2 ^ q.toNat else d
  (n' / d', n' % d', d')

/-- Round `k + r / m` to an integer: to nearest with ties to even, or toward zero. -/
def roundUnits (rz : Bool) : Nat × Nat × Nat → Nat
  | (k, r, m) => if rz then k else if 2 * r > m ∨ (2 * r = m ∧ k % 2 = 1) then k + 1 else k

/-- The magnitude code of n / d > 0 rounded into the format, its exponent unbounded above, and whether
rounding changed the value. -/
def Fmt.round (f : Fmt) (rz : Bool) (n d : Nat) : Nat × Bool :=
  let q := max f.emin (ilog n d - f.mb)
  let u := inUnits n d q
  ((q - f.emin).toNat * 2 ^ f.mb + roundUnits rz u, u.2.1 != 0)

/-- n / d is below the format's smallest normal magnitude. -/
def Fmt.tiny (f : Fmt) (n d : Nat) : Bool := n != 0 && ilog n d < f.emin + f.mb

/-- Events of R57, by index. -/
abbrev Events := List Nat

/-- How a conversion treats overflow and rounding (R43, R44, R48, R50). -/
inductive Rounding where
  | rne | rz | sat
  deriving DecidableEq, Repr

/-- Round an exact value into a format: the code, and the events of R57 given whether some input was
NaN or infinite. -/
def Fmt.encode (f : Fmt) (mode : Rounding) (nanIn infIn : Bool) : Num → Nat × Events
  | .nan => (f.nan, if nanIn then [] else [0])
  | .inf s =>
    if f.narrow then ((if s then f.signBit else 0) + f.maxCode, [2])
    else ((if s then f.signBit else 0) + f.infCode, if infIn then [] else [1])
  | .fin s n d =>
    if n = 0 then (if s && !f.narrow then f.signBit else 0, [])
    else
      let (c, changed) := f.round (mode == .rz) n d
      let sign := if s then f.signBit else 0
      if f.maxCode < c then
        if f.narrow || mode != .rne then (sign + f.maxCode, [2]) else (sign + f.infCode, [1, 2])
      else if c = 0 && f.narrow then (0, [3])
      else (sign + c, if f.tiny n d && changed then [3] else [])

/-! ## FP32 -/

def f32 (w : Word) : Num := fp32.value w.toNat
/-- RNE32 (R43), with the events of R57. -/
def rne32 (nanIn infIn : Bool) (x : Num) : Word × Events :=
  let (c, ev) := fp32.encode .rne nanIn infIn x
  (BitVec.ofNat 32 c, ev)
/-- RZ32 (R44). -/
def rz32 (nanIn infIn : Bool) (x : Num) : Word × Events :=
  let (c, ev) := fp32.encode .rz nanIn infIn x
  (BitVec.ofNat 32 c, ev)
def nan32 : Word := 0x7FC00000

def fadd (a b : Word) : Word × Events :=
  let x := f32 a; let y := f32 b
  rne32 (x.isNan || y.isNan) (x.isInf || y.isInf) (x.add y)
def fsub (a b : Word) : Word × Events :=
  let x := f32 a; let y := f32 b
  rne32 (x.isNan || y.isNan) (x.isInf || y.isInf) (x.sub y)
def fmul (a b : Word) : Word × Events :=
  let x := f32 a; let y := f32 b
  rne32 (x.isNan || y.isNan) (x.isInf || y.isInf) (x.mul y)
def fdiv (a b : Word) : Word × Events :=
  let x := f32 a; let y := f32 b
  rne32 (x.isNan || y.isNan) (x.isInf || y.isInf) (x.div y)

/-- The larger or smaller of two values by R45, by their bit patterns in format `f`. -/
def Fmt.pick (f : Fmt) (larger : Bool) (a b : Nat) : Nat :=
  let x := f.value a; let y := f.value b
  if x.isNan && y.isNan then f.nan
  else if x.isNan then b
  else if y.isNan then a
  else
    let below := x.lt y || (x.eq y && a / f.signBit % 2 == 1 && b / f.signBit % 2 == 0)
    if below == larger then b else a
def fmin32 (a b : Word) : Word := BitVec.ofNat 32 (fp32.pick false a.toNat b.toNat)
def fmax32 (a b : Word) : Word := BitVec.ofNat 32 (fp32.pick true a.toNat b.toNat)

/-! ## Rounding to integers -/

/-- The ways of rounding to an integral value (R122, R125). -/
inductive ToInt where
  | floor | ceil | near | trunc
  deriving DecidableEq, Repr

/-- An exact value rounded to an integer. -/
def toInteger (m : ToInt) (s : Bool) (n d : Nat) : Int :=
  let up := match m with
    | .floor => s
    | .ceil => !s
    | .near => 2 * (n % d) > d || (2 * (n % d) == d && n / d % 2 == 1)
    | .trunc => false
  let k := if up && n % d != 0 then n / d + 1 else n / d
  signed s k

/-- Clamp to a range (R41). -/
def clamp (lo hi i : Int) : Int := max lo (min hi i)

/-! ## ZI8 and ZS16 (R49 to R51) -/

/-- The value of a ZI8 code; the reserved code reads as 0 (R49). -/
def zi8Value (c : Nat) : Num := if c % 256 = 128 then Num.zero else .ofInt (BitVec.ofNat 8 c).toInt

/-- RNEF into ZI8 (R50). -/
def zi8Encode : Num → Nat × Events
  | .nan => (0, [0])
  | .inf s => (if s then 129 else 127, [2])
  | .fin s n d =>
    let i := toInteger .near s n d
    let j := clamp (-127) 127 i
    ((BitVec.ofInt 8 j).toNat, if i = j then [] else [2])

/-- The value of a ZS16 scale (R51). -/
def zs16 (c : Nat) : Num :=
  let e := c / 256 % 256
  if e = 0 then Num.zero else if e = 255 then .nan else dyadic false (256 + c % 256) ((e : Int) - 135)

/-- The narrow element formats by number: 1 ZF8, 2 ZF6, 3 ZF4, 4 ZI8 (R66). -/
def narrowValue (k : Nat) (c : Nat) : Num :=
  match k with
  | 1 => zf8.value (c % 256)
  | 2 => zf6.value (c % 64)
  | 3 => zf4.value (c % 16)
  | _ => zi8Value c
/-- RNEF into a narrow format (R50). -/
def narrowEncode (k : Nat) (x : Num) : Nat × Events :=
  match k with
  | 1 => zf8.encode .rne x.isNan false x
  | 2 => zf6.encode .rne x.isNan false x
  | 3 => zf4.encode .rne x.isNan false x
  | _ => zi8Encode x
def narrowNan (k : Nat) : Nat := match k with | 1 => 0x80 | 2 => 0x20 | 3 => 8 | _ => 0
def narrowMax (k : Nat) : Nat := match k with | 1 => 480 | 2 => 28 | 3 => 6 | _ => 127
/-- The format index of R58. -/
def narrowIndex (k : Nat) : Nat := match k with | 1 => 3 | 2 => 4 | 3 => 5 | _ => 3

/-- RNE9 of R53: a 9-bit significand, exponent unbounded. -/
def rne9 : Num → Num
  | .fin s n d =>
    if n = 0 then .fin s 0 1
    else
      let q := ilog n d - 8
      dyadic s (roundUnits false (inUnits n d q)) q
  | x => x

/-! ## Fixed orders of summation (R54) -/

/-- One level of TREE32: pairs of nodes, EMPTY as none, and the events of each addition. -/
def treeLevel : List (Option Word) → List (Option Word) × Events
  | p :: q :: rest =>
    let (r, ev) := treeLevel rest
    match p, q with
    | none, none => (none :: r, ev)
    | some a, none => (some a :: r, ev)
    | none, some b => (some b :: r, ev)
    | some a, some b => let (c, ec) := fadd a b; (some c :: r, ec ++ ev)
  | rest => (rest, [])

/-- TREE32 (R54) over up to 2^k values; none if no lane takes part. -/
def tree : Nat → List (Option Word) → Option Word × Events
  | 0, xs => (xs.headD none, [])
  | k + 1, xs =>
    let (ys, ev) := treeLevel xs
    let (r, ev') := tree k ys
    (r, ev ++ ev')

/-! ## Integer square root and enclosures for the special functions (R123; log entry 8) -/

/-- floor(sqrt x) by trying bits from `2^(k-1)` down, starting from `r`. -/
def isqrtFrom (x : Nat) : Nat → Nat → Nat
  | 0, r => r
  | k + 1, r => if (r + 2 ^ k) * (r + 2 ^ k) ≤ x then isqrtFrom x k (r + 2 ^ k) else isqrtFrom x k r
def isqrt (x : Nat) : Nat := isqrtFrom x (Nat.log2 x / 2 + 1) 0

/-- A value that rounds as sqrt(n / d) does: the exact root where it has one in 2^-k units, otherwise
the midpoint of the unit that holds it. -/
def sqrtNum (n d : Nat) : Num :=
  let k := 64 + Nat.log2 d
  let t := n * 4 ^ k
  let r := isqrt (t / d)
  if r * r * d = t then .fin false r (2 ^ k) else .fin false (2 * r + 1) (2 ^ (k + 1))

/-- Σ z^(2j+1)/(2j+1) in units of 2^-N by `k` terms from exponent `i`, `p` the current power of z;
`alt` alternates the signs. -/
def arcSeries (N zz : Nat) (alt : Bool) : Nat → Nat → Nat → Int
  | 0, _, _ => 0
  | k + 1, i, p =>
    (p / i : Nat) + (if alt then -1 else 1) * arcSeries N zz alt k (i + 2) (p * zz / 2 ^ N)

/-- ln 2 in units of 2^-N: 2 atanh(1/3), error below 2 N + 16 units. -/
def ln2Units (N : Nat) : Int := 2 * arcSeries N (2 ^ N / 9) false (N / 3 + 4) 1 (2 ^ N / 3)
/-- π in units of 2^-N by Machin's formula, error below 8 N + 200 units. -/
def piUnits (N : Nat) : Int :=
  16 * arcSeries N (2 ^ N / 25) true (N / 4 + 4) 1 (2 ^ N / 5) -
   4 * arcSeries N (2 ^ N / 57121) true (N / 14 + 4) 1 (2 ^ N / 239)

/-- Σ y^j / j! from term `t` of index j, `k` more terms, in units of 2^-N. -/
def expSeries (N y : Nat) : Nat → Nat → Nat → Nat
  | 0, _, t => t
  | k + 1, j, t => t + expSeries N y k (j + 1) (t * y / (2 ^ N * (j + 1)))

/-- Σ (−1)^j y^(2j+i) / (2j+i)! from term `t` of index i, in units of 2^-N. -/
def trigSeries (N yy : Nat) : Nat → Nat → Nat → Int
  | 0, _, t => t
  | k + 1, i, t => t - trigSeries N yy k (i + 2) (t * yy / (2 ^ N * ((i + 1) * (i + 2))))

/-- e^(n/d) for n / d ≥ 0: an exponent j and an enclosure of e^(n/d) / 2^j in units of 2^-N. -/
def expBounds (N n d : Nat) : Nat × Nat × Nat :=
  let l := (ln2Units N).toNat
  let y := n * 2 ^ N / d
  let j := y / l
  let v := expSeries N (y - j * l) (N / 3 + 8) 0 (2 ^ N)
  let e := 4 * (j + 1) * (N + 8) + 2 * N
  (j, v - e, v + e)

/-- An enclosure `lo/m ≤ value ≤ hi/m` of a positive value. -/
structure Enclosure where
  lo : Nat
  hi : Nat
  m : Nat
  deriving DecidableEq, Repr

/-- RNE32 of an irrational value known by an enclosure: none if the enclosure does not decide it. The
underflow event needs no more than the value's place, because rounding always changes it. -/
def roundEnclosure (neg : Bool) (b : Enclosure) : Option (Word × Events) :=
  if b.lo = 0 then none
  else
    let (c, _) := fp32.round false b.lo b.m
    let (c', _) := fp32.round false b.hi b.m
    if c = c' ∧ fp32.tiny b.lo b.m = fp32.tiny b.hi b.m then
      some (BitVec.ofNat 32 (c + if neg then 2 ^ 31 else 0), if fp32.tiny b.lo b.m then [3] else [])
    else none

/-- Try an enclosure at growing precision. -/
def refine (neg : Bool) (f : Nat → Enclosure) : Word × Events :=
  match roundEnclosure neg (f 72) with
  | some r => r
  | none => match roundEnclosure neg (f 144) with
    | some r => r
    | none => match roundEnclosure neg (f 288) with
      | some r => r
      | none => (roundEnclosure neg (f 576)).getD (nan32, [])

/-- 2^(n/d) for a nonnegative fraction below 1, times 2^i. -/
def exp2Enclosure (n d : Nat) (i : Int) (N : Nat) : Enclosure :=
  let y := n * (ln2Units N).toNat / d
  let v := expSeries N y (N / 3 + 8) 0 (2 ^ N)
  let e := 4 * (N + 8) + 2 * N
  if 0 ≤ i then ⟨(v - e) * 2 ^ i.toNat, (v + e) * 2 ^ i.toNat, 2 ^ N⟩ else ⟨v - e, v + e, 2 ^ (N + (-i).toNat)⟩

/-- FEXP2 (R123). -/
def fexp2 (a : Word) : Word × Events :=
  match f32 a with
  | .nan => (nan32, [])
  | .inf s => (if s then 0 else 0x7F800000, [])
  | .fin s n d =>
    let fl := toInteger .floor s n d
    if fl ≥ 128 then (0x7F800000, [1, 2])
    else if fl < -150 ∨ (s ∧ n = 150 * d) then (0, [3])
    else
      let r := ((if s then (d - n % d) % d else n % d) : Nat)
      if r = 0 then rne32 false false (dyadic false 1 fl) else refine false (exp2Enclosure r d fl)

/-- |log2 x| for x = 2^e (m / 2^23), m not a power of two: the sign and the enclosure. -/
def log2Value (e : Int) (m N : Nat) : Int × Int :=
  let z := (m - 2 ^ 23) * 2 ^ N / (m + 2 ^ 23)
  let t := 2 * arcSeries N (z * z / 2 ^ N) false (N / 3 + 4) 1 z
  let l := ln2Units N
  let er : Int := 2 * (N + 8)
  let lo := (t - er) * 2 ^ N / (l + er) + e * 2 ^ N
  let hi := (t + er) * 2 ^ N / (l - er) + 1 + e * 2 ^ N
  (lo, hi)

/-- FLOG2 (R123). -/
def flog2 (a : Word) : Word × Events :=
  match f32 a with
  | .nan => (nan32, [])
  | .inf s => if s then (nan32, [0]) else (0x7F800000, [])
  | .fin s n d =>
    if n = 0 then (0xFF800000, [1])
    else if s then (nan32, [0])
    else
      let e := ilog n d
      let m := (inUnits n d (e - 23)).1
      if m = 2 ^ 23 then rne32 false false (.ofInt e)
      else
        let neg := decide (e < 0)
        refine neg fun N =>
          let (lo, hi) := log2Value e m N
          if neg then ⟨(-hi).toNat, (-lo).toNat, 2 ^ N⟩ else ⟨lo.toNat, hi.toNat, 2 ^ N⟩

/-- FRCP (R123). -/
def frcp (a : Word) : Word × Events :=
  let x := f32 a
  rne32 x.isNan false ((Num.fin false 1 1).div x)

/-- FSQRT (R123). -/
def fsqrt (a : Word) : Word × Events :=
  match f32 a with
  | .nan => (nan32, [])
  | .inf s => if s then (nan32, [0]) else (0x7F800000, [])
  | .fin s n d => if n = 0 then (a, []) else if s then (nan32, [0]) else rne32 false false (sqrtNum n d)

/-- FRSQ (R123). -/
def frsq (a : Word) : Word × Events :=
  match f32 a with
  | .nan => (nan32, [])
  | .inf s => if s then (nan32, [0]) else (0, [])
  | .fin s n d =>
    if n = 0 then (if s then 0xFF800000 else 0x7F800000, [1])
    else if s then (nan32, [0]) else rne32 false false (sqrtNum d n)

/-- sin(π n/d) for 0 < n/d ≤ 1/4, or with `cos` the cosine, enclosed. -/
def sinPiEnclosure (cosine : Bool) (n d N0 : Nat) : Enclosure :=
  let N := N0 + (Nat.log2 d - Nat.log2 n)
  let y := n * (piUnits N).toNat / d
  let yy := y * y / 2 ^ N
  let v := if cosine then trigSeries N yy (N / 4 + 8) 0 (2 ^ N) else trigSeries N yy (N / 4 + 8) 1 y
  let e : Nat := 40 * (N + 8)
  ⟨v.toNat - e, v.toNat + e, 2 ^ N⟩

/-- sin(π n/d) for a fraction of a half turn 0 < n/d < 1, to FP32 with the sign `neg`. -/
def sinHalf (neg : Bool) (n d : Nat) : Word × Events :=
  let n' := if 2 * n ≤ d then n else d - n
  if 2 * n' = d then (if neg then 0xBF800000 else 0x3F800000, [])
  else if 4 * n' ≤ d then refine neg (sinPiEnclosure false n' d)
  else refine neg (sinPiEnclosure true (d - 2 * n') (2 * d))

/-- FSINP (R123). -/
def fsinp (a : Word) : Word × Events :=
  match f32 a with
  | .nan => (nan32, [])
  | .inf _ => (nan32, [0])
  | .fin s n d =>
    if n % d = 0 then (if s then 0x80000000 else 0, [])
    else sinHalf (s != (n / d % 2 == 1)) (n % d) d

/-- FCOSP (R123): cos(πA) is sin(π(A + 1/2)), and even in A. -/
def fcosp (a : Word) : Word × Events :=
  match f32 a with
  | .nan => (nan32, [])
  | .inf _ => (nan32, [0])
  | .fin _ n d =>
    let n' := 2 * n + d
    let d' := 2 * d
    if n' % d' = 0 then (0, []) else sinHalf (n' / d' % 2 == 1) (n' % d') d'

/-- FTANH (R123). -/
def ftanh (a : Word) : Word × Events :=
  match f32 a with
  | .nan => (nan32, [])
  | .inf s => (if s then 0xBF800000 else 0x3F800000, [])
  | .fin s n d =>
    if n = 0 then (a, [])
    else if 37 * d ≤ 4 * n then (if s then 0xBF800000 else 0x3F800000, [])
    else refine s fun N0 =>
      let N := N0 + (Nat.log2 d - Nat.log2 n)
      let (j, lo, hi) := expBounds N (2 * n) d
      let lo' := lo * 2 ^ j; let hi' := hi * 2 ^ j; let one := 2 ^ N
      ⟨(lo' - one) * (hi' + one), (hi' - one) * (lo' + one), (lo' + one) * (hi' + one)⟩

/-- FSIG (R123). -/
def fsig (a : Word) : Word × Events :=
  match f32 a with
  | .nan => (nan32, [])
  | .inf s => (if s then 0 else 0x3F800000, [])
  | .fin s n d =>
    if n = 0 then (0x3F000000, [])
    else if !s && decide (18 * d ≤ n) then (0x3F800000, [])
    else if s && decide (104 * d ≤ n) then (0, [3])
    else refine false fun N =>
      let (j, lo, hi) := expBounds N n d
      let lo' := lo * 2 ^ j; let hi' := hi * 2 ^ j; let one := 2 ^ N
      if s then ⟨one * (lo' + one), one * (hi' + one), (lo' + one) * (hi' + one)⟩
      else ⟨lo' * (hi' + one), hi' * (lo' + one), (lo' + one) * (hi' + one)⟩

end Sys2Proof.Machine
end

