-- ==== Sys2Proof/Config.lean ====
section
/-! DEFINITION. What the manual leaves open and no proof may know: constants without a body, applied
to the number of a draw (State.freeCtr) or to the operands (log entries 7, 10, 11, 13). -/

namespace Sys2Proof.Config

/-- The order of the two paths that a BRK makes (R139). -/
opaque freeBit : Nat → Bool
/-- An unspecified 64-bit value (R222). -/
opaque freeDword : Nat → BitVec 64
/-- What a consist manager finds in a table area that the program has stored into, by moment and consist (R213): the
generations with their pieces, the pin counts, the removers, the undelivered records. -/
opaque tableGens : Nat → Nat → List (Nat × List (Nat × Nat))
opaque tablePins : Nat → Nat → List (Nat × Nat)
opaque tableRemovers : Nat → Nat → List (Nat × Nat × Nat × Nat)
opaque tableRecords : Nat → Nat → List (Nat × Nat × Nat × Nat)
/-- An entry of the table area that the manager has not written, by moment, consist and number (R213). -/
opaque tableEntry : Nat → Nat → Nat → Nat × Nat
/-- By how much an array operation's converter departs from the exact sum, in LSB, by draw and position (R269). -/
opaque columnError : Nat → Nat → Int
/-- Whether that position is stuck (R268). -/
opaque columnStuck : Nat → Nat → Bool
/-- A code of Oboe's replay of a probe, by draw, position, probe and replay (R276). -/
opaque probeCode : Nat → Nat → Nat → Nat → BitVec 10
/-- Whether a replay of the position was stuck (R276). -/
opaque probeStuck : Nat → Nat → Nat → Bool
/-- Whether an image's ECDSA P-384 signature verifies under the ROM keys (R385). -/
opaque ecdsaVerifies : List Byte → Bool
/-- Whether an image's LMS signature verifies under the ROM keys (R385). -/
opaque lmsVerifies : List Byte → Bool
/-- The security version number an image's header holds, 0 to 128 (R385). -/
opaque imageSvn : List Byte → Nat
/-- Whether an image's digest matches its header (R385). -/
opaque digestMatches : List Byte → Bool
/-- A block of 16 bytes deciphered by AES-256: key, block (R365). -/
opaque aesDecipher : List Byte → List Byte → List Byte
/-- The digest of the ROM, fixed at manufacture (R388). -/
opaque romDigest : List Byte
/-- The body of an SPDM response: request, state digest (R388). -/
opaque spdmBody : List Byte → List Byte → List Byte
/-- A secured message of DSP0277 opened under a session's secret; none where it is not one (R388). -/
opaque openSecured : List Byte → List Byte → Option (List Byte)
/-- A response secured under a session's secret (R388). -/
opaque secure : List Byte → List Byte → List Byte
/-- The certificate chain that manufacture puts into slot 0 (R388). -/
opaque factoryChain : List Byte
/-- Whether the module at a peer port accepts an access: moment, port, partition, address (R367). -/
opaque peerAdmits : Nat → Nat → Nat → Nat → Bool
/-- The secret of a new SPDM session, by draw and request (R365, R388). -/
opaque sessionSecret : Nat → List Byte → List Byte
/-- SHA-384 of a byte string (R385, R388). -/
opaque sha384 : List Byte → List Byte

end Sys2Proof.Config
end

