-- ==== Sys2Proof/Syntax.lean ====
section
/-! DEFINITION. The instructions and events of the part: one constructor for each row of
spec/opcode_table.json. An encoded form carries the fields that the row leaves free; E is a field
where it is optional and is always 1 where R72 requires it. An event carries what the world or the
scheduler decides (which core, which group, which waiting item). -/

namespace Sys2Proof

/-- The rows of the opcode table. -/
inductive Instr where
  /-- ADD (R81): Per-lane 32-bit wrapping addition of A and B. -/
  | add (e : Bool) (n : Bool) (d : BitVec 7) (a : BitVec 7) (b : BitVec 7)
  /-- SUB (R81): Per-lane 32-bit wrapping subtraction A minus B. -/
  | sub (e : Bool) (n : Bool) (d : BitVec 7) (a : BitVec 7) (b : BitVec 7)
  /-- MUL (R81): Per-lane low 32 bits of A times B. -/
  | mul (e : Bool) (n : Bool) (d : BitVec 7) (a : BitVec 7) (b : BitVec 7)
  /-- MULH (R81): Per-lane high 32 bits of the exact signed product. -/
  | mulh (e : Bool) (n : Bool) (d : BitVec 7) (a : BitVec 7) (b : BitVec 7)
  /-- MULHN (R81): Per-lane high 32 bits of the exact natural product. -/
  | mulhn (e : Bool) (n : Bool) (d : BitVec 7) (a : BitVec 7) (b : BitVec 7)
  /-- AND (R81): Per-lane bitwise AND. -/
  | and (e : Bool) (n : Bool) (d : BitVec 7) (a : BitVec 7) (b : BitVec 7)
  /-- OR (R81): Per-lane bitwise OR. -/
  | or (e : Bool) (n : Bool) (d : BitVec 7) (a : BitVec 7) (b : BitVec 7)
  /-- XOR (R81): Per-lane bitwise XOR. -/
  | xor (e : Bool) (n : Bool) (d : BitVec 7) (a : BitVec 7) (b : BitVec 7)
  /-- ANDN (R81): Per-lane A AND NOT B. -/
  | andn (e : Bool) (n : Bool) (d : BitVec 7) (a : BitVec 7) (b : BitVec 7)
  /-- SHL (R82): Per-lane left shift by an unmasked register count. -/
  | shl (e : Bool) (n : Bool) (d : BitVec 7) (a : BitVec 7) (b : BitVec 7)
  /-- SHR (R82): Per-lane logical right shift by an unmasked register count. -/
  | shr (e : Bool) (n : Bool) (d : BitVec 7) (a : BitVec 7) (b : BitVec 7)
  /-- SAR (R82): Per-lane arithmetic right shift by an unmasked register count. -/
  | sar (e : Bool) (n : Bool) (d : BitVec 7) (a : BitVec 7) (b : BitVec 7)
  /-- MIN (R81): Per-lane signed minimum. -/
  | min (e : Bool) (n : Bool) (d : BitVec 7) (a : BitVec 7) (b : BitVec 7)
  /-- MAX (R81): Per-lane signed maximum. -/
  | max (e : Bool) (n : Bool) (d : BitVec 7) (a : BitVec 7) (b : BitVec 7)
  /-- MINN (R81): Per-lane natural minimum. -/
  | minn (e : Bool) (n : Bool) (d : BitVec 7) (a : BitVec 7) (b : BitVec 7)
  /-- MAXN (R81): Per-lane natural maximum. -/
  | maxn (e : Bool) (n : Bool) (d : BitVec 7) (a : BitVec 7) (b : BitVec 7)
  /-- ADDSAT (R81): Per-lane signed saturating addition. -/
  | addsat (e : Bool) (n : Bool) (d : BitVec 7) (a : BitVec 7) (b : BitVec 7)
  /-- SUBSAT (R81): Per-lane signed saturating subtraction. -/
  | subsat (e : Bool) (n : Bool) (d : BitVec 7) (a : BitVec 7) (b : BitVec 7)
  /-- ADDSATN (R81): Per-lane natural saturating addition. -/
  | addsatn (e : Bool) (n : Bool) (d : BitVec 7) (a : BitVec 7) (b : BitVec 7)
  /-- SUBSATN (R81): Per-lane natural saturating subtraction. -/
  | subsatn (e : Bool) (n : Bool) (d : BitVec 7) (a : BitVec 7) (b : BitVec 7)
  /-- ABSD (R81): Per-lane absolute difference of signed operands as a natural value. -/
  | absd (e : Bool) (n : Bool) (d : BitVec 7) (a : BitVec 7) (b : BitVec 7)
  /-- BFX (R83): Per-lane sign-extended bit-field extract by descriptor B. -/
  | bfx (e : Bool) (n : Bool) (d : BitVec 7) (a : BitVec 7) (b : BitVec 7)
  /-- BFXN (R83): Per-lane zero-extended bit-field extract by descriptor B. -/
  | bfxn (e : Bool) (n : Bool) (d : BitVec 7) (a : BitVec 7) (b : BitVec 7)
  /-- BFI (R83): Per-lane bit-field insert of A into D by descriptor B. -/
  | bfi (e : Bool) (n : Bool) (d : BitVec 7) (a : BitVec 7) (b : BitVec 7)
  /-- SEL (R84): Per-lane select of A where the predicate is 1, else D. -/
  | sel (e : Bool) (n : Bool) (d : BitVec 7) (a : BitVec 7) (p : BitVec 7)
  /-- MOV (R85): Per-lane copy of A. -/
  | mov (e : Bool) (n : Bool) (d : BitVec 7) (a : BitVec 7)
  /-- NOT (R85): Per-lane bitwise complement. -/
  | not (e : Bool) (n : Bool) (d : BitVec 7) (a : BitVec 7)
  /-- NEG (R85): Per-lane two's-complement negation. -/
  | neg (e : Bool) (n : Bool) (d : BitVec 7) (a : BitVec 7)
  /-- ABS (R85): Per-lane absolute value, wrapping at 0x8000_0000. -/
  | abs (e : Bool) (n : Bool) (d : BitVec 7) (a : BitVec 7)
  /-- CLZ (R85): Per-lane count of leading zero bits. -/
  | clz (e : Bool) (n : Bool) (d : BitVec 7) (a : BitVec 7)
  /-- POPC (R85): Per-lane count of set bits. -/
  | popc (e : Bool) (n : Bool) (d : BitVec 7) (a : BitVec 7)
  /-- BREV (R85): Per-lane bit reversal. -/
  | brev (e : Bool) (n : Bool) (d : BitVec 7) (a : BitVec 7)
  /-- SEXTB (R85): Per-lane sign extension of the low byte. -/
  | sextb (e : Bool) (n : Bool) (d : BitVec 7) (a : BitVec 7)
  /-- SEXTH (R85): Per-lane sign extension of the low half. -/
  | sexth (e : Bool) (n : Bool) (d : BitVec 7) (a : BitVec 7)
  /-- ZEXTB (R85): Per-lane zero extension of the low byte. -/
  | zextb (e : Bool) (n : Bool) (d : BitVec 7) (a : BitVec 7)
  /-- ZEXTH (R85): Per-lane zero extension of the low half. -/
  | zexth (e : Bool) (n : Bool) (d : BitVec 7) (a : BitVec 7)
  /-- ADDX (R86): Per-lane 64-bit pair addition. -/
  | addx (e : Bool) (n : Bool) (d : BitVec 7) (a : BitVec 7) (b : BitVec 7)
  /-- SUBX (R86): Per-lane 64-bit pair subtraction. -/
  | subx (e : Bool) (n : Bool) (d : BitVec 7) (a : BitVec 7) (b : BitVec 7)
  /-- MULWX (R86): Per-lane exact signed 64-bit product of two words. -/
  | mulwx (e : Bool) (n : Bool) (d : BitVec 7) (a : BitVec 7) (b : BitVec 7)
  /-- MULWXN (R86): Per-lane exact natural 64-bit product of two words. -/
  | mulwxn (e : Bool) (n : Bool) (d : BitVec 7) (a : BitVec 7) (b : BitVec 7)
  /-- LEAX (R86): Per-lane pair plus sign-extended word. -/
  | leax (e : Bool) (n : Bool) (d : BitVec 7) (a : BitVec 7) (b : BitVec 7)
  /-- ADDXI (R86): Per-lane pair plus sign-extended IMM8. -/
  | addxi (e : Bool) (n : Bool) (d : BitVec 7) (a : BitVec 7) (i : BitVec 8)
  /-- ADDI (R87): Per-lane addition of a sign-extended IMM8. -/
  | addi (e : Bool) (n : Bool) (d : BitVec 7) (a : BitVec 7) (i : BitVec 8)
  /-- ANDI (R87): Per-lane AND with a zero-extended IMM8. -/
  | andi (e : Bool) (n : Bool) (d : BitVec 7) (a : BitVec 7) (i : BitVec 8)
  /-- ORI (R87): Per-lane OR with a zero-extended IMM8. -/
  | ori (e : Bool) (n : Bool) (d : BitVec 7) (a : BitVec 7) (i : BitVec 8)
  /-- XORI (R87): Per-lane XOR with a zero-extended IMM8. -/
  | xori (e : Bool) (n : Bool) (d : BitVec 7) (a : BitVec 7) (i : BitVec 8)
  /-- SHLI (R87): Per-lane left shift by an immediate count 0 to 31. -/
  | shli (e : Bool) (n : Bool) (d : BitVec 7) (a : BitVec 7) (i : BitVec 8)
  /-- SHRI (R87): Per-lane logical right shift by an immediate count. -/
  | shri (e : Bool) (n : Bool) (d : BitVec 7) (a : BitVec 7) (i : BitVec 8)
  /-- SARI (R87): Per-lane arithmetic right shift by an immediate count. -/
  | sari (e : Bool) (n : Bool) (d : BitVec 7) (a : BitVec 7) (i : BitVec 8)
  /-- MULI (R87): Per-lane low 32 bits of A times a sign-extended IMM8. -/
  | muli (e : Bool) (n : Bool) (d : BitVec 7) (a : BitVec 7) (i : BitVec 8)
  /-- LDI (R88): Per-lane load of a sign-extended 16-bit constant. -/
  | ldi (e : Bool) (d : BitVec 7) (i : BitVec 16)
  /-- LDH (R88): Per-lane replacement of bits 31:16 of D by IMM16. -/
  | ldh (e : Bool) (d : BitVec 7) (i : BitVec 16)
  /-- CMPEQ (R89): Per-lane predicate A equals B. -/
  | cmpeq (e : Bool) (k : BitVec 7) (a : BitVec 7) (b : BitVec 7)
  /-- CMPNE (R89): Per-lane predicate A differs from B. -/
  | cmpne (e : Bool) (k : BitVec 7) (a : BitVec 7) (b : BitVec 7)
  /-- CMPLT (R89): Per-lane predicate signed A less than B. -/
  | cmplt (e : Bool) (k : BitVec 7) (a : BitVec 7) (b : BitVec 7)
  /-- CMPLE (R89): Per-lane predicate signed A at most B. -/
  | cmple (e : Bool) (k : BitVec 7) (a : BitVec 7) (b : BitVec 7)
  /-- CMPLTN (R89): Per-lane predicate natural A less than B. -/
  | cmpltn (e : Bool) (k : BitVec 7) (a : BitVec 7) (b : BitVec 7)
  /-- CMPLEN (R89): Per-lane predicate natural A at most B. -/
  | cmplen (e : Bool) (k : BitVec 7) (a : BitVec 7) (b : BitVec 7)
  /-- CMPEQI (R89): Per-lane predicate A equals sign-extended IMM7. -/
  | cmpeqi (e : Bool) (k : BitVec 7) (a : BitVec 7) (i : BitVec 7)
  /-- CMPLTI (R89): Per-lane predicate signed A less than sign-extended IMM7. -/
  | cmplti (e : Bool) (k : BitVec 7) (a : BitVec 7) (i : BitVec 7)
  /-- CMPLTNI (R89): Per-lane predicate natural A less than zero-extended IMM7. -/
  | cmpltni (e : Bool) (k : BitVec 7) (a : BitVec 7) (i : BitVec 7)
  /-- CMPLTX (R89): Per-lane predicate signed 64-bit pair A less than B. -/
  | cmpltx (e : Bool) (k : BitVec 7) (a : BitVec 7) (b : BitVec 7)
  /-- CMPEQX (R89): Per-lane predicate 64-bit pair A equals B. -/
  | cmpeqx (e : Bool) (k : BitVec 7) (a : BitVec 7) (b : BitVec 7)
  /-- KAND (R91): Per-lane predicate AND. -/
  | kand (e : Bool) (k : BitVec 7) (a : BitVec 7) (b : BitVec 7)
  /-- KOR (R91): Per-lane predicate OR. -/
  | kor (e : Bool) (k : BitVec 7) (a : BitVec 7) (b : BitVec 7)
  /-- KXOR (R91): Per-lane predicate XOR. -/
  | kxor (e : Bool) (k : BitVec 7) (a : BitVec 7) (b : BitVec 7)
  /-- KANDN (R91): Per-lane predicate KA AND NOT KB. -/
  | kandn (e : Bool) (k : BitVec 7) (a : BitVec 7) (b : BitVec 7)
  /-- KSET (R92): Per-lane predicate set to bit n of A. -/
  | kset (e : Bool) (k : BitVec 7) (a : BitVec 7) (i : BitVec 5)
  /-- KGET (R93): Per-lane register set to the predicate's value 0 or 1. -/
  | kget (e : Bool) (n : Bool) (d : BitVec 7) (k : BitVec 7)
  /-- FADD (R119): Per-lane FP32 addition rounded by RNE32. -/
  | fadd (e : Bool) (n : Bool) (d : BitVec 7) (a : BitVec 7) (b : BitVec 7)
  /-- FSUB (R119): Per-lane FP32 subtraction rounded by RNE32. -/
  | fsub (e : Bool) (n : Bool) (d : BitVec 7) (a : BitVec 7) (b : BitVec 7)
  /-- FMUL (R119): Per-lane FP32 multiplication rounded by RNE32. -/
  | fmul (e : Bool) (n : Bool) (d : BitVec 7) (a : BitVec 7) (b : BitVec 7)
  /-- FFMA (R119): Per-lane fused A times B plus D rounded once by RNE32. -/
  | ffma (e : Bool) (n : Bool) (d : BitVec 7) (a : BitVec 7) (b : BitVec 7)
  /-- FMIN (R120): Per-lane FP32 minimum in the total order of R45. -/
  | fmin (e : Bool) (n : Bool) (d : BitVec 7) (a : BitVec 7) (b : BitVec 7)
  /-- FMAX (R120): Per-lane FP32 maximum in the total order of R45. -/
  | fmax (e : Bool) (n : Bool) (d : BitVec 7) (a : BitVec 7) (b : BitVec 7)
  /-- FADDZ (R119): Per-lane FP32 addition rounded toward zero. -/
  | faddz (e : Bool) (n : Bool) (d : BitVec 7) (a : BitVec 7) (b : BitVec 7)
  /-- FMULZ (R119): Per-lane FP32 multiplication rounded toward zero. -/
  | fmulz (e : Bool) (n : Bool) (d : BitVec 7) (a : BitVec 7) (b : BitVec 7)
  /-- FFMAZ (R119): Per-lane fused multiply-add rounded once toward zero. -/
  | ffmaz (e : Bool) (n : Bool) (d : BitVec 7) (a : BitVec 7) (b : BitVec 7)
  /-- FCMPEQ (R121): Per-lane predicate FP32 A equals B numerically. -/
  | fcmpeq (e : Bool) (k : BitVec 7) (a : BitVec 7) (b : BitVec 7)
  /-- FCMPLT (R121): Per-lane predicate FP32 A less than B. -/
  | fcmplt (e : Bool) (k : BitVec 7) (a : BitVec 7) (b : BitVec 7)
  /-- FCMPLE (R121): Per-lane predicate FP32 A at most B. -/
  | fcmple (e : Bool) (k : BitVec 7) (a : BitVec 7) (b : BitVec 7)
  /-- FCMPUN (R121): Per-lane predicate A or B is NaN. -/
  | fcmpun (e : Bool) (k : BitVec 7) (a : BitVec 7) (b : BitVec 7)
  /-- FABS (R122): Per-lane FP32 sign clear. -/
  | fabs (e : Bool) (n : Bool) (d : BitVec 7) (a : BitVec 7)
  /-- FNEG (R122): Per-lane FP32 sign inversion. -/
  | fneg (e : Bool) (n : Bool) (d : BitVec 7) (a : BitVec 7)
  /-- FFLOOR (R122): Per-lane greatest integral value at most A. -/
  | ffloor (e : Bool) (n : Bool) (d : BitVec 7) (a : BitVec 7)
  /-- FCEIL (R122): Per-lane least integral value at least A. -/
  | fceil (e : Bool) (n : Bool) (d : BitVec 7) (a : BitVec 7)
  /-- FRINT (R122): Per-lane nearest integral value, ties to even. -/
  | frint (e : Bool) (n : Bool) (d : BitVec 7) (a : BitVec 7)
  /-- FTRUNC (R122): Per-lane integral value toward zero. -/
  | ftrunc (e : Bool) (n : Bool) (d : BitVec 7) (a : BitVec 7)
  /-- FEXP2 (R123): Per-lane correctly rounded 2 to the power A. -/
  | fexp2 (e : Bool) (n : Bool) (d : BitVec 7) (a : BitVec 7)
  /-- FLOG2 (R123): Per-lane correctly rounded base-2 logarithm. -/
  | flog2 (e : Bool) (n : Bool) (d : BitVec 7) (a : BitVec 7)
  /-- FRCP (R123): Per-lane correctly rounded reciprocal. -/
  | frcp (e : Bool) (n : Bool) (d : BitVec 7) (a : BitVec 7)
  /-- FRSQ (R123): Per-lane correctly rounded reciprocal square root. -/
  | frsq (e : Bool) (n : Bool) (d : BitVec 7) (a : BitVec 7)
  /-- FSQRT (R123): Per-lane correctly rounded square root. -/
  | fsqrt (e : Bool) (n : Bool) (d : BitVec 7) (a : BitVec 7)
  /-- FSINP (R123): Per-lane correctly rounded sin of pi times A. -/
  | fsinp (e : Bool) (n : Bool) (d : BitVec 7) (a : BitVec 7)
  /-- FCOSP (R123): Per-lane correctly rounded cos of pi times A. -/
  | fcosp (e : Bool) (n : Bool) (d : BitVec 7) (a : BitVec 7)
  /-- FTANH (R123): Per-lane correctly rounded hyperbolic tangent. -/
  | ftanh (e : Bool) (n : Bool) (d : BitVec 7) (a : BitVec 7)
  /-- FSIG (R123): Per-lane correctly rounded logistic sigmoid. -/
  | fsig (e : Bool) (n : Bool) (d : BitVec 7) (a : BitVec 7)
  /-- CVTFI (R125): Per-lane FP32 to int32, nearest even, clamped. -/
  | cvtfi (e : Bool) (n : Bool) (d : BitVec 7) (a : BitVec 7)
  /-- CVTFIZ (R125): Per-lane FP32 to int32 toward zero, clamped. -/
  | cvtfiz (e : Bool) (n : Bool) (d : BitVec 7) (a : BitVec 7)
  /-- CVTFN (R125): Per-lane FP32 to natural, nearest even, clamped. -/
  | cvtfn (e : Bool) (n : Bool) (d : BitVec 7) (a : BitVec 7)
  /-- CVTIF (R125): Per-lane int32 to FP32 by RNE32. -/
  | cvtif (e : Bool) (n : Bool) (d : BitVec 7) (a : BitVec 7)
  /-- CVTNF (R125): Per-lane natural to FP32 by RNE32. -/
  | cvtnf (e : Bool) (n : Bool) (d : BitVec 7) (a : BitVec 7)
  /-- CVTBF (R126): Per-lane widening of the low BF16 half to FP32. -/
  | cvtbf (e : Bool) (n : Bool) (d : BitVec 7) (a : BitVec 7)
  /-- CVTBFH (R126): Per-lane widening of the high BF16 half to FP32. -/
  | cvtbfh (e : Bool) (n : Bool) (d : BitVec 7) (a : BitVec 7)
  /-- CVTHF (R126): Per-lane widening of the low FP16 half to FP32. -/
  | cvthf (e : Bool) (n : Bool) (d : BitVec 7) (a : BitVec 7)
  /-- CVTHFH (R126): Per-lane widening of the high FP16 half to FP32. -/
  | cvthfh (e : Bool) (n : Bool) (d : BitVec 7) (a : BitVec 7)
  /-- CVTFB (R127): Per-lane narrowing of two FP32 values into a BF16 pair, overflow to infinity. -/
  | cvtfb (e : Bool) (n : Bool) (d : BitVec 7) (a : BitVec 7) (b : BitVec 7)
  /-- CVTFBS (R127): Per-lane narrowing into a BF16 pair with saturating overflow. -/
  | cvtfbs (e : Bool) (n : Bool) (d : BitVec 7) (a : BitVec 7) (b : BitVec 7)
  /-- CVTFH (R127): Per-lane narrowing of two FP32 values into an FP16 pair. -/
  | cvtfh (e : Bool) (n : Bool) (d : BitVec 7) (a : BitVec 7) (b : BitVec 7)
  /-- BADD2 (R128): Per-lane packed BF16 pair addition. -/
  | badd2 (e : Bool) (n : Bool) (d : BitVec 7) (a : BitVec 7) (b : BitVec 7)
  /-- BMUL2 (R128): Per-lane packed BF16 pair multiplication. -/
  | bmul2 (e : Bool) (n : Bool) (d : BitVec 7) (a : BitVec 7) (b : BitVec 7)
  /-- BFMA2 (R128): Per-lane packed BF16 pair fused multiply-add. -/
  | bfma2 (e : Bool) (n : Bool) (d : BitVec 7) (a : BitVec 7) (b : BitVec 7)
  /-- BMAX2 (R128): Per-lane packed BF16 pair maximum. -/
  | bmax2 (e : Bool) (n : Bool) (d : BitVec 7) (a : BitVec 7) (b : BitVec 7)
  /-- BMIN2 (R128): Per-lane packed BF16 pair minimum. -/
  | bmin2 (e : Bool) (n : Bool) (d : BitVec 7) (a : BitVec 7) (b : BitVec 7)
  /-- QNTF8 (R129): Quantize the path's lanes as one block to ZF8 with automatic or explicit scale. -/
  | qntf8 (e : Bool) (n : Bool) (d : BitVec 7) (a : BitVec 7) (b : BitVec 7)
  /-- QNTF6 (R129): Quantize the path's lanes as one block to ZF6. -/
  | qntf6 (e : Bool) (n : Bool) (d : BitVec 7) (a : BitVec 7) (b : BitVec 7)
  /-- QNTF4 (R129): Quantize the path's lanes as one block to ZF4. -/
  | qntf4 (e : Bool) (n : Bool) (d : BitVec 7) (a : BitVec 7) (b : BitVec 7)
  /-- QNTI8 (R129): Quantize the path's lanes as one block to ZI8. -/
  | qnti8 (e : Bool) (n : Bool) (d : BitVec 7) (a : BitVec 7) (b : BitVec 7)
  /-- DQN (R131): Per-lane dequantization of a code and ZS16 scale to FP32. -/
  | dqn (e : Bool) (n : Bool) (d : BitVec 7) (a : BitVec 7) (i : BitVec 8)
  /-- RND (R132): Per-lane pure hash of A and B. -/
  | rnd (e : Bool) (n : Bool) (d : BitVec 7) (a : BitVec 7) (b : BitVec 7)
  /-- SHFL (R156): Per-lane read of A from the lane named by B. -/
  | shfl (e : Bool) (n : Bool) (d : BitVec 7) (a : BitVec 7) (b : BitVec 7)
  /-- SHFLU (R156): Per-lane read of A from lane t minus n. -/
  | shflu (e : Bool) (n : Bool) (d : BitVec 7) (a : BitVec 7) (i : BitVec 8)
  /-- SHFLD (R156): Per-lane read of A from lane t plus n. -/
  | shfld (e : Bool) (n : Bool) (d : BitVec 7) (a : BitVec 7) (i : BitVec 8)
  /-- SHFLX (R156): Per-lane read of A from lane t XOR n. -/
  | shflx (e : Bool) (n : Bool) (d : BitVec 7) (a : BitVec 7) (i : BitVec 8)
  /-- QEX (R156): Per-lane exchange within a quad, horizontal, vertical or diagonal. -/
  | qex (e : Bool) (n : Bool) (d : BitVec 7) (a : BitVec 7) (i : BitVec 8)
  /-- VOTEB (R157): Ballot of nonzero A over taking-part lanes. -/
  | voteb (e : Bool) (n : Bool) (d : BitVec 7) (a : BitVec 7)
  /-- VOTEAN (R158): Predicate set if any taking-part lane has A nonzero. -/
  | votean (e : Bool) (k : BitVec 7) (a : BitVec 7)
  /-- VOTEAL (R158): Predicate set if every taking-part lane has A nonzero. -/
  | voteal (e : Bool) (k : BitVec 7) (a : BitVec 7)
  /-- GRED (R159): Reduction of A over taking-part lanes by the selected operation. -/
  | gred (e : Bool) (n : Bool) (d : BitVec 7) (a : BitVec 7) (i : BitVec 8)
  /-- GSCAN (R160): Prefix scan of A over taking-part lanes. -/
  | gscan (e : Bool) (n : Bool) (d : BitVec 7) (a : BitVec 7) (i : BitVec 8)
  /-- BRK (R162): Per-lane branch on a predicate and its sense, possibly splitting the path. -/
  | brk (k : BitVec 7) (t : Bool) (d : BitVec 15)
  /-- JMPI (R163): Per-lane indirect branch to A. -/
  | jmpi (a : BitVec 7)
  /-- JMPT (R164): Per-lane branch through a jump table with bound check. -/
  | jmpt (d : BitVec 7) (a : BitVec 7) (i : BitVec 8)
  /-- CALLI (R163): Per-lane indirect call writing the return PC to D. -/
  | calli (n : Bool) (d : BitVec 7) (a : BitVec 7)
  /-- WAIT (R167): Threads arrive at a rejoin mask and block until it is judged complete. -/
  | wait (i : BitVec 8)
  /-- EXIT (R169): Active threads of the path exit. -/
  | exit
  /-- LD8 (R229): Per-lane zero-extended byte load. -/
  | ld8 (e : Bool) (n : Bool) (d : BitVec 7) (a : BitVec 7) (o : BitVec 8)
  /-- LD8S (R229): Per-lane sign-extended byte load. -/
  | ld8s (e : Bool) (n : Bool) (d : BitVec 7) (a : BitVec 7) (o : BitVec 8)
  /-- LD16 (R229): Per-lane zero-extended half load. -/
  | ld16 (e : Bool) (n : Bool) (d : BitVec 7) (a : BitVec 7) (o : BitVec 8)
  /-- LD16S (R229): Per-lane sign-extended half load. -/
  | ld16s (e : Bool) (n : Bool) (d : BitVec 7) (a : BitVec 7) (o : BitVec 8)
  /-- LD32 (R229): Per-lane word load. -/
  | ld32 (e : Bool) (n : Bool) (d : BitVec 7) (a : BitVec 7) (o : BitVec 8)
  /-- LD64 (R229): Per-lane dword load into a pair. -/
  | ld64 (e : Bool) (n : Bool) (d : BitVec 7) (a : BitVec 7) (o : BitVec 8)
  /-- LD128 (R229): Per-lane 16-byte load into a quad. -/
  | ld128 (e : Bool) (n : Bool) (d : BitVec 7) (a : BitVec 7) (o : BitVec 8)
  /-- ST8 (R232): Per-lane byte store. -/
  | st8 (e : Bool) (d : BitVec 7) (a : BitVec 7) (o : BitVec 8)
  /-- ST16 (R232): Per-lane half store. -/
  | st16 (e : Bool) (d : BitVec 7) (a : BitVec 7) (o : BitVec 8)
  /-- ST32 (R232): Per-lane word store. -/
  | st32 (e : Bool) (d : BitVec 7) (a : BitVec 7) (o : BitVec 8)
  /-- ST64 (R232): Per-lane dword store from a pair. -/
  | st64 (e : Bool) (d : BitVec 7) (a : BitVec 7) (o : BitVec 8)
  /-- ST128 (R232): Per-lane 16-byte store from a quad. -/
  | st128 (e : Bool) (d : BitVec 7) (a : BitVec 7) (o : BitVec 8)
  /-- AADD (R235): Atomic 32-bit wrapping add. -/
  | aadd (n : Bool) (d : BitVec 7) (a : BitVec 7) (s : BitVec 2) (r : BitVec 2)
  /-- AADDF (R235): Atomic FP32 add by RNE32. -/
  | aaddf (n : Bool) (d : BitVec 7) (a : BitVec 7) (s : BitVec 2) (r : BitVec 2)
  /-- AADDB2 (R235): Atomic packed BF16 pair add. -/
  | aaddb2 (n : Bool) (d : BitVec 7) (a : BitVec 7) (s : BitVec 2) (r : BitVec 2)
  /-- AMIN (R235): Atomic signed minimum. -/
  | amin (n : Bool) (d : BitVec 7) (a : BitVec 7) (s : BitVec 2) (r : BitVec 2)
  /-- AMAX (R235): Atomic signed maximum. -/
  | amax (n : Bool) (d : BitVec 7) (a : BitVec 7) (s : BitVec 2) (r : BitVec 2)
  /-- AMINN (R235): Atomic natural minimum. -/
  | aminn (n : Bool) (d : BitVec 7) (a : BitVec 7) (s : BitVec 2) (r : BitVec 2)
  /-- AMAXN (R235): Atomic natural maximum. -/
  | amaxn (n : Bool) (d : BitVec 7) (a : BitVec 7) (s : BitVec 2) (r : BitVec 2)
  /-- AAND (R235): Atomic AND. -/
  | aand (n : Bool) (d : BitVec 7) (a : BitVec 7) (s : BitVec 2) (r : BitVec 2)
  /-- AOR (R235): Atomic OR. -/
  | aor (n : Bool) (d : BitVec 7) (a : BitVec 7) (s : BitVec 2) (r : BitVec 2)
  /-- AXOR (R235): Atomic XOR. -/
  | axor (n : Bool) (d : BitVec 7) (a : BitVec 7) (s : BitVec 2) (r : BitVec 2)
  /-- AXCH (R235): Atomic 32-bit exchange. -/
  | axch (n : Bool) (d : BitVec 7) (a : BitVec 7) (s : BitVec 2) (r : BitVec 2)
  /-- ACAS (R235): Atomic 32-bit compare and swap. -/
  | acas (n : Bool) (d : BitVec 7) (a : BitVec 7) (s : BitVec 2) (r : BitVec 2)
  /-- AADDX (R235): Atomic 64-bit wrapping add. -/
  | aaddx (n : Bool) (d : BitVec 7) (a : BitVec 7) (s : BitVec 2) (r : BitVec 2)
  /-- AXCHX (R235): Atomic 64-bit exchange. -/
  | axchx (n : Bool) (d : BitVec 7) (a : BitVec 7) (s : BitVec 2) (r : BitVec 2)
  /-- ACASX (R235): Atomic 64-bit compare and swap. -/
  | acasx (n : Bool) (d : BitVec 7) (a : BitVec 7) (s : BitVec 2) (r : BitVec 2)
  /-- PF_NORMAL (R239): Prefetch a sector into LLC and L1 with the normal hint. -/
  | pfNormal (e : Bool) (a : BitVec 7) (o : BitVec 8)
  /-- PF_EVICT_FIRST (R239): Prefetch a sector with the evict-first hint. -/
  | pfEvictFirst (e : Bool) (a : BitVec 7) (o : BitVec 8)
  /-- PF_EVICT_LAST (R239): Prefetch a sector with the evict-last hint. -/
  | pfEvictLast (e : Bool) (a : BitVec 7) (o : BitVec 8)
  /-- PF_LLC_ONLY (R239): Prefetch a sector into the LLC only. -/
  | pfLlcOnly (e : Bool) (a : BitVec 7) (o : BitVec 8)
  /-- STAD (R244): Per-lane translation of a row index through a pinned consist generation. -/
  | stad (e : Bool) (n : Bool) (d : BitVec 7) (a : BitVec 7) (b : BitVec 7)
  /-- MXGO (R307): Vote the format word, elect a lane and queue one matrix command to mxc. -/
  | mxgo (a : BitVec 7) (b : BitVec 7)
  /-- AEGO (R307): Vote the format word, elect a lane and queue one array command to aec. -/
  | aego (a : BitVec 7) (b : BitVec 7)
  /-- UADD (R81): Uniform wrapping addition. -/
  | uadd (e : Bool) (n : Bool) (d : BitVec 7) (a : BitVec 7) (b : BitVec 7)
  /-- USUB (R81): Uniform wrapping subtraction. -/
  | usub (e : Bool) (n : Bool) (d : BitVec 7) (a : BitVec 7) (b : BitVec 7)
  /-- UMUL (R81): Uniform low 32-bit product. -/
  | umul (e : Bool) (n : Bool) (d : BitVec 7) (a : BitVec 7) (b : BitVec 7)
  /-- UAND (R81): Uniform bitwise AND. -/
  | uand (e : Bool) (n : Bool) (d : BitVec 7) (a : BitVec 7) (b : BitVec 7)
  /-- UOR (R81): Uniform bitwise OR. -/
  | uor (e : Bool) (n : Bool) (d : BitVec 7) (a : BitVec 7) (b : BitVec 7)
  /-- UXOR (R81): Uniform bitwise XOR. -/
  | uxor (e : Bool) (n : Bool) (d : BitVec 7) (a : BitVec 7) (b : BitVec 7)
  /-- USHL (R82): Uniform left shift by register count. -/
  | ushl (e : Bool) (n : Bool) (d : BitVec 7) (a : BitVec 7) (b : BitVec 7)
  /-- USHR (R82): Uniform logical right shift by register count. -/
  | ushr (e : Bool) (n : Bool) (d : BitVec 7) (a : BitVec 7) (b : BitVec 7)
  /-- USAR (R82): Uniform arithmetic right shift by register count. -/
  | usar (e : Bool) (n : Bool) (d : BitVec 7) (a : BitVec 7) (b : BitVec 7)
  /-- UMIN (R81): Uniform signed minimum. -/
  | umin (e : Bool) (n : Bool) (d : BitVec 7) (a : BitVec 7) (b : BitVec 7)
  /-- UMAX (R81): Uniform signed maximum. -/
  | umax (e : Bool) (n : Bool) (d : BitVec 7) (a : BitVec 7) (b : BitVec 7)
  /-- UMOV (R85): Uniform copy. -/
  | umov (e : Bool) (n : Bool) (d : BitVec 7) (a : BitVec 7)
  /-- UNOT (R85): Uniform bitwise complement. -/
  | unot (e : Bool) (n : Bool) (d : BitVec 7) (a : BitVec 7)
  /-- UNEG (R85): Uniform negation. -/
  | uneg (e : Bool) (n : Bool) (d : BitVec 7) (a : BitVec 7)
  /-- UCLZ (R85): Uniform count of leading zeros. -/
  | uclz (e : Bool) (n : Bool) (d : BitVec 7) (a : BitVec 7)
  /-- UPOPC (R85): Uniform count of set bits. -/
  | upopc (e : Bool) (n : Bool) (d : BitVec 7) (a : BitVec 7)
  /-- UADDX (R86): Uniform 64-bit pair addition. -/
  | uaddx (e : Bool) (n : Bool) (d : BitVec 7) (a : BitVec 7) (b : BitVec 7)
  /-- UMULWX (R86): Uniform exact signed 64-bit product. -/
  | umulwx (e : Bool) (n : Bool) (d : BitVec 7) (a : BitVec 7) (b : BitVec 7)
  /-- UADDI (R87): Uniform addition of a sign-extended IMM8. -/
  | uaddi (e : Bool) (n : Bool) (d : BitVec 7) (a : BitVec 7) (i : BitVec 8)
  /-- UANDI (R87): Uniform AND with a zero-extended IMM8. -/
  | uandi (e : Bool) (n : Bool) (d : BitVec 7) (a : BitVec 7) (i : BitVec 8)
  /-- UORI (R87): Uniform OR with a zero-extended IMM8. -/
  | uori (e : Bool) (n : Bool) (d : BitVec 7) (a : BitVec 7) (i : BitVec 8)
  /-- USHLI (R87): Uniform left shift by an immediate count. -/
  | ushli (e : Bool) (n : Bool) (d : BitVec 7) (a : BitVec 7) (i : BitVec 8)
  /-- USHRI (R87): Uniform logical right shift by an immediate count. -/
  | ushri (e : Bool) (n : Bool) (d : BitVec 7) (a : BitVec 7) (i : BitVec 8)
  /-- UADDXI (R86): Uniform pair plus sign-extended IMM8. -/
  | uaddxi (e : Bool) (n : Bool) (d : BitVec 7) (a : BitVec 7) (i : BitVec 8)
  /-- ULDI (R88): Uniform load of a sign-extended 16-bit constant. -/
  | uldi (e : Bool) (d : BitVec 7) (i : BitVec 16)
  /-- ULDH (R88): Uniform replacement of bits 31:16 by IMM16. -/
  | uldh (e : Bool) (d : BitVec 7) (i : BitVec 16)
  /-- UCMPEQ (R90): Uniform compare equal writing 1 or 0 to an s register. -/
  | ucmpeq (e : Bool) (n : Bool) (d : BitVec 7) (a : BitVec 7) (b : BitVec 7)
  /-- UCMPNE (R90): Uniform compare not equal. -/
  | ucmpne (e : Bool) (n : Bool) (d : BitVec 7) (a : BitVec 7) (b : BitVec 7)
  /-- UCMPLT (R90): Uniform signed less-than compare. -/
  | ucmplt (e : Bool) (n : Bool) (d : BitVec 7) (a : BitVec 7) (b : BitVec 7)
  /-- UCMPLTN (R90): Uniform natural less-than compare. -/
  | ucmpltn (e : Bool) (n : Bool) (d : BitVec 7) (a : BitVec 7) (b : BitVec 7)
  /-- UCMPLTX (R90): Uniform signed 64-bit less-than compare. -/
  | ucmpltx (e : Bool) (n : Bool) (d : BitVec 7) (a : BitVec 7) (b : BitVec 7)
  /-- RDL (R94): Read A in the lowest thread of the path into an s register. -/
  | rdl (e : Bool) (n : Bool) (d : BitVec 7) (a : BitVec 7)
  /-- UBRA (R98): Uniform unconditional branch. -/
  | ubra (d : BitVec 23)
  /-- UBZ (R98): Uniform branch if A is zero. -/
  | ubz (a : BitVec 7) (d : BitVec 16)
  /-- UBNZ (R98): Uniform branch if A is nonzero. -/
  | ubnz (a : BitVec 7) (d : BitVec 16)
  /-- UCALL (R98): Uniform call writing the return PC to s31. -/
  | ucall (d : BitVec 23)
  /-- URET (R98): Uniform branch to the address in A. -/
  | uret (a : BitVec 7)
  /-- REGION (R100): Mark the next instruction as the start of a new idempotent region. -/
  | region
  /-- MSET (R166): Load a rejoin mask with the path's lanes and judge it. -/
  | mset (e : Bool) (i : BitVec 8)
  /-- MCLR (R166): Clear a rejoin mask and judge it. -/
  | mclr (e : Bool) (i : BitVec 8)
  /-- UEXIT (R101): Every thread of the issuing path exits as by EXIT. -/
  | uexit
  /-- BAR (R170): Threads arrive at the block barrier, releasing and later acquiring at core scope. -/
  | bar
  /-- BARC (R170): Threads arrive at the cluster barrier, releasing and later acquiring at cluster scope. -/
  | barc
  /-- PHASE (R240): Release, acquire or both at a named scope, holding the group until complete. -/
  | phase (s : BitVec 3) (k : BitVec 2)
  /-- IFENCE (R113): Discard the core's instruction caches and acquire for fetch at system scope. -/
  | ifence
  /-- UNOP (R102): Uniform no-operation. -/
  | unop (e : Bool)
  /-- PUSH (R309): Append a 64-bit entry to cea, ceb or hqm's outbound half. -/
  | push (a : BitVec 7) (q : BitVec 5)
  /-- POP (R310): Take the head entry of a status queue or hqm inbound half into a pair. -/
  | pop (n : Bool) (d : BitVec 7) (q : BitVec 5)
  /-- QTRY (R311): Take the head entry if present, without holding, with a presence flag. -/
  | qtry (n : Bool) (d : BitVec 7) (q : BitVec 5)
  /-- QSTAT (R312): Snapshot the fill and unanswered counts of a queue. -/
  | qstat (e : Bool) (n : Bool) (d : BitVec 7) (q : BitVec 5)
  /-- BWAIT (R319): Hold the group until a barrier object's phase differs from the parity. -/
  | bwait (a : BitVec 7) (i : BitVec 8)
  /-- BEXP (R318): Add expected bytes and count one arrival at a barrier object. -/
  | bexp (n : Bool) (d : BitVec 7) (a : BitVec 7) (b : BitVec 7)
  /-- BARV (R318): Count one arrival at a barrier object. -/
  | barv (n : Bool) (d : BitVec 7) (a : BitVec 7)
  /-- CEGO (R308): Queue a copy command to engine A or B and wait for its acceptance. -/
  | cego (n : Bool) (d : BitVec 7) (a : BitVec 7) (i : BitVec 8)
  /-- REGO (R313): Queue a departure contribution to rdc. -/
  | rego (n : Bool) (d : BitVec 7) (a : BitVec 7)
  /-- SPLICE (R241): Send a splice of a consist to its manager, releasing prior stores. -/
  | splice (n : Bool) (d : BitVec 7) (a : BitVec 7) (b : BitVec 7)
  /-- PIN (R241): Request a pin of the consist's current generation. -/
  | pin (n : Bool) (d : BitVec 7) (a : BitVec 7)
  /-- UNPIN (R243): Release a pin handle, releasing prior stores. -/
  | unpin (n : Bool) (d : BitVec 7) (a : BitVec 7)
  /-- DRAIN (R314): Issue an optimizer drain of accumulator tiles into weights. -/
  | drain (n : Bool) (d : BitVec 7) (a : BitVec 7)
  /-- LAUNCH (R315): Append a copy of a launch record to a user queue. -/
  | launch (n : Bool) (d : BitVec 7) (a : BitVec 7) (b : BitVec 7)
  /-- TRAP (R103): Raise a TRAP-cause trap with IMM8 in TRAPVAL. -/
  | trap (i : BitVec 8)
  /-- ERET (R104): Return from the trap handler, resuming or exiting trapped threads. -/
  | eret
  /-- MFSR (R108): Read a system register. -/
  | mfsr (e : Bool) (n : Bool) (d : BitVec 7) (i : BitVec 8)
  /-- MTSR (R109): Write a system register and hold until it takes effect in its scope. -/
  | mtsr (a : BitVec 7) (i : BitVec 8)
  /-- FPEV (R110): Read a launch FP-event counter. -/
  | fpev (e : Bool) (n : Bool) (d : BitVec 7) (i : BitVec 8)
  /-- ERRC (R111): Read a data-loss or corrected-error counter. -/
  | errc (e : Bool) (n : Bool) (d : BitVec 7) (i : BitVec 8)
  /-- CYC (R112): Read the core's 64-bit cycle count. -/
  | cyc (e : Bool) (d : BitVec 7)
  /-- BKPT (R103): Raise a breakpoint trap with IMM8 in TRAPVAL. -/
  | bkpt (i : BitVec 8)
  /-- APGO (R316): Send an array programming descriptor to a die and wait for its answer. -/
  | apgo (n : Bool) (d : BitVec 7) (a : BitVec 7)
  /-- TBLD (R114): Load a 4,096-byte activation table image into a slot's inactive bank. -/
  | tbld (n : Bool) (d : BitVec 7) (a : BitVec 7) (b : BitVec 7)
  /-- RUN_ISSUE (R141): At a run boundary an issue slot takes the longest-waiting eligible group, which issues a run of its chosen path. -/
  | runIssue (c slot : Nat)
  /-- LOAD_RETURN (R34): An outstanding load, atomic return, POP or QTRY value is written and the pending mark cleared. -/
  | loadReturn (c : Nat) (ret : Bool) (k : Nat) (stale : Bool)
  /-- ATOMIC_PERFORM (R236): An atomic's merged lanes are applied at their place in ascending lane order. -/
  | atomicPerform (c k : Nat)
  /-- STORE_PERFORM (R192): A store becomes performed at a scope. -/
  | storePerform (c k scope : Nat)
  /-- SIDE_LOG_REPLAY (R233): A side-log entry replays once its page is mapped. -/
  | sideLogReplay (c k : Nat)
  /-- RELEASE_COMPLETE (R194): A release completes once every covered store is performed at its scope. -/
  | releaseComplete (c k : Nat)
  /-- QUEUE_ENTRY_APPEND (R246): A held PUSH or GO appends its entry when room appears in the queue. -/
  | queueEntryAppend (c g : Nat)
  /-- QUEUE_ENTRY_TAKE (R246): A held POP takes the head entry when one arrives. -/
  | queueEntryTake (c g : Nat)
  /-- TRAP_ENTRY (R327): A trapping set enters the handler at TRAPVEC once the group's trap registers are free. -/
  | trapEntry (c g : Nat)
  /-- FAULT_RECORD_POST (R364): A fault record is written to the partition's fault ring, waiting for room if full. -/
  | faultRecordPost (p : Nat)
  /-- TBLD_BANK_SWAP (R114): After the copy and once no MXGO holds the bank, the slot's banks swap and its generation rises. -/
  | tbldBankSwap (c g : Nat)
  /-- MX_ACCEPT (R255): The matrix engine accepts a group's head mxc entry, judges it and binds the table slot. -/
  | mxAccept (c : Nat)
  /-- MX_START (R259): An accepted matrix command starts once no earlier command holds its tile. -/
  | mxStart (c k : Nat)
  /-- MX_COMMAND_COMPLETE (R257): The tile product ends and the mxs status entry is posted. -/
  | mxCommandComplete (c k : Nat)
  /-- AE_ACCEPT (R265): The array-engine port accepts an aec entry, judges it, binds a generation and forwards it. -/
  | aeAccept (c : Nat)
  /-- ARRAY_OPERATION_START (R271): The hub starts an array operation when the array is free and activity allows. -/
  | arrayOperationStart (die : Nat)
  /-- ARRAY_OPERATION_COMPLETE (R267): An array operation's column codes return to the hub and sum into S. -/
  | arrayOperationComplete (die k : Nat)
  /-- AE_DIGITAL_PART_START (R272): When all S values arrived the digital part enters the matrix-engine rotation. -/
  | aeDigitalPartStart (c k : Nat)
  /-- AE_DIGITAL_PART_COMPLETE (R273): The fused layer terms are applied to the tiles and the aes entry is posted. -/
  | aeDigitalPartComplete (c k : Nat)
  /-- CE_ACCEPT (R286): A copy engine accepts a command, judges it and clears destination presence bits. -/
  | ceAccept (c : Nat) (eng : Bool)
  /-- CE_CHUNK_WRITE (R286): A copy engine writes destination chunks, sets presence and subtracts from the barrier. -/
  | ceChunkWrite (c : Nat) (eng : Bool) (k : Nat)
  /-- DRAIN_DEFERRED_ACCEPT (R314): A DRAIN held on unmapped blocks is accepted once the blocks have been read. -/
  | drainDeferredAccept (c g : Nat)
  /-- DRAIN_TILE_TAKE (R292): In R205 order, the DRAIN reads a tile and zeroes it indivisibly. -/
  | drainTileTake (k : Nat)
  /-- NMU_LINE_UPDATE (R56): An NMU updates one weight line under its row lock by the optimizer. -/
  | nmuLineUpdate (k line : Nat)
  /-- SPLICE_PERFORM (R217): The consist manager performs a splice indivisibly and answers. -/
  | splicePerform (k : Nat)
  /-- PIN_PERFORM (R221): The consist manager checks the header and pins the current generation. -/
  | pinPerform (k : Nat)
  /-- UNPIN_PERFORM (R223): The consist manager lowers the pin count, possibly killing a generation. -/
  | unpinPerform (k : Nat)
  /-- RECLAIM_RECORD_DELIVERY (R226): A reclaim record reaches its remover's sps queue as room appears. -/
  | reclaimRecordDelivery (k : Nat)
  /-- STATUS_ENTRY_DELIVERY (R248): An rds, rdl, nms or sps entry waiting at its source is delivered as room appears. -/
  | statusEntryDelivery (k : Nat)
  /-- STATION_ACCEPT_REGO (R297): A cluster station accepts an rdc entry and reads block and contribution. -/
  | stationAcceptRego (c g : Nat)
  /-- STATION_PACKET_ARRIVAL (R298): A packet from a child station arrives at a station. -/
  | stationPacketArrival (src : PacketSource)
  /-- STATION_DEADLINE_EXPIRY (R298): A station's round countdown expires. -/
  | stationDeadlineExpiry (k : Nat)
  /-- LATE_COUNTDOWN_EXPIRY (R299): A station's late countdown expires and a late packet departs. -/
  | lateCountdownExpiry (k : Nat)
  /-- ROOT_RECORD_DELIVERY (R301): The root writes an on-time or late record and pushes its address. -/
  | rootRecordDelivery (k : Nat)
  /-- OBOE_GROUP_FIT (R276): Oboe fits offset and gain for a group from probe replays. -/
  | oboeGroupFit (die a : Nat) (transpose : Bool)
  /-- OBOE_PUBLISH (R278): Oboe writes the inactive bank and swaps banks, raising the compensation generation. -/
  | oboePublish (die : Nat)
  /-- OBOE_STARVATION_TIMEOUT (R275): After 100 ms without a slot, Oboe is given up to 8 arrays per slot. -/
  | oboeStarvationTimeout (die : Nat)
  /-- QUEUE_BIND (R343): Junction binds a waiting user queue to a free hardware slot. -/
  | queueBind (i : Nat)
  /-- LAUNCH_TAKE (R344): Junction reads and judges the launch record at the queue's read index. -/
  | launchTake (i : Nat)
  /-- CLUSTER_DISPATCH (R150): Junction dispatches a cluster to cores with room once waits clear. -/
  | clusterDispatch (l c0 : Nat)
  /-- LAUNCH_END (R153): All blocks ended and work completed; Junction releases and credits done_barrier. -/
  | launchEnd (l : Nat)
  /-- LAUNCH_APPEND (R315): Junction appends a LAUNCH's record to a user queue or refuses it. -/
  | launchAppend (k : Nat)
  /-- PREEMPT (R340): Junction pre-empts a cluster and saves its state. -/
  | preempt (l k : Nat)
  /-- RESTART (R342): Junction restores a pre-empted cluster on free cores. -/
  | restart (k c0 : Nat)
  /-- TIME_SLICE_EXPIRY (R345): A time slice of an equal-priority slot ends. -/
  | timeSliceExpiry (p prio : Nat)
  /-- APGO_ANSWER (R316): The die answers a programming descriptor, writing intent records. -/
  | apgoAnswer (c g : Nat)
  /-- ROW_STAGE (R353): A row's codes are read from the image and held in a staging slot. -/
  | rowStage (die a row : Nat)
  /-- ROW_WRITE_COMPLETE (R353): Programming of a row ends with verify and commit, a retry, or abort. -/
  | rowWriteComplete (die a row : Nat) (ok : Bool)
  /-- DIE_RESET (R350): A die is reset, its incarnation rises and forwarded commands answer offline. -/
  | dieReset (die : Nat)
  /-- DIE_WATCHDOG_EXPIRY (R350): A die's watchdog expires. -/
  | dieWatchdogExpiry (die : Nat)
  /-- LINK_FAILURE (R347): A die's UCIe link is declared failed. -/
  | linkFailure (die : Nat)
  /-- LINK_RATE_CHANGE_REQUEST (R349): The link manager requests a rate change for a die. -/
  | linkRateChangeRequest (die rate : Nat)
  /-- LINK_WIDTH_CHANGE_REQUEST (R349): The link manager requests a width change for a die. -/
  | linkWidthChangeRequest (die narrow : Nat)
  /-- RETRAIN_COMPLETE (R349): A retrain of a die's modules completes or fails. -/
  | retrainComplete (die : Nat) (ok : Bool)
  /-- POWER_GOOD (R382): Power-good starts module bring-up. -/
  | powerGood (r : BringUp)
  /-- POWER_LOSS (R353): Module power fails. -/
  | powerLoss
  /-- THERMAL_STEP (R387): A temperature crossing lowers or raises the clock or a die's activity limit. -/
  | thermalStep (sensor : Nat) (t : Int)
  /-- SCRUB_ERROR (R189): Scrubbing or a write-back finds an error, counted for the owner partition. -/
  | scrubError (loc : ErrorPlace) (lost : Bool)
  /-- HOST_MEMORY_ACCESS (R361): A host read or write of module memory arrives with a PASID. -/
  | hostMemoryAccess (acc : HostAccess)
  /-- PEER_ACCESS (R367): An access arrives on a peer port. -/
  | peerAccess (acc : PeerAccess)
  /-- HOST_LINK_DOWN (R363): A host port's link goes down, giving back the semaphore. -/
  | hostLinkDown (port : Nat)
  /-- PRIVSEM_TAKE (R363): A port writes req 1 to take the privileged-configuration semaphore. -/
  | privsemTake (port : Nat)
  /-- PRIVSEM_GIVE (R363): A port writes req 0 to give the semaphore back. -/
  | privsemGive (port : Nat)
  /-- IFCMD_LOCK (R369): LOCK command to a queue interface. -/
  | ifcmdLock (w : Writer) (i : Nat)
  /-- IFCMD_START (R369): START command to a queue interface. -/
  | ifcmdStart (w : Writer) (i : Nat)
  /-- IFCMD_STOP (R369): STOP command to a queue interface. -/
  | ifcmdStop (w : Writer) (i : Nat)
  /-- IFCMD_NONE (R369): IFCMD write with cmd 0, which has no effect. -/
  | ifcmdNone (w : Writer) (i : Nat)
  /-- DOORBELL (R369): Advance WRIDX by n or refuse into ERROR. -/
  | doorbell (w : Writer) (i n : Nat)
  /-- RESOLVE (R332): A write to RESOLVE re-walks every waiting access of the partition. -/
  | resolve (w : Writer) (p : Nat)
  /-- SHOOT (R337): A write to SHOOT starts a shootdown of leaves covering a va. -/
  | shoot (w : Writer) (p va : Nat)
  /-- SHOOTDOWN_COMPLETE (R337): Every core and engine discarded the old leaf and busy clears. -/
  | shootdownComplete (p : Nat)
  /-- PCMD_CREATE_KEY_HANDLE (R365): PCMD command 1 unwraps a blob and creates a sealed key handle. -/
  | pcmdCreateKeyHandle (w : Writer) (p desc : Nat)
  /-- PCMD_BIND_KEY_HANDLE (R365): PCMD command 2 binds a handle to a sub-range. -/
  | pcmdBindKeyHandle (w : Writer) (p desc : Nat)
  /-- PCMD_DESTROY_KEY_HANDLE (R365): PCMD command 3 destroys an unbound handle. -/
  | pcmdDestroyKeyHandle (w : Writer) (p desc : Nat)
  /-- PCMD_CREATE_COLLECTIVE (R370): PCMD command 4 creates a collective handle. -/
  | pcmdCreateCollective (w : Writer) (p desc : Nat)
  /-- PCMD_DESTROY_COLLECTIVE (R370): PCMD command 5 destroys a collective. -/
  | pcmdDestroyCollective (w : Writer) (p desc : Nat)
  /-- PCMD_DEFINE_LAYER (R358): PCMD command 6 defines a layer. -/
  | pcmdDefineLayer (w : Writer) (p desc : Nat)
  /-- PCMD_RETIRE_LAYER (R358): PCMD command 7 retires a layer definition. -/
  | pcmdRetireLayer (w : Writer) (p desc : Nat)
  /-- PCMD_SPDM (R371): PCMD command 8 carries one SPDM request of the partition. -/
  | pcmdSpdm (w : Writer) (p desc : Nat)
  /-- MBOXIN_DELIVER (R366): A host MBOXIN write delivers an entry to a group's inbound half. -/
  | mboxinDeliver (w : Writer) (p : Nat)
  /-- MAILBOX_OUT_RECORD (R366): An hqm outbound entry is written to the MBOXOUT ring as room allows. -/
  | mailboxOutRecord (c g : Nat)
  /-- PARTITION_CREATE (R364): Setting PCTL.active creates the partition and its key. -/
  | partitionCreate (port p : Nat)
  /-- PARTITION_DISSOLVE (R364): Clearing PCTL.active dissolves the partition once no launch remains. -/
  | partitionDissolve (port p : Nat)
  /-- CONTROL_REGISTER_WRITE (R363): A write to a control-window register with no behaviour of its own. -/
  | controlRegisterWrite (w : Writer) (off width value : Nat)
  /-- WRITE_IMAGE (R384): SMCMD 1 copies and verifies an image into the inactive firmware slot. -/
  | writeImage (port desc : Nat)
  /-- ACTIVATE (R384): SMCMD 2 marks the verified inactive slot pending. -/
  | activate (port desc : Nat)
  /-- CONFIRM (R386): SMCMD 3 makes the pending slot active and raises the anti-rollback counter. -/
  | confirm (port desc : Nat)
  /-- READ_LOG (R387): SMCMD 4 copies log entries to the host. -/
  | readLog (port desc : Nat)
  /-- SPDM (R388): SMCMD 5 carries an SPDM request from a host port. -/
  | spdm (port desc : Nat)
  /-- SET_CERT (R389): SMCMD 6 writes a certificate chain into a slot. -/
  | setCert (port desc : Nat)
  /-- READ_SENSORS (R387): SMCMD 7 copies the sensor table. -/
  | readSensors (port desc : Nat)
  /-- SET_CARVEOUT (R180): SMCMD 8 changes the chip-scratchpad carve-out. -/
  | setCarveout (port desc : Nat)
  /-- GET_VERSION (R388): SPDM GET_VERSION request. -/
  | getVersion (r : SpdmRequest)
  /-- GET_CAPABILITIES (R388): SPDM GET_CAPABILITIES request. -/
  | getCapabilities (r : SpdmRequest)
  /-- NEGOTIATE_ALGORITHMS (R388): SPDM NEGOTIATE_ALGORITHMS request. -/
  | negotiateAlgorithms (r : SpdmRequest)
  /-- GET_DIGESTS (R388): SPDM GET_DIGESTS request. -/
  | getDigests (r : SpdmRequest)
  /-- GET_CERTIFICATE (R389): SPDM GET_CERTIFICATE request returning a whole chain. -/
  | getCertificate (r : SpdmRequest)
  /-- CHALLENGE (R389): SPDM CHALLENGE request making its slot pending. -/
  | challenge (r : SpdmRequest)
  /-- GET_MEASUREMENTS (R388): SPDM GET_MEASUREMENTS request. -/
  | getMeasurements (r : SpdmRequest)
  /-- KEY_EXCHANGE (R388): SPDM KEY_EXCHANGE request, ending any earlier session of the partition. -/
  | keyExchange (r : SpdmRequest)
  /-- FINISH (R388): SPDM FINISH request. -/
  | finish (r : SpdmRequest)
  /-- KEY_UPDATE (R388): SPDM KEY_UPDATE request. -/
  | keyUpdate (r : SpdmRequest)
  /-- HEARTBEAT (R388): SPDM HEARTBEAT request. -/
  | heartbeat (r : SpdmRequest)
  /-- END_SESSION (R388): SPDM END_SESSION request. -/
  | endSession (r : SpdmRequest)
  /-- CHALLENGE_TIMEOUT (R389): A pending challenge is abandoned after 2 s. -/
  | challengeTimeout
  /-- CARVEOUT_CHANGE_COMPLETE (R180): A change of the carve-out ends once the affected ways have been written back, zeroed and appended or removed, and SMANS then reads 0. -/
  | carveoutChangeComplete
  /-- MTSR_COMPLETE (R109): An outstanding MTSR of a heap, page-table or TRAPVEC register completes once every core of its scope has discarded its old translations or taken the new value. -/
  | mtsrComplete (c g : Nat)
  deriving DecidableEq, Repr

end Sys2Proof
end

