-- ==== Sys2Proof/WellFormed.lean ====
section
/-! DEFINITION. The ranges of the selector fields (R66, R68), and of the places an event names.
A word whose selector is out of range is an illegal instruction (R71); the decoder refuses it. -/

namespace Sys2Proof

/-- The selectors of an encoded form lie in the ranges of R66 and R68; an event names a core, a slot,
a partition, a die or a port that the module has (R2, R359). -/
def Instr.wellFormed : Instr → Bool
  | .add _ _ _ _ _ => true
  | .sub _ _ _ _ _ => true
  | .mul _ _ _ _ _ => true
  | .mulh _ _ _ _ _ => true
  | .mulhn _ _ _ _ _ => true
  | .and _ _ _ _ _ => true
  | .or _ _ _ _ _ => true
  | .xor _ _ _ _ _ => true
  | .andn _ _ _ _ _ => true
  | .shl _ _ _ _ _ => true
  | .shr _ _ _ _ _ => true
  | .sar _ _ _ _ _ => true
  | .min _ _ _ _ _ => true
  | .max _ _ _ _ _ => true
  | .minn _ _ _ _ _ => true
  | .maxn _ _ _ _ _ => true
  | .addsat _ _ _ _ _ => true
  | .subsat _ _ _ _ _ => true
  | .addsatn _ _ _ _ _ => true
  | .subsatn _ _ _ _ _ => true
  | .absd _ _ _ _ _ => true
  | .bfx _ _ _ _ _ => true
  | .bfxn _ _ _ _ _ => true
  | .bfi _ _ _ _ _ => true
  | .sel _ _ _ _ _ => true
  | .mov _ _ _ _ => true
  | .not _ _ _ _ => true
  | .neg _ _ _ _ => true
  | .abs _ _ _ _ => true
  | .clz _ _ _ _ => true
  | .popc _ _ _ _ => true
  | .brev _ _ _ _ => true
  | .sextb _ _ _ _ => true
  | .sexth _ _ _ _ => true
  | .zextb _ _ _ _ => true
  | .zexth _ _ _ _ => true
  | .addx _ _ _ _ _ => true
  | .subx _ _ _ _ _ => true
  | .mulwx _ _ _ _ _ => true
  | .mulwxn _ _ _ _ _ => true
  | .leax _ _ _ _ _ => true
  | .addxi _ _ _ _ _ => true
  | .addi _ _ _ _ _ => true
  | .andi _ _ _ _ _ => true
  | .ori _ _ _ _ _ => true
  | .xori _ _ _ _ _ => true
  | .shli _ _ _ _ i => decide (i.toNat < 32)
  | .shri _ _ _ _ i => decide (i.toNat < 32)
  | .sari _ _ _ _ i => decide (i.toNat < 32)
  | .muli _ _ _ _ _ => true
  | .ldi _ _ _ => true
  | .ldh _ _ _ => true
  | .cmpeq _ _ _ _ => true
  | .cmpne _ _ _ _ => true
  | .cmplt _ _ _ _ => true
  | .cmple _ _ _ _ => true
  | .cmpltn _ _ _ _ => true
  | .cmplen _ _ _ _ => true
  | .cmpeqi _ _ _ _ => true
  | .cmplti _ _ _ _ => true
  | .cmpltni _ _ _ _ => true
  | .cmpltx _ _ _ _ => true
  | .cmpeqx _ _ _ _ => true
  | .kand _ _ _ _ => true
  | .kor _ _ _ _ => true
  | .kxor _ _ _ _ => true
  | .kandn _ _ _ _ => true
  | .kset _ _ _ _ => true
  | .kget _ _ _ _ => true
  | .fadd _ _ _ _ _ => true
  | .fsub _ _ _ _ _ => true
  | .fmul _ _ _ _ _ => true
  | .ffma _ _ _ _ _ => true
  | .fmin _ _ _ _ _ => true
  | .fmax _ _ _ _ _ => true
  | .faddz _ _ _ _ _ => true
  | .fmulz _ _ _ _ _ => true
  | .ffmaz _ _ _ _ _ => true
  | .fcmpeq _ _ _ _ => true
  | .fcmplt _ _ _ _ => true
  | .fcmple _ _ _ _ => true
  | .fcmpun _ _ _ _ => true
  | .fabs _ _ _ _ => true
  | .fneg _ _ _ _ => true
  | .ffloor _ _ _ _ => true
  | .fceil _ _ _ _ => true
  | .frint _ _ _ _ => true
  | .ftrunc _ _ _ _ => true
  | .fexp2 _ _ _ _ => true
  | .flog2 _ _ _ _ => true
  | .frcp _ _ _ _ => true
  | .frsq _ _ _ _ => true
  | .fsqrt _ _ _ _ => true
  | .fsinp _ _ _ _ => true
  | .fcosp _ _ _ _ => true
  | .ftanh _ _ _ _ => true
  | .fsig _ _ _ _ => true
  | .cvtfi _ _ _ _ => true
  | .cvtfiz _ _ _ _ => true
  | .cvtfn _ _ _ _ => true
  | .cvtif _ _ _ _ => true
  | .cvtnf _ _ _ _ => true
  | .cvtbf _ _ _ _ => true
  | .cvtbfh _ _ _ _ => true
  | .cvthf _ _ _ _ => true
  | .cvthfh _ _ _ _ => true
  | .cvtfb _ _ _ _ _ => true
  | .cvtfbs _ _ _ _ _ => true
  | .cvtfh _ _ _ _ _ => true
  | .badd2 _ _ _ _ _ => true
  | .bmul2 _ _ _ _ _ => true
  | .bfma2 _ _ _ _ _ => true
  | .bmax2 _ _ _ _ _ => true
  | .bmin2 _ _ _ _ _ => true
  | .qntf8 _ _ _ _ _ => true
  | .qntf6 _ _ _ _ _ => true
  | .qntf4 _ _ _ _ _ => true
  | .qnti8 _ _ _ _ _ => true
  | .dqn _ _ _ _ i => decide (0 < i.toNat ∧ i.toNat < 5)
  | .rnd _ _ _ _ _ => true
  | .shfl _ _ _ _ _ => true
  | .shflu _ _ _ _ i => decide (i.toNat < 32)
  | .shfld _ _ _ _ i => decide (i.toNat < 32)
  | .shflx _ _ _ _ i => decide (i.toNat < 32)
  | .qex _ _ _ _ i => decide (i.toNat < 3)
  | .voteb _ _ _ _ => true
  | .votean _ _ _ => true
  | .voteal _ _ _ => true
  | .gred _ _ _ _ i => decide (i.toNat < 9)
  | .gscan _ _ _ _ i => decide (i.toNat < 3)
  | .brk _ _ _ => true
  | .jmpi _ => true
  | .jmpt _ _ _ => true
  | .calli _ _ _ => true
  | .wait i => decide (i.toNat < 16)
  | .exit => true
  | .ld8 _ _ _ _ _ => true
  | .ld8s _ _ _ _ _ => true
  | .ld16 _ _ _ _ _ => true
  | .ld16s _ _ _ _ _ => true
  | .ld32 _ _ _ _ _ => true
  | .ld64 _ _ _ _ _ => true
  | .ld128 _ _ _ _ _ => true
  | .st8 _ _ _ _ => true
  | .st16 _ _ _ _ => true
  | .st32 _ _ _ _ => true
  | .st64 _ _ _ _ => true
  | .st128 _ _ _ _ => true
  | .aadd _ _ _ s r => decide (r = 0 → s = 0)
  | .aaddf _ _ _ s r => decide (r = 0 → s = 0)
  | .aaddb2 _ _ _ s r => decide (r = 0 → s = 0)
  | .amin _ _ _ s r => decide (r = 0 → s = 0)
  | .amax _ _ _ s r => decide (r = 0 → s = 0)
  | .aminn _ _ _ s r => decide (r = 0 → s = 0)
  | .amaxn _ _ _ s r => decide (r = 0 → s = 0)
  | .aand _ _ _ s r => decide (r = 0 → s = 0)
  | .aor _ _ _ s r => decide (r = 0 → s = 0)
  | .axor _ _ _ s r => decide (r = 0 → s = 0)
  | .axch _ _ _ s r => decide (r = 0 → s = 0)
  | .acas _ _ _ s r => decide (r = 0 → s = 0)
  | .aaddx _ _ _ s r => decide (r = 0 → s = 0)
  | .axchx _ _ _ s r => decide (r = 0 → s = 0)
  | .acasx _ _ _ s r => decide (r = 0 → s = 0)
  | .pfNormal _ _ _ => true
  | .pfEvictFirst _ _ _ => true
  | .pfEvictLast _ _ _ => true
  | .pfLlcOnly _ _ _ => true
  | .stad _ _ _ _ _ => true
  | .mxgo _ _ => true
  | .aego _ _ => true
  | .uadd _ _ _ _ _ => true
  | .usub _ _ _ _ _ => true
  | .umul _ _ _ _ _ => true
  | .uand _ _ _ _ _ => true
  | .uor _ _ _ _ _ => true
  | .uxor _ _ _ _ _ => true
  | .ushl _ _ _ _ _ => true
  | .ushr _ _ _ _ _ => true
  | .usar _ _ _ _ _ => true
  | .umin _ _ _ _ _ => true
  | .umax _ _ _ _ _ => true
  | .umov _ _ _ _ => true
  | .unot _ _ _ _ => true
  | .uneg _ _ _ _ => true
  | .uclz _ _ _ _ => true
  | .upopc _ _ _ _ => true
  | .uaddx _ _ _ _ _ => true
  | .umulwx _ _ _ _ _ => true
  | .uaddi _ _ _ _ _ => true
  | .uandi _ _ _ _ _ => true
  | .uori _ _ _ _ _ => true
  | .ushli _ _ _ _ i => decide (i.toNat < 32)
  | .ushri _ _ _ _ i => decide (i.toNat < 32)
  | .uaddxi _ _ _ _ _ => true
  | .uldi _ _ _ => true
  | .uldh _ _ _ => true
  | .ucmpeq _ _ _ _ _ => true
  | .ucmpne _ _ _ _ _ => true
  | .ucmplt _ _ _ _ _ => true
  | .ucmpltn _ _ _ _ _ => true
  | .ucmpltx _ _ _ _ _ => true
  | .rdl _ _ _ _ => true
  | .ubra _ => true
  | .ubz _ _ => true
  | .ubnz _ _ => true
  | .ucall _ => true
  | .uret _ => true
  | .region => true
  | .mset _ i => decide (i.toNat < 16)
  | .mclr _ i => decide (i.toNat < 16)
  | .uexit => true
  | .bar => true
  | .barc => true
  | .phase s k => decide (s.toNat < 5 ∧ k ≠ 0)
  | .ifence => true
  | .unop _ => true
  | .push _ q => decide (q.toNat < 14)
  | .pop _ _ q => decide (q.toNat < 14)
  | .qtry _ _ q => decide (q.toNat < 14)
  | .qstat _ _ _ q => decide (q.toNat < 14)
  | .bwait _ i => decide (i.toNat < 2)
  | .bexp _ _ _ _ => true
  | .barv _ _ _ => true
  | .cego _ _ _ i => decide (i.toNat < 2)
  | .rego _ _ _ => true
  | .splice _ _ _ _ => true
  | .pin _ _ _ => true
  | .unpin _ _ _ => true
  | .drain _ _ _ => true
  | .launch _ _ _ _ => true
  | .trap _ => true
  | .eret => true
  | .mfsr _ _ _ i => decide (i.toNat < 13)
  | .mtsr _ i => decide (i.toNat < 13)
  | .fpev _ _ _ i => decide (i.toNat < 24)
  | .errc _ _ _ i => decide (i.toNat < 4)
  | .cyc _ _ => true
  | .bkpt _ => true
  | .apgo _ _ _ => true
  | .tbld _ _ _ _ => true
  | .runIssue c slot => decide (c < 320 ∧ slot < 4)
  | .loadReturn c _ _ _ => decide (c < 320)
  | .atomicPerform c _ => decide (c < 320)
  | .storePerform c _ scope => decide (c < 320 ∧ scope < 5)
  | .sideLogReplay c _ => decide (c < 320)
  | .releaseComplete c _ => decide (c < 320)
  | .queueEntryAppend c g => decide (c < 320 ∧ g < 32)
  | .queueEntryTake c g => decide (c < 320 ∧ g < 32)
  | .trapEntry c g => decide (c < 320 ∧ g < 32)
  | .faultRecordPost p => decide (p < 32)
  | .tbldBankSwap c g => decide (c < 320 ∧ g < 32)
  | .mxAccept c => decide (c < 320)
  | .mxStart c _ => decide (c < 320)
  | .mxCommandComplete c _ => decide (c < 320)
  | .aeAccept c => decide (c < 320)
  | .arrayOperationStart die => decide (die < 16)
  | .arrayOperationComplete die _ => decide (die < 16)
  | .aeDigitalPartStart c _ => decide (c < 320)
  | .aeDigitalPartComplete c _ => decide (c < 320)
  | .ceAccept c _ => decide (c < 320)
  | .ceChunkWrite c _ _ => decide (c < 320)
  | .drainDeferredAccept c g => decide (c < 320 ∧ g < 32)
  | .drainTileTake _ => true
  | .nmuLineUpdate _ _ => true
  | .splicePerform _ => true
  | .pinPerform _ => true
  | .unpinPerform _ => true
  | .reclaimRecordDelivery _ => true
  | .statusEntryDelivery _ => true
  | .stationAcceptRego c g => decide (c < 320 ∧ g < 32)
  | .stationPacketArrival _ => true
  | .stationDeadlineExpiry _ => true
  | .lateCountdownExpiry _ => true
  | .rootRecordDelivery _ => true
  | .oboeGroupFit die a _ => decide (die < 16 ∧ a < 65536)
  | .oboePublish die => decide (die < 16)
  | .oboeStarvationTimeout die => decide (die < 16)
  | .queueBind i => decide (i < 4096)
  | .launchTake i => decide (i < 4096)
  | .clusterDispatch _ c0 => decide (c0 < 320)
  | .launchEnd _ => true
  | .launchAppend _ => true
  | .preempt _ _ => true
  | .restart _ c0 => decide (c0 < 320)
  | .timeSliceExpiry p _ => decide (p < 32)
  | .apgoAnswer c g => decide (c < 320 ∧ g < 32)
  | .rowStage die a row => decide (die < 16 ∧ a < 65536 ∧ row < 1024)
  | .rowWriteComplete die a row _ => decide (die < 16 ∧ a < 65536 ∧ row < 1024)
  | .dieReset die => decide (die < 16)
  | .dieWatchdogExpiry die => decide (die < 16)
  | .linkFailure die => decide (die < 16)
  | .linkRateChangeRequest die _ => decide (die < 16)
  | .linkWidthChangeRequest die _ => decide (die < 16)
  | .retrainComplete die _ => decide (die < 16)
  | .powerGood _ => true
  | .powerLoss => true
  | .thermalStep _ _ => true
  | .scrubError _ _ => true
  | .hostMemoryAccess _ => true
  | .peerAccess _ => true
  | .hostLinkDown port => decide (port < 2)
  | .privsemTake port => decide (port < 2)
  | .privsemGive port => decide (port < 2)
  | .ifcmdLock _ i => decide (i < 4096)
  | .ifcmdStart _ i => decide (i < 4096)
  | .ifcmdStop _ i => decide (i < 4096)
  | .ifcmdNone _ i => decide (i < 4096)
  | .doorbell _ i _ => decide (i < 4096)
  | .resolve _ p => decide (p < 32)
  | .shoot _ p _ => decide (p < 32)
  | .shootdownComplete p => decide (p < 32)
  | .pcmdCreateKeyHandle _ p _ => decide (p < 32)
  | .pcmdBindKeyHandle _ p _ => decide (p < 32)
  | .pcmdDestroyKeyHandle _ p _ => decide (p < 32)
  | .pcmdCreateCollective _ p _ => decide (p < 32)
  | .pcmdDestroyCollective _ p _ => decide (p < 32)
  | .pcmdDefineLayer _ p _ => decide (p < 32)
  | .pcmdRetireLayer _ p _ => decide (p < 32)
  | .pcmdSpdm _ p _ => decide (p < 32)
  | .mboxinDeliver _ p => decide (p < 32)
  | .mailboxOutRecord c g => decide (c < 320 ∧ g < 32)
  | .partitionCreate port p => decide (port < 2 ∧ p < 32)
  | .partitionDissolve port p => decide (port < 2 ∧ p < 32)
  | .controlRegisterWrite _ off _ _ => decide (off < 16777216)
  | .writeImage port _ => decide (port < 2)
  | .activate port _ => decide (port < 2)
  | .confirm port _ => decide (port < 2)
  | .readLog port _ => decide (port < 2)
  | .spdm port _ => decide (port < 2)
  | .setCert port _ => decide (port < 2)
  | .readSensors port _ => decide (port < 2)
  | .setCarveout port _ => decide (port < 2)
  | .getVersion _ => true
  | .getCapabilities _ => true
  | .negotiateAlgorithms _ => true
  | .getDigests _ => true
  | .getCertificate _ => true
  | .challenge _ => true
  | .getMeasurements _ => true
  | .keyExchange _ => true
  | .finish _ => true
  | .keyUpdate _ => true
  | .heartbeat _ => true
  | .endSession _ => true
  | .challengeTimeout => true
  | .carveoutChangeComplete => true
  | .mtsrComplete c g => decide (c < 320 ∧ g < 32)

end Sys2Proof
end

