-- ==== Sys2Proof/Decode.lean ====
section
/-! DEFINITION. Decoding (R60 to R72) and, after it, the encoder written from the same tables.
Decoding is total: a word that R71 makes an illegal instruction has no decoding. -/

namespace Sys2Proof

/-- `len` bits of `w` from bit `lo` up (R9). -/
def fieldAt (w : Word) (lo len : Nat) : BitVec len := w.extractLsb' lo len
/-- One bit of `w` (R9). -/
def bitAt (w : Word) (lo : Nat) : Bool := w.getLsbD lo

/-- The V-set (R69), by major opcode; every bit the row fixes is judged (R61, R65, R72). -/
def decodeV (w : Word) : Option Instr :=
  match (fieldAt w 23 7).toNat with
  | 0 =>
      if fieldAt w 0 1 = 0 then some (.add (bitAt w 30) (bitAt w 22) (fieldAt w 15 7) (fieldAt w 8 7) (fieldAt w 1 7)) else none
  | 1 =>
      if fieldAt w 0 1 = 0 then some (.sub (bitAt w 30) (bitAt w 22) (fieldAt w 15 7) (fieldAt w 8 7) (fieldAt w 1 7)) else none
  | 2 =>
      if fieldAt w 0 1 = 0 then some (.mul (bitAt w 30) (bitAt w 22) (fieldAt w 15 7) (fieldAt w 8 7) (fieldAt w 1 7)) else none
  | 3 =>
      if fieldAt w 0 1 = 0 then some (.mulh (bitAt w 30) (bitAt w 22) (fieldAt w 15 7) (fieldAt w 8 7) (fieldAt w 1 7)) else none
  | 4 =>
      if fieldAt w 0 1 = 0 then some (.mulhn (bitAt w 30) (bitAt w 22) (fieldAt w 15 7) (fieldAt w 8 7) (fieldAt w 1 7)) else none
  | 5 =>
      if fieldAt w 0 1 = 0 then some (.and (bitAt w 30) (bitAt w 22) (fieldAt w 15 7) (fieldAt w 8 7) (fieldAt w 1 7)) else none
  | 6 =>
      if fieldAt w 0 1 = 0 then some (.or (bitAt w 30) (bitAt w 22) (fieldAt w 15 7) (fieldAt w 8 7) (fieldAt w 1 7)) else none
  | 7 =>
      if fieldAt w 0 1 = 0 then some (.xor (bitAt w 30) (bitAt w 22) (fieldAt w 15 7) (fieldAt w 8 7) (fieldAt w 1 7)) else none
  | 8 =>
      if fieldAt w 0 1 = 0 then some (.andn (bitAt w 30) (bitAt w 22) (fieldAt w 15 7) (fieldAt w 8 7) (fieldAt w 1 7)) else none
  | 9 =>
      if fieldAt w 0 1 = 0 then some (.shl (bitAt w 30) (bitAt w 22) (fieldAt w 15 7) (fieldAt w 8 7) (fieldAt w 1 7)) else none
  | 10 =>
      if fieldAt w 0 1 = 0 then some (.shr (bitAt w 30) (bitAt w 22) (fieldAt w 15 7) (fieldAt w 8 7) (fieldAt w 1 7)) else none
  | 11 =>
      if fieldAt w 0 1 = 0 then some (.sar (bitAt w 30) (bitAt w 22) (fieldAt w 15 7) (fieldAt w 8 7) (fieldAt w 1 7)) else none
  | 12 =>
      if fieldAt w 0 1 = 0 then some (.min (bitAt w 30) (bitAt w 22) (fieldAt w 15 7) (fieldAt w 8 7) (fieldAt w 1 7)) else none
  | 13 =>
      if fieldAt w 0 1 = 0 then some (.max (bitAt w 30) (bitAt w 22) (fieldAt w 15 7) (fieldAt w 8 7) (fieldAt w 1 7)) else none
  | 14 =>
      if fieldAt w 0 1 = 0 then some (.minn (bitAt w 30) (bitAt w 22) (fieldAt w 15 7) (fieldAt w 8 7) (fieldAt w 1 7)) else none
  | 15 =>
      if fieldAt w 0 1 = 0 then some (.maxn (bitAt w 30) (bitAt w 22) (fieldAt w 15 7) (fieldAt w 8 7) (fieldAt w 1 7)) else none
  | 16 =>
      if fieldAt w 0 1 = 0 then some (.addsat (bitAt w 30) (bitAt w 22) (fieldAt w 15 7) (fieldAt w 8 7) (fieldAt w 1 7)) else none
  | 17 =>
      if fieldAt w 0 1 = 0 then some (.subsat (bitAt w 30) (bitAt w 22) (fieldAt w 15 7) (fieldAt w 8 7) (fieldAt w 1 7)) else none
  | 18 =>
      if fieldAt w 0 1 = 0 then some (.addsatn (bitAt w 30) (bitAt w 22) (fieldAt w 15 7) (fieldAt w 8 7) (fieldAt w 1 7)) else none
  | 19 =>
      if fieldAt w 0 1 = 0 then some (.subsatn (bitAt w 30) (bitAt w 22) (fieldAt w 15 7) (fieldAt w 8 7) (fieldAt w 1 7)) else none
  | 20 =>
      if fieldAt w 0 1 = 0 then some (.absd (bitAt w 30) (bitAt w 22) (fieldAt w 15 7) (fieldAt w 8 7) (fieldAt w 1 7)) else none
  | 21 =>
      if fieldAt w 0 1 = 0 then some (.bfx (bitAt w 30) (bitAt w 22) (fieldAt w 15 7) (fieldAt w 8 7) (fieldAt w 1 7)) else none
  | 22 =>
      if fieldAt w 0 1 = 0 then some (.bfxn (bitAt w 30) (bitAt w 22) (fieldAt w 15 7) (fieldAt w 8 7) (fieldAt w 1 7)) else none
  | 23 =>
      if fieldAt w 0 1 = 0 then some (.bfi (bitAt w 30) (bitAt w 22) (fieldAt w 15 7) (fieldAt w 8 7) (fieldAt w 1 7)) else none
  | 24 =>
      if fieldAt w 0 1 = 0 then some (.sel (bitAt w 30) (bitAt w 22) (fieldAt w 15 7) (fieldAt w 8 7) (fieldAt w 1 7)) else none
  | 25 =>
      if fieldAt w 0 8 = 0 then some (.mov (bitAt w 30) (bitAt w 22) (fieldAt w 15 7) (fieldAt w 8 7)) else
      if fieldAt w 0 8 = 2 then some (.not (bitAt w 30) (bitAt w 22) (fieldAt w 15 7) (fieldAt w 8 7)) else
      if fieldAt w 0 8 = 4 then some (.neg (bitAt w 30) (bitAt w 22) (fieldAt w 15 7) (fieldAt w 8 7)) else
      if fieldAt w 0 8 = 6 then some (.abs (bitAt w 30) (bitAt w 22) (fieldAt w 15 7) (fieldAt w 8 7)) else
      if fieldAt w 0 8 = 8 then some (.clz (bitAt w 30) (bitAt w 22) (fieldAt w 15 7) (fieldAt w 8 7)) else
      if fieldAt w 0 8 = 10 then some (.popc (bitAt w 30) (bitAt w 22) (fieldAt w 15 7) (fieldAt w 8 7)) else
      if fieldAt w 0 8 = 12 then some (.brev (bitAt w 30) (bitAt w 22) (fieldAt w 15 7) (fieldAt w 8 7)) else
      if fieldAt w 0 8 = 14 then some (.sextb (bitAt w 30) (bitAt w 22) (fieldAt w 15 7) (fieldAt w 8 7)) else
      if fieldAt w 0 8 = 16 then some (.sexth (bitAt w 30) (bitAt w 22) (fieldAt w 15 7) (fieldAt w 8 7)) else
      if fieldAt w 0 8 = 18 then some (.zextb (bitAt w 30) (bitAt w 22) (fieldAt w 15 7) (fieldAt w 8 7)) else
      if fieldAt w 0 8 = 20 then some (.zexth (bitAt w 30) (bitAt w 22) (fieldAt w 15 7) (fieldAt w 8 7)) else none
  | 26 =>
      if fieldAt w 0 1 = 0 then some (.addx (bitAt w 30) (bitAt w 22) (fieldAt w 15 7) (fieldAt w 8 7) (fieldAt w 1 7)) else none
  | 27 =>
      if fieldAt w 0 1 = 0 then some (.subx (bitAt w 30) (bitAt w 22) (fieldAt w 15 7) (fieldAt w 8 7) (fieldAt w 1 7)) else none
  | 28 =>
      if fieldAt w 0 1 = 0 then some (.mulwx (bitAt w 30) (bitAt w 22) (fieldAt w 15 7) (fieldAt w 8 7) (fieldAt w 1 7)) else none
  | 29 =>
      if fieldAt w 0 1 = 0 then some (.mulwxn (bitAt w 30) (bitAt w 22) (fieldAt w 15 7) (fieldAt w 8 7) (fieldAt w 1 7)) else none
  | 30 =>
      if fieldAt w 0 1 = 0 then some (.leax (bitAt w 30) (bitAt w 22) (fieldAt w 15 7) (fieldAt w 8 7) (fieldAt w 1 7)) else none
  | 31 => some (.addxi (bitAt w 30) (bitAt w 22) (fieldAt w 15 7) (fieldAt w 8 7) (fieldAt w 0 8))
  | 32 => some (.addi (bitAt w 30) (bitAt w 22) (fieldAt w 15 7) (fieldAt w 8 7) (fieldAt w 0 8))
  | 33 => some (.andi (bitAt w 30) (bitAt w 22) (fieldAt w 15 7) (fieldAt w 8 7) (fieldAt w 0 8))
  | 34 => some (.ori (bitAt w 30) (bitAt w 22) (fieldAt w 15 7) (fieldAt w 8 7) (fieldAt w 0 8))
  | 35 => some (.xori (bitAt w 30) (bitAt w 22) (fieldAt w 15 7) (fieldAt w 8 7) (fieldAt w 0 8))
  | 36 => some (.shli (bitAt w 30) (bitAt w 22) (fieldAt w 15 7) (fieldAt w 8 7) (fieldAt w 0 8))
  | 37 => some (.shri (bitAt w 30) (bitAt w 22) (fieldAt w 15 7) (fieldAt w 8 7) (fieldAt w 0 8))
  | 38 => some (.sari (bitAt w 30) (bitAt w 22) (fieldAt w 15 7) (fieldAt w 8 7) (fieldAt w 0 8))
  | 39 => some (.muli (bitAt w 30) (bitAt w 22) (fieldAt w 15 7) (fieldAt w 8 7) (fieldAt w 0 8))
  | 40 => some (.ldi (bitAt w 30) (fieldAt w 16 7) (fieldAt w 0 16))
  | 41 => some (.ldh (bitAt w 30) (fieldAt w 16 7) (fieldAt w 0 16))
  | 48 =>
      if fieldAt w 0 2 = 0 then some (.cmpeq (bitAt w 30) (fieldAt w 16 7) (fieldAt w 9 7) (fieldAt w 2 7)) else none
  | 49 =>
      if fieldAt w 0 2 = 0 then some (.cmpne (bitAt w 30) (fieldAt w 16 7) (fieldAt w 9 7) (fieldAt w 2 7)) else none
  | 50 =>
      if fieldAt w 0 2 = 0 then some (.cmplt (bitAt w 30) (fieldAt w 16 7) (fieldAt w 9 7) (fieldAt w 2 7)) else none
  | 51 =>
      if fieldAt w 0 2 = 0 then some (.cmple (bitAt w 30) (fieldAt w 16 7) (fieldAt w 9 7) (fieldAt w 2 7)) else none
  | 52 =>
      if fieldAt w 0 2 = 0 then some (.cmpltn (bitAt w 30) (fieldAt w 16 7) (fieldAt w 9 7) (fieldAt w 2 7)) else none
  | 53 =>
      if fieldAt w 0 2 = 0 then some (.cmplen (bitAt w 30) (fieldAt w 16 7) (fieldAt w 9 7) (fieldAt w 2 7)) else none
  | 54 =>
      if fieldAt w 0 2 = 0 then some (.cmpeqi (bitAt w 30) (fieldAt w 16 7) (fieldAt w 9 7) (fieldAt w 2 7)) else none
  | 55 =>
      if fieldAt w 0 2 = 0 then some (.cmplti (bitAt w 30) (fieldAt w 16 7) (fieldAt w 9 7) (fieldAt w 2 7)) else none
  | 56 =>
      if fieldAt w 0 2 = 0 then some (.cmpltni (bitAt w 30) (fieldAt w 16 7) (fieldAt w 9 7) (fieldAt w 2 7)) else none
  | 57 =>
      if fieldAt w 0 2 = 0 then some (.cmpltx (bitAt w 30) (fieldAt w 16 7) (fieldAt w 9 7) (fieldAt w 2 7)) else none
  | 58 =>
      if fieldAt w 0 2 = 0 then some (.cmpeqx (bitAt w 30) (fieldAt w 16 7) (fieldAt w 9 7) (fieldAt w 2 7)) else none
  | 59 =>
      if fieldAt w 0 2 = 0 then some (.kand (bitAt w 30) (fieldAt w 16 7) (fieldAt w 9 7) (fieldAt w 2 7)) else
      if fieldAt w 0 2 = 1 then some (.kor (bitAt w 30) (fieldAt w 16 7) (fieldAt w 9 7) (fieldAt w 2 7)) else
      if fieldAt w 0 2 = 2 then some (.kxor (bitAt w 30) (fieldAt w 16 7) (fieldAt w 9 7) (fieldAt w 2 7)) else
      if fieldAt w 0 2 = 3 then some (.kandn (bitAt w 30) (fieldAt w 16 7) (fieldAt w 9 7) (fieldAt w 2 7)) else none
  | 60 =>
      if fieldAt w 7 2 = 0 ∧ fieldAt w 0 2 = 0 then some (.kset (bitAt w 30) (fieldAt w 16 7) (fieldAt w 9 7) (fieldAt w 2 5)) else none
  | 61 =>
      if fieldAt w 0 8 = 0 then some (.kget (bitAt w 30) (bitAt w 22) (fieldAt w 15 7) (fieldAt w 8 7)) else none
  | 64 =>
      if fieldAt w 0 1 = 0 then some (.fadd (bitAt w 30) (bitAt w 22) (fieldAt w 15 7) (fieldAt w 8 7) (fieldAt w 1 7)) else none
  | 65 =>
      if fieldAt w 0 1 = 0 then some (.fsub (bitAt w 30) (bitAt w 22) (fieldAt w 15 7) (fieldAt w 8 7) (fieldAt w 1 7)) else none
  | 66 =>
      if fieldAt w 0 1 = 0 then some (.fmul (bitAt w 30) (bitAt w 22) (fieldAt w 15 7) (fieldAt w 8 7) (fieldAt w 1 7)) else none
  | 67 =>
      if fieldAt w 0 1 = 0 then some (.ffma (bitAt w 30) (bitAt w 22) (fieldAt w 15 7) (fieldAt w 8 7) (fieldAt w 1 7)) else none
  | 68 =>
      if fieldAt w 0 1 = 0 then some (.fmin (bitAt w 30) (bitAt w 22) (fieldAt w 15 7) (fieldAt w 8 7) (fieldAt w 1 7)) else none
  | 69 =>
      if fieldAt w 0 1 = 0 then some (.fmax (bitAt w 30) (bitAt w 22) (fieldAt w 15 7) (fieldAt w 8 7) (fieldAt w 1 7)) else none
  | 70 =>
      if fieldAt w 0 1 = 0 then some (.faddz (bitAt w 30) (bitAt w 22) (fieldAt w 15 7) (fieldAt w 8 7) (fieldAt w 1 7)) else none
  | 71 =>
      if fieldAt w 0 1 = 0 then some (.fmulz (bitAt w 30) (bitAt w 22) (fieldAt w 15 7) (fieldAt w 8 7) (fieldAt w 1 7)) else none
  | 72 =>
      if fieldAt w 0 1 = 0 then some (.ffmaz (bitAt w 30) (bitAt w 22) (fieldAt w 15 7) (fieldAt w 8 7) (fieldAt w 1 7)) else none
  | 73 =>
      if fieldAt w 0 2 = 0 then some (.fcmpeq (bitAt w 30) (fieldAt w 16 7) (fieldAt w 9 7) (fieldAt w 2 7)) else none
  | 74 =>
      if fieldAt w 0 2 = 0 then some (.fcmplt (bitAt w 30) (fieldAt w 16 7) (fieldAt w 9 7) (fieldAt w 2 7)) else none
  | 75 =>
      if fieldAt w 0 2 = 0 then some (.fcmple (bitAt w 30) (fieldAt w 16 7) (fieldAt w 9 7) (fieldAt w 2 7)) else none
  | 76 =>
      if fieldAt w 0 2 = 0 then some (.fcmpun (bitAt w 30) (fieldAt w 16 7) (fieldAt w 9 7) (fieldAt w 2 7)) else none
  | 77 =>
      if fieldAt w 0 8 = 0 then some (.fabs (bitAt w 30) (bitAt w 22) (fieldAt w 15 7) (fieldAt w 8 7)) else
      if fieldAt w 0 8 = 2 then some (.fneg (bitAt w 30) (bitAt w 22) (fieldAt w 15 7) (fieldAt w 8 7)) else
      if fieldAt w 0 8 = 4 then some (.ffloor (bitAt w 30) (bitAt w 22) (fieldAt w 15 7) (fieldAt w 8 7)) else
      if fieldAt w 0 8 = 6 then some (.fceil (bitAt w 30) (bitAt w 22) (fieldAt w 15 7) (fieldAt w 8 7)) else
      if fieldAt w 0 8 = 8 then some (.frint (bitAt w 30) (bitAt w 22) (fieldAt w 15 7) (fieldAt w 8 7)) else
      if fieldAt w 0 8 = 10 then some (.ftrunc (bitAt w 30) (bitAt w 22) (fieldAt w 15 7) (fieldAt w 8 7)) else
      if fieldAt w 0 8 = 16 then some (.fexp2 (bitAt w 30) (bitAt w 22) (fieldAt w 15 7) (fieldAt w 8 7)) else
      if fieldAt w 0 8 = 18 then some (.flog2 (bitAt w 30) (bitAt w 22) (fieldAt w 15 7) (fieldAt w 8 7)) else
      if fieldAt w 0 8 = 20 then some (.frcp (bitAt w 30) (bitAt w 22) (fieldAt w 15 7) (fieldAt w 8 7)) else
      if fieldAt w 0 8 = 22 then some (.frsq (bitAt w 30) (bitAt w 22) (fieldAt w 15 7) (fieldAt w 8 7)) else
      if fieldAt w 0 8 = 24 then some (.fsqrt (bitAt w 30) (bitAt w 22) (fieldAt w 15 7) (fieldAt w 8 7)) else
      if fieldAt w 0 8 = 26 then some (.fsinp (bitAt w 30) (bitAt w 22) (fieldAt w 15 7) (fieldAt w 8 7)) else
      if fieldAt w 0 8 = 28 then some (.fcosp (bitAt w 30) (bitAt w 22) (fieldAt w 15 7) (fieldAt w 8 7)) else
      if fieldAt w 0 8 = 30 then some (.ftanh (bitAt w 30) (bitAt w 22) (fieldAt w 15 7) (fieldAt w 8 7)) else
      if fieldAt w 0 8 = 32 then some (.fsig (bitAt w 30) (bitAt w 22) (fieldAt w 15 7) (fieldAt w 8 7)) else none
  | 78 =>
      if fieldAt w 0 8 = 0 then some (.cvtfi (bitAt w 30) (bitAt w 22) (fieldAt w 15 7) (fieldAt w 8 7)) else
      if fieldAt w 0 8 = 2 then some (.cvtfiz (bitAt w 30) (bitAt w 22) (fieldAt w 15 7) (fieldAt w 8 7)) else
      if fieldAt w 0 8 = 4 then some (.cvtfn (bitAt w 30) (bitAt w 22) (fieldAt w 15 7) (fieldAt w 8 7)) else
      if fieldAt w 0 8 = 6 then some (.cvtif (bitAt w 30) (bitAt w 22) (fieldAt w 15 7) (fieldAt w 8 7)) else
      if fieldAt w 0 8 = 8 then some (.cvtnf (bitAt w 30) (bitAt w 22) (fieldAt w 15 7) (fieldAt w 8 7)) else
      if fieldAt w 0 8 = 10 then some (.cvtbf (bitAt w 30) (bitAt w 22) (fieldAt w 15 7) (fieldAt w 8 7)) else
      if fieldAt w 0 8 = 12 then some (.cvtbfh (bitAt w 30) (bitAt w 22) (fieldAt w 15 7) (fieldAt w 8 7)) else
      if fieldAt w 0 8 = 14 then some (.cvthf (bitAt w 30) (bitAt w 22) (fieldAt w 15 7) (fieldAt w 8 7)) else
      if fieldAt w 0 8 = 16 then some (.cvthfh (bitAt w 30) (bitAt w 22) (fieldAt w 15 7) (fieldAt w 8 7)) else none
  | 79 =>
      if fieldAt w 0 1 = 0 then some (.cvtfb (bitAt w 30) (bitAt w 22) (fieldAt w 15 7) (fieldAt w 8 7) (fieldAt w 1 7)) else none
  | 80 =>
      if fieldAt w 0 1 = 0 then some (.cvtfbs (bitAt w 30) (bitAt w 22) (fieldAt w 15 7) (fieldAt w 8 7) (fieldAt w 1 7)) else none
  | 81 =>
      if fieldAt w 0 1 = 0 then some (.cvtfh (bitAt w 30) (bitAt w 22) (fieldAt w 15 7) (fieldAt w 8 7) (fieldAt w 1 7)) else none
  | 82 =>
      if fieldAt w 0 1 = 0 then some (.badd2 (bitAt w 30) (bitAt w 22) (fieldAt w 15 7) (fieldAt w 8 7) (fieldAt w 1 7)) else none
  | 83 =>
      if fieldAt w 0 1 = 0 then some (.bmul2 (bitAt w 30) (bitAt w 22) (fieldAt w 15 7) (fieldAt w 8 7) (fieldAt w 1 7)) else none
  | 84 =>
      if fieldAt w 0 1 = 0 then some (.bfma2 (bitAt w 30) (bitAt w 22) (fieldAt w 15 7) (fieldAt w 8 7) (fieldAt w 1 7)) else none
  | 85 =>
      if fieldAt w 0 1 = 0 then some (.bmax2 (bitAt w 30) (bitAt w 22) (fieldAt w 15 7) (fieldAt w 8 7) (fieldAt w 1 7)) else none
  | 86 =>
      if fieldAt w 0 1 = 0 then some (.bmin2 (bitAt w 30) (bitAt w 22) (fieldAt w 15 7) (fieldAt w 8 7) (fieldAt w 1 7)) else none
  | 87 =>
      if fieldAt w 0 1 = 0 then some (.qntf8 (bitAt w 30) (bitAt w 22) (fieldAt w 15 7) (fieldAt w 8 7) (fieldAt w 1 7)) else none
  | 88 =>
      if fieldAt w 0 1 = 0 then some (.qntf6 (bitAt w 30) (bitAt w 22) (fieldAt w 15 7) (fieldAt w 8 7) (fieldAt w 1 7)) else none
  | 89 =>
      if fieldAt w 0 1 = 0 then some (.qntf4 (bitAt w 30) (bitAt w 22) (fieldAt w 15 7) (fieldAt w 8 7) (fieldAt w 1 7)) else none
  | 90 =>
      if fieldAt w 0 1 = 0 then some (.qnti8 (bitAt w 30) (bitAt w 22) (fieldAt w 15 7) (fieldAt w 8 7) (fieldAt w 1 7)) else none
  | 91 => some (.dqn (bitAt w 30) (bitAt w 22) (fieldAt w 15 7) (fieldAt w 8 7) (fieldAt w 0 8))
  | 92 =>
      if fieldAt w 0 1 = 0 then some (.rnd (bitAt w 30) (bitAt w 22) (fieldAt w 15 7) (fieldAt w 8 7) (fieldAt w 1 7)) else none
  | 96 =>
      if fieldAt w 0 1 = 0 then some (.shfl (bitAt w 30) (bitAt w 22) (fieldAt w 15 7) (fieldAt w 8 7) (fieldAt w 1 7)) else none
  | 97 => some (.shflu (bitAt w 30) (bitAt w 22) (fieldAt w 15 7) (fieldAt w 8 7) (fieldAt w 0 8))
  | 98 => some (.shfld (bitAt w 30) (bitAt w 22) (fieldAt w 15 7) (fieldAt w 8 7) (fieldAt w 0 8))
  | 99 => some (.shflx (bitAt w 30) (bitAt w 22) (fieldAt w 15 7) (fieldAt w 8 7) (fieldAt w 0 8))
  | 100 => some (.qex (bitAt w 30) (bitAt w 22) (fieldAt w 15 7) (fieldAt w 8 7) (fieldAt w 0 8))
  | 101 =>
      if fieldAt w 0 8 = 0 then some (.voteb (bitAt w 30) (bitAt w 22) (fieldAt w 15 7) (fieldAt w 8 7)) else none
  | 102 =>
      if fieldAt w 0 9 = 0 then some (.votean (bitAt w 30) (fieldAt w 16 7) (fieldAt w 9 7)) else none
  | 103 =>
      if fieldAt w 0 9 = 0 then some (.voteal (bitAt w 30) (fieldAt w 16 7) (fieldAt w 9 7)) else none
  | 104 => some (.gred (bitAt w 30) (bitAt w 22) (fieldAt w 15 7) (fieldAt w 8 7) (fieldAt w 0 8))
  | 105 => some (.gscan (bitAt w 30) (bitAt w 22) (fieldAt w 15 7) (fieldAt w 8 7) (fieldAt w 0 8))
  | 106 =>
      if fieldAt w 30 1 = 1 then some (.brk (fieldAt w 16 7) (bitAt w 15) (fieldAt w 0 15)) else none
  | 107 =>
      if fieldAt w 30 1 = 1 ∧ fieldAt w 15 8 = 0 ∧ fieldAt w 0 8 = 0 then some (.jmpi (fieldAt w 8 7)) else none
  | 108 =>
      if fieldAt w 30 1 = 1 ∧ fieldAt w 22 1 = 0 then some (.jmpt (fieldAt w 15 7) (fieldAt w 8 7) (fieldAt w 0 8)) else none
  | 109 =>
      if fieldAt w 30 1 = 1 ∧ fieldAt w 0 8 = 0 then some (.calli (bitAt w 22) (fieldAt w 15 7) (fieldAt w 8 7)) else none
  | 110 =>
      if fieldAt w 30 1 = 1 ∧ fieldAt w 8 15 = 0 then some (.wait (fieldAt w 0 8)) else none
  | 111 =>
      if fieldAt w 30 1 = 1 ∧ fieldAt w 0 23 = 0 then some (.exit) else none
  | 112 => some (.ld8 (bitAt w 30) (bitAt w 22) (fieldAt w 15 7) (fieldAt w 8 7) (fieldAt w 0 8))
  | 113 => some (.ld8s (bitAt w 30) (bitAt w 22) (fieldAt w 15 7) (fieldAt w 8 7) (fieldAt w 0 8))
  | 114 => some (.ld16 (bitAt w 30) (bitAt w 22) (fieldAt w 15 7) (fieldAt w 8 7) (fieldAt w 0 8))
  | 115 => some (.ld16s (bitAt w 30) (bitAt w 22) (fieldAt w 15 7) (fieldAt w 8 7) (fieldAt w 0 8))
  | 116 => some (.ld32 (bitAt w 30) (bitAt w 22) (fieldAt w 15 7) (fieldAt w 8 7) (fieldAt w 0 8))
  | 117 => some (.ld64 (bitAt w 30) (bitAt w 22) (fieldAt w 15 7) (fieldAt w 8 7) (fieldAt w 0 8))
  | 118 => some (.ld128 (bitAt w 30) (bitAt w 22) (fieldAt w 15 7) (fieldAt w 8 7) (fieldAt w 0 8))
  | 119 =>
      if fieldAt w 22 1 = 0 then some (.st8 (bitAt w 30) (fieldAt w 15 7) (fieldAt w 8 7) (fieldAt w 0 8)) else none
  | 120 =>
      if fieldAt w 22 1 = 0 then some (.st16 (bitAt w 30) (fieldAt w 15 7) (fieldAt w 8 7) (fieldAt w 0 8)) else none
  | 121 =>
      if fieldAt w 22 1 = 0 then some (.st32 (bitAt w 30) (fieldAt w 15 7) (fieldAt w 8 7) (fieldAt w 0 8)) else none
  | 122 =>
      if fieldAt w 22 1 = 0 then some (.st64 (bitAt w 30) (fieldAt w 15 7) (fieldAt w 8 7) (fieldAt w 0 8)) else none
  | 123 =>
      if fieldAt w 22 1 = 0 then some (.st128 (bitAt w 30) (fieldAt w 15 7) (fieldAt w 8 7) (fieldAt w 0 8)) else none
  | 124 =>
      if fieldAt w 30 1 = 1 ∧ fieldAt w 4 4 = 0 then some (.aadd (bitAt w 22) (fieldAt w 15 7) (fieldAt w 8 7) (fieldAt w 2 2) (fieldAt w 0 2)) else
      if fieldAt w 30 1 = 1 ∧ fieldAt w 4 4 = 1 then some (.aaddf (bitAt w 22) (fieldAt w 15 7) (fieldAt w 8 7) (fieldAt w 2 2) (fieldAt w 0 2)) else
      if fieldAt w 30 1 = 1 ∧ fieldAt w 4 4 = 2 then some (.aaddb2 (bitAt w 22) (fieldAt w 15 7) (fieldAt w 8 7) (fieldAt w 2 2) (fieldAt w 0 2)) else
      if fieldAt w 30 1 = 1 ∧ fieldAt w 4 4 = 3 then some (.amin (bitAt w 22) (fieldAt w 15 7) (fieldAt w 8 7) (fieldAt w 2 2) (fieldAt w 0 2)) else
      if fieldAt w 30 1 = 1 ∧ fieldAt w 4 4 = 4 then some (.amax (bitAt w 22) (fieldAt w 15 7) (fieldAt w 8 7) (fieldAt w 2 2) (fieldAt w 0 2)) else
      if fieldAt w 30 1 = 1 ∧ fieldAt w 4 4 = 5 then some (.aminn (bitAt w 22) (fieldAt w 15 7) (fieldAt w 8 7) (fieldAt w 2 2) (fieldAt w 0 2)) else
      if fieldAt w 30 1 = 1 ∧ fieldAt w 4 4 = 6 then some (.amaxn (bitAt w 22) (fieldAt w 15 7) (fieldAt w 8 7) (fieldAt w 2 2) (fieldAt w 0 2)) else
      if fieldAt w 30 1 = 1 ∧ fieldAt w 4 4 = 7 then some (.aand (bitAt w 22) (fieldAt w 15 7) (fieldAt w 8 7) (fieldAt w 2 2) (fieldAt w 0 2)) else
      if fieldAt w 30 1 = 1 ∧ fieldAt w 4 4 = 8 then some (.aor (bitAt w 22) (fieldAt w 15 7) (fieldAt w 8 7) (fieldAt w 2 2) (fieldAt w 0 2)) else
      if fieldAt w 30 1 = 1 ∧ fieldAt w 4 4 = 9 then some (.axor (bitAt w 22) (fieldAt w 15 7) (fieldAt w 8 7) (fieldAt w 2 2) (fieldAt w 0 2)) else
      if fieldAt w 30 1 = 1 ∧ fieldAt w 4 4 = 10 then some (.axch (bitAt w 22) (fieldAt w 15 7) (fieldAt w 8 7) (fieldAt w 2 2) (fieldAt w 0 2)) else
      if fieldAt w 30 1 = 1 ∧ fieldAt w 4 4 = 11 then some (.acas (bitAt w 22) (fieldAt w 15 7) (fieldAt w 8 7) (fieldAt w 2 2) (fieldAt w 0 2)) else
      if fieldAt w 30 1 = 1 ∧ fieldAt w 4 4 = 12 then some (.aaddx (bitAt w 22) (fieldAt w 15 7) (fieldAt w 8 7) (fieldAt w 2 2) (fieldAt w 0 2)) else
      if fieldAt w 30 1 = 1 ∧ fieldAt w 4 4 = 13 then some (.axchx (bitAt w 22) (fieldAt w 15 7) (fieldAt w 8 7) (fieldAt w 2 2) (fieldAt w 0 2)) else
      if fieldAt w 30 1 = 1 ∧ fieldAt w 4 4 = 14 then some (.acasx (bitAt w 22) (fieldAt w 15 7) (fieldAt w 8 7) (fieldAt w 2 2) (fieldAt w 0 2)) else none
  | 125 =>
      if fieldAt w 15 8 = 0 then some (.pfNormal (bitAt w 30) (fieldAt w 8 7) (fieldAt w 0 8)) else
      if fieldAt w 15 8 = 1 then some (.pfEvictFirst (bitAt w 30) (fieldAt w 8 7) (fieldAt w 0 8)) else
      if fieldAt w 15 8 = 2 then some (.pfEvictLast (bitAt w 30) (fieldAt w 8 7) (fieldAt w 0 8)) else
      if fieldAt w 15 8 = 3 then some (.pfLlcOnly (bitAt w 30) (fieldAt w 8 7) (fieldAt w 0 8)) else none
  | 126 =>
      if fieldAt w 0 1 = 0 then some (.stad (bitAt w 30) (bitAt w 22) (fieldAt w 15 7) (fieldAt w 8 7) (fieldAt w 1 7)) else none
  | 127 =>
      if fieldAt w 30 1 = 1 ∧ fieldAt w 15 8 = 0 ∧ fieldAt w 0 1 = 0 then some (.mxgo (fieldAt w 8 7) (fieldAt w 1 7)) else
      if fieldAt w 30 1 = 1 ∧ fieldAt w 15 8 = 1 ∧ fieldAt w 0 1 = 0 then some (.aego (fieldAt w 8 7) (fieldAt w 1 7)) else none
  | _ => none

/-- The U-set (R70), by major opcode. -/
def decodeU (w : Word) : Option Instr :=
  match (fieldAt w 23 7).toNat with
  | 0 =>
      if fieldAt w 0 1 = 0 then some (.uadd (bitAt w 30) (bitAt w 22) (fieldAt w 15 7) (fieldAt w 8 7) (fieldAt w 1 7)) else none
  | 1 =>
      if fieldAt w 0 1 = 0 then some (.usub (bitAt w 30) (bitAt w 22) (fieldAt w 15 7) (fieldAt w 8 7) (fieldAt w 1 7)) else none
  | 2 =>
      if fieldAt w 0 1 = 0 then some (.umul (bitAt w 30) (bitAt w 22) (fieldAt w 15 7) (fieldAt w 8 7) (fieldAt w 1 7)) else none
  | 3 =>
      if fieldAt w 0 1 = 0 then some (.uand (bitAt w 30) (bitAt w 22) (fieldAt w 15 7) (fieldAt w 8 7) (fieldAt w 1 7)) else none
  | 4 =>
      if fieldAt w 0 1 = 0 then some (.uor (bitAt w 30) (bitAt w 22) (fieldAt w 15 7) (fieldAt w 8 7) (fieldAt w 1 7)) else none
  | 5 =>
      if fieldAt w 0 1 = 0 then some (.uxor (bitAt w 30) (bitAt w 22) (fieldAt w 15 7) (fieldAt w 8 7) (fieldAt w 1 7)) else none
  | 6 =>
      if fieldAt w 0 1 = 0 then some (.ushl (bitAt w 30) (bitAt w 22) (fieldAt w 15 7) (fieldAt w 8 7) (fieldAt w 1 7)) else none
  | 7 =>
      if fieldAt w 0 1 = 0 then some (.ushr (bitAt w 30) (bitAt w 22) (fieldAt w 15 7) (fieldAt w 8 7) (fieldAt w 1 7)) else none
  | 8 =>
      if fieldAt w 0 1 = 0 then some (.usar (bitAt w 30) (bitAt w 22) (fieldAt w 15 7) (fieldAt w 8 7) (fieldAt w 1 7)) else none
  | 9 =>
      if fieldAt w 0 1 = 0 then some (.umin (bitAt w 30) (bitAt w 22) (fieldAt w 15 7) (fieldAt w 8 7) (fieldAt w 1 7)) else none
  | 10 =>
      if fieldAt w 0 1 = 0 then some (.umax (bitAt w 30) (bitAt w 22) (fieldAt w 15 7) (fieldAt w 8 7) (fieldAt w 1 7)) else none
  | 11 =>
      if fieldAt w 0 8 = 0 then some (.umov (bitAt w 30) (bitAt w 22) (fieldAt w 15 7) (fieldAt w 8 7)) else
      if fieldAt w 0 8 = 2 then some (.unot (bitAt w 30) (bitAt w 22) (fieldAt w 15 7) (fieldAt w 8 7)) else
      if fieldAt w 0 8 = 4 then some (.uneg (bitAt w 30) (bitAt w 22) (fieldAt w 15 7) (fieldAt w 8 7)) else
      if fieldAt w 0 8 = 6 then some (.uclz (bitAt w 30) (bitAt w 22) (fieldAt w 15 7) (fieldAt w 8 7)) else
      if fieldAt w 0 8 = 8 then some (.upopc (bitAt w 30) (bitAt w 22) (fieldAt w 15 7) (fieldAt w 8 7)) else none
  | 12 =>
      if fieldAt w 0 1 = 0 then some (.uaddx (bitAt w 30) (bitAt w 22) (fieldAt w 15 7) (fieldAt w 8 7) (fieldAt w 1 7)) else none
  | 13 =>
      if fieldAt w 0 1 = 0 then some (.umulwx (bitAt w 30) (bitAt w 22) (fieldAt w 15 7) (fieldAt w 8 7) (fieldAt w 1 7)) else none
  | 14 => some (.uaddi (bitAt w 30) (bitAt w 22) (fieldAt w 15 7) (fieldAt w 8 7) (fieldAt w 0 8))
  | 15 => some (.uandi (bitAt w 30) (bitAt w 22) (fieldAt w 15 7) (fieldAt w 8 7) (fieldAt w 0 8))
  | 16 => some (.uori (bitAt w 30) (bitAt w 22) (fieldAt w 15 7) (fieldAt w 8 7) (fieldAt w 0 8))
  | 17 => some (.ushli (bitAt w 30) (bitAt w 22) (fieldAt w 15 7) (fieldAt w 8 7) (fieldAt w 0 8))
  | 18 => some (.ushri (bitAt w 30) (bitAt w 22) (fieldAt w 15 7) (fieldAt w 8 7) (fieldAt w 0 8))
  | 19 => some (.uaddxi (bitAt w 30) (bitAt w 22) (fieldAt w 15 7) (fieldAt w 8 7) (fieldAt w 0 8))
  | 20 => some (.uldi (bitAt w 30) (fieldAt w 16 7) (fieldAt w 0 16))
  | 21 => some (.uldh (bitAt w 30) (fieldAt w 16 7) (fieldAt w 0 16))
  | 22 =>
      if fieldAt w 0 1 = 0 then some (.ucmpeq (bitAt w 30) (bitAt w 22) (fieldAt w 15 7) (fieldAt w 8 7) (fieldAt w 1 7)) else none
  | 23 =>
      if fieldAt w 0 1 = 0 then some (.ucmpne (bitAt w 30) (bitAt w 22) (fieldAt w 15 7) (fieldAt w 8 7) (fieldAt w 1 7)) else none
  | 24 =>
      if fieldAt w 0 1 = 0 then some (.ucmplt (bitAt w 30) (bitAt w 22) (fieldAt w 15 7) (fieldAt w 8 7) (fieldAt w 1 7)) else none
  | 25 =>
      if fieldAt w 0 1 = 0 then some (.ucmpltn (bitAt w 30) (bitAt w 22) (fieldAt w 15 7) (fieldAt w 8 7) (fieldAt w 1 7)) else none
  | 26 =>
      if fieldAt w 0 1 = 0 then some (.ucmpltx (bitAt w 30) (bitAt w 22) (fieldAt w 15 7) (fieldAt w 8 7) (fieldAt w 1 7)) else none
  | 27 =>
      if fieldAt w 0 8 = 0 then some (.rdl (bitAt w 30) (bitAt w 22) (fieldAt w 15 7) (fieldAt w 8 7)) else none
  | 32 =>
      if fieldAt w 30 1 = 1 then some (.ubra (fieldAt w 0 23)) else none
  | 33 =>
      if fieldAt w 30 1 = 1 then some (.ubz (fieldAt w 16 7) (fieldAt w 0 16)) else none
  | 34 =>
      if fieldAt w 30 1 = 1 then some (.ubnz (fieldAt w 16 7) (fieldAt w 0 16)) else none
  | 35 =>
      if fieldAt w 30 1 = 1 then some (.ucall (fieldAt w 0 23)) else none
  | 36 =>
      if fieldAt w 30 1 = 1 ∧ fieldAt w 15 8 = 0 ∧ fieldAt w 0 8 = 0 then some (.uret (fieldAt w 8 7)) else none
  | 37 =>
      if fieldAt w 30 1 = 1 ∧ fieldAt w 0 23 = 0 then some (.region) else none
  | 38 =>
      if fieldAt w 8 15 = 0 then some (.mset (bitAt w 30) (fieldAt w 0 8)) else none
  | 39 =>
      if fieldAt w 8 15 = 0 then some (.mclr (bitAt w 30) (fieldAt w 0 8)) else none
  | 40 =>
      if fieldAt w 30 1 = 1 ∧ fieldAt w 0 23 = 0 then some (.uexit) else none
  | 41 =>
      if fieldAt w 30 1 = 1 ∧ fieldAt w 0 23 = 0 then some (.bar) else none
  | 42 =>
      if fieldAt w 30 1 = 1 ∧ fieldAt w 0 23 = 0 then some (.barc) else none
  | 43 =>
      if fieldAt w 30 1 = 1 ∧ fieldAt w 5 18 = 0 then some (.phase (fieldAt w 2 3) (fieldAt w 0 2)) else none
  | 44 =>
      if fieldAt w 30 1 = 1 ∧ fieldAt w 0 23 = 0 then some (.ifence) else none
  | 45 =>
      if fieldAt w 0 23 = 0 then some (.unop (bitAt w 30)) else none
  | 48 =>
      if fieldAt w 30 1 = 1 ∧ fieldAt w 15 8 = 0 ∧ fieldAt w 0 3 = 0 then some (.push (fieldAt w 8 7) (fieldAt w 3 5)) else none
  | 49 =>
      if fieldAt w 30 1 = 1 ∧ fieldAt w 8 7 = 0 ∧ fieldAt w 0 3 = 0 then some (.pop (bitAt w 22) (fieldAt w 15 7) (fieldAt w 3 5)) else none
  | 50 =>
      if fieldAt w 30 1 = 1 ∧ fieldAt w 8 7 = 0 ∧ fieldAt w 0 3 = 0 then some (.qtry (bitAt w 22) (fieldAt w 15 7) (fieldAt w 3 5)) else none
  | 51 =>
      if fieldAt w 8 7 = 0 ∧ fieldAt w 0 3 = 0 then some (.qstat (bitAt w 30) (bitAt w 22) (fieldAt w 15 7) (fieldAt w 3 5)) else none
  | 52 =>
      if fieldAt w 30 1 = 1 ∧ fieldAt w 15 8 = 0 then some (.bwait (fieldAt w 8 7) (fieldAt w 0 8)) else none
  | 53 =>
      if fieldAt w 30 1 = 1 ∧ fieldAt w 0 1 = 0 then some (.bexp (bitAt w 22) (fieldAt w 15 7) (fieldAt w 8 7) (fieldAt w 1 7)) else none
  | 54 =>
      if fieldAt w 30 1 = 1 ∧ fieldAt w 0 8 = 0 then some (.barv (bitAt w 22) (fieldAt w 15 7) (fieldAt w 8 7)) else none
  | 55 =>
      if fieldAt w 30 1 = 1 then some (.cego (bitAt w 22) (fieldAt w 15 7) (fieldAt w 8 7) (fieldAt w 0 8)) else none
  | 56 =>
      if fieldAt w 30 1 = 1 ∧ fieldAt w 0 8 = 0 then some (.rego (bitAt w 22) (fieldAt w 15 7) (fieldAt w 8 7)) else none
  | 57 =>
      if fieldAt w 30 1 = 1 ∧ fieldAt w 0 1 = 0 then some (.splice (bitAt w 22) (fieldAt w 15 7) (fieldAt w 8 7) (fieldAt w 1 7)) else none
  | 58 =>
      if fieldAt w 30 1 = 1 ∧ fieldAt w 0 8 = 0 then some (.pin (bitAt w 22) (fieldAt w 15 7) (fieldAt w 8 7)) else none
  | 59 =>
      if fieldAt w 30 1 = 1 ∧ fieldAt w 0 8 = 0 then some (.unpin (bitAt w 22) (fieldAt w 15 7) (fieldAt w 8 7)) else none
  | 60 =>
      if fieldAt w 30 1 = 1 ∧ fieldAt w 0 8 = 0 then some (.drain (bitAt w 22) (fieldAt w 15 7) (fieldAt w 8 7)) else none
  | 61 =>
      if fieldAt w 30 1 = 1 ∧ fieldAt w 0 1 = 0 then some (.launch (bitAt w 22) (fieldAt w 15 7) (fieldAt w 8 7) (fieldAt w 1 7)) else none
  | 64 =>
      if fieldAt w 30 1 = 1 ∧ fieldAt w 8 15 = 0 then some (.trap (fieldAt w 0 8)) else none
  | 65 =>
      if fieldAt w 30 1 = 1 ∧ fieldAt w 0 23 = 0 then some (.eret) else none
  | 66 =>
      if fieldAt w 8 7 = 0 then some (.mfsr (bitAt w 30) (bitAt w 22) (fieldAt w 15 7) (fieldAt w 0 8)) else none
  | 67 =>
      if fieldAt w 30 1 = 1 ∧ fieldAt w 15 8 = 0 then some (.mtsr (fieldAt w 8 7) (fieldAt w 0 8)) else none
  | 68 =>
      if fieldAt w 8 7 = 0 then some (.fpev (bitAt w 30) (bitAt w 22) (fieldAt w 15 7) (fieldAt w 0 8)) else none
  | 69 =>
      if fieldAt w 8 7 = 0 then some (.errc (bitAt w 30) (bitAt w 22) (fieldAt w 15 7) (fieldAt w 0 8)) else none
  | 70 =>
      if fieldAt w 22 1 = 0 ∧ fieldAt w 0 15 = 0 then some (.cyc (bitAt w 30) (fieldAt w 15 7)) else none
  | 71 =>
      if fieldAt w 30 1 = 1 ∧ fieldAt w 8 15 = 0 then some (.bkpt (fieldAt w 0 8)) else none
  | 72 =>
      if fieldAt w 30 1 = 1 ∧ fieldAt w 0 8 = 0 then some (.apgo (bitAt w 22) (fieldAt w 15 7) (fieldAt w 8 7)) else none
  | 73 =>
      if fieldAt w 30 1 = 1 ∧ fieldAt w 0 1 = 0 then some (.tbld (bitAt w 22) (fieldAt w 15 7) (fieldAt w 8 7) (fieldAt w 1 7)) else none
  | _ => none

/-- The instruction a word holds, or none where R71 makes it an illegal instruction. -/
def decode (w : Word) : Option Instr :=
  (if bitAt w 31 then decodeU w else decodeV w).filter Instr.wellFormed

/-- A little-endian word from its four bytes, the lowest address first (R6). -/
def wordOfBytes (b0 b1 b2 b3 : Byte) : Word := b3 ++ b2 ++ b1 ++ b0

/-- The decoder on bytes as memory holds them; fewer than four bytes hold no instruction. -/
def decodeBytes : List Byte → Option (Instr × List Byte)
  | b0 :: b1 :: b2 :: b3 :: rest => (decode (wordOfBytes b0 b1 b2 b3)).map (·, rest)
  | _ => none

/-- Byte `k` of a table word, as the part stores it (R6). -/
def tableByte (w k : Nat) : Byte := BitVec.ofNat 8 (w >>> (8 * k))

/-- What the decoder reads from a table word of `nbits` bits; every instruction is one 32-bit word
(R60), so the bits above `nbits` are zero. -/
def decodeTableWord (nbits w : Nat) : Option Instr :=
  let v := w % 2 ^ nbits
  (decodeBytes [tableByte v 0, tableByte v 1, tableByte v 2, tableByte v 3]).map (·.1)

/-- The word of an encoded form (R61, R62); an event has none. -/
def encode : Instr → Option Word
  | .add e n d a b =>
      some (0#1 ++ BitVec.ofBool e ++ 0#7 ++ BitVec.ofBool n ++ d ++ a ++ b ++ 0#1)
  | .sub e n d a b =>
      some (0#1 ++ BitVec.ofBool e ++ 1#7 ++ BitVec.ofBool n ++ d ++ a ++ b ++ 0#1)
  | .mul e n d a b =>
      some (0#1 ++ BitVec.ofBool e ++ 2#7 ++ BitVec.ofBool n ++ d ++ a ++ b ++ 0#1)
  | .mulh e n d a b =>
      some (0#1 ++ BitVec.ofBool e ++ 3#7 ++ BitVec.ofBool n ++ d ++ a ++ b ++ 0#1)
  | .mulhn e n d a b =>
      some (0#1 ++ BitVec.ofBool e ++ 4#7 ++ BitVec.ofBool n ++ d ++ a ++ b ++ 0#1)
  | .and e n d a b =>
      some (0#1 ++ BitVec.ofBool e ++ 5#7 ++ BitVec.ofBool n ++ d ++ a ++ b ++ 0#1)
  | .or e n d a b =>
      some (0#1 ++ BitVec.ofBool e ++ 6#7 ++ BitVec.ofBool n ++ d ++ a ++ b ++ 0#1)
  | .xor e n d a b =>
      some (0#1 ++ BitVec.ofBool e ++ 7#7 ++ BitVec.ofBool n ++ d ++ a ++ b ++ 0#1)
  | .andn e n d a b =>
      some (0#1 ++ BitVec.ofBool e ++ 8#7 ++ BitVec.ofBool n ++ d ++ a ++ b ++ 0#1)
  | .shl e n d a b =>
      some (0#1 ++ BitVec.ofBool e ++ 9#7 ++ BitVec.ofBool n ++ d ++ a ++ b ++ 0#1)
  | .shr e n d a b =>
      some (0#1 ++ BitVec.ofBool e ++ 10#7 ++ BitVec.ofBool n ++ d ++ a ++ b ++ 0#1)
  | .sar e n d a b =>
      some (0#1 ++ BitVec.ofBool e ++ 11#7 ++ BitVec.ofBool n ++ d ++ a ++ b ++ 0#1)
  | .min e n d a b =>
      some (0#1 ++ BitVec.ofBool e ++ 12#7 ++ BitVec.ofBool n ++ d ++ a ++ b ++ 0#1)
  | .max e n d a b =>
      some (0#1 ++ BitVec.ofBool e ++ 13#7 ++ BitVec.ofBool n ++ d ++ a ++ b ++ 0#1)
  | .minn e n d a b =>
      some (0#1 ++ BitVec.ofBool e ++ 14#7 ++ BitVec.ofBool n ++ d ++ a ++ b ++ 0#1)
  | .maxn e n d a b =>
      some (0#1 ++ BitVec.ofBool e ++ 15#7 ++ BitVec.ofBool n ++ d ++ a ++ b ++ 0#1)
  | .addsat e n d a b =>
      some (0#1 ++ BitVec.ofBool e ++ 16#7 ++ BitVec.ofBool n ++ d ++ a ++ b ++ 0#1)
  | .subsat e n d a b =>
      some (0#1 ++ BitVec.ofBool e ++ 17#7 ++ BitVec.ofBool n ++ d ++ a ++ b ++ 0#1)
  | .addsatn e n d a b =>
      some (0#1 ++ BitVec.ofBool e ++ 18#7 ++ BitVec.ofBool n ++ d ++ a ++ b ++ 0#1)
  | .subsatn e n d a b =>
      some (0#1 ++ BitVec.ofBool e ++ 19#7 ++ BitVec.ofBool n ++ d ++ a ++ b ++ 0#1)
  | .absd e n d a b =>
      some (0#1 ++ BitVec.ofBool e ++ 20#7 ++ BitVec.ofBool n ++ d ++ a ++ b ++ 0#1)
  | .bfx e n d a b =>
      some (0#1 ++ BitVec.ofBool e ++ 21#7 ++ BitVec.ofBool n ++ d ++ a ++ b ++ 0#1)
  | .bfxn e n d a b =>
      some (0#1 ++ BitVec.ofBool e ++ 22#7 ++ BitVec.ofBool n ++ d ++ a ++ b ++ 0#1)
  | .bfi e n d a b =>
      some (0#1 ++ BitVec.ofBool e ++ 23#7 ++ BitVec.ofBool n ++ d ++ a ++ b ++ 0#1)
  | .sel e n d a p =>
      some (0#1 ++ BitVec.ofBool e ++ 24#7 ++ BitVec.ofBool n ++ d ++ a ++ p ++ 0#1)
  | .mov e n d a =>
      some (0#1 ++ BitVec.ofBool e ++ 25#7 ++ BitVec.ofBool n ++ d ++ a ++ 0#8)
  | .not e n d a =>
      some (0#1 ++ BitVec.ofBool e ++ 25#7 ++ BitVec.ofBool n ++ d ++ a ++ 2#8)
  | .neg e n d a =>
      some (0#1 ++ BitVec.ofBool e ++ 25#7 ++ BitVec.ofBool n ++ d ++ a ++ 4#8)
  | .abs e n d a =>
      some (0#1 ++ BitVec.ofBool e ++ 25#7 ++ BitVec.ofBool n ++ d ++ a ++ 6#8)
  | .clz e n d a =>
      some (0#1 ++ BitVec.ofBool e ++ 25#7 ++ BitVec.ofBool n ++ d ++ a ++ 8#8)
  | .popc e n d a =>
      some (0#1 ++ BitVec.ofBool e ++ 25#7 ++ BitVec.ofBool n ++ d ++ a ++ 10#8)
  | .brev e n d a =>
      some (0#1 ++ BitVec.ofBool e ++ 25#7 ++ BitVec.ofBool n ++ d ++ a ++ 12#8)
  | .sextb e n d a =>
      some (0#1 ++ BitVec.ofBool e ++ 25#7 ++ BitVec.ofBool n ++ d ++ a ++ 14#8)
  | .sexth e n d a =>
      some (0#1 ++ BitVec.ofBool e ++ 25#7 ++ BitVec.ofBool n ++ d ++ a ++ 16#8)
  | .zextb e n d a =>
      some (0#1 ++ BitVec.ofBool e ++ 25#7 ++ BitVec.ofBool n ++ d ++ a ++ 18#8)
  | .zexth e n d a =>
      some (0#1 ++ BitVec.ofBool e ++ 25#7 ++ BitVec.ofBool n ++ d ++ a ++ 20#8)
  | .addx e n d a b =>
      some (0#1 ++ BitVec.ofBool e ++ 26#7 ++ BitVec.ofBool n ++ d ++ a ++ b ++ 0#1)
  | .subx e n d a b =>
      some (0#1 ++ BitVec.ofBool e ++ 27#7 ++ BitVec.ofBool n ++ d ++ a ++ b ++ 0#1)
  | .mulwx e n d a b =>
      some (0#1 ++ BitVec.ofBool e ++ 28#7 ++ BitVec.ofBool n ++ d ++ a ++ b ++ 0#1)
  | .mulwxn e n d a b =>
      some (0#1 ++ BitVec.ofBool e ++ 29#7 ++ BitVec.ofBool n ++ d ++ a ++ b ++ 0#1)
  | .leax e n d a b =>
      some (0#1 ++ BitVec.ofBool e ++ 30#7 ++ BitVec.ofBool n ++ d ++ a ++ b ++ 0#1)
  | .addxi e n d a i =>
      some (0#1 ++ BitVec.ofBool e ++ 31#7 ++ BitVec.ofBool n ++ d ++ a ++ i)
  | .addi e n d a i =>
      some (0#1 ++ BitVec.ofBool e ++ 32#7 ++ BitVec.ofBool n ++ d ++ a ++ i)
  | .andi e n d a i =>
      some (0#1 ++ BitVec.ofBool e ++ 33#7 ++ BitVec.ofBool n ++ d ++ a ++ i)
  | .ori e n d a i =>
      some (0#1 ++ BitVec.ofBool e ++ 34#7 ++ BitVec.ofBool n ++ d ++ a ++ i)
  | .xori e n d a i =>
      some (0#1 ++ BitVec.ofBool e ++ 35#7 ++ BitVec.ofBool n ++ d ++ a ++ i)
  | .shli e n d a i =>
      some (0#1 ++ BitVec.ofBool e ++ 36#7 ++ BitVec.ofBool n ++ d ++ a ++ i)
  | .shri e n d a i =>
      some (0#1 ++ BitVec.ofBool e ++ 37#7 ++ BitVec.ofBool n ++ d ++ a ++ i)
  | .sari e n d a i =>
      some (0#1 ++ BitVec.ofBool e ++ 38#7 ++ BitVec.ofBool n ++ d ++ a ++ i)
  | .muli e n d a i =>
      some (0#1 ++ BitVec.ofBool e ++ 39#7 ++ BitVec.ofBool n ++ d ++ a ++ i)
  | .ldi e d i =>
      some (0#1 ++ BitVec.ofBool e ++ 40#7 ++ d ++ i)
  | .ldh e d i =>
      some (0#1 ++ BitVec.ofBool e ++ 41#7 ++ d ++ i)
  | .cmpeq e k a b =>
      some (0#1 ++ BitVec.ofBool e ++ 48#7 ++ k ++ a ++ b ++ 0#2)
  | .cmpne e k a b =>
      some (0#1 ++ BitVec.ofBool e ++ 49#7 ++ k ++ a ++ b ++ 0#2)
  | .cmplt e k a b =>
      some (0#1 ++ BitVec.ofBool e ++ 50#7 ++ k ++ a ++ b ++ 0#2)
  | .cmple e k a b =>
      some (0#1 ++ BitVec.ofBool e ++ 51#7 ++ k ++ a ++ b ++ 0#2)
  | .cmpltn e k a b =>
      some (0#1 ++ BitVec.ofBool e ++ 52#7 ++ k ++ a ++ b ++ 0#2)
  | .cmplen e k a b =>
      some (0#1 ++ BitVec.ofBool e ++ 53#7 ++ k ++ a ++ b ++ 0#2)
  | .cmpeqi e k a i =>
      some (0#1 ++ BitVec.ofBool e ++ 54#7 ++ k ++ a ++ i ++ 0#2)
  | .cmplti e k a i =>
      some (0#1 ++ BitVec.ofBool e ++ 55#7 ++ k ++ a ++ i ++ 0#2)
  | .cmpltni e k a i =>
      some (0#1 ++ BitVec.ofBool e ++ 56#7 ++ k ++ a ++ i ++ 0#2)
  | .cmpltx e k a b =>
      some (0#1 ++ BitVec.ofBool e ++ 57#7 ++ k ++ a ++ b ++ 0#2)
  | .cmpeqx e k a b =>
      some (0#1 ++ BitVec.ofBool e ++ 58#7 ++ k ++ a ++ b ++ 0#2)
  | .kand e k a b =>
      some (0#1 ++ BitVec.ofBool e ++ 59#7 ++ k ++ a ++ b ++ 0#2)
  | .kor e k a b =>
      some (0#1 ++ BitVec.ofBool e ++ 59#7 ++ k ++ a ++ b ++ 1#2)
  | .kxor e k a b =>
      some (0#1 ++ BitVec.ofBool e ++ 59#7 ++ k ++ a ++ b ++ 2#2)
  | .kandn e k a b =>
      some (0#1 ++ BitVec.ofBool e ++ 59#7 ++ k ++ a ++ b ++ 3#2)
  | .kset e k a i =>
      some (0#1 ++ BitVec.ofBool e ++ 60#7 ++ k ++ a ++ 0#2 ++ i ++ 0#2)
  | .kget e n d k =>
      some (0#1 ++ BitVec.ofBool e ++ 61#7 ++ BitVec.ofBool n ++ d ++ k ++ 0#8)
  | .fadd e n d a b =>
      some (0#1 ++ BitVec.ofBool e ++ 64#7 ++ BitVec.ofBool n ++ d ++ a ++ b ++ 0#1)
  | .fsub e n d a b =>
      some (0#1 ++ BitVec.ofBool e ++ 65#7 ++ BitVec.ofBool n ++ d ++ a ++ b ++ 0#1)
  | .fmul e n d a b =>
      some (0#1 ++ BitVec.ofBool e ++ 66#7 ++ BitVec.ofBool n ++ d ++ a ++ b ++ 0#1)
  | .ffma e n d a b =>
      some (0#1 ++ BitVec.ofBool e ++ 67#7 ++ BitVec.ofBool n ++ d ++ a ++ b ++ 0#1)
  | .fmin e n d a b =>
      some (0#1 ++ BitVec.ofBool e ++ 68#7 ++ BitVec.ofBool n ++ d ++ a ++ b ++ 0#1)
  | .fmax e n d a b =>
      some (0#1 ++ BitVec.ofBool e ++ 69#7 ++ BitVec.ofBool n ++ d ++ a ++ b ++ 0#1)
  | .faddz e n d a b =>
      some (0#1 ++ BitVec.ofBool e ++ 70#7 ++ BitVec.ofBool n ++ d ++ a ++ b ++ 0#1)
  | .fmulz e n d a b =>
      some (0#1 ++ BitVec.ofBool e ++ 71#7 ++ BitVec.ofBool n ++ d ++ a ++ b ++ 0#1)
  | .ffmaz e n d a b =>
      some (0#1 ++ BitVec.ofBool e ++ 72#7 ++ BitVec.ofBool n ++ d ++ a ++ b ++ 0#1)
  | .fcmpeq e k a b =>
      some (0#1 ++ BitVec.ofBool e ++ 73#7 ++ k ++ a ++ b ++ 0#2)
  | .fcmplt e k a b =>
      some (0#1 ++ BitVec.ofBool e ++ 74#7 ++ k ++ a ++ b ++ 0#2)
  | .fcmple e k a b =>
      some (0#1 ++ BitVec.ofBool e ++ 75#7 ++ k ++ a ++ b ++ 0#2)
  | .fcmpun e k a b =>
      some (0#1 ++ BitVec.ofBool e ++ 76#7 ++ k ++ a ++ b ++ 0#2)
  | .fabs e n d a =>
      some (0#1 ++ BitVec.ofBool e ++ 77#7 ++ BitVec.ofBool n ++ d ++ a ++ 0#8)
  | .fneg e n d a =>
      some (0#1 ++ BitVec.ofBool e ++ 77#7 ++ BitVec.ofBool n ++ d ++ a ++ 2#8)
  | .ffloor e n d a =>
      some (0#1 ++ BitVec.ofBool e ++ 77#7 ++ BitVec.ofBool n ++ d ++ a ++ 4#8)
  | .fceil e n d a =>
      some (0#1 ++ BitVec.ofBool e ++ 77#7 ++ BitVec.ofBool n ++ d ++ a ++ 6#8)
  | .frint e n d a =>
      some (0#1 ++ BitVec.ofBool e ++ 77#7 ++ BitVec.ofBool n ++ d ++ a ++ 8#8)
  | .ftrunc e n d a =>
      some (0#1 ++ BitVec.ofBool e ++ 77#7 ++ BitVec.ofBool n ++ d ++ a ++ 10#8)
  | .fexp2 e n d a =>
      some (0#1 ++ BitVec.ofBool e ++ 77#7 ++ BitVec.ofBool n ++ d ++ a ++ 16#8)
  | .flog2 e n d a =>
      some (0#1 ++ BitVec.ofBool e ++ 77#7 ++ BitVec.ofBool n ++ d ++ a ++ 18#8)
  | .frcp e n d a =>
      some (0#1 ++ BitVec.ofBool e ++ 77#7 ++ BitVec.ofBool n ++ d ++ a ++ 20#8)
  | .frsq e n d a =>
      some (0#1 ++ BitVec.ofBool e ++ 77#7 ++ BitVec.ofBool n ++ d ++ a ++ 22#8)
  | .fsqrt e n d a =>
      some (0#1 ++ BitVec.ofBool e ++ 77#7 ++ BitVec.ofBool n ++ d ++ a ++ 24#8)
  | .fsinp e n d a =>
      some (0#1 ++ BitVec.ofBool e ++ 77#7 ++ BitVec.ofBool n ++ d ++ a ++ 26#8)
  | .fcosp e n d a =>
      some (0#1 ++ BitVec.ofBool e ++ 77#7 ++ BitVec.ofBool n ++ d ++ a ++ 28#8)
  | .ftanh e n d a =>
      some (0#1 ++ BitVec.ofBool e ++ 77#7 ++ BitVec.ofBool n ++ d ++ a ++ 30#8)
  | .fsig e n d a =>
      some (0#1 ++ BitVec.ofBool e ++ 77#7 ++ BitVec.ofBool n ++ d ++ a ++ 32#8)
  | .cvtfi e n d a =>
      some (0#1 ++ BitVec.ofBool e ++ 78#7 ++ BitVec.ofBool n ++ d ++ a ++ 0#8)
  | .cvtfiz e n d a =>
      some (0#1 ++ BitVec.ofBool e ++ 78#7 ++ BitVec.ofBool n ++ d ++ a ++ 2#8)
  | .cvtfn e n d a =>
      some (0#1 ++ BitVec.ofBool e ++ 78#7 ++ BitVec.ofBool n ++ d ++ a ++ 4#8)
  | .cvtif e n d a =>
      some (0#1 ++ BitVec.ofBool e ++ 78#7 ++ BitVec.ofBool n ++ d ++ a ++ 6#8)
  | .cvtnf e n d a =>
      some (0#1 ++ BitVec.ofBool e ++ 78#7 ++ BitVec.ofBool n ++ d ++ a ++ 8#8)
  | .cvtbf e n d a =>
      some (0#1 ++ BitVec.ofBool e ++ 78#7 ++ BitVec.ofBool n ++ d ++ a ++ 10#8)
  | .cvtbfh e n d a =>
      some (0#1 ++ BitVec.ofBool e ++ 78#7 ++ BitVec.ofBool n ++ d ++ a ++ 12#8)
  | .cvthf e n d a =>
      some (0#1 ++ BitVec.ofBool e ++ 78#7 ++ BitVec.ofBool n ++ d ++ a ++ 14#8)
  | .cvthfh e n d a =>
      some (0#1 ++ BitVec.ofBool e ++ 78#7 ++ BitVec.ofBool n ++ d ++ a ++ 16#8)
  | .cvtfb e n d a b =>
      some (0#1 ++ BitVec.ofBool e ++ 79#7 ++ BitVec.ofBool n ++ d ++ a ++ b ++ 0#1)
  | .cvtfbs e n d a b =>
      some (0#1 ++ BitVec.ofBool e ++ 80#7 ++ BitVec.ofBool n ++ d ++ a ++ b ++ 0#1)
  | .cvtfh e n d a b =>
      some (0#1 ++ BitVec.ofBool e ++ 81#7 ++ BitVec.ofBool n ++ d ++ a ++ b ++ 0#1)
  | .badd2 e n d a b =>
      some (0#1 ++ BitVec.ofBool e ++ 82#7 ++ BitVec.ofBool n ++ d ++ a ++ b ++ 0#1)
  | .bmul2 e n d a b =>
      some (0#1 ++ BitVec.ofBool e ++ 83#7 ++ BitVec.ofBool n ++ d ++ a ++ b ++ 0#1)
  | .bfma2 e n d a b =>
      some (0#1 ++ BitVec.ofBool e ++ 84#7 ++ BitVec.ofBool n ++ d ++ a ++ b ++ 0#1)
  | .bmax2 e n d a b =>
      some (0#1 ++ BitVec.ofBool e ++ 85#7 ++ BitVec.ofBool n ++ d ++ a ++ b ++ 0#1)
  | .bmin2 e n d a b =>
      some (0#1 ++ BitVec.ofBool e ++ 86#7 ++ BitVec.ofBool n ++ d ++ a ++ b ++ 0#1)
  | .qntf8 e n d a b =>
      some (0#1 ++ BitVec.ofBool e ++ 87#7 ++ BitVec.ofBool n ++ d ++ a ++ b ++ 0#1)
  | .qntf6 e n d a b =>
      some (0#1 ++ BitVec.ofBool e ++ 88#7 ++ BitVec.ofBool n ++ d ++ a ++ b ++ 0#1)
  | .qntf4 e n d a b =>
      some (0#1 ++ BitVec.ofBool e ++ 89#7 ++ BitVec.ofBool n ++ d ++ a ++ b ++ 0#1)
  | .qnti8 e n d a b =>
      some (0#1 ++ BitVec.ofBool e ++ 90#7 ++ BitVec.ofBool n ++ d ++ a ++ b ++ 0#1)
  | .dqn e n d a i =>
      some (0#1 ++ BitVec.ofBool e ++ 91#7 ++ BitVec.ofBool n ++ d ++ a ++ i)
  | .rnd e n d a b =>
      some (0#1 ++ BitVec.ofBool e ++ 92#7 ++ BitVec.ofBool n ++ d ++ a ++ b ++ 0#1)
  | .shfl e n d a b =>
      some (0#1 ++ BitVec.ofBool e ++ 96#7 ++ BitVec.ofBool n ++ d ++ a ++ b ++ 0#1)
  | .shflu e n d a i =>
      some (0#1 ++ BitVec.ofBool e ++ 97#7 ++ BitVec.ofBool n ++ d ++ a ++ i)
  | .shfld e n d a i =>
      some (0#1 ++ BitVec.ofBool e ++ 98#7 ++ BitVec.ofBool n ++ d ++ a ++ i)
  | .shflx e n d a i =>
      some (0#1 ++ BitVec.ofBool e ++ 99#7 ++ BitVec.ofBool n ++ d ++ a ++ i)
  | .qex e n d a i =>
      some (0#1 ++ BitVec.ofBool e ++ 100#7 ++ BitVec.ofBool n ++ d ++ a ++ i)
  | .voteb e n d a =>
      some (0#1 ++ BitVec.ofBool e ++ 101#7 ++ BitVec.ofBool n ++ d ++ a ++ 0#8)
  | .votean e k a =>
      some (0#1 ++ BitVec.ofBool e ++ 102#7 ++ k ++ a ++ 0#9)
  | .voteal e k a =>
      some (0#1 ++ BitVec.ofBool e ++ 103#7 ++ k ++ a ++ 0#9)
  | .gred e n d a i =>
      some (0#1 ++ BitVec.ofBool e ++ 104#7 ++ BitVec.ofBool n ++ d ++ a ++ i)
  | .gscan e n d a i =>
      some (0#1 ++ BitVec.ofBool e ++ 105#7 ++ BitVec.ofBool n ++ d ++ a ++ i)
  | .brk k t d =>
      some (0#1 ++ 1#1 ++ 106#7 ++ k ++ BitVec.ofBool t ++ d)
  | .jmpi a =>
      some (0#1 ++ 1#1 ++ 107#7 ++ 0#8 ++ a ++ 0#8)
  | .jmpt d a i =>
      some (0#1 ++ 1#1 ++ 108#7 ++ 0#1 ++ d ++ a ++ i)
  | .calli n d a =>
      some (0#1 ++ 1#1 ++ 109#7 ++ BitVec.ofBool n ++ d ++ a ++ 0#8)
  | .wait i =>
      some (0#1 ++ 1#1 ++ 110#7 ++ 0#15 ++ i)
  | .exit =>
      some (0#1 ++ 1#1 ++ 111#7 ++ 0#23)
  | .ld8 e n d a o =>
      some (0#1 ++ BitVec.ofBool e ++ 112#7 ++ BitVec.ofBool n ++ d ++ a ++ o)
  | .ld8s e n d a o =>
      some (0#1 ++ BitVec.ofBool e ++ 113#7 ++ BitVec.ofBool n ++ d ++ a ++ o)
  | .ld16 e n d a o =>
      some (0#1 ++ BitVec.ofBool e ++ 114#7 ++ BitVec.ofBool n ++ d ++ a ++ o)
  | .ld16s e n d a o =>
      some (0#1 ++ BitVec.ofBool e ++ 115#7 ++ BitVec.ofBool n ++ d ++ a ++ o)
  | .ld32 e n d a o =>
      some (0#1 ++ BitVec.ofBool e ++ 116#7 ++ BitVec.ofBool n ++ d ++ a ++ o)
  | .ld64 e n d a o =>
      some (0#1 ++ BitVec.ofBool e ++ 117#7 ++ BitVec.ofBool n ++ d ++ a ++ o)
  | .ld128 e n d a o =>
      some (0#1 ++ BitVec.ofBool e ++ 118#7 ++ BitVec.ofBool n ++ d ++ a ++ o)
  | .st8 e d a o =>
      some (0#1 ++ BitVec.ofBool e ++ 119#7 ++ 0#1 ++ d ++ a ++ o)
  | .st16 e d a o =>
      some (0#1 ++ BitVec.ofBool e ++ 120#7 ++ 0#1 ++ d ++ a ++ o)
  | .st32 e d a o =>
      some (0#1 ++ BitVec.ofBool e ++ 121#7 ++ 0#1 ++ d ++ a ++ o)
  | .st64 e d a o =>
      some (0#1 ++ BitVec.ofBool e ++ 122#7 ++ 0#1 ++ d ++ a ++ o)
  | .st128 e d a o =>
      some (0#1 ++ BitVec.ofBool e ++ 123#7 ++ 0#1 ++ d ++ a ++ o)
  | .aadd n d a s r =>
      some (0#1 ++ 1#1 ++ 124#7 ++ BitVec.ofBool n ++ d ++ a ++ 0#4 ++ s ++ r)
  | .aaddf n d a s r =>
      some (0#1 ++ 1#1 ++ 124#7 ++ BitVec.ofBool n ++ d ++ a ++ 1#4 ++ s ++ r)
  | .aaddb2 n d a s r =>
      some (0#1 ++ 1#1 ++ 124#7 ++ BitVec.ofBool n ++ d ++ a ++ 2#4 ++ s ++ r)
  | .amin n d a s r =>
      some (0#1 ++ 1#1 ++ 124#7 ++ BitVec.ofBool n ++ d ++ a ++ 3#4 ++ s ++ r)
  | .amax n d a s r =>
      some (0#1 ++ 1#1 ++ 124#7 ++ BitVec.ofBool n ++ d ++ a ++ 4#4 ++ s ++ r)
  | .aminn n d a s r =>
      some (0#1 ++ 1#1 ++ 124#7 ++ BitVec.ofBool n ++ d ++ a ++ 5#4 ++ s ++ r)
  | .amaxn n d a s r =>
      some (0#1 ++ 1#1 ++ 124#7 ++ BitVec.ofBool n ++ d ++ a ++ 6#4 ++ s ++ r)
  | .aand n d a s r =>
      some (0#1 ++ 1#1 ++ 124#7 ++ BitVec.ofBool n ++ d ++ a ++ 7#4 ++ s ++ r)
  | .aor n d a s r =>
      some (0#1 ++ 1#1 ++ 124#7 ++ BitVec.ofBool n ++ d ++ a ++ 8#4 ++ s ++ r)
  | .axor n d a s r =>
      some (0#1 ++ 1#1 ++ 124#7 ++ BitVec.ofBool n ++ d ++ a ++ 9#4 ++ s ++ r)
  | .axch n d a s r =>
      some (0#1 ++ 1#1 ++ 124#7 ++ BitVec.ofBool n ++ d ++ a ++ 10#4 ++ s ++ r)
  | .acas n d a s r =>
      some (0#1 ++ 1#1 ++ 124#7 ++ BitVec.ofBool n ++ d ++ a ++ 11#4 ++ s ++ r)
  | .aaddx n d a s r =>
      some (0#1 ++ 1#1 ++ 124#7 ++ BitVec.ofBool n ++ d ++ a ++ 12#4 ++ s ++ r)
  | .axchx n d a s r =>
      some (0#1 ++ 1#1 ++ 124#7 ++ BitVec.ofBool n ++ d ++ a ++ 13#4 ++ s ++ r)
  | .acasx n d a s r =>
      some (0#1 ++ 1#1 ++ 124#7 ++ BitVec.ofBool n ++ d ++ a ++ 14#4 ++ s ++ r)
  | .pfNormal e a o =>
      some (0#1 ++ BitVec.ofBool e ++ 125#7 ++ 0#8 ++ a ++ o)
  | .pfEvictFirst e a o =>
      some (0#1 ++ BitVec.ofBool e ++ 125#7 ++ 1#8 ++ a ++ o)
  | .pfEvictLast e a o =>
      some (0#1 ++ BitVec.ofBool e ++ 125#7 ++ 2#8 ++ a ++ o)
  | .pfLlcOnly e a o =>
      some (0#1 ++ BitVec.ofBool e ++ 125#7 ++ 3#8 ++ a ++ o)
  | .stad e n d a b =>
      some (0#1 ++ BitVec.ofBool e ++ 126#7 ++ BitVec.ofBool n ++ d ++ a ++ b ++ 0#1)
  | .mxgo a b =>
      some (0#1 ++ 1#1 ++ 127#7 ++ 0#8 ++ a ++ b ++ 0#1)
  | .aego a b =>
      some (0#1 ++ 1#1 ++ 127#7 ++ 1#8 ++ a ++ b ++ 0#1)
  | .uadd e n d a b =>
      some (1#1 ++ BitVec.ofBool e ++ 0#7 ++ BitVec.ofBool n ++ d ++ a ++ b ++ 0#1)
  | .usub e n d a b =>
      some (1#1 ++ BitVec.ofBool e ++ 1#7 ++ BitVec.ofBool n ++ d ++ a ++ b ++ 0#1)
  | .umul e n d a b =>
      some (1#1 ++ BitVec.ofBool e ++ 2#7 ++ BitVec.ofBool n ++ d ++ a ++ b ++ 0#1)
  | .uand e n d a b =>
      some (1#1 ++ BitVec.ofBool e ++ 3#7 ++ BitVec.ofBool n ++ d ++ a ++ b ++ 0#1)
  | .uor e n d a b =>
      some (1#1 ++ BitVec.ofBool e ++ 4#7 ++ BitVec.ofBool n ++ d ++ a ++ b ++ 0#1)
  | .uxor e n d a b =>
      some (1#1 ++ BitVec.ofBool e ++ 5#7 ++ BitVec.ofBool n ++ d ++ a ++ b ++ 0#1)
  | .ushl e n d a b =>
      some (1#1 ++ BitVec.ofBool e ++ 6#7 ++ BitVec.ofBool n ++ d ++ a ++ b ++ 0#1)
  | .ushr e n d a b =>
      some (1#1 ++ BitVec.ofBool e ++ 7#7 ++ BitVec.ofBool n ++ d ++ a ++ b ++ 0#1)
  | .usar e n d a b =>
      some (1#1 ++ BitVec.ofBool e ++ 8#7 ++ BitVec.ofBool n ++ d ++ a ++ b ++ 0#1)
  | .umin e n d a b =>
      some (1#1 ++ BitVec.ofBool e ++ 9#7 ++ BitVec.ofBool n ++ d ++ a ++ b ++ 0#1)
  | .umax e n d a b =>
      some (1#1 ++ BitVec.ofBool e ++ 10#7 ++ BitVec.ofBool n ++ d ++ a ++ b ++ 0#1)
  | .umov e n d a =>
      some (1#1 ++ BitVec.ofBool e ++ 11#7 ++ BitVec.ofBool n ++ d ++ a ++ 0#8)
  | .unot e n d a =>
      some (1#1 ++ BitVec.ofBool e ++ 11#7 ++ BitVec.ofBool n ++ d ++ a ++ 2#8)
  | .uneg e n d a =>
      some (1#1 ++ BitVec.ofBool e ++ 11#7 ++ BitVec.ofBool n ++ d ++ a ++ 4#8)
  | .uclz e n d a =>
      some (1#1 ++ BitVec.ofBool e ++ 11#7 ++ BitVec.ofBool n ++ d ++ a ++ 6#8)
  | .upopc e n d a =>
      some (1#1 ++ BitVec.ofBool e ++ 11#7 ++ BitVec.ofBool n ++ d ++ a ++ 8#8)
  | .uaddx e n d a b =>
      some (1#1 ++ BitVec.ofBool e ++ 12#7 ++ BitVec.ofBool n ++ d ++ a ++ b ++ 0#1)
  | .umulwx e n d a b =>
      some (1#1 ++ BitVec.ofBool e ++ 13#7 ++ BitVec.ofBool n ++ d ++ a ++ b ++ 0#1)
  | .uaddi e n d a i =>
      some (1#1 ++ BitVec.ofBool e ++ 14#7 ++ BitVec.ofBool n ++ d ++ a ++ i)
  | .uandi e n d a i =>
      some (1#1 ++ BitVec.ofBool e ++ 15#7 ++ BitVec.ofBool n ++ d ++ a ++ i)
  | .uori e n d a i =>
      some (1#1 ++ BitVec.ofBool e ++ 16#7 ++ BitVec.ofBool n ++ d ++ a ++ i)
  | .ushli e n d a i =>
      some (1#1 ++ BitVec.ofBool e ++ 17#7 ++ BitVec.ofBool n ++ d ++ a ++ i)
  | .ushri e n d a i =>
      some (1#1 ++ BitVec.ofBool e ++ 18#7 ++ BitVec.ofBool n ++ d ++ a ++ i)
  | .uaddxi e n d a i =>
      some (1#1 ++ BitVec.ofBool e ++ 19#7 ++ BitVec.ofBool n ++ d ++ a ++ i)
  | .uldi e d i =>
      some (1#1 ++ BitVec.ofBool e ++ 20#7 ++ d ++ i)
  | .uldh e d i =>
      some (1#1 ++ BitVec.ofBool e ++ 21#7 ++ d ++ i)
  | .ucmpeq e n d a b =>
      some (1#1 ++ BitVec.ofBool e ++ 22#7 ++ BitVec.ofBool n ++ d ++ a ++ b ++ 0#1)
  | .ucmpne e n d a b =>
      some (1#1 ++ BitVec.ofBool e ++ 23#7 ++ BitVec.ofBool n ++ d ++ a ++ b ++ 0#1)
  | .ucmplt e n d a b =>
      some (1#1 ++ BitVec.ofBool e ++ 24#7 ++ BitVec.ofBool n ++ d ++ a ++ b ++ 0#1)
  | .ucmpltn e n d a b =>
      some (1#1 ++ BitVec.ofBool e ++ 25#7 ++ BitVec.ofBool n ++ d ++ a ++ b ++ 0#1)
  | .ucmpltx e n d a b =>
      some (1#1 ++ BitVec.ofBool e ++ 26#7 ++ BitVec.ofBool n ++ d ++ a ++ b ++ 0#1)
  | .rdl e n d a =>
      some (1#1 ++ BitVec.ofBool e ++ 27#7 ++ BitVec.ofBool n ++ d ++ a ++ 0#8)
  | .ubra d =>
      some (1#1 ++ 1#1 ++ 32#7 ++ d)
  | .ubz a d =>
      some (1#1 ++ 1#1 ++ 33#7 ++ a ++ d)
  | .ubnz a d =>
      some (1#1 ++ 1#1 ++ 34#7 ++ a ++ d)
  | .ucall d =>
      some (1#1 ++ 1#1 ++ 35#7 ++ d)
  | .uret a =>
      some (1#1 ++ 1#1 ++ 36#7 ++ 0#8 ++ a ++ 0#8)
  | .region =>
      some (1#1 ++ 1#1 ++ 37#7 ++ 0#23)
  | .mset e i =>
      some (1#1 ++ BitVec.ofBool e ++ 38#7 ++ 0#15 ++ i)
  | .mclr e i =>
      some (1#1 ++ BitVec.ofBool e ++ 39#7 ++ 0#15 ++ i)
  | .uexit =>
      some (1#1 ++ 1#1 ++ 40#7 ++ 0#23)
  | .bar =>
      some (1#1 ++ 1#1 ++ 41#7 ++ 0#23)
  | .barc =>
      some (1#1 ++ 1#1 ++ 42#7 ++ 0#23)
  | .phase s k =>
      some (1#1 ++ 1#1 ++ 43#7 ++ 0#18 ++ s ++ k)
  | .ifence =>
      some (1#1 ++ 1#1 ++ 44#7 ++ 0#23)
  | .unop e =>
      some (1#1 ++ BitVec.ofBool e ++ 45#7 ++ 0#23)
  | .push a q =>
      some (1#1 ++ 1#1 ++ 48#7 ++ 0#8 ++ a ++ q ++ 0#3)
  | .pop n d q =>
      some (1#1 ++ 1#1 ++ 49#7 ++ BitVec.ofBool n ++ d ++ 0#7 ++ q ++ 0#3)
  | .qtry n d q =>
      some (1#1 ++ 1#1 ++ 50#7 ++ BitVec.ofBool n ++ d ++ 0#7 ++ q ++ 0#3)
  | .qstat e n d q =>
      some (1#1 ++ BitVec.ofBool e ++ 51#7 ++ BitVec.ofBool n ++ d ++ 0#7 ++ q ++ 0#3)
  | .bwait a i =>
      some (1#1 ++ 1#1 ++ 52#7 ++ 0#8 ++ a ++ i)
  | .bexp n d a b =>
      some (1#1 ++ 1#1 ++ 53#7 ++ BitVec.ofBool n ++ d ++ a ++ b ++ 0#1)
  | .barv n d a =>
      some (1#1 ++ 1#1 ++ 54#7 ++ BitVec.ofBool n ++ d ++ a ++ 0#8)
  | .cego n d a i =>
      some (1#1 ++ 1#1 ++ 55#7 ++ BitVec.ofBool n ++ d ++ a ++ i)
  | .rego n d a =>
      some (1#1 ++ 1#1 ++ 56#7 ++ BitVec.ofBool n ++ d ++ a ++ 0#8)
  | .splice n d a b =>
      some (1#1 ++ 1#1 ++ 57#7 ++ BitVec.ofBool n ++ d ++ a ++ b ++ 0#1)
  | .pin n d a =>
      some (1#1 ++ 1#1 ++ 58#7 ++ BitVec.ofBool n ++ d ++ a ++ 0#8)
  | .unpin n d a =>
      some (1#1 ++ 1#1 ++ 59#7 ++ BitVec.ofBool n ++ d ++ a ++ 0#8)
  | .drain n d a =>
      some (1#1 ++ 1#1 ++ 60#7 ++ BitVec.ofBool n ++ d ++ a ++ 0#8)
  | .launch n d a b =>
      some (1#1 ++ 1#1 ++ 61#7 ++ BitVec.ofBool n ++ d ++ a ++ b ++ 0#1)
  | .trap i =>
      some (1#1 ++ 1#1 ++ 64#7 ++ 0#15 ++ i)
  | .eret =>
      some (1#1 ++ 1#1 ++ 65#7 ++ 0#23)
  | .mfsr e n d i =>
      some (1#1 ++ BitVec.ofBool e ++ 66#7 ++ BitVec.ofBool n ++ d ++ 0#7 ++ i)
  | .mtsr a i =>
      some (1#1 ++ 1#1 ++ 67#7 ++ 0#8 ++ a ++ i)
  | .fpev e n d i =>
      some (1#1 ++ BitVec.ofBool e ++ 68#7 ++ BitVec.ofBool n ++ d ++ 0#7 ++ i)
  | .errc e n d i =>
      some (1#1 ++ BitVec.ofBool e ++ 69#7 ++ BitVec.ofBool n ++ d ++ 0#7 ++ i)
  | .cyc e d =>
      some (1#1 ++ BitVec.ofBool e ++ 70#7 ++ 0#1 ++ d ++ 0#15)
  | .bkpt i =>
      some (1#1 ++ 1#1 ++ 71#7 ++ 0#15 ++ i)
  | .apgo n d a =>
      some (1#1 ++ 1#1 ++ 72#7 ++ BitVec.ofBool n ++ d ++ a ++ 0#8)
  | .tbld n d a b =>
      some (1#1 ++ 1#1 ++ 73#7 ++ BitVec.ofBool n ++ d ++ a ++ b ++ 0#1)
  | .runIssue _ _ => none
  | .loadReturn _ _ _ _ => none
  | .atomicPerform _ _ => none
  | .storePerform _ _ _ => none
  | .sideLogReplay _ _ => none
  | .releaseComplete _ _ => none
  | .queueEntryAppend _ _ => none
  | .queueEntryTake _ _ => none
  | .trapEntry _ _ => none
  | .faultRecordPost _ => none
  | .tbldBankSwap _ _ => none
  | .mxAccept _ => none
  | .mxStart _ _ => none
  | .mxCommandComplete _ _ => none
  | .aeAccept _ => none
  | .arrayOperationStart _ => none
  | .arrayOperationComplete _ _ => none
  | .aeDigitalPartStart _ _ => none
  | .aeDigitalPartComplete _ _ => none
  | .ceAccept _ _ => none
  | .ceChunkWrite _ _ _ => none
  | .drainDeferredAccept _ _ => none
  | .drainTileTake _ => none
  | .nmuLineUpdate _ _ => none
  | .splicePerform _ => none
  | .pinPerform _ => none
  | .unpinPerform _ => none
  | .reclaimRecordDelivery _ => none
  | .statusEntryDelivery _ => none
  | .stationAcceptRego _ _ => none
  | .stationPacketArrival _ => none
  | .stationDeadlineExpiry _ => none
  | .lateCountdownExpiry _ => none
  | .rootRecordDelivery _ => none
  | .oboeGroupFit _ _ _ => none
  | .oboePublish _ => none
  | .oboeStarvationTimeout _ => none
  | .queueBind _ => none
  | .launchTake _ => none
  | .clusterDispatch _ _ => none
  | .launchEnd _ => none
  | .launchAppend _ => none
  | .preempt _ _ => none
  | .restart _ _ => none
  | .timeSliceExpiry _ _ => none
  | .apgoAnswer _ _ => none
  | .rowStage _ _ _ => none
  | .rowWriteComplete _ _ _ _ => none
  | .dieReset _ => none
  | .dieWatchdogExpiry _ => none
  | .linkFailure _ => none
  | .linkRateChangeRequest _ _ => none
  | .linkWidthChangeRequest _ _ => none
  | .retrainComplete _ _ => none
  | .powerGood _ => none
  | .powerLoss => none
  | .thermalStep _ _ => none
  | .scrubError _ _ => none
  | .hostMemoryAccess _ => none
  | .peerAccess _ => none
  | .hostLinkDown _ => none
  | .privsemTake _ => none
  | .privsemGive _ => none
  | .ifcmdLock _ _ => none
  | .ifcmdStart _ _ => none
  | .ifcmdStop _ _ => none
  | .ifcmdNone _ _ => none
  | .doorbell _ _ _ => none
  | .resolve _ _ => none
  | .shoot _ _ _ => none
  | .shootdownComplete _ => none
  | .pcmdCreateKeyHandle _ _ _ => none
  | .pcmdBindKeyHandle _ _ _ => none
  | .pcmdDestroyKeyHandle _ _ _ => none
  | .pcmdCreateCollective _ _ _ => none
  | .pcmdDestroyCollective _ _ _ => none
  | .pcmdDefineLayer _ _ _ => none
  | .pcmdRetireLayer _ _ _ => none
  | .pcmdSpdm _ _ _ => none
  | .mboxinDeliver _ _ => none
  | .mailboxOutRecord _ _ => none
  | .partitionCreate _ _ => none
  | .partitionDissolve _ _ => none
  | .controlRegisterWrite _ _ _ _ => none
  | .writeImage _ _ => none
  | .activate _ _ => none
  | .confirm _ _ => none
  | .readLog _ _ => none
  | .spdm _ _ => none
  | .setCert _ _ => none
  | .readSensors _ _ => none
  | .setCarveout _ _ => none
  | .getVersion _ => none
  | .getCapabilities _ => none
  | .negotiateAlgorithms _ => none
  | .getDigests _ => none
  | .getCertificate _ => none
  | .challenge _ => none
  | .getMeasurements _ => none
  | .keyExchange _ => none
  | .finish _ => none
  | .keyUpdate _ => none
  | .heartbeat _ => none
  | .endSession _ => none
  | .challengeTimeout => none
  | .carveoutChangeComplete => none
  | .mtsrComplete _ _ => none

end Sys2Proof
end

