-- ==== Sys2Proof/Machine/Tbl.lean ====
section
/-! DEFINITION. Sparse tables and byte memory: plain lists of pairs, with the few operations every
other file uses. A memory is in canonical form: addresses strictly rise and no entry equals what an
unlisted address reads as (0, log entry 1). -/

namespace Sys2Proof.Machine

/-- A sparse table keyed by a natural number; an unlisted key reads as a default. -/
abbrev Tbl (α : Type) := List (Nat × α)

/-- The entry at `k`, or `d`. -/
def tget {α : Type} (d : α) : Tbl α → Nat → α
  | [], _ => d
  | (j, a) :: t, k => if j = k then a else tget d t k

/-- Set the entry at `k`. -/
def tput {α : Type} : Tbl α → Nat → α → Tbl α
  | [], k, v => [(k, v)]
  | (j, a) :: t, k, v => if j = k then (k, v) :: t else (j, a) :: tput t k v

/-- Remove the entry at `k`. -/
def tdel {α : Type} : Tbl α → Nat → Tbl α
  | [], _ => []
  | (j, a) :: t, k => if j = k then tdel t k else (j, a) :: tdel t k

/-- A memory: bytes by address. -/
abbrev Mem := List Host.Cell

/-- What an address that no write has reached reads as (log entry 1). -/
def unwritten : Byte := 0

/-- The byte at address `a`. -/
def mget : Mem → Nat → Byte
  | [], _ => unwritten
  | (j, b) :: m, a => if j = a then b else mget m a

/-- List byte `b` at address `a`, where it stands in ascending order. -/
def mins : Mem → Nat → Byte → Mem
  | [], a, b => [(a, b)]
  | (j, c) :: m, a, b =>
    if j = a then (a, b) :: m else if a < j then (a, b) :: (j, c) :: m else (j, c) :: mins m a b

/-- Put byte `b` at address `a`, keeping the canonical form. -/
def mput (m : Mem) (a : Nat) (b : Byte) : Mem :=
  if b = unwritten then tdel m a else mins m a b

/-- The canonical form: every listed address is at least `lo`, the addresses strictly rise, and no
entry equals what an unlisted address reads as. -/
def wfFrom : Nat → Mem → Bool
  | _, [] => true
  | lo, (j, b) :: m => decide (lo ≤ j) && decide (b ≠ unwritten) && wfFrom (j + 1) m

/-- The canonical form of a memory. -/
def Memory.wf (m : Mem) : Bool := wfFrom 0 m

/-- `n` bytes from `a` up. -/
def mgets (m : Mem) (a : Nat) : Nat → List Byte
  | 0 => []
  | n + 1 => mget m a :: mgets m (a + 1) n

/-- Put the bytes from `a` up. -/
def mputs (m : Mem) (a : Nat) : List Byte → Mem
  | [] => m
  | b :: bs => mputs (mput m a b) (a + 1) bs

/-- Little-endian value of a list of bytes (R6). -/
def leNat : List Byte → Nat
  | [] => 0
  | b :: bs => b.toNat + 256 * leNat bs

/-- The `n` little-endian bytes of a value (R6). -/
def leBytes (v : Nat) : Nat → List Byte
  | 0 => []
  | n + 1 => BitVec.ofNat 8 v :: leBytes (v / 256) n

/-- A run of `n` zero words. -/
def zeros (n : Nat) : List Word := List.replicate n 0

/-- Replace entry `k` of a list. -/
def lset {α : Type} : List α → Nat → α → List α
  | [], _, _ => []
  | _ :: t, 0, v => v :: t
  | a :: t, k + 1, v => a :: lset t k v

/-- Drop entry `k` of a list. -/
def ldrop {α : Type} : List α → Nat → List α
  | [], _ => []
  | _ :: t, 0 => t
  | a :: t, k + 1 => a :: ldrop t k

end Sys2Proof.Machine
end

