-- ==== Sys2Proof/Machine/State.lean ====
section
/-! DEFINITION. The state of one ZHM-3216 module, as plain data: every thread, group, block and core,
the engines and queues, memory in its levels, the launches and partitions, Junction, the array dies
with Oboe, the departure stations, the Stationmaster; and the model's own scheduling data. -/

namespace Sys2Proof.Machine

/-! ## Places of bytes (R172 to R184) -/

/-- The unit that holds a byte. Blocks are named by the model's own block number. -/
inductive Place where
  | local                        -- LPDDR-6 by physical address
  | host                         -- host memory by physical address
  | peer (port : Nat)            -- a peer module's memory
  | chip                         -- chip scratchpad, by byte of the whole space (R179)
  | scratch (blk : Nat)          -- a block's scratchpad window (R176)
  | share (blk : Nat)            -- a block's share of cluster memory (R178)
  | slice (blk : Nat) (t : Nat)  -- a thread's lane slice, t = grp * 32 + lane (R175)
  | tiles (blk : Nat)            -- a block's accumulator tiles (R181)
  deriving DecidableEq, Repr

/-- One byte's place. -/
structure Loc where
  place : Place
  off : Nat
  deriving DecidableEq, Repr

/-! ## Threads, paths, groups -/

/-- The kind of a lane (R134). -/
inductive LaneKind where
  | real | helper | absent
  deriving DecidableEq, Repr

/-- What a thread is doing (R39, R136, R167, R169, R170, R327). -/
inductive Standing where
  | ready                    -- on a path
  | waits (m : Nat)          -- blocked at WAIT m
  | bar                      -- blocked at BAR
  | barc                     -- blocked at BARC
  | held                     -- in a trapping set held for the trap registers
  | finished                 -- a helper lane that executed EXIT before its quad ended (R136)
  | exited                   -- in the exited set
  deriving DecidableEq, Repr

/-- One thread (R22). -/
structure Thread where
  kind : LaneKind
  pc : Word
  v : Vector Word 64
  k : BitVec 128
  vPend : BitVec 64          -- pending marks (R34)
  standing : Standing
  lvl : Bool                 -- PRIV.LVL: supervisor (R106)
  plvl : Bool                -- PRIV.PLVL
  regionStart : Word         -- R100
  codeBase : Dword           -- the code the PC is an offset in (R37, R104, R327)
  deriving DecidableEq, Repr

/-- A bypass latch entry (R31, R32). -/
inductive Latch where
  | uniform (x : Dword)
  | lanes (x : Vector Dword 32)
  | pending
  deriving DecidableEq, Repr

/-- A run in progress (R29): its lanes, how many instructions it has issued, its latch entries from
b0 down, the side-log entries its reservation still has (R233), the words fetched for it before its first
instruction, and the cause of the trap at a word that the fetch was refused (R38). -/
structure Run where
  mask : LaneMask
  count : Nat
  latches : List Latch
  logRoom : Nat
  words : List Word
  refusal : Nat
  deriving DecidableEq, Repr

/-- An entry of the service list (R138). -/
structure PathRec where
  mask : LaneMask
  age : Nat
  deriving DecidableEq, Repr

/-- A trapping set that waits for the trap registers (R327). -/
structure HeldTrap where
  mask : LaneMask
  cause : Nat
  value : Word
  before : LaneMask                -- lanes that may not issue before this set has entered (R165)
  deriving DecidableEq, Repr

/-- A JMPT that met an unmapped page of its table: its lanes wait as a path that waits on a fetch does, with
what they read at its issue (R38, R164). -/
structure JumpWait where
  mask : LaneMask
  base : Dword
  count : Nat
  index : List (Nat × Word)        -- lane, index
  deriving DecidableEq, Repr

/-- What holds a group (R30, R305): the instruction has issued and is not yet performed. -/
inductive Hold where
  | push (q : Nat) (entry : Dword) (fmt : Word)                   -- MXGO, AEGO, PUSH: queue room
  | rego (entry : Dword) (d : Code) (n : Bool)                       -- REGO: queue room
  | cego (eng : Bool) (entry : Dword) (queued : Bool) (d : Code) (n : Bool)
  | pop (q : Nat) (d : Code) (n : Bool)
  | phase (limit : Nat) (scope : Nat) (acquire : Bool)
  | bwait (addr : Dword) (parity : Bool)
  | mtsr (reg : Nat) (value : Dword)
  | apgo (addr : Dword) (d : Code) (n : Bool)
  | tbld (addr : Dword) (slot : Nat) (d : Code) (n : Bool)
  | drain (addr : Dword) (d : Code) (n : Bool)
  deriving DecidableEq, Repr

/-- The sequence counts of a group (R256, R266, R285, R293, R313). -/
structure Seqs where
  mx : Word
  ae : Word
  cea : Word
  ceb : Word
  rego : Word
  drain : Word
  deriving DecidableEq, Repr

/-- One group of 32 threads (R23, R105, R138, R167, R245). Queue 14 is hqm's outbound half. -/
structure Group where
  launch : Nat
  block : Nat                      -- the model's block number
  role : Nat
  grp : Nat
  cls : Nat                        -- register class: 16, 32, 48 or 64
  threads : Vector Thread 32
  s : Vector Word 32
  sPend : BitVec 32
  m : Vector LaneMask 16
  arrived : Vector LaneMask 16
  trapCause : Word
  trapPc : Word
  trapMask : Word
  trapVal : Word
  savedBase : Dword
  handlerSet : LaneMask            -- the lanes in the handler (R327)
  handler : List LaneMask          -- ready handler paths, the one to issue next first (R328)
  handlerNext : Bool               -- the handler path issues next when both are ready (R328)
  heldTraps : List HeldTrap
  queues : Vector (List Dword) 15
  mxFmt : List Word                -- format words of the mxc entries (R245)
  aeFmt : List Word                -- format words of the aec entries
  unanswered : Vector Nat 15       -- by command queue number (R247, R312)
  seqs : Seqs
  paths : List PathRec
  run : Option Run
  hold : Option (LaneMask × Hold)
  since : Nat                      -- moment its wait began (R141)
  restarted : Bool                 -- second tie-break of R141
  fetchWait : List LaneMask        -- paths waiting on an unmapped fetch (R38)
  jumps : List JumpWait            -- JMPTs waiting on an unmapped page of their table (R164)
  countWait : List LaneMask        -- paths whose run holds an FPEV that waits for events (R59)
  stopped : Bool                   -- Junction has begun to pre-empt its launch on the core (R141)
  deriving DecidableEq, Repr

/-! ## What a core holds outstanding -/

/-- The values a launch's accesses were translated by before an MTSR changed them: an access that the writing
group issued earlier keeps them (R109). -/
structure Roots where
  heapBase : Dword
  heapLim : Dword
  heapOfs : Dword
  ptroot : Dword
  deriving DecidableEq, Repr

/-- A load of one location not yet returned (R229 to R231). -/
structure LoadRec where
  id : Nat
  slot : Nat
  lanes : LaneMask
  ea : Dword
  loc : Option Loc                 -- its place, where the path has no translation
  size : Nat
  signed : Bool
  d : Nat
  n : Bool
  waits : Bool                     -- met an unmapped or refused page; waits for a resolve (R332)
  parts : List (Nat × Nat × Nat)   -- lane, first byte and bytes, where the lanes share a constant word (R182)
  tied : Bool                      -- other lanes of its instruction have read its line (R207, R323)
  roots : Option Roots             -- translated by these, not by the launch's present values (R109)
  deriving DecidableEq, Repr

/-- A value that only waits to be written (R34): lane, register, word; and s register, word. -/
structure RetRec where
  slot : Nat
  vals : List (Nat × Nat × Word)
  svals : List (Nat × Word)
  deriving DecidableEq, Repr

/-- A store issued and not yet performed at every scope (R192); level counts the scopes of R190 at
which it is performed, 0 for none but the core. -/
structure StoreRec where
  id : Nat
  slot : Nat
  launch : Nat
  loc : Loc
  bytes : List Byte
  level : Nat
  deriving DecidableEq, Repr

/-- One lane's part of an atomic: lane, first data dword, second data dword. -/
structure AtomLane where
  lane : Nat
  x : Dword
  y : Dword
  deriving DecidableEq, Repr

/-- An atomic's merged lanes at one location, not yet performed (R236). -/
structure AtomRec where
  id : Nat
  instr : Nat                      -- numbers the instruction, shared by its locations
  slot : Nat
  launch : Nat
  aop : Nat
  ord : Nat
  scope : Nat
  ea : Dword
  loc : Option Loc                 -- its place, where the path has no translation
  lanes : List AtomLane
  d : Nat
  n : Bool
  waits : Bool
  roots : Option Roots             -- as for a load
  deriving DecidableEq, Repr

/-- What a release completes for (R194, R199). -/
inductive ReleaseFor where
  | phase (slot : Nat)
  | atomic (instr : Nat)
  | bar (blk : Nat)
  | barc (blk : Nat)
  | consist (req : Nat)
  | launch (req : Nat)
  deriving DecidableEq, Repr

/-- A release in progress: it covers everything with an id below `limit`. -/
structure ReleaseRec where
  part : Nat
  limit : Nat
  scope : Nat
  why : ReleaseFor
  deriving DecidableEq, Repr

/-- An entry of the side log: the writes one instruction makes to one page, lane by lane, or the
locations of an N-set atomic on it (R233). -/
structure SideEntry where
  id : Nat
  part : Nat
  launch : Nat
  slot : Nat
  page : Nat
  writes : List (Nat × List Byte)  -- virtual address, bytes
  atoms : List AtomRec
  waits : Bool                     -- its page was unmapped or refused it: it waits for a resolve (R332, R338)
  roots : Option Roots             -- as for a load
  deriving DecidableEq, Repr

/-- A cached leaf (R335, R337): the va range it covers, and the entry. -/
structure TlbEntry where
  launch : Nat
  va : Nat
  size : Nat
  entry : Dword
  deriving DecidableEq, Repr

/-! ## Engines of a core -/

/-- An activation-table slot (R114): two banks, the active one, its generation. -/
structure TableSlot where
  bank0 : Mem
  bank1 : Mem
  active : Bool
  gen : Word
  deriving DecidableEq, Repr

/-- A pin slot in use (R221). -/
structure Pin where
  block : Nat
  launch : Nat
  header : Nat
  gen : Nat
  deriving DecidableEq, Repr

/-- Bytes that an engine could not read when it accepted a command: their place among those it reads, their address, and
where they stand if the path has no translation (R204). -/
structure Awaited where
  pos : Nat
  addr : Dword
  loc : Option Loc
  size : Nat
  deriving DecidableEq, Repr

/-- An accepted matrix command (R255): its block's 16 words, the bank it bound, its place in the
core's order of acceptance. -/
structure MxCmd where
  order : Nat
  slot : Nat
  launch : Nat
  block : Nat
  seq : Word
  fmt : Word
  words : List Word
  src : List (Option Byte)         -- operand bytes read at acceptance; none for those awaited (R204)
  wanted : List Awaited
  upTo : Nat                       -- of the core's accesses, those below it were issued before the acceptance (R193)
  bank : Bool
  started : Bool
  deriving DecidableEq, Repr

/-- An array operation a command needs (R267): token, stripe, output block of the array, the array;
its converter codes are named by the free-value number it drew, once it has run. -/
structure ArrayOp where
  token : Nat
  stripe : Nat
  part : Nat                       -- which array of the stripe's sum or output column block
  array : Nat
  code : Option Nat
  deriving DecidableEq, Repr

/-- A layer definition (R262, R358). -/
structure Layer where
  handle : Nat
  die : Nat
  nIn : Nat
  nOut : Nat
  arrays : List Nat
  scales : List Word
  deriving DecidableEq, Repr

/-- A compensation position (R276): FP32 offset and gain, and the stuck mark. -/
structure CompPos where
  o : Word
  g : Word
  stuck : Bool
  deriving DecidableEq, Repr

/-- A fit of one group (R276, R277): transpose, first array; positions; exceeded. -/
structure GroupFit where
  transpose : Bool
  array : Nat
  pos : List CompPos
  exceeded : Bool
  deriving DecidableEq, Repr

/-- How far an accepted array command has come (R265, R271 to R273); a done one has its answer, which waits for
those of the group's earlier commands (R247). -/
inductive AePhase where
  | analogue | arrived | started | done
  deriving DecidableEq, Repr

/-- An accepted array command. -/
structure AeCmd where
  order : Nat
  slot : Nat
  launch : Nat
  block : Nat
  seq : Word
  words : List Word
  src : List (Option Byte)         -- as for a matrix command (R204)
  wanted : List Awaited
  upTo : Nat
  layer : Layer
  bank : Bool                      -- the compensation bank bound at acceptance (R278)
  bound : List GroupFit            -- what that bank holds (R278)
  weights : List (Nat × Tbl (List Byte))  -- the codes of the layer's arrays at acceptance (R280)
  waiting : List ArrayOp
  running : List ArrayOp
  done : List ArrayOp
  linkbound : Bool
  phase : AePhase
  answer : Dword
  deriving DecidableEq, Repr

/-- A copy command in progress (R286): what remains to write, as (destination, source) chunk pairs. -/
structure CopyCmd where
  slot : Nat
  launch : Nat
  block : Nat
  seq : Word
  words : List Word
  gather : List Dword
  src : List (Option Byte)         -- as for a matrix command (R204)
  wanted : List Awaited
  upTo : Nat
  chunks : List (Nat × Nat × Nat)  -- row, first byte within the row, bytes
  sectors : List Loc               -- sectors whose presence the command cleared
  landed : Nat                     -- bytes written and not yet subtracted
  written : List (Loc × Nat)       -- where they stand (R206)
  counted : Nat                    -- bytes subtracted
  badBarrier : Bool                -- its object was found malformed
  deriving DecidableEq, Repr

/-- A DRAIN accepted and not yet finished (R292). -/
structure DrainCmd where
  order : Nat
  core : Nat
  launch : Nat
  block : Nat
  grp : Nat
  seq : Word
  unread : Option Dword            -- where its block stands, if some bytes of its blocks were awaited (R204)
  src : List (Option Byte)         -- the bytes of an unread one's blocks: the DRAIN block, then the tensor block
  wanted : List Awaited
  upTo : Nat
  words : List Word                -- the DRAIN block
  tensor : List Word               -- the tensor block
  tilesLeft : List Nat
  grads : Tbl Word                 -- by tensor element number
  linesLeft : List Nat
  written : List (Loc × Nat)       -- the lines updated so far (R207)
  clipped : Nat
  refused : Option Nat             -- lowest refused field (R292)
  deriving DecidableEq, Repr

/-- One core. -/
structure Core where
  cycle : Dword                    -- R112
  cycSlots : List Nat              -- issue slots whose next CYC is in a later cycle (R112)
  groups : Tbl (Option Group)      -- by group slot, 0..31
  tables : Tbl TableSlot           -- by table slot, 1..15
  pins : Tbl (Option Pin)          -- by pin slot, 0..255
  loads : List LoadRec
  rets : List RetRec
  stores : List StoreRec
  atoms : List AtomRec
  releases : List ReleaseRec
  sideLog : List SideEntry
  nextId : Nat
  snap : List (Loc × List Byte)    -- L1 snapshot: disjoint ranges, each read at one instant (R191, R195, R198)
  old : List Nat                   -- lines that an NMU updated after the snapshot read of them (R207, R323)
  icache : List (Nat × Word)       -- fetched words by code address (R113, R210)
  tlb : List TlbEntry
  mx : List MxCmd
  mxLast : Nat                     -- last slot served by the rotation (R260)
  ae : List AeCmd
  aeLast : Nat
  ceA : Option CopyCmd
  ceALast : Nat
  ceB : Option CopyCmd
  ceBLast : Nat
  deriving DecidableEq, Repr

/-! ## Blocks, launches -/

/-- A resident block (R150, R174). -/
structure Block where
  launch : Nat
  core : Nat
  bx : Nat
  by_ : Nat
  bz : Nat
  crank : Nat
  cluster : Nat                    -- the model's cluster number; its blocks share it
  scratch : Mem
  share : Mem
  slices : Tbl Mem                 -- by grp * 32 + lane
  tiles : Mem
  absentScratch : List Nat         -- sectors with presence clear (R177)
  absentShare : List Nat
  started : Nat                    -- Junction-local moment of dispatch or restart (R346)
  stopping : Bool                  -- Junction has begun to pre-empt its cluster (R340)
  ended : Bool                     -- R153: its threads have exited and its entries are accepted
  deriving DecidableEq, Repr

/-- A launch that Junction has taken (R144, R105, R58, R111). -/
structure Launch where
  part : Nat
  iface : Nat
  record : List Word               -- the 64 words of the record
  recordAddr : Nat
  heapBase : Dword
  heapLim : Dword
  heapOfs : Dword
  ptroot : Dword
  fpThr : Word
  counters : Vector Word 24
  interrupted : Vector Bool 24
  dataLoss : Word
  corrected : Word
  nextBlock : Nat                  -- linear number of the next cluster to dispatch
  liveBlocks : List Nat
  waitMet : Bool                   -- the wait barrier has been met (R344)
  migrated : Bool                  -- the pages of the range list resolve (R344)
  doubleTrap : Bool                -- R329
  trapRecords : Nat
  ended : Bool
  deriving DecidableEq, Repr

/-- A pre-empted cluster's saved state (R341): its blocks, their groups, pins and tables. -/
structure SavedBlock where
  number : Nat
  block : Block
  groups : List Group
  pins : List (Nat × Pin)
  tables : List (Nat × Mem)
  deriving DecidableEq, Repr

/-! ## Partitions and interfaces -/

/-- A sealed key handle (R365); the bound sub-range in bytes, base and length. -/
structure KeyHandle where
  handle : Nat
  part : Nat
  blob : List Byte
  bound : Option (Nat × Nat)
  deriving DecidableEq, Repr

/-- A collective (R295, R370): the descriptor's numbers and its two lists. -/
structure Collective where
  part : Nat
  handle : Dword
  id : Dword
  module : Nat
  n : Nat
  bytes : Nat
  op : Nat
  contributors : List (Nat × Nat)              -- station, child index
  stations : List (Nat × Nat × Nat × Nat)      -- id, parent, child index, expected
  destroying : Bool
  deriving DecidableEq, Repr

/-- A fault record (R364): va, kind, refused, launch. -/
structure FaultRec where
  va : Nat
  kind : Nat
  refused : Bool
  launch : Nat
  deriving DecidableEq, Repr

/-- A partition block (R364) and what its partition holds. -/
structure Partition where
  operator : Bool
  active : Bool
  clusters : BitVec 40
  ranges : Vector (Nat × Nat) 8    -- base and length, in 2 MiB units
  ways : Nat
  cspBase : Nat
  cspLen : Nat
  images : BitVec 256
  qifCount : Nat
  qifFirst : Nat
  peers : Vector Word 8            -- by port; 2..7 used
  slice : Nat
  faultQ : Dword
  faultN : Word
  faultTail : Word
  faultHead : Word
  shoots : List Nat                -- pages whose shootdown is in progress, the oldest first (R337)
  pcmdAns : Word
  pcmdBusy : Bool
  mboxOut : Dword
  mboxN : Word
  mboxTail : Word
  mboxHead : Word
  mboxIn : Vector Word 6
  mboxAns : Word
  trapVecP : Dword
  trapVec : Dword                  -- TRAPVEC (R105)
  trapPolicy : Bool                -- the firmware's default policy of R330 answers traps (log 9)
  dataLoss : Word
  corrected : Word
  faultsWaiting : List FaultRec    -- not yet written to the ring
  faultsPosted : List Nat          -- pages with a record since the last resolve (R332)
  unitPages : List Nat             -- pages that engines or units wait for, until the next resolve (R332, R338)
  arrSel : Vector Word 16          -- R357
  sessionOpen : Bool               -- R388
  sessionSecret : List Byte        -- token of the session's export master secret (R365)
  pcmdLow : Word                   -- low word of a PCMD written as two words (R359)
  shootLow : Word                  -- low word of a SHOOT written as two words
  evictLast : List (Nat × Nat)     -- protected ranges marked evict-last (R185): base and length in bytes
  deriving DecidableEq, Repr

/-- A queue interface (R368). -/
structure Iface where
  state : Nat                      -- 0 unlocked, 1 locked, 2 run, 3 error
  pasid : Nat
  ringBase : Dword
  ringSize : Nat
  sealOnly : Bool
  ptroot : Dword
  wrIdx : Word
  rdIdx : Word
  errCause : Nat
  intVec : Nat
  heapBase : Dword
  heapLim : Dword
  heapOfs : Dword
  everLocked : Bool                -- a LOCK since module reset (class 2)
  bound : Bool                     -- bound to a hardware slot (R343)
  waitSince : Nat
  current : Option Nat             -- launch being dispatched (R344)
  deriving DecidableEq, Repr

/-! ## Units of the die -/

/-- A request at a consist manager (R241, R242). -/
structure ConsistReq where
  id : Nat
  kind : Nat                       -- 0 SPLICE, 1 PIN, 2 UNPIN
  core : Nat
  slot : Nat                       -- 32 where no group awaits the answer
  launch : Nat
  block : Nat
  grp : Nat
  header : Nat                     -- va of the header; its key for an UNPIN
  desc : Nat                       -- va of the descriptor
  pin : Nat                        -- pin slot taken or named
  gen : Nat
  ready : Bool                     -- the release before it has completed
  d : Code
  n : Bool
  deriving DecidableEq, Repr

/-- An undelivered reclaim record (R225, R226): base, its remover's group, its number in the order of emission. -/
structure Reclaim where
  base : Nat
  launch : Nat
  block : Nat
  grp : Nat
  seq : Nat
  deriving DecidableEq, Repr

/-- A consist as its manager keeps it in the table area (R212 to R226), keyed by header place. -/
structure Consist where
  gens : List (Nat × List (Nat × Nat))         -- live generations: number, pieces (base, rows)
  pinCounts : Tbl Nat
  removers : List (Nat × Nat × Nat × Nat)      -- base, and the remover: launch, block, grp
  waiting : List Reclaim
  ranges : List (Nat × Loc × Nat)              -- the table area's pages: their address, place and bytes there
  rowBytes : Nat                               -- the header's row_bytes and table area at the set-up
  area : Nat
  astray : Bool                                -- the program has stored into the area since the set-up (R222)
  deriving DecidableEq, Repr

/-- A status entry waiting at its source (R248). -/
structure WaitingEntry where
  launch : Nat
  block : Nat
  grp : Nat
  q : Nat
  entry : Dword
  deriving DecidableEq, Repr

/-- A LAUNCH that Junction has not answered (R315). -/
structure LaunchReq where
  id : Nat
  core : Nat
  slot : Nat
  launch : Nat
  addr : Nat
  queue : Nat
  ready : Bool
  d : Code
  n : Bool
  deriving DecidableEq, Repr

/-- One arrival a station holds for a round. -/
structure Arrival where
  child : Nat
  manifest : List Nat
  repeats : Nat
  data : List Word
  deriving DecidableEq, Repr

/-- A station's state of one round of one collective (R298 to R300). -/
structure RoundState where
  station : Nat
  id : Dword
  part : Nat
  round : Word
  deadline : Word
  counting : Bool                  -- the on-time countdown runs
  onTime : List Arrival
  departed : Bool
  lateHeld : List Arrival
  lateCounting : Bool
  kept : Bool                      -- one of the two newest rounds the station keeps (R300)
  seen : List (Nat × List Nat)     -- child, manifest, of everything taken (R300)
  repeats : Nat
  root : Option (Nat × Nat × Nat × Nat × Nat × Nat)  -- dst, late_slots, late_dst, launch, block, grp
  delivered : List Nat             -- contributors covered by records delivered
  lateNumber : Nat                 -- k of the next late record
  deriving DecidableEq, Repr

/-- A packet that the root has still to deliver as a record (R301). -/
structure RootRecord where
  station : Nat
  id : Dword
  part : Nat
  round : Word
  late : Bool
  manifest : List Nat
  repeats : Nat
  data : List Word
  deriving DecidableEq, Repr

/-! ## Array dies -/

/-- The journal records of a row (R353): each record's kind and sequence number, the latest first; the kinds whose
records will fail their ECC at replay; the writes made since the replay began; the staged codes. -/
structure RowJournal where
  records : List (Nat × Nat)
  bad : List Nat
  tries : Nat
  codes : List Byte
  deriving DecidableEq, Repr

/-- One array (R353 to R356). -/
structure ArrayRec where
  state : Nat                      -- R354's code
  count : Nat
  codes : Tbl (List Byte)          -- by row: 512 weight codes
  records : List (Nat × Nat)       -- journal records of the array itself: kinds 1, 7, 8, and sequence numbers
  bad : List Nat                   -- those kinds that will fail their ECC at replay
  writing : Bool                   -- its cells are being written: it holds an array slot (R271, R281)
  rows : Tbl RowJournal
  seed : Word
  closed : Bool                    -- goldens stored for the weights
  covered : Bool                   -- a published generation covers it (R281)
  apgo : Option Nat                -- the descriptor number it was named by
  deriving DecidableEq, Repr

/-- A programming descriptor being worked on (R352, R355): its arrays, those neither closed nor failed yet; `silent`
once a die reset has taken its completion record. -/
structure ApgoJob where
  number : Nat
  desc : Nat
  launch : Nat
  arrays : List Nat
  left : List Nat
  silent : Bool
  source : Nat
  staged : Nat                     -- rows staged: 1,024 for each array before the one being staged, and its own
  doneAddr : Nat
  closed : Nat
  failed : Nat
  deriving DecidableEq, Repr

/-- One array die and its hub. -/
structure Die where
  incarnation : BitVec 16
  up : Bool                        -- calibrated and trained; otherwise every layer is offline (R382)
  gen : Word
  bank0 : List GroupFit
  bank1 : List GroupFit
  active : Bool
  fits : List GroupFit             -- Oboe's latest fits
  arrays : Tbl ArrayRec
  jobs : List ApgoJob
  nextJob : Nat
  nextRecord : Nat                 -- sequence number of the next journal record (R353)
  order : List (Nat × Nat)         -- hub: commands in the order they came: core, order number
  limit : Nat                      -- activity limit (R271, R387)
  oboeArrays : Nat                 -- arrays a starved Oboe may take in each slot (R275)
  rate : Nat
  narrow : Nat
  pendRate : Option Nat
  pendNarrow : Option Nat
  applying : Option (Option Nat × Option Nat)  -- the retrain in progress: rate, narrow (R349)
  retried : Bool
  linkUp : Bool
  stale : Word
  lateAnswers : Nat                -- responses of an earlier incarnation still on their way (R351)
  deriving DecidableEq, Repr

/-! ## Management -/

/-- A firmware slot (R385). -/
structure FwSlot where
  svn : Nat
  image : List Byte
  verified : Bool
  deriving DecidableEq, Repr

/-- A log entry (R387). -/
structure LogEntry where
  index : Nat
  kind : Nat
  part : Word
  d0 : Dword
  d1 : Dword
  deriving DecidableEq, Repr

/-- A copy of the anti-rollback counter (R386). -/
structure RollCopy where
  bits : BitVec 128
  clean : Bool                     -- every bit passes its margin read
  deriving DecidableEq, Repr

/-- The Stationmaster (R382 to R389). -/
structure Manager where
  powered : Bool
  dark : Bool                      -- no slot verified: fault pin driven (R382)
  slotA : FwSlot
  slotB : FwSlot
  activeB : Bool
  runningB : Bool
  pending : Bool                   -- the slot that is not active is pending
  attempts : Nat
  roll1 : RollCopy
  roll2 : RollCopy
  log : List LogEntry
  logNext : Nat
  sensors : Tbl Int
  clockSteps : Nat                 -- steps of 100 MHz below nominal (R387)
  certs : Tbl (List Byte)
  certReads : List (SpdmRoute × Nat × List Byte)  -- chains being read in portions (R389)
  bringing : Option Bool           -- bring-up waits for the journal replay; whether its fills will succeed (R382)
  raising : Option Nat             -- CONFIRM is raising the counter to this value (R386)
  challenges : List (Nat × SpdmRequest)    -- pending slots and their requests, oldest first
  hostSession : Bool
  hostSecret : List Byte           -- as a partition's sessionSecret
  carveTarget : Option Nat         -- SET_CARVEOUT in progress
  lockTable : Tbl Nat              -- lock classes by register offset (R368)
  smAns : Word
  smBusy : Bool
  smLow : Word                     -- low word of an SMCMD written as two words
  deriving DecidableEq, Repr

/-- An interrupt a host has been sent. -/
inductive Interrupt where
  | fpThreshold (launch counter : Nat)
  | refused (launch : Nat)
  | trap (launch : Nat)
  | doubleTrap (launch : Nat)
  | fault (part : Nat)
  | barrier (launch : Nat)
  | recal (part die group : Nat)
  | apgo (part die : Nat)
  | layerOnline (part handle : Nat)
  | machineError
  deriving DecidableEq, Repr

/-- Which copy of a byte an error strikes (R188): the LLC's, or that of the place itself. -/
inductive ErrorLevel where
  | own | llc
  deriving DecidableEq, Repr

/-- The caches of a core whose copies are protected by parity (R188). -/
inductive CacheKind where
  | data | code | constant
  deriving DecidableEq, Repr

/-- What comes next (log entry 3): an event, one instruction of an issue slot's run; or what the part does on its own
between them: an access of a launch meets an error in memory or a register (R188, R189), a unit of one of a core's
caches fails its parity and goes (R188), the LLC writes a sector back (R184), a journal record decays (R353), the
die's DMA copies a page (R338). -/
inductive Choice where
  | event (i : Instr)
  | issue (core slot : Nat)
  | memError (launch : Nat) (loc : Loc) (level : ErrorLevel) (lost : Bool)
  | cacheError (core : Nat) (cache : CacheKind) (loc : Loc)
  | regError (core slot : Nat) (r : RegPlace) (lost : Bool)
  | writeBack (sector : Nat)
  | journalError (die array : Nat) (row : Option Nat) (kind : Nat)
  | pageCopy (src dst : Loc) (size : Nat)
  deriving DecidableEq, Repr

/-- What an access from outside was answered (R361, R367): a host's read, or a peer's; none is a refusal. -/
inductive Answer where
  | host (pasid : Nat) (data : List Byte)
  | peer (port q : Nat) (data : Option (List Byte))
  deriving DecidableEq, Repr

/-- Bytes of a place whose count an engine subtracted from the barrier object at `object` (R206); `flipped` once
the phase has flipped after it. -/
structure Credit where
  object : Loc
  loc : Loc
  size : Nat
  flipped : Bool
  deriving DecidableEq, Repr

/-- A record that a unit has still to write: it met an unmapped page (R332). -/
structure OwedWrite where
  core : Nat
  launch : Nat
  block : Nat
  addr : Dword
  bytes : List Byte
  deriving DecidableEq, Repr

/-- An entry of hqm's outbound half that its group left behind when its block ended (R169, R366). -/
structure LeftMail where
  launch : Nat
  part : Nat
  index : Nat                      -- linear block index
  grp : Nat
  entry : Dword
  deriving DecidableEq, Repr

/-- The whole module. -/
structure State where
  cores : Tbl Core
  constants : Tbl (List (Loc × List Byte))     -- constant caches, by hardware cluster (R182, R203)
  constantsOld : Tbl (List Nat)                -- lines that an NMU updated after they read of them (R207)
  credits : List Credit
  owed : List OwedWrite
  outbox : List LeftMail
  blocks : Tbl (Option Block)
  nextBlock : Nat
  nextCluster : Nat
  launches : Tbl (Option Launch)
  nextLaunch : Nat
  saved : List (List SavedBlock)
  partitions : Tbl Partition
  ifaces : Tbl Iface
  layers : List Layer
  dies : Tbl Die
  mem : Mem                        -- local LPDDR-6 by physical address
  hostMem : Mem
  peerMem : Tbl Mem
  chip : Mem                       -- chip scratchpad
  hints : List (Nat × Nat)         -- LLC line hints by line number (R185)
  dirty : List Nat                 -- LLC sectors that hold what LPDDR-6 does not yet, by PA / 256 (R184)
  carveout : Nat                   -- c (R179)
  drains : List DrainCmd
  consists : Tbl Consist           -- by header address (local physical)
  consistReqs : List ConsistReq
  emitted : Nat                    -- reclaim records emitted so far (R226)
  launchReqs : List LaunchReq
  nextReq : Nat
  waitingEntries : List WaitingEntry
  rounds : List RoundState
  packets : List Packet            -- packets on their way (R298)
  sent : List Packet               -- packets sent to stations of other modules
  rootRecords : List RootRecord
  keys : List KeyHandle
  nextKey : Nat
  collectives : List Collective
  nextCollective : Nat
  ready : Bool
  merr : Bool
  semHeld : Bool
  semOwner : Nat
  dropCnt : Word
  mgr : Manager
  owned : List (Nat × Nat × Nat)   -- base, length (2 MiB units), owner: the latest first (R187)
  removedSlices : List Nat
  removedCores : List Nat
  interrupts : List (Interrupt × Option Nat)   -- each with the vector of the launch's interface (R368)
  answers : List Answer            -- what accesses from outside were answered, the latest last
  busy : List (Nat × Nat)          -- accesses answered BUSY: port, offset (R363)
  tick : Nat                       -- moments, for waits and slices
  sliceOwner : Tbl (Nat × Nat)     -- by partition * 8 + priority: the interface that holds the slice, the one whose slice ended
  order : Nat                      -- next place in a core's order of acceptance (R205)
  freeCtr : Nat                    -- free values drawn so far (log entry 7)
  focus : Option (Nat × Nat)       -- the core and group slot whose run advances next
  agenda : List Choice
  deriving DecidableEq, Repr

/-! ## Outcomes that stop the model -/

/-- Reasons the model stops; every one is the model's own, the part itself does not stop. -/
inductive Fault where
  /-- An encoded instruction was executed with no run in progress; `exec` alone raises it. Safe. -/
  | noRun
  /-- The agenda named an event whose condition does not hold. Safe: the part takes no such step. -/
  | notEnabled
  /-- The agenda named an encoded instruction as an event. Safe. -/
  | agendaNotEvent
  deriving DecidableEq, Repr

/-- Reasons for having no meaning. -/
inductive Refusal where
  /-- The instruction has no meaning in this model yet. Safe. -/
  | notModelled (mnemonic : String)
  deriving DecidableEq, Repr

/-! ## The state after reset -/

/-- A thread before any launch: an absent lane (log entry 2). -/
def Thread.reset : Thread :=
  { kind := .absent, pc := 0, v := Vector.replicate 64 0, k := 0, vPend := 0, standing := .exited,
    lvl := false, plvl := false, regionStart := 0, codeBase := 0 }

/-- Sequence counts at launch start. -/
def Seqs.reset : Seqs := { mx := 0, ae := 0, cea := 0, ceb := 0, rego := 0, drain := 0 }

/-- A group before a launch gives it threads. -/
def Group.reset : Group :=
  { launch := 0, block := 0, role := 0, grp := 0, cls := 16, threads := Vector.replicate 32 Thread.reset,
    s := Vector.replicate 32 0, sPend := 0, m := Vector.replicate 16 0, arrived := Vector.replicate 16 0,
    trapCause := 0, trapPc := 0, trapMask := 0, trapVal := 0, savedBase := 0,
    handlerSet := 0, handler := [], handlerNext := false, heldTraps := [], queues := Vector.replicate 15 [], mxFmt := [],
    aeFmt := [], unanswered := Vector.replicate 15 0, seqs := Seqs.reset, paths := [], run := none,
    hold := none, since := 0, restarted := false, fetchWait := [], jumps := [], countWait := [], stopped := false }

/-- A table slot at core reset: both banks zero, generation zero (R114, R258). -/
def TableSlot.reset : TableSlot := { bank0 := [], bank1 := [], active := false, gen := 0 }

/-- A core at reset. -/
def Core.reset : Core :=
  { cycle := 0, cycSlots := [], groups := [], tables := [], pins := [], loads := [], rets := [], stores := [], atoms := [],
    releases := [], sideLog := [], nextId := 0, snap := [], old := [], icache := [], tlb := [],
    mx := [], mxLast := 31, ae := [], aeLast := 31, ceA := none, ceALast := 31, ceB := none, ceBLast := 31 }

/-- A partition block at reset (R364): SLICE is 20, everything else 0. -/
def Partition.reset : Partition :=
  { operator := false, active := false, clusters := 0, ranges := Vector.replicate 8 (0, 0), ways := 0,
    cspBase := 0, cspLen := 0, images := 0, qifCount := 0, qifFirst := 0, peers := Vector.replicate 8 0,
    slice := 20, faultQ := 0, faultN := 0, faultTail := 0, faultHead := 0, shoots := [],
    pcmdAns := 0, pcmdBusy := false, mboxOut := 0, mboxN := 0, mboxTail := 0, mboxHead := 0,
    mboxIn := Vector.replicate 6 0, mboxAns := 0, trapVecP := 0, trapVec := 0, trapPolicy := false,
    dataLoss := 0, corrected := 0, faultsWaiting := [], faultsPosted := [], unitPages := [], arrSel := Vector.replicate 16 0,
    sessionOpen := false, sessionSecret := [],
    pcmdLow := 0, shootLow := 0, evictLast := [] }

/-- A queue interface at reset (R368). -/
def Iface.reset : Iface :=
  { state := 0, pasid := 0, ringBase := 0, ringSize := 0, sealOnly := false, ptroot := 0, wrIdx := 0,
    rdIdx := 0, errCause := 0, intVec := 0, heapBase := 0, heapLim := 0, heapOfs := 0, everLocked := false,
    bound := false, waitSince := 0, current := none }

/-- A launch number that no launch has. -/
def Launch.reset : Launch :=
  { part := 0, iface := 0, record := [], recordAddr := 0, heapBase := 0, heapLim := 0, heapOfs := 0,
    ptroot := 0, fpThr := 0, counters := Vector.replicate 24 0, interrupted := Vector.replicate 24 false,
    dataLoss := 0, corrected := 0, nextBlock := 0, liveBlocks := [], waitMet := false, migrated := false, doubleTrap := false,
    trapRecords := 0, ended := true }

/-- An array as it leaves the factory (R354). -/
def ArrayRec.reset : ArrayRec :=
  { state := 4, count := 0, codes := [], records := [], bad := [], writing := false, rows := [], seed := 0, closed := false,
    covered := false, apgo := none }

/-- A row with no journal record. -/
def RowJournal.reset : RowJournal :=
  { records := [], bad := [], tries := 0, codes := [] }

/-- An array die before power-up (R271, R278, R357; log entry 2). -/
def Die.reset : Die :=
  { incarnation := 0, up := false, gen := 0, bank0 := [], bank1 := [], active := false, fits := [],
    arrays := [], jobs := [], nextJob := 0, nextRecord := 0, order := [], limit := 512, oboeArrays := 0, rate := 0,
    narrow := 0, pendRate := none, pendNarrow := none, applying := none, retried := false,
    linkUp := false, stale := 0, lateAnswers := 0 }

/-- A consist before first use. -/
def Consist.reset : Consist :=
  { gens := [], pinCounts := [], removers := [], waiting := [], ranges := [],
    rowBytes := 0, area := 0, astray := false }

/-- The Stationmaster before power-good; slot A holds a verified image of SVN 0 (log entry 2), certificate slot 0 what
manufacture put there (R388). -/
def Manager.reset : Manager :=
  { powered := false, dark := false, slotA := { svn := 0, image := [], verified := true },
    slotB := { svn := 0, image := [], verified := false }, activeB := false, runningB := false,
    pending := false, attempts := 0, roll1 := { bits := 0, clean := true }, roll2 := { bits := 0, clean := true },
    log := [], logNext := 0, sensors := [], clockSteps := 0, certs := [(0, Config.factoryChain)], certReads := [],
    bringing := none, raising := none, challenges := [],
    hostSession := false, hostSecret := [], carveTarget := none, lockTable := [], smAns := 0, smBusy := false, smLow := 0 }

/-- The module after reset and before power-good starts its bring-up (R382): nothing resident, every
register of the control window at its reset value, memory with nothing listed. -/
def State.reset : State :=
  { cores := [], constants := [], constantsOld := [], credits := [], owed := [], outbox := [], blocks := [], nextBlock := 0, nextCluster := 0, launches := [], nextLaunch := 0, saved := [],
    partitions := [], ifaces := [], layers := [], dies := [], mem := [], hostMem := [], peerMem := [],
    chip := [], hints := [], dirty := [], carveout := 0, drains := [], consists := [], consistReqs := [], emitted := 0, launchReqs := [],
    nextReq := 0, waitingEntries := [], rounds := [], packets := [], sent := [], rootRecords := [], keys := [],
    nextKey := 1, collectives := [], nextCollective := 1, ready := false, merr := false, semHeld := false,
    semOwner := 0, dropCnt := 0, mgr := Manager.reset, owned := [], removedSlices := [], removedCores := [],
    interrupts := [], answers := [], busy := [], tick := 0, sliceOwner := [], order := 0, freeCtr := 0, focus := none,
    agenda := [] }

end Sys2Proof.Machine
end

