-- ==== Sys2Proof/Machine/Groups.lean ====
section
/-! DEFINITION. The named operations over groups and their threads: reading and writing lanes, closing
a run, the service list, exits, rejoining, barriers. -/

namespace Sys2Proof.Machine

/-- What a step answers. -/
abbrev Out := Host.Outcome State Fault Refusal

/-! ## Parts of the state -/

def State.core (s : State) (c : Nat) : Core := tget Core.reset s.cores c
def State.setCore (s : State) (c : Nat) (k : Core) : State := { s with cores := tput s.cores c k }
def Core.group (k : Core) (g : Nat) : Option Group := tget none k.groups g
def Core.setGroup (k : Core) (g : Nat) (x : Option Group) : Core := { k with groups := tput k.groups g x }
def State.group (s : State) (c g : Nat) : Option Group := (s.core c).group g
def State.setGroup (s : State) (c g : Nat) (x : Group) : State := s.setCore c ((s.core c).setGroup g (some x))
def State.block (s : State) (b : Nat) : Option Block := tget none s.blocks b
def State.setBlock (s : State) (b : Nat) (x : Block) : State := { s with blocks := tput s.blocks b (some x) }
def State.launch (s : State) (l : Nat) : Option Launch := tget none s.launches l
def State.setLaunch (s : State) (l : Nat) (x : Launch) : State := { s with launches := tput s.launches l (some x) }
def State.partition (s : State) (p : Nat) : Partition := tget Partition.reset s.partitions p
def State.setPartition (s : State) (p : Nat) (x : Partition) : State := { s with partitions := tput s.partitions p x }
def State.iface (s : State) (i : Nat) : Iface := tget Iface.reset s.ifaces i
def State.setIface (s : State) (i : Nat) (x : Iface) : State := { s with ifaces := tput s.ifaces i x }
def State.die (s : State) (d : Nat) : Die := tget Die.reset s.dies d
def State.setDie (s : State) (d : Nat) (x : Die) : State := { s with dies := tput s.dies d x }
/-- The vector of an interrupt for a launch: INTVEC of the interface it was taken from (R368). -/
def State.vectorOf (s : State) (i : Interrupt) : Option Nat :=
  let of := fun (n : Nat) => (s.launch n).map fun l => (s.iface l.iface).intVec
  match i with
  | .fpThreshold n _ => of n
  | .refused n => of n
  | .trap n => of n
  | .doubleTrap n => of n
  | .barrier n => of n
  | _ => none
def State.interrupt (s : State) (i : Interrupt) : State := { s with interrupts := s.interrupts ++ [(i, s.vectorOf i)] }

/-- A word of a launch record, by byte offset (R144). -/
def Launch.word (l : Launch) (off : Nat) : Word := l.record.getD (off / 4) 0
/-- A dword of a launch record, low word first (R6, R144). -/
def Launch.dword (l : Launch) (off : Nat) : Dword := l.word (off + 4) ++ l.word off

/-! ## Cores by place (R150, R152) -/

/-- Core numbers count along rows of the 20-column mesh (log entry 16). -/
def coreCol (c : Nat) : Nat := c % 20
def coreRow (c : Nat) : Nat := c / 20
/-- The hardware cluster of a core, along rows of the 5 by 8 grid (log entry 16). -/
def hwCluster (c : Nat) : Nat := 5 * (coreRow c / 2) + coreCol c / 4

/-! ## Lanes -/

/-- The bits `p 0 .. p (n-1)` as a number. -/
def bitsOf (p : Nat → Bool) : Nat → Nat
  | 0 => 0
  | n + 1 => bitsOf p n + (if p n then 2 ^ n else 0)

/-- The mask of the lanes that satisfy `p`. -/
def maskOf (p : Nat → Bool) : LaneMask := BitVec.ofNat 32 (bitsOf p 32)

/-- The lane numbers, ascending. -/
def laneNumbers : List Nat := List.range 32
/-- The lanes of a mask, ascending. -/
def lanesOf (m : LaneMask) : List Nat := laneNumbers.filter fun l => m.getLsbD l
/-- The lowest lane of a mask, 0 for an empty one. -/
def lowestLane (m : LaneMask) : Nat := (laneNumbers.find? fun l => m.getLsbD l).getD 0
/-- How many lanes a mask holds. -/
def laneCount (m : LaneMask) : Nat := (lanesOf m).length
/-- The mask of one lane. -/
def laneMask (l : Nat) : LaneMask := maskOf fun j => j == l

def Group.th (g : Group) (l : Nat) : Thread := g.threads[l]?.getD Thread.reset

/-- Apply `f` to the threads of the lanes in `m`. -/
def Group.mapLanes (g : Group) (m : LaneMask) (f : Nat → Thread → Thread) : Group :=
  { g with threads := Vector.ofFn fun i : Fin 32 =>
      if m.getLsbD i.val then f i.val g.threads[i] else g.threads[i] }

/-- The lanes whose thread satisfies `p`. -/
def Group.lanesWith (g : Group) (p : Thread → Bool) : LaneMask := maskOf fun l => p (g.th l)

/-- The real threads (R134). -/
def Group.realMask (g : Group) : LaneMask := g.lanesWith fun t => t.kind == .real
/-- The lanes that hold a thread (R134). -/
def Group.presentMask (g : Group) : LaneMask := g.lanesWith fun t => t.kind != .absent
/-- Threads that count as exited for a rejoin mask: exited, or finished helpers (R136, R167); an absent lane is in no
mask (R134). -/
def Group.exitedMask (g : Group) : LaneMask :=
  g.lanesWith fun t => t.kind != .absent && (t.standing == .exited || t.standing == .finished)

def Thread.reg (t : Thread) (r : Nat) : Word := t.v[r]?.getD 0
def Thread.setReg (t : Thread) (r : Nat) (x : Word) : Thread := { t with v := t.v.setIfInBounds r x }
def Group.sreg (g : Group) (r : Nat) : Word := g.s[r]?.getD 0
def Group.setSreg (g : Group) (r : Nat) (x : Word) : Group := { g with s := g.s.setIfInBounds r x }
def Group.rejoin (g : Group) (i : Nat) : LaneMask := g.m[i]?.getD 0
def Group.queue (g : Group) (q : Nat) : List Dword := g.queues[q]?.getD []
def Group.setQueue (g : Group) (q : Nat) (x : List Dword) : Group := { g with queues := g.queues.setIfInBounds q x }
def Group.unans (g : Group) (q : Nat) : Nat := g.unanswered[q]?.getD 0
def Group.setUnans (g : Group) (q n : Nat) : Group := { g with unanswered := g.unanswered.setIfInBounds q n }
/-- Every thread has exited (R169). -/
def Group.over (g : Group) : Bool := (g.presentMask &&& ~~~(g.lanesWith fun t => t.standing == .exited)) == 0

/-! ## The run in progress -/

/-- Where an encoded instruction executes: the core, the group slot, and what they hold. -/
structure Ctx where
  c : Nat
  g : Nat
  core : Core
  grp : Group
  run : Run

/-- The run the focus names. -/
def State.ctx (s : State) : Option Ctx :=
  match s.focus with
  | none => none
  | some (c, g) =>
    match (s.core c).group g with
    | none => none
    | some grp =>
      match grp.run with
      | none => none
      | some run => some ⟨c, g, s.core c, grp, run⟩

/-- Execute in the run the focus names. -/
def State.withRun (s : State) (k : Ctx → Out) : Out :=
  match s.ctx with
  | none => .fault .noRun
  | some x => k x

/-- The address of the instruction being executed (R22, R39). -/
def Ctx.pc (x : Ctx) : Word := (x.grp.th (lowestLane x.run.mask)).pc
/-- The active threads: the path's real threads (R11, R135). -/
def Ctx.real (x : Ctx) : LaneMask := x.run.mask &&& x.grp.realMask
/-- The path runs at supervisor level (R105). -/
def Ctx.supervisor (x : Ctx) : Bool := (x.grp.th (lowestLane x.run.mask)).lvl
/-- The run's path is a handler path (R328). -/
def Ctx.inHandler (x : Ctx) : Bool := (x.run.mask &&& x.grp.handlerSet) != 0

/-! ## The service list (R138, R139) -/

/-- The JMPT that a lane waits in, by its number among those that wait. -/
def Group.jumpOf (g : Group) (l : Nat) : Option Nat := g.jumps.findIdx? fun j => j.mask.getLsbD l

/-- Two lanes stand at one place: equal code base and PC (R39), and neither waits in a JMPT that the other is not in
(log entry 57). -/
def Group.samePlace (g : Group) (a b : Nat) : Bool :=
  (g.th a).pc == (g.th b).pc && (g.th a).codeBase == (g.th b).codeBase && g.jumpOf a == g.jumpOf b

/-- Put entry `e` behind the list, or into the entry that already stands at its PC (R139). -/
def joinPath (g : Group) : List PathRec → PathRec → List PathRec
  | [], e => [e]
  | p :: ps, e =>
    if g.samePlace (lowestLane p.mask) (lowestLane e.mask) then { p with mask := p.mask ||| e.mask } :: ps
    else p :: joinPath g ps e

/-- Divide lanes by place, in ascending order of the lowest lane (R39). -/
def Group.placesOf (g : Group) (m : LaneMask) : List LaneMask :=
  ((lanesOf m).foldl (fun ps l => joinPath g ps { mask := laneMask l, age := 0 }) []).map (·.mask)

/-- The lanes that may stand on a listed path. -/
def Group.readyMask (g : Group) : LaneMask :=
  g.lanesWith (fun t => t.standing == .ready && t.kind != .absent) &&& ~~~g.handlerSet

/-- Rebuild the list from entries in order: lanes no longer ready drop out, and the lanes at one place
form one path, which takes the place of its front-most member (R39, R139). -/
def Group.relist (g : Group) (ps : List PathRec) : Group :=
  let keep := ps.flatMap fun p => (g.placesOf (p.mask &&& g.readyMask)).map fun m => { p with mask := m }
  { g with paths := keep.foldl (joinPath g) [] }

/-- Put new paths behind the list, in the order given. -/
def Group.addPaths (g : Group) (ms : List LaneMask) : Group :=
  g.relist (g.paths ++ ms.map fun m => { mask := m, age := 0 })

/-- The list after a run of the lanes `ran` ends: every other entry has aged by one run, saturating at
32, and the run's paths go to the back in the order given (R138, R139). -/
def Group.endRunPaths (g : Group) (ran : LaneMask) (back : List LaneMask) : Group :=
  let old := g.paths.filterMap fun p =>
    let m := p.mask &&& ~~~ran
    if m = 0 then none else some { mask := m, age := min 32 (p.age + 1) }
  { g with paths := old }.addPaths back

/-! ## Latches and the end of an instruction -/

/-- Fill b0 and move the older entries down (R31). -/
def Run.fill (r : Run) (b : Latch) : Run :=
  { r with latches := (b :: r.latches).take 4, count := r.count + 1 }

/-- Put a handler path behind the others, or into the one that already stands at its place (R39). -/
def joinHandler (g : Group) : List LaneMask → LaneMask → List LaneMask
  | [], m => [m]
  | p :: ps, m =>
    if g.samePlace (lowestLane p) (lowestLane m) then (p ||| m) :: ps else p :: joinHandler g ps m

/-- The lanes at their places join the handler paths. -/
def Group.addHandlers (g : Group) (m : LaneMask) : Group :=
  { g with handler := (g.placesOf m).foldl (joinHandler g) g.handler }

/-- Ready lanes of no path that ran: those released while the run was in progress. -/
def Group.freed (g : Group) (ran : LaneMask) : LaneMask :=
  g.lanesWith (fun t => t.standing == .ready && t.kind != .absent) &&&
    ~~~(g.handler.foldl (· ||| ·) (g.paths.foldl (fun m p => m ||| p.mask) ran))

/-- Close the run: latches and reservation go, and the paths `back` of its lanes are listed in that order; those of a
handler path go behind the other handler paths. Lanes released during the run are listed now, ahead of the
paths that ran (R28, R33, R138, R139, R328; log entry 53). -/
def Group.closeRun (g : Group) (ran : LaneMask) (back : List LaneMask) : Group :=
  let h := { g with run := none }
  let free := h.freed ran
  let listed := h.placesOf (free &&& ~~~h.handlerSet)
  if (ran &&& g.handlerSet) != 0 then
    let rest := { h with handler := h.handler.filter fun m => (m &&& ran) == 0 }
    let mine := back.foldl (· ||| ·) 0 &&& g.handlerSet &&& g.lanesWith (fun t => t.standing == .ready)
    let aged := { rest.addHandlers (mine ||| (free &&& h.handlerSet)) with
      handlerNext := false, paths := g.paths.map fun (p : PathRec) => { p with age := min 32 (p.age + 1) } }
    aged.addPaths listed
  else { ((h.addHandlers (free &&& h.handlerSet)).endRunPaths ran (listed ++ back)) with handlerNext := true }

/-- The focus leaves a closed run. -/
def State.unfocus (s : State) : State := { s with focus := none }

/-- An instruction's path goes on at PC + 4: its PCs advance, and the run goes on as `r`, or is closed if E is
set (R29, R37). -/
def State.goOn (s : State) (x : Ctx) (grp : Group) (e : Bool) (r : Run) : State :=
  let moved := grp.mapLanes x.run.mask fun _ t => { t with pc := t.pc + 4 }
  if e then
    (s.setGroup x.c x.g { (moved.closeRun x.run.mask [x.run.mask]) with since := s.tick }).unfocus
  else s.setGroup x.c x.g { moved with run := some r }

/-- Finish an instruction that fills b0 (R31). -/
def State.finish (s : State) (x : Ctx) (grp : Group) (e : Bool) (b : Latch) : State := s.goOn x grp e (x.run.fill b)

/-- Finish an instruction that takes no effect, on latches neither (R137). -/
def State.passOver (s : State) (x : Ctx) (e : Bool) : State := s.goOn x x.grp e { x.run with count := x.run.count + 1 }

/-- The region start of the lanes moves past the instruction they are at (R100, R305). -/
def Group.passRegion (g : Group) (m : LaneMask) : Group :=
  g.mapLanes m fun _ t => { t with regionStart := t.pc + 4 }

/-- Finish a commit-class instruction that has been performed: E is set, and a new region begins after
it (R72, R100). -/
def State.finishCommit (s : State) (x : Ctx) (grp : Group) : State :=
  let moved := grp.mapLanes x.run.mask fun _ t => { t with pc := t.pc + 4, regionStart := t.pc + 4 }
  (s.setGroup x.c x.g { (moved.closeRun x.run.mask [x.run.mask]) with since := s.tick }).unfocus

/-! ## When a group may begin a run (R34, R141, R201) -/

/-- A register of the group is pending in some thread (R34). -/
def Group.anyPending (g : Group) : Bool :=
  g.sPend != 0 || laneNumbers.any fun l => (g.th l).standing != .exited && (g.th l).vPend != 0

/-- An atomic with acquire and N set of the group is outstanding (R201). -/
def Core.acquireOwed (k : Core) (g : Nat) : Bool :=
  let owes := fun (a : AtomRec) => a.slot == g && a.n && a.ord % 2 == 1
  k.atoms.any owes || k.sideLog.any fun e => e.atoms.any owes

/-- An AADDF or AADDB2 of the group is outstanding: its events are not yet counted (R59). -/
def Core.eventsOwed (k : Core) (g : Nat) : Bool :=
  let owes := fun (a : AtomRec) => a.slot == g && (a.aop == 1 || a.aop == 2)
  k.atoms.any owes || k.sideLog.any fun e => e.atoms.any owes

/-- The path of group slot `i` may issue: its fetch does not wait, no trapped set must enter first, and no FPEV
of its run waits for events (R59, R138, R165; log entry 54). -/
def Core.pathReady (k : Core) (i : Nat) (g : Group) (m : LaneMask) : Bool :=
  !g.fetchWait.contains m && (g.heldTraps.all fun t => t.before &&& m == 0) &&
    !(g.countWait.contains m && k.eventsOwed i)

/-- A listed path may issue: Junction has not begun to pre-empt the cluster (R141). -/
def Core.listedReady (k : Core) (i : Nat) (g : Group) (p : PathRec) : Bool := !g.stopped && k.pathReady i g p.mask

/-- Nothing of the group's own state keeps it from beginning a run; a held trapping set enters free trap registers
first (R327). -/
def Core.mayBegin (k : Core) (i : Nat) (g : Group) : Bool :=
  g.run.isNone && g.hold.isNone && !g.anyPending && !k.acquireOwed i &&
  (g.heldTraps.isEmpty || g.handlerSet != 0) &&
  (g.handler.any (k.pathReady i g) || g.paths.any (k.listedReady i g))

/-- Put a group back; its wait begins now if it could not begin a run before (R141). -/
def State.putGroup (s : State) (c g : Nat) (x : Group) : State :=
  let k := s.core c
  let was := match k.group g with
    | some y => k.mayBegin g y
    | none => false
  s.setGroup c g (if was then x else { x with since := s.tick })

/-- After a change from `s`: the groups of a core that may begin a run now and might not before begin their wait now
(R141). -/
def State.renew (t s : State) (c : Nat) : State :=
  (List.range 32).foldl (fun u i => match s.group c i, u.group c i with
    | some y, some x =>
      if !(s.core c).mayBegin i y && (t.core c).mayBegin i x then u.setGroup c i { x with since := u.tick } else u
    | _, _ => u) t

/-! ## Judging rejoin masks and barriers (R142, R167, R170) -/

/-- Release the threads of `m`: each goes on at PC + 4, and the instruction it waited at is complete for R100.
Their paths are listed at once in ascending order of the lowest lane, or at the end of a run in progress
(R139; log entry 53). -/
def Group.release (g : Group) (m : LaneMask) : Group :=
  let h := g.mapLanes m fun _ t => { t with standing := .ready, pc := t.pc + 4, regionStart := t.pc + 4 }
  if g.run.isSome then h
  else (h.addHandlers (m &&& g.handlerSet)).addPaths (h.placesOf (m &&& ~~~g.handlerSet))

/-- JUDGE of R167. -/
def Group.judge (g : Group) (i : Nat) : Group :=
  let arr := g.arrived[i]?.getD 0
  if (g.rejoin i &&& ~~~(arr ||| g.exitedMask)) = 0 then
    let held := arr &&& g.lanesWith fun t => t.standing == .waits i
    if arr = 0 then g
    else { (g.release held) with arrived := g.arrived.setIfInBounds i 0 }
  else g

/-- JUDGE of all sixteen masks, in ascending number (R167). -/
def Group.judgeAll (g : Group) : Group := (List.range 16).foldl Group.judge g

/-- The group slots of a core that hold groups of block `b`. -/
def Core.slotsOf (k : Core) (b : Nat) : List Nat :=
  (List.range 32).filter fun g => match k.group g with
    | some x => x.block == b
    | none => false

/-- The live blocks of a cluster, with their cores. -/
def State.clusterBlocks (s : State) (cluster : Nat) : List (Nat × Nat) :=
  s.blocks.filterMap fun (b, x) => match x with
    | some y => if y.cluster == cluster && !y.ended then some (b, y.core) else none
    | none => none

/-- Every thread of the group has arrived as `st` or counts as exited (R136, R170). -/
def Group.arrivedAt (g : Group) (st : Standing) : Bool :=
  (g.presentMask &&& ~~~(g.exitedMask ||| g.lanesWith (fun t => t.standing == st))) == 0

/-- No thread of the group waits as `st`. -/
def Group.noneAt (g : Group) (st : Standing) : Bool := g.lanesWith (fun t => t.standing == st) == 0

/-- Release the threads of a group that wait as `st` (R170). -/
def Group.releaseAt (g : Group) (st : Standing) : Group :=
  let m := g.lanesWith fun t => t.standing == st
  if m = 0 then g else g.release m

/-- Apply `f` to every group of the listed blocks. -/
def State.mapGroups (s : State) (bs : List (Nat × Nat)) (f : Group → Group) : State :=
  bs.foldl (fun s (b, c) => ((s.core c).slotsOf b).foldl (fun s g =>
    match s.group c g with
    | some x => s.putGroup c g (f x)
    | none => s) s) s

/-- Every group of the listed blocks satisfies `p`. -/
def State.allGroups (s : State) (bs : List (Nat × Nat)) (p : Group → Bool) : Bool :=
  bs.all fun (b, c) => ((s.core c).slotsOf b).all fun g => match s.group c g with
    | some x => p x
    | none => true

/-- An acquire (R195): the core's groups and every wider observer could have written any address its snapshot
holds, so all of it is discarded; at cluster scope or wider the constant cache is, too (R203). -/
def State.acquireAt (s : State) (c scope : Nat) : State :=
  let s1 := s.setCore c { s.core c with snap := [], old := [] }
  if scope = 0 then s1
  else { s1 with constants := tput s1.constants (hwCluster c) [], constantsOld := tput s1.constantsOld (hwCluster c) [] }
/-- An acquire at system scope. -/
def State.acquire (s : State) (c : Nat) : State := s.acquireAt c 4

/-- Judge the BAR barrier of block `b` (R170): at core scope, where only the core's side log keeps a
release from completing (R194). -/
def State.judgeBar (s : State) (b : Nat) : State :=
  match s.block b with
  | none => s
  | some blk =>
    let bs := [(b, blk.core)]
    let owed := (s.core blk.core).releases.any fun r => r.why == .bar b
    if !owed && s.allGroups bs (·.arrivedAt .bar) && !s.allGroups bs (·.noneAt .bar) then
      (s.acquireAt blk.core 0).mapGroups bs (·.releaseAt .bar)
    else s

/-- Judge the BARC barrier of a cluster: every thread has arrived or exited and every release made at
an arrival has completed; each core then acquires (R170, R194, R195). -/
def State.judgeBarc (s : State) (cluster : Nat) : State :=
  let bs := s.clusterBlocks cluster
  let owed := bs.any fun (b, c) => (s.core c).releases.any fun r => r.why == .barc b
  if !owed && s.allGroups bs (·.arrivedAt .barc) && !s.allGroups bs (·.noneAt .barc) then
    (bs.foldl (fun s (_, c) => s.acquireAt c 1) s).mapGroups bs (·.releaseAt .barc)
  else s

/-- Judge both barriers of a block. -/
def State.judgeBarriers (s : State) (b : Nat) : State :=
  match s.block b with
  | none => s
  | some blk => (s.judgeBar b).judgeBarc blk.cluster

/-! ## Releases (R194) -/

/-- The stores and atomics below `limit` are performed at every scope up to `scope`, and so are the side-log
entries of the partition: those before an atomic's own release, all of them for any other (R194). -/
def Core.releaseMet (k : Core) (part limit scope : Nat) (why : ReleaseFor) : Bool :=
  let later := fun (e : SideEntry) => match why with
    | .atomic _ => decide (limit ≤ e.id)
    | _ => false
  k.stores.all (fun t => decide (limit ≤ t.id) || decide (scope ≤ t.level)) &&
  k.atoms.all (fun a => decide (limit ≤ a.id)) && k.sideLog.all fun e => e.part != part || later e

/-- The partition a group runs in. -/
def State.partOf (s : State) (launch : Nat) : Nat := match s.launch launch with | some l => l.part | none => 0

/-- Begin a release of a core; one that is met already is complete at once. -/
def State.startRelease (s : State) (c part scope : Nat) (why : ReleaseFor) : State :=
  let k := s.core c
  if k.releaseMet part k.nextId scope why then s
  else s.setCore c { k with releases := k.releases ++ [{ part := part, limit := k.nextId, scope := scope, why := why }] }

/-! ## Exits (R136, R169) -/

/-- The lanes of lane `l`'s quad. -/
def quadLanes (l : Nat) : List Nat := [l / 4 * 4, l / 4 * 4 + 1, l / 4 * 4 + 2, l / 4 * 4 + 3]

/-- Every real thread of the quad of `l` has exited. -/
def Group.quadOver (g : Group) (l : Nat) : Bool :=
  (quadLanes l).all fun j => (g.th j).kind != .real || (g.th j).standing == .exited

/-- A thread that exits: its returns are discarded. -/
def Thread.exit (t : Thread) : Thread := { t with standing := .exited, vPend := 0 }

/-- The threads of `m` exit; a helper lane is finished until its quad's real threads have exited, and
every helper lane exits at that moment (R136, R169). Arrivals of exited lanes at masks stand. -/
def Group.exitLanes (g : Group) (m : LaneMask) : Group :=
  let a := g.mapLanes (m &&& g.realMask) fun _ t => t.exit
  let b := a.mapLanes (m &&& ~~~g.realMask) fun _ t => { t with standing := .finished }
  b.mapLanes (b.lanesWith (fun t => t.kind == .helper)) fun l t => if b.quadOver l then t.exit else t

/-- Drop the returns outstanding to lanes that have exited (R136, R169). -/
def Core.dropReturns (k : Core) (g : Nat) (gone : LaneMask) : Core :=
  { k with
    loads := k.loads.filterMap fun r =>
      if r.slot = g then
        let m := r.lanes &&& ~~~gone
        if m = 0 then none else some { r with lanes := m }
      else some r
    rets := k.rets.map fun r =>
      if r.slot = g then { r with vals := r.vals.filter fun (l, _, _) => !gone.getLsbD l } else r }

/-- The command queues of R169. -/
def commandQueues : List Nat := [0, 2, 4, 6, 8]

/-- When every thread of a group has exited, its status queues and hqm's inbound half are discarded;
its command queues stay until accepted (R169). -/
def Group.emptyStatus (g : Group) : Group :=
  ([1, 3, 5, 7, 9, 10, 11, 12, 13] : List Nat).foldl (fun g q => g.setQueue q []) g

/-- Nothing of the group keeps its block: exited, and its command queues accepted (R153, R169). -/
def Group.spent (g : Group) : Bool :=
  g.over && commandQueues.all fun q => (g.queue q).isEmpty

/-- Lanes that have exited leave the handler, the held trapping sets and the list (R136, R327). -/
def Group.settle (g : Group) : Group :=
  let gone := g.exitedMask
  let h := { g with
    handlerSet := g.handlerSet &&& ~~~gone
    handler := (g.handler.map fun m => m &&& ~~~gone).filter fun m => m != 0
    heldTraps := (g.heldTraps.map fun (t : HeldTrap) => { t with mask := t.mask &&& ~~~gone, before := t.before &&& ~~~gone }).filter
      fun t => t.mask != 0 }
  h.relist h.paths

/-- An instruction that held its group is complete: its lanes go on at PC + 4, on the path that already stands there if
there is one (R39); after a commit-class one a
new region begins (R100, R305). -/
def Group.complete (g : Group) (m : LaneMask) (commit : Bool) : Group :=
  let h := g.mapLanes m fun _ t =>
    { t with pc := t.pc + 4, regionStart := if commit then t.pc + 4 else t.regionStart }
  let open_ := { h with hold := none }
  (open_.addHandlers (m &&& h.handlerSet)).addPaths (h.placesOf (m &&& ~~~h.handlerSet))

end Sys2Proof.Machine
end

