-- ==== Sys2Proof/Machine/Memory.lean ====
section
/-! DEFINITION. Memory: the places of bytes, the checks of an address (R172 to R182, R228), translation
(R334 to R337), what a core reads through its own stores and its snapshot (R191 to R198), the side log's
overlap, and fault records (R332, R364). -/

namespace Sys2Proof.Machine

/-! ## Bytes -/

/-- The byte a place holds now. -/
def State.byteAt (s : State) (l : Loc) : Byte :=
  match l.place with
  | .local => mget s.mem l.off
  | .host => mget s.hostMem l.off
  | .peer p => mget (tget [] s.peerMem p) l.off
  | .chip => mget s.chip l.off
  | .scratch b => match s.block b with | some x => mget x.scratch l.off | none => unwritten
  | .share b => match s.block b with | some x => mget x.share l.off | none => unwritten
  | .slice b t => match s.block b with | some x => mget (tget [] x.slices t) l.off | none => unwritten
  | .tiles b => match s.block b with | some x => mget x.tiles l.off | none => unwritten

/-- The LLC's sector of a local address is dirty (R184). -/
def markDirty (d : List Nat) (pa : Nat) : List Nat := if d.contains (pa / 256) then d else pa / 256 :: d

/-- Change one byte of a place. -/
def State.setByte (s : State) (l : Loc) (v : Byte) : State :=
  match l.place with
  | .local => { s with mem := mput s.mem l.off v, dirty := markDirty s.dirty l.off }
  | .host => { s with hostMem := mput s.hostMem l.off v }
  | .peer p => { s with peerMem := tput s.peerMem p (mput (tget [] s.peerMem p) l.off v) }
  | .chip => { s with chip := mput s.chip l.off v }
  | .scratch b => match s.block b with
    | some x => s.setBlock b { x with scratch := mput x.scratch l.off v } | none => s
  | .share b => match s.block b with
    | some x => s.setBlock b { x with share := mput x.share l.off v } | none => s
  | .slice b t => match s.block b with
    | some x => s.setBlock b { x with slices := tput x.slices t (mput (tget [] x.slices t) l.off v) } | none => s
  | .tiles b => match s.block b with
    | some x => s.setBlock b { x with tiles := mput x.tiles l.off v } | none => s

/-- The place `n` bytes further on. -/
def Loc.add (l : Loc) (n : Nat) : Loc := { l with off := l.off + n }

/-- Two ranges of one place meet. -/
def Loc.meets (a : Loc) (n : Nat) (b : Loc) (m : Nat) : Bool :=
  a.place = b.place && a.off < b.off + m && b.off < a.off + n

/-- The first range covers the second. -/
def Loc.covers (a : Loc) (n : Nat) (b : Loc) (m : Nat) : Bool :=
  a.place = b.place && decide (a.off ≤ b.off) && decide (b.off + m ≤ a.off + n)

/-- `n` bytes of a place. -/
def State.bytesAt (s : State) (l : Loc) : Nat → List Byte
  | 0 => []
  | n + 1 => s.byteAt l :: s.bytesAt (l.add 1) n

/-- Lay bytes at a place. -/
def State.layBytes (s : State) (l : Loc) : List Byte → State
  | [] => s
  | b :: bs => (s.setByte l b).layBytes (l.add 1) bs

/-- A word of a place (R6). -/
def State.wordAt (s : State) (l : Loc) : Word := BitVec.ofNat 32 (leNat (s.bytesAt l 4))
def State.dwordAt (s : State) (l : Loc) : Dword := BitVec.ofNat 64 (leNat (s.bytesAt l 8))

/-! ## Stores into a live consist (R213, R222; log entry 17) -/

/-- A key for the place of a consist's header. -/
def locKey (l : Loc) : Nat :=
  match l.place with
  | .local => l.off
  | .host => 2 ^ 60 + l.off
  | .peer p => 2 ^ 60 * (2 + p) + l.off
  | _ => 2 ^ 60 * 15 + l.off

/-- The place of a key. -/
def keyLoc (k : Nat) : Loc :=
  match k / 2 ^ 60 with
  | 0 => ⟨.local, k⟩
  | 1 => ⟨.host, k % 2 ^ 60⟩
  | p => ⟨.peer (p - 2), k % 2 ^ 60⟩

def State.consist (s : State) (k : Nat) : Consist := tget Consist.reset s.consists k
def State.setConsist (s : State) (k : Nat) (c : Consist) : State := { s with consists := tput s.consists k c }

/-- The generation number of a pin slot that its PIN has not bound yet. -/
def unboundGen : Nat := 2 ^ 32

/-- The header's count of records not yet delivered (R212). -/
def State.pendingAt (s : State) (k : Nat) : Nat := (s.wordAt ((keyLoc k).add 32)).toNat

/-- Some pin of the consist has not been released yet (R213). -/
def State.pinHeld (s : State) (k : Nat) : Bool :=
  let holds := fun (p : Pin) => p.header == k && p.gen != unboundGen
  (s.cores.any fun c => c.2.pins.any fun p => p.2.any holds) ||
  (s.saved.any fun cl => cl.any fun b => b.pins.any fun p => holds p.2) ||
  s.consistReqs.any fun r => r.kind == 2 && r.header == k

/-- The records of a consist are as many as its header says: the first of those held, then what the table area holds
(R213). -/
def State.fitRecords (s : State) (k : Nat) : State :=
  let c := s.consist k
  let n := s.pendingAt k
  let more := ((Config.tableRecords s.tick k).take (n - c.waiting.length)).zipIdx.map fun (r, i) =>
    ({ base := r.1, launch := r.2.1, block := r.2.2.1, grp := r.2.2.2, seq := s.emitted + i } : Reclaim)
  { s.setConsist k { c with waiting := c.waiting.take n ++ more } with emitted := s.emitted + more.length }

/-- What the manager finds in a table area that has been stored into is free. -/
def State.strayConsist (s : State) (k : Nat) : State :=
  s.setConsist k { s.consist k with
    gens := Config.tableGens s.tick k
    pinCounts := Config.tablePins s.tick k
    removers := Config.tableRemovers s.tick k
    waiting := []
    astray := true }

/-- Bytes of the consist's header or table area have been stored; `free` says that the program might overwrite or reuse
them, every pin being released and no record pending: no record is then left (R213). -/
def State.noteConsist (s : State) (k : Nat) (free : Bool) (l : Loc) (n : Nat) : State :=
  let area := (s.consist k).ranges.any fun r => r.2.1.meets r.2.2 l n
  let s1 := if area then s.strayConsist k else s
  if (area || (keyLoc k).meets 64 l n) && !free then s1.fitRecords k else s1

/-- Bytes have been stored; `was` is the state before. -/
def State.noteStore (s was : State) (l : Loc) (n : Nat) : State :=
  s.consists.foldl (fun t kc => t.noteConsist kc.1 (!was.pinHeld kc.1 && was.pendingAt kc.1 == 0) l n) s

/-- Write bytes at a place, on whosever behalf but a consist manager's. -/
def State.setBytes (s : State) (l : Loc) (bs : List Byte) : State := (s.layBytes l bs).noteStore s l bs.length

def State.setWord (s : State) (l : Loc) (w : Word) : State := s.setBytes l (leBytes w.toNat 4)
def State.setDword (s : State) (l : Loc) (w : Dword) : State := s.setBytes l (leBytes w.toNat 8)

/-! ## Presence (R177) -/

/-- The 256-byte sector is absent. -/
def State.absent (s : State) (l : Loc) : Bool :=
  match l.place with
  | .scratch b => match s.block b with | some x => x.absentScratch.contains (l.off / 256) | none => false
  | .share b => match s.block b with | some x => x.absentShare.contains (l.off / 256) | none => false
  | _ => false

/-- Clear or set the presence bit of a sector. -/
def State.setPresence (s : State) (l : Loc) (present : Bool) : State :=
  let upd := fun (xs : List Nat) =>
    if present then xs.filter (· != l.off / 256) else if xs.contains (l.off / 256) then xs else l.off / 256 :: xs
  match l.place with
  | .scratch b => match s.block b with
    | some x => s.setBlock b { x with absentScratch := upd x.absentScratch } | none => s
  | .share b => match s.block b with
    | some x => s.setBlock b { x with absentShare := upd x.absentShare } | none => s
  | _ => s

/-! ## Cores by place (R150, R152) -/

/-- The core at a signed place relative to core `c`, if it lies in the mesh. -/
def coreAt (c : Nat) (dx dy : Int) : Option Nat :=
  let x := (coreCol c : Int) + dx
  let y := (coreRow c : Int) + dy
  if 0 ≤ x ∧ x < 20 ∧ 0 ≤ y ∧ y < 16 then some (y.toNat * 20 + x.toNat) else none

/-- The block of cluster `cl` that runs on core `c`. -/
def State.blockOn (s : State) (cl c : Nat) : Option Nat :=
  (s.blocks.find? fun (_, x) => match x with
    | some y => y.cluster == cl && y.core == c && !y.ended
    | none => false).map (·.1)

/-- The block of cluster `cl` with rank `r`. A block that has ended keeps its share reachable while its cluster
runs (log entry 27). -/
def State.blockOfRank (s : State) (cl r : Nat) : Option Nat :=
  (s.blocks.find? fun (_, x) => match x with
    | some y => y.cluster == cl && y.crank == r
    | none => false).map (·.1)

/-- Blocks in a cluster, by shape (R146, R150). -/
def shapeBlocks (shape : Nat) : Nat := match shape with | 0 => 1 | 1 => 2 | 2 => 4 | 3 => 8 | _ => 1
/-- Width of a shape in cores (R146). -/
def shapeWidth (shape : Nat) : Nat := match shape with | 0 => 1 | 1 => 2 | 2 => 2 | 3 => 4 | _ => 1
def Launch.shape (l : Launch) : Nat := ((l.word 0x34).extractLsb' 0 3).toNat
def Launch.priority (l : Launch) : Nat := ((l.word 0x34).extractLsb' 8 3).toNat
def Launch.scratchBytes (l : Launch) : Nat := (l.word 0x38).toNat
def Launch.shareBytes (l : Launch) : Nat := (l.word 0x3C).toNat
def Launch.accTiles (l : Launch) : Nat := (l.word 0x40).toNat
def Launch.sliceBytes (l : Launch) : Nat := (l.word 0x44).toNat
def Launch.keyHandle (l : Launch) : Nat := (l.word 0x68).toNat

/-! ## Slices (R179, R184) -/

/-- The home slice of a local physical address, whose LPDDR-6 channel has the same number (R184). -/
def homeSlice (pa : Nat) : Nat := (pa / 2 ^ 10 % 2 ^ 6) ^^^ (pa / 2 ^ 16 % 2 ^ 6)

/-- Where a byte of the chip-scratchpad space stands: way, slice, set (R179). -/
def chipPlace (b : Nat) : Nat × Nat × Nat :=
  let line := b % 2 ^ 27 / 1024
  (b / 2 ^ 27, line % 64, line / 64)

/-- Bytes of the chip-scratchpad space that the carved-out ways hold (R179). -/
def State.chipBytes (s : State) : Nat := s.carveout * 2 ^ 27

/-! ## Who accesses, and how -/

/-- The access kinds a page and a path judge (R172, R336). -/
inductive Kind where
  | load | store | atomic | fetch
  deriving DecidableEq, Repr

/-- On whose behalf an access is made. -/
structure Who where
  core : Nat
  launch : Nat
  block : Nat
  thread : Nat          -- grp * 32 + lane, for the lane slice
  supervisor : Bool
  engine : Bool         -- an engine: no lane slice, no constant path (R283), fault kind 3
  deriving DecidableEq, Repr

/-- What an address names, once R228's checks have passed. -/
inductive Target where
  | loc (l : Loc)
  | va (a : Nat) (constant : Bool)
  | window (off : Nat)
  | fails (check : Nat)           -- the first of R228's checks it fails
  deriving DecidableEq, Repr

/-- The path nibble of an address (R172). -/
def pathOf (a : Dword) : Nat := a.toNat / 2 ^ 60
/-- Bits `hi` down to `lo` of an address. -/
def abits (a : Dword) (hi lo : Nat) : Nat := a.toNat / 2 ^ lo % 2 ^ (hi + 1 - lo)
/-- An 8-bit field read as signed. -/
def signed8 (n : Nat) : Int := if n < 128 then (n : Int) else (n : Int) - 256

/-- Check 1 of R228: the path exists and the bits R172 marks zero are zero. -/
def pathOk (a : Dword) : Bool :=
  match pathOf a with
  | 0 => abits a 59 57 == 0
  | 8 => abits a 59 14 == 0
  | 9 => abits a 59 48 == 0 && abits a 31 20 == 0
  | 10 => abits a 59 22 == 0
  | 11 => abits a 59 30 == 0
  | 12 => abits a 59 22 == 0
  | 13 => abits a 59 57 == 0
  | 15 => abits a 59 24 == 0
  | _ => false

/-- Check 3 of R228: the path accepts the access by kind and width (R172, R359). -/
def pathAccepts (a : Dword) (k : Kind) (size : Nat) : Bool :=
  match pathOf a, k with
  | 8, .atomic => false
  | 12, .atomic => false
  | 12, _ => 4 ≤ size
  | 13, .load => true
  | 13, _ => false
  | 15, .atomic => false
  | 15, _ => size == 4 || size == 8
  | _, _ => true

/-- The bytes of the lane slice, window, grant or tiles the address must lie in, and the place its byte 0
has; none where the place is invalid (checks 5 and 6 of R228; R175 to R181). -/
def State.window (s : State) (w : Who) (a : Dword) : Option (Nat × Nat × (Nat → Loc)) :=
  match s.launch w.launch, s.block w.block with
  | some l, some b =>
    match pathOf a with
    | 8 => some (abits a 13 0, l.sliceBytes, fun o => ⟨.slice w.block w.thread, o⟩)
    | 9 =>
      match coreAt b.core (signed8 (abits a 47 40)) (signed8 (abits a 39 32)) with
      | none => none
      | some c =>
        if hwCluster c = hwCluster b.core then
          (if c = b.core then some w.block else s.blockOn b.cluster c).map fun t =>
            (abits a 19 0, l.scratchBytes, fun o => ⟨.scratch t, o⟩)
        else none
    | 10 =>
      let n := shapeBlocks l.shape
      let o := abits a 21 0
      match s.blockOfRank b.cluster (o / 256 % n) with
      | none => some (o, 0, fun o => ⟨.share w.block, o⟩)
      | some t => some (o, n * l.shareBytes, fun o => ⟨.share t, o / (256 * n) * 256 + o % 256⟩)
    | 11 =>
      let p := s.partition l.part
      some (abits a 29 0, min (p.cspLen * 2 ^ 21) (s.chipBytes - p.cspBase * 2 ^ 21), fun o => ⟨.chip, p.cspBase * 2 ^ 21 + o⟩)
    | 12 => some (abits a 21 0, l.accTiles * 16384, fun o => ⟨.tiles w.block, o⟩)
    | _ => none
  | _, _ => none

/-- Judge an address by R228, checks 1 to 6 in order. -/
def State.judge (s : State) (w : Who) (k : Kind) (size : Nat) (a : Dword) : Target :=
  if !pathOk a then .fails 1
  else if pathOf a == 15 && !w.supervisor then .fails 2
  else if !pathAccepts a k size then .fails 3
  else if a.toNat % size != 0 then .fails 4
  else match pathOf a with
    | 0 => .va (abits a 56 0) false
    | 13 => .va (abits a 56 0) true
    | 15 => .window (abits a 23 0)
    | _ => match s.window w a with
      | none => .fails 5
      | some (o, lim, f) => if o + size ≤ lim then .loc (f o) else .fails 6

/-- The trap cause of a failed check (R228, R336); 12 is the privilege of a control register. -/
def checkCause : Nat → Nat
  | 2 => 10
  | 12 => 10
  | 4 => 6
  | 5 => 8
  | 7 => 9
  | 8 => 9
  | _ => 7

/-! ## Translation (R334 to R336) -/

/-- The 64 KiB page of an address, which a fault record names. -/
def pageOf (va : Nat) : Nat := va / 65536 * 65536

/-- What a translation answers; `bad n` is the n-th condition judged, counted on from R228's checks:
7 and 8 conditions 1 and 2 of R336, 9 and 10 its conditions 3 and 4, 11 an atomic on a host page. -/
inductive Xlat where
  | ok (l : Loc)
  | unmapped
  | bad (check : Nat)
  deriving DecidableEq, Repr

/-- A physical address lies in the module's 1 TiB of LPDDR-6 (R2) and in the partition's ranges (R364). -/
def Partition.owns (p : Partition) (pa : Nat) : Bool :=
  decide (pa < 2 ^ 40) && p.ranges.toList.any fun (b, n) => b * 2 ^ 21 ≤ pa && pa < (b + n) * 2 ^ 21

/-- An entry's bits. -/
def ebits (e : Dword) (hi lo : Nat) : Nat := abits e hi lo

/-- The module at a peer port accepts an access of a partition: a free choice of that module's (R367; log entry 60). -/
def State.peerAdmits (s : State) (part port pa : Nat) : Bool := Config.peerAdmits s.tick port part pa

/-- Judge a leaf (R336): the reserved bits are [63:52] and [11]; the link counts with target 2 alone, and the
address field is added whole (R335). `big` is a 2 MiB leaf. A read of peer memory that the peer refuses ends as a
refusal of the page would (R367). -/
def State.judgeLeaf (s : State) (part key : Nat) (k : Kind) (va : Nat) (big : Bool) (e : Dword) : Xlat :=
  let tgt := ebits e 6 5
  let link := ebits e 9 7
  let reserved := ebits e 63 52 != 0 || ebits e 11 11 != 0
  let pa := ebits e 51 12 * 2 ^ 12 + (if big then va % 2 ^ 21 else va % 2 ^ 16)
  let r := ebits e 2 2 == 1
  let w := ebits e 3 3 == 1
  let x := ebits e 4 4 == 1
  let allowed := match k with
    | .load => r
    | .store => w
    | .atomic => r && w
    | .fetch => x
  if reserved || tgt == 3 || (tgt == 2 && link < 2) then .bad 7
  else if !allowed then .bad 8
  else if tgt == 0 && !(s.partition part).owns pa then .bad 9
  else if ebits e 10 10 == 1 && !(s.keys.any fun h =>
      h.handle == key && (match h.bound with | some (b, n) => b ≤ pa && pa < b + n | none => false)) then .bad 10
  else if tgt == 1 && k == .atomic then .bad 11
  else if tgt == 2 && (k == .load || k == .atomic || k == .fetch) && !s.peerAdmits part link pa then .bad 8
  else match tgt with
    | 0 => .ok ⟨.local, pa⟩
    | 1 => .ok ⟨.host, pa⟩
    | _ => .ok ⟨.peer link, pa⟩

/-- An eight-byte table entry in local memory, whose 1 TiB end at 2^40 (R2). -/
def State.entryAt (s : State) (pa : Nat) : Dword := if pa < 2 ^ 40 then s.dwordAt ⟨.local, pa⟩ else 0

/-- A pointer's reserved bits are zero; its bits [10:2] are not read (R335). -/
def pointerOk (e : Dword) : Bool := ebits e 11 11 == 0 && ebits e 63 52 == 0

/-- The leaf the walk from `root` reaches: the entry and its size, or why it stops (R335, R336). -/
def State.walk (s : State) (root va : Nat) : Sum Xlat (Dword × Bool) :=
  let e1 := s.entryAt (root + 8 * (va / 2 ^ 39 % 2 ^ 18))
  if ebits e1 0 0 = 0 then .inl .unmapped
  else if ebits e1 1 1 = 1 || !pointerOk e1 then .inl (.bad 7)
  else
    let e2 := s.entryAt (ebits e1 51 12 * 2 ^ 12 + 8 * (va / 2 ^ 21 % 2 ^ 18))
    if ebits e2 0 0 = 0 then .inl .unmapped
    else if ebits e2 1 1 = 1 then .inr (e2, true)
    else if !pointerOk e2 then .inl (.bad 7)
    else
      let e3 := s.entryAt (ebits e2 51 12 * 2 ^ 12 + 8 * (va / 2 ^ 16 % 2 ^ 5))
      if ebits e3 0 0 = 0 then .inl .unmapped
      else if ebits e3 1 1 = 0 then .inl (.bad 7)
      else .inr (e3, false)

/-- The cached leaf that covers `va` (R335, R337). -/
def Core.tlbHit (k : Core) (launch va : Nat) : Option TlbEntry :=
  k.tlb.find? fun t => t.launch == launch && t.va ≤ va && va < t.va + t.size

/-- What a launch's accesses are translated by (R334, R335). -/
def Launch.roots (l : Launch) : Roots :=
  { heapBase := l.heapBase, heapLim := l.heapLim, heapOfs := l.heapOfs, ptroot := l.ptroot }

/-- Translate for a launch on a core (R334): the heap triple first, but never for a fetch; then the cached leaf or
the walk. An access that keeps earlier values is translated by them, without the cached leaves (R109). -/
def State.translateBy (s : State) (c launch : Nat) (r : Option Roots) (k : Kind) (va : Nat) : Xlat :=
  match s.launch launch with
  | none => .bad 9
  | some l =>
    let q := r.getD l.roots
    if q.heapBase.toNat ≤ va && va < q.heapLim.toNat && k != .fetch then
      let pa := (va + q.heapOfs.toNat) % 2 ^ 52
      if (s.partition l.part).owns pa then .ok ⟨.local, pa⟩ else .bad 9
    else match if r.isNone then (s.core c).tlbHit launch va else none with
      | some t => s.judgeLeaf l.part l.keyHandle k va (t.size == 2 ^ 21) t.entry
      | none => match s.walk q.ptroot.toNat va with
        | .inl x => x
        | .inr (e, big) => s.judgeLeaf l.part l.keyHandle k va big e

/-- Translate by the launch's present values. -/
def State.translate (s : State) (c launch : Nat) (k : Kind) (va : Nat) : Xlat := s.translateBy c launch none k va

/-- Cache the leaf that translates `va` (R335: never an entry with V clear). -/
def State.fillTlb (s : State) (c launch va : Nat) : State :=
  match s.launch launch with
  | none => s
  | some l =>
    if l.heapBase.toNat ≤ va && va < l.heapLim.toNat then s
    else match (s.core c).tlbHit launch va with
      | some _ => s
      | none => match s.walk l.ptroot.toNat va with
        | .inl _ => s
        | .inr (e, big) =>
          let size := if big then 2 ^ 21 else 2 ^ 16
          let k := s.core c
          s.setCore c { k with tlb := { launch := launch, va := va / size * size, size := size, entry := e } :: k.tlb }

/-! ## Reading as a core (R193, R198) -/

/-- The byte an own store still holds, the youngest first. -/
def Core.ownByte (k : Core) (l : Loc) : Option Byte :=
  k.stores.foldl (fun r st =>
    if st.loc.place = l.place ∧ st.loc.off ≤ l.off ∧ l.off < st.loc.off + st.bytes.length ∧ st.level = 0
    then some (st.bytes.getD (l.off - st.loc.off) 0) else r) none

/-- What a place holds now, as the core sees it: its own stores over the shared byte. -/
def State.coreByte (s : State) (c : Nat) (l : Loc) : Byte :=
  ((s.core c).ownByte l).getD (s.byteAt l)

def State.coreBytes (s : State) (c : Nat) (l : Loc) : Nat → List Byte
  | 0 => []
  | n + 1 => s.coreByte c l :: s.coreBytes c (l.add 1) n

/-- The place has a snapshot in the core (R183, R195, R198). -/
def Place.cached : Place → Bool
  | .local => true
  | .host => true
  | .peer _ => true
  | _ => false

/-- Forget the bytes of a range; what is left of a range that was read at one instant still was. -/
def snapCut (m : List (Loc × List Byte)) (l : Loc) (n : Nat) : List (Loc × List Byte) :=
  m.flatMap fun (r, bs) =>
    if r.meets bs.length l n then
      (if r.off < l.off then [(r, bs.take (l.off - r.off))] else []) ++
      (if l.off + n < r.off + bs.length then [(r.add (l.off + n - r.off), bs.drop (l.off + n - r.off))] else [])
    else [(r, bs)]

/-- Hold bytes read at one instant in place of what was held of them. -/
def snapPut (m : List (Loc × List Byte)) (l : Loc) (bs : List Byte) : List (Loc × List Byte) :=
  (l, bs) :: snapCut m l bs.length

/-- The bytes held for a range, if they were read at one instant (R191). -/
def snapGets (m : List (Loc × List Byte)) (l : Loc) (n : Nat) : Option (List Byte) :=
  (m.find? fun p => p.1.covers p.2.length l n).map fun p => (p.2.drop (l.off - p.1.off)).take n

/-- The core's snapshot forgets a range. -/
def Core.dropSnap (k : Core) (l : Loc) (n : Nat) : Core := { k with snap := snapCut k.snap l n }

/-- The line of 1,024 bytes that a place lies in. -/
def lineOf (l : Loc) : Nat := l.off / 1024

/-- A line of local memory whose cached bytes were read before an NMU updated it. -/
def isOld (old : List Nat) (l : Loc) : Bool := l.place == .local && old.contains (lineOf l)

/-- The cached bytes, and the lines they hold of before an update, once a place is read afresh: no byte of its line from
before an NMU's update stays beside one from after it (R207, R323). -/
def freshLine (m : List (Loc × List Byte)) (old : List Nat) (l : Loc) : List (Loc × List Byte) × List Nat :=
  if isOld old l then (snapCut m ⟨.local, 1024 * lineOf l⟩ 1024, old.filter (· != lineOf l)) else (m, old)

/-- The core's own stores issued before `id` to a range, not yet performed. -/
def Core.ownHeld (k : Core) (id : Nat) (l : Loc) (n : Nat) : List StoreRec :=
  k.stores.filter fun t => decide (t.id < id) && t.level == 0 && t.loc.meets t.bytes.length l n

/-- A load issued as `id` may read a range: its bytes stand at one place, in the youngest own store to them or in
shared memory (R191, R193). -/
def Core.ownClear (k : Core) (id : Nat) (l : Loc) (n : Nat) : Bool :=
  match (k.ownHeld id l n).getLast? with
  | none => true
  | some t => t.loc.covers t.bytes.length l n

/-- The byte an own store issued before `id` still holds, the youngest first. -/
def Core.ownByteBefore (k : Core) (id : Nat) (l : Loc) : Option Byte :=
  ({ k with stores := k.stores.filter fun t => t.id < id } : Core).ownByte l

/-- What a load reads: the shared bytes under the core's own stores issued before it, whichever path issued them
(R193; log entry 5). -/
def State.bytesBefore (s : State) (c id : Nat) (l : Loc) : Nat → List Byte
  | 0 => []
  | n + 1 => (((s.core c).ownByteBefore id l).getD (s.byteAt l)) :: s.bytesBefore c id (l.add 1) n

/-- What a core's cache holds for its loads, by the constant path or another, and the lines of it that are old. -/
def State.held (s : State) (c : Nat) (cst : Bool) : List (Loc × List Byte) × List Nat :=
  if cst then (tget [] s.constants (hwCluster c), tget [] s.constantsOld (hwCluster c)) else ((s.core c).snap, (s.core c).old)

/-- A load by the constant path reads: with `stale`, what the cluster's cache holds, if it holds it; otherwise the
shared bytes, which the cache then holds (R182, R203; log entry 5). -/
def State.loadConstant (s : State) (c : Nat) (l : Loc) (n : Nat) (stale : Bool) : State × List Byte :=
  let m := tget [] s.constants (hwCluster c)
  match if stale then snapGets m l n else none with
  | some bs => (s, bs)
  | none =>
    let bs := s.bytesAt l n
    let (m1, old) := freshLine m (tget [] s.constantsOld (hwCluster c)) l
    ({ s with constants := tput s.constants (hwCluster c) (snapPut m1 l bs)
              constantsOld := tput s.constantsOld (hwCluster c) old }, bs)

/-- The bytes that a load issued as `id` returns, and the state after it: with `stale`, what the snapshot holds of one
instant, unless a later own store has written there; otherwise the present value, which the snapshot then holds
(R191, R193, R198). -/
def State.loadFor (s : State) (c id : Nat) (l : Loc) (n : Nat) (constant stale : Bool) : State × List Byte :=
  let k := s.core c
  if !l.place.cached then (s, s.bytesBefore c id l n)
  else if constant then s.loadConstant c l n stale
  else
    let later := k.stores.any fun t => decide (id ≤ t.id) && t.loc.meets t.bytes.length l n
    match if stale && !later then snapGets k.snap l n else none with
    | some bs => (s, bs)
    | none =>
      let bs := s.bytesBefore c id l n
      let (m, old) := freshLine k.snap k.old l
      (s.setCore c { k with snap := if later then m else snapPut m l bs, old := old }, bs)

def AtomRec.size (a : AtomRec) : Nat := if a.aop < 12 then 4 else 8

/-- The place of an outstanding atomic now, if its page is open. -/
def State.atomLoc (s : State) (c : Nat) (a : AtomRec) : Option Loc :=
  match a.loc with
  | some l => some l
  | none => match s.translateBy c a.launch a.roots .atomic (abits a.ea 56 0) with
    | .ok l => some l
    | _ => none

/-- An atomic issued before `id` still has to update these bytes. -/
def State.atomBefore (s : State) (c id : Nat) (l : Loc) (n : Nat) : Bool :=
  (s.core c).atoms.any fun a => decide (a.id < id) && (match s.atomLoc c a with
    | some m => m.meets a.size l n
    | none => false)

/-- The place of an outstanding load now, if its page is open. -/
def State.loadLoc (s : State) (c : Nat) (r : LoadRec) : Option Loc :=
  match r.loc, s.group c r.slot with
  | some l, _ => some l
  | none, some g => match s.translateBy c g.launch r.roots .load (abits r.ea 56 0) with
    | .ok l => some l
    | _ => none
  | none, none => none

/-- The words of a load's bytes (R229). -/
def loadWords (size : Nat) (sg : Bool) (bs : List Byte) : List Word :=
  match size with
  | 1 => [if sg then (BitVec.ofNat 8 (leNat bs)).signExtend 32 else BitVec.ofNat 32 (leNat bs)]
  | 2 => [if sg then (BitVec.ofNat 16 (leNat bs)).signExtend 32 else BitVec.ofNat 32 (leNat bs)]
  | _ => (List.range (size / 4)).map fun j => BitVec.ofNat 32 (leNat ((bs.drop (4 * j)).take 4))

/-- Values for register `d` on of one lane. -/
def laneVals (l d : Nat) (ws : List Word) : List (Nat × Nat × Word) :=
  ws.zipIdx.map fun (w, j) => (l, d + j, w)

/-- What a load of these bytes writes: each lane the whole, or its own part of a shared constant word (R182, R229). -/
def LoadRec.results (r : LoadRec) (bs : List Byte) : List (Nat × Nat × Word) :=
  if r.n then []
  else (lanesOf r.lanes).flatMap fun l =>
    match r.parts.find? fun p => p.1 == l with
    | some (_, o, n) => laneVals l r.d (loadWords n r.signed ((bs.drop o).take n))
    | none => laneVals l r.d (loadWords r.size r.signed bs)

/-- Values come back to a group slot: they wait to be written (R34). -/
def Core.addRet (k : Core) (slot : Nat) (vals : List (Nat × Nat × Word)) : Core :=
  if vals.isEmpty then k else { k with rets := k.rets ++ [{ slot := slot, vals := vals, svals := [] }] }

/-- Loads of a core take these bytes: each then only waits to be written (R34). -/
def State.takeLoads (s : State) (c : Nat) (qs : List (LoadRec × List Byte)) : State :=
  let k := s.core c
  s.setCore c (qs.foldl (fun k q => k.addRet q.1.slot (q.1.results q.2))
    { k with loads := k.loads.filter fun r => !(qs.any fun q => q.1 == r) })

/-- The loads of a group issued before `id` that still have to read these bytes: no later access of the group reads them
before (R28, R191). Those that wait for a page or a sector are not yet due. -/
def State.olderLoads (s : State) (c slot id : Nat) (l : Loc) (n : Nat) : List (LoadRec × Loc) :=
  if s.absent l then []
  else (s.core c).loads.filterMap fun r =>
    if r.slot != slot || id ≤ r.id || r.waits then none
    else match s.loadLoc c r with
      | some m => if m.meets r.size l n then some (r, m) else none
      | none => none

/-- Stores to these places wait in the core's store list until performed; a lane slice and the block's
own tiles are private and are written at once (R193, R203). -/
def Place.shared : Place → Bool
  | .slice _ _ => false
  | .tiles _ => false
  | _ => true

/-- A core issues a store (R192, R232): the core itself sees it from now on. -/
def State.issueStore (s : State) (c slot launch : Nat) (l : Loc) (bs : List Byte) : State :=
  if l.place.shared then
    let k := s.core c
    s.setCore c { k with
      stores := k.stores ++ [{ id := k.nextId, slot := slot, launch := launch, loc := l, bytes := bs, level := 0 }]
      nextId := k.nextId + 1
      snap := if l.place.cached then snapPut k.snap l bs else k.snap }
  else s.setBytes l bs

/-! ## The side log's hold on bytes (R231, R233) -/

/-- Some entry of the core's side log, issued before `id`, holds a byte of [va, va + n) of a launch's address space. -/
def Core.logHolds (k : Core) (id part va n : Nat) : Bool :=
  k.sideLog.any fun e => decide (e.id < id) && e.part == part &&
    ((e.writes.any fun (a, bs) => a < va + n && va < a + bs.length) ||
     e.atoms.any fun r => r.ea.toNat < va + n && va < r.ea.toNat + (if r.aop < 12 then 4 else 8))

/-! ## Hints of LLC lines (R185) -/

/-- A local line lies in a range that its partition's protected-range attribute marks evict-last (R185). -/
def State.keepsLast (s : State) (pa : Nat) : Bool :=
  s.partitions.any fun (_, p) => p.active && p.evictLast.any fun (b, n) => b ≤ pa && pa < b + n

/-- A local line takes a hint, 1 evict-first, 2 evict-last, otherwise normal, unless it keeps evict-last (R185). -/
def State.setHint (s : State) (pa hint : Nat) : State :=
  let h := if s.keepsLast pa then 2 else hint
  { s with hints := if h = 1 ∨ h = 2 then tput s.hints (pa / 1024) h else tdel s.hints (pa / 1024) }

/-- An access to local memory gives its line the normal hint (R185). -/
def State.touch (s : State) (l : Loc) : State :=
  match l.place with
  | .local => s.setHint l.off 0
  | _ => s

/-! ## Engine reads (R204, R332) -/

/-- What an engine's read meets. -/
inductive Got where
  | ok (bs : List Byte)
  | absent
  | unmapped (va : Nat)
  | refused (check : Nat)
  deriving DecidableEq, Repr

/-- An engine or a unit of a partition waits for the page: its accesses go on at the next resolve (R332, R338; log entry
65). -/
def State.unitWaits (s : State) (launch va : Nat) : Bool :=
  (s.partition (s.partOf launch)).unitPages.contains (pageOf va)

/-- Resolve one byte address for a core or an engine. -/
def State.resolve (s : State) (w : Who) (k : Kind) (a : Dword) : Target × Xlat :=
  let k' := if w.engine && pathOf a == 12 then (4 : Nat) else 1
  let a' := if w.engine && pathOf a == 12 then BitVec.ofNat 64 (a.toNat / 4 * 4) else a
  match s.judge w k k' a' with
  | .loc l => (.loc l, .ok (l.add (a.toNat - a'.toNat)))
  | .va v cst => (.va v cst, if w.engine && s.unitWaits w.launch v then .unmapped else s.translate w.core w.launch k v)
  | t => (t, .bad 1)

/-- Some entry of the core's side log, issued before `id`, holds one of `n` bytes at a global address (R204, R231). -/
def State.loggedBefore (s : State) (w : Who) (id : Nat) (a : Dword) (n : Nat) : Bool :=
  pathOf a == 0 && (match s.launch w.launch with
    | some l => (s.core w.core).logHolds id l.part (abits a 56 0) n
    | none => false)

/-- Some entry of the side log holds one of the bytes. -/
def State.logged (s : State) (w : Who) (a : Dword) (n : Nat) : Bool := s.loggedBefore w (s.core w.core).nextId a n

/-- Read `n` bytes as a load of the issuing core (R204): a byte in an absent sector, or one that the side log holds,
is not there yet (R177, R231). -/
def State.readAs (s : State) (w : Who) (a : Dword) : Nat → Got
  | 0 => .ok []
  | n + 1 =>
    match s.resolve w .load a with
    | (.fails k, _) => .refused k
    | (.window _, _) => .refused 3
    | (_, .bad k) => .refused k
    | (.va v _, .unmapped) => .unmapped v
    | (_, .unmapped) => .refused 1
    | (_, .ok l) =>
      if s.absent l || s.logged w a 1 then .absent
      else match s.readAs w (a + 1) n with
        | .ok bs => .ok (s.coreByte w.core l :: bs)
        | g => g

/-- An engine has read bytes as loads of the issuing core: a later load of them returns no earlier value, so the
core's snapshot of them goes (R191, R204), and their lines take the normal hint (R185). Only the global path has one;
256 aligned bytes lie in one page. -/
def State.hasRead (s : State) (w : Who) (a : Dword) (n : Nat) : State :=
  if pathOf a != 0 then s
  else (List.range (n / 256 + 2)).foldl (fun s i =>
    let chunk := a.toNat / 256 * 256 + 256 * i
    let lo := max a.toNat chunk
    let hi := min (a.toNat + n) (chunk + 256)
    match s.resolve w .load (BitVec.ofNat 64 lo) with
    | (_, .ok l) => if lo < hi then (s.setCore w.core ((s.core w.core).dropSnap l (hi - lo))).touch l else s
    | _ => s) s

/-- On whose behalf the engine of core `c` acts for a group of a block. -/
def engineWho (c launch block : Nat) : Who :=
  { core := c, launch := launch, block := block, thread := 0, supervisor := false, engine := true }

/-! ## What engines await (R177, R204, R231) -/

/-- Where awaited bytes can be read now, as a load issued before `id` would read them. -/
def State.awaitedAt (s : State) (w : Who) (id : Nat) (q : Awaited) : Option Loc :=
  match q.loc with
  | some l => if s.absent l then none else some l
  | none => match s.resolve w .load q.addr with
    | (_, .ok l) => if s.absent l || s.loggedBefore w id q.addr q.size then none else some l
    | _ => none

/-- Put bytes into a list of bytes from `pos` on. -/
def putBytes (src : List (Option Byte)) (pos : Nat) (bs : List Byte) : List (Option Byte) :=
  src.take pos ++ bs.map some ++ src.drop (pos + bs.length)

/-- Read the awaited bytes that can be read now: the bytes, those still awaited, and the places read. -/
def State.supply (s : State) (w : Who) (id : Nat) (src : List (Option Byte)) :
    List Awaited → List (Option Byte) × List Awaited × List (Loc × Nat)
  | [] => (src, [], [])
  | q :: qs =>
    match s.awaitedAt w id q with
    | none =>
      let (r, left, ps) := s.supply w id src qs
      (r, q :: left, ps)
    | some l =>
      let (r, left, ps) := s.supply w id (putBytes src q.pos (s.bytesBefore w.core id l q.size)) qs
      (r, left, (l, q.size) :: ps)

/-- Bytes of a core have been read: no later load of them returns an earlier value (R191), and their lines take the
normal hint (R185). -/
def State.readPlaces (s : State) (c : Nat) (ps : List (Loc × Nat)) : State :=
  ps.foldl (fun s p => (s.setCore c ((s.core c).dropSnap p.1 p.2)).touch p.1) s

/-- A matrix command with the awaited bytes that can be read now. -/
def State.supplyMx (s : State) (c : Nat) (m : MxCmd) : MxCmd × List (Loc × Nat) :=
  let (src, left, ps) := s.supply (engineWho c m.launch m.block) m.upTo m.src m.wanted
  ({ m with src := src, wanted := left }, ps)
/-- An array command likewise. -/
def State.supplyAe (s : State) (c : Nat) (m : AeCmd) : AeCmd × List (Loc × Nat) :=
  let (src, left, ps) := s.supply (engineWho c m.launch m.block) m.upTo m.src m.wanted
  ({ m with src := src, wanted := left }, ps)
/-- A copy command likewise. -/
def State.supplyCopy (s : State) (c : Nat) (m : CopyCmd) : CopyCmd × List (Loc × Nat) :=
  let (src, left, ps) := s.supply (engineWho c m.launch m.block) m.upTo m.src m.wanted
  ({ m with src := src, wanted := left }, ps)

/-- Bytes from `a` to the next multiple of 16: pages, sectors and shares of a window never end within them. -/
def pieceLen (a : Dword) (n : Nat) : Nat := min n (16 - a.toNat % 16)

/-- Read a range as loads of the issuing core, made now: a byte that is absent, not mapped or held by the side log, or
whose page refuses, is left open (R177, R204, R231). `fuel` bounds the pieces. -/
def State.capture (s : State) (w : Who) : Nat → Dword → Nat → List (Option Byte)
  | 0, _, _ => []
  | fuel + 1, a, n =>
    if n = 0 then []
    else
      let m := pieceLen a n
      let here := match s.resolve w .load a with
        | (_, .ok l) => if s.absent l || s.logged w a m then List.replicate m none else (s.coreBytes w.core l m).map some
        | _ => List.replicate m none
      here ++ s.capture w fuel (a + BitVec.ofNat 64 m) (n - m)

/-- The pieces of a range that its capture leaves open; the range's first byte is number `pos` of those read. -/
def State.opens (s : State) (w : Who) : Nat → Nat → Dword → Nat → List Awaited
  | 0, _, _, _ => []
  | fuel + 1, pos, a, n =>
    if n = 0 then []
    else
      let m := pieceLen a n
      let piece := fun (l : Option Loc) => [({ pos := pos, addr := a, loc := l, size := m } : Awaited)]
      let here := match s.resolve w .load a with
        | (_, .ok l) => if s.absent l || s.logged w a m then piece (if pathOf a = 0 then none else some l) else []
        | _ => piece none
      here ++ s.opens w fuel (pos + m) (a + BitVec.ofNat 64 m) (n - m)

/-- Capture ranges one behind the other. -/
def State.captureAll (s : State) (w : Who) (rs : List (Dword × Nat)) : List (Option Byte) :=
  rs.flatMap fun r => s.capture w r.2 r.1 r.2

/-- What their capture leaves open, from number `pos` on. -/
def State.opensAll (s : State) (w : Who) : Nat → List (Dword × Nat) → List Awaited
  | _, [] => []
  | pos, r :: rs => s.opens w r.2 pos r.1 r.2 ++ s.opensAll w (pos + r.2) rs

/-- The address of a DRAIN's tensor block, at +8 of its own block (R290). -/
def tensorAddr (head : List Byte) : Dword := BitVec.ofNat 64 (leNat ((head.drop 8).take 8))

/-- An unread DRAIN likewise; once its own block is whole, its tensor block is read, too (R204, R314). -/
def State.supplyDrain (s : State) (d : DrainCmd) : DrainCmd × List (Loc × Nat) :=
  let w := engineWho d.core d.launch d.block
  let (src, left, ps) := s.supply w d.upTo d.src d.wanted
  if d.unread.isSome && left.isEmpty && src.length == 32 then
    let a := tensorAddr (src.filterMap id)
    ({ d with src := src ++ s.capture w 64 a 64, wanted := s.opens w 64 32 a 64 }, ps)
  else ({ d with src := src, wanted := left }, ps)

/-- The engines of a core read the awaited bytes that can be read now: a sector has become present, the mapper has
resolved a page, or the side log has replayed (R177, R204, R231, R332). -/
def State.supplyCore (s : State) (c : Nat) : State :=
  let k := s.core c
  let mx := k.mx.map (s.supplyMx c)
  let ae := k.ae.map (s.supplyAe c)
  let ceA := k.ceA.map (s.supplyCopy c)
  let ceB := k.ceB.map (s.supplyCopy c)
  let ds := s.drains.map fun d => if d.core = c then s.supplyDrain d else (d, [])
  let t := ({ s with drains := ds.map (·.1) } : State).setCore c { k with
    mx := mx.map (·.1), ae := ae.map (·.1), ceA := ceA.map (·.1), ceB := ceB.map (·.1) }
  t.readPlaces c (mx.flatMap (·.2) ++ ae.flatMap (·.2) ++ ceA.toList.flatMap (·.2) ++ ceB.toList.flatMap (·.2) ++ ds.flatMap (·.2))

/-- The loads of a core that wait for a sector take its bytes as it becomes present (R34, R177). -/
def State.supplyLoads (s : State) (c : Nat) (sector : Loc) : State :=
  s.takeLoads c ((s.core c).loads.filterMap fun r => match r.loc with
    | some m => if m.meets r.size sector 256 then some (r, s.bytesBefore c r.id m r.size) else none
    | none => none)

/-- The sector becomes present, and what waits for it reads it (R19, R177, R204). -/
def State.makePresent (s : State) (sector : Loc) : State :=
  s.cores.foldl (fun s ck => (s.supplyLoads ck.1 sector).supplyCore ck.1) (s.setPresence sector true)

/-- Whether any access of a range is refused or waits: the first trouble, judging `k`. -/
def State.probe (s : State) (w : Who) (k : Kind) (a : Dword) : Nat → Option Got
  | 0 => none
  | n + 1 =>
    match s.resolve w k a with
    | (.fails j, _) => some (.refused j)
    | (.window _, _) => some (.refused 3)
    | (_, .bad j) => some (.refused j)
    | (.va v _, .unmapped) => some (.unmapped v)
    | (_, .unmapped) => some (.refused 1)
    | (_, .ok _) => s.probe w k (a + 1) n

/-- The module that holds a place takes a partition's write of it: a peer may drop it (R367). -/
def State.takesWrite (s : State) (part : Nat) (l : Loc) : Bool :=
  match l.place with
  | .peer p => s.peerAdmits part p l.off
  | _ => true

/-- Write bytes for an engine: directly performed (R191); refused or unmapped bytes are left. -/
def State.writeAs (s : State) (w : Who) (a : Dword) : List Byte → State
  | [] => s
  | b :: bs =>
    let s' := match s.resolve w .store a with
      | (_, .ok l) => if s.takesWrite (s.partOf w.launch) l then s.setBytes l [b] else s
      | _ => s
    s'.writeAs w (a + 1) bs

/-! ## Fault records (R332, R364) -/

/-- Note a fault: one record for each distinct page since the last resolve; a refused walk after a resolve makes a
fresh one (R332). A record joins the one of its page that still waits for the ring, which is refused if either is
(R364; log entry 55). -/
def State.noteFault (s : State) (launch va kind : Nat) (refused : Bool) : State :=
  match s.launch launch with
  | none => s
  | some l =>
    let p := s.partition l.part
    let here := fun (f : FaultRec) => pageOf f.va == pageOf va
    if p.faultsWaiting.any here then
      s.setPartition l.part { p with
        faultsPosted := pageOf va :: p.faultsPosted
        faultsWaiting := p.faultsWaiting.map fun f => if here f then { f with refused := f.refused || refused } else f }
    else if !refused && p.faultsPosted.contains (pageOf va) then s
    else s.setPartition l.part { p with
      faultsPosted := pageOf va :: p.faultsPosted
      faultsWaiting := p.faultsWaiting ++ [{ va := va, kind := kind, refused := refused, launch := launch }] }

/-- An engine or a unit meets an unmapped page: a record is noted, unless the page has one, and the unit's accesses to it
wait for the next resolve (R332, R338; log entry 65). -/
def State.noteUnit (s : State) (launch va kind : Nat) : State :=
  let t := s.noteFault launch va kind false
  let p := t.partition (t.partOf launch)
  if (s.launch launch).isNone || p.unitPages.contains (pageOf va) then t
  else t.setPartition (t.partOf launch) { p with unitPages := pageOf va :: p.unitPages }

/-- A unit meets an unmapped page: the first time it is noted; then it waits (R332). -/
def State.waitPage (s : State) (launch va kind : Nat) : Out :=
  if (s.launch launch).isNone || s.unitWaits launch va then .fault .notEnabled
  else .next (s.noteUnit launch va kind)

/-- A fault record can be written: one waits and the ring has room (R364). -/
def Partition.faultRoom (p : Partition) : Bool :=
  !p.faultsWaiting.isEmpty && (p.faultTail - p.faultHead) != p.faultN

/-- The bytes of a fault record (R364). -/
def FaultRec.bytes (f : FaultRec) : List Byte :=
  leBytes f.va 8 ++ leBytes (f.kind + if f.refused then 4 else 0) 4 ++ leBytes f.launch 4

end Sys2Proof.Machine
end

