-- ==== Sys2Proof/Machine/Operands.lean ====
section
/-! DEFINITION. Operands: what a source code reads (R25, R26), the uses an instruction makes of its
operand fields, and the judgement of those uses in the order of R73 (R15, R27, R32, R35, R78). -/

namespace Sys2Proof.Machine

/-! ## Numbers of a launch (R145) -/

/-- The role_cfg word of role `r` (R144, R145). -/
def Launch.roleCfg (l : Launch) (r : Nat) : Word := l.word (0x18 + 4 * r)
/-- Groups of role `r` in each block (R145). -/
def Launch.groupsOf (l : Launch) (r : Nat) : Nat := ((l.roleCfg r).extractLsb' 0 8).toNat
/-- Registers per lane of role `r` (R145). -/
def Launch.classOf (l : Launch) (r : Nat) : Nat := 16 * (((l.roleCfg r).extractLsb' 8 2).toNat + 1)
/-- The last_threads field of role `r` (R145). -/
def Launch.lastThreads (l : Launch) (r : Nat) : Nat := ((l.roleCfg r).extractLsb' 16 6).toNat
/-- Groups in a block, all roles (R26). -/
def Launch.ngrp (l : Launch) : Nat := l.groupsOf 0 + l.groupsOf 1 + l.groupsOf 2 + l.groupsOf 3
/-- The highest-numbered role in use (R134). -/
def Launch.lastRole (l : Launch) : Nat :=
  if l.groupsOf 3 ≠ 0 then 3 else if l.groupsOf 2 ≠ 0 then 2 else if l.groupsOf 1 ≠ 0 then 1 else 0
/-- Real threads of the block's last group (R134, R145). -/
def Launch.lastCount (l : Launch) : Nat :=
  if l.lastThreads l.lastRole = 0 then 32 else l.lastThreads l.lastRole
/-- Non-helper threads in a block (R26, R134). -/
def Launch.nthr (l : Launch) : Nat := 32 * (l.ngrp - 1) + l.lastCount

/-! ## Reading a source (R25, R26) -/

/-- The latch entry `j` of the run as lane `l` reads it (R32). An entry that instructions without effect on latches
left unfilled reads as a free value (R15, R137; log entry 31). -/
def State.latch (s : State) (r : Run) (j l : Nat) : Dword :=
  match r.latches[j]? with
  | some (.uniform v) => v
  | some (.lanes v) => v[l]?.getD 0
  | some .pending => 0
  | none => Config.freeDword (s.freeCtr + j)

/-- The value of a special, by operand code (R26). -/
def State.special (s : State) (x : Ctx) (l code : Nat) : Word :=
  let launch := (s.launch x.grp.launch).getD Launch.reset
  let coords := match s.block x.grp.block with
    | some b => (b.bx, b.by_, b.bz, b.crank)
    | none => (0, 0, 0, 0)
  match code with
  | 100 => 0
  | 101 => BitVec.ofNat 32 (x.grp.grp * 32 + l)
  | 102 => BitVec.ofNat 32 l
  | 103 => BitVec.ofNat 32 (l / 4)
  | 104 => BitVec.ofNat 32 x.grp.grp
  | 105 => BitVec.ofNat 32 x.grp.role
  | 106 => BitVec.ofNat 32 coords.1
  | 107 => BitVec.ofNat 32 coords.2.1
  | 108 => BitVec.ofNat 32 coords.2.2.1
  | 109 => BitVec.ofNat 32 coords.2.2.2
  | 110 => BitVec.ofNat 32 launch.nthr
  | 111 => BitVec.ofNat 32 launch.ngrp
  | 112 => launch.word 0x28
  | 113 => launch.word 0x2C
  | 114 => launch.word 0x30
  | 115 => BitVec.ofNat 32 (coreCol x.c % 4)
  | 116 => BitVec.ofNat 32 (coreRow x.c % 2)
  | 117 => BitVec.ofNat 32 launch.part
  | 118 => 1
  | 119 => 0xFFFFFFFF
  | _ => 0

/-- A 32-bit source as lane `l` reads it (R25, R32). -/
def State.src (s : State) (x : Ctx) (l : Nat) (code : Code) : Word :=
  let c := code.toNat
  if c < 64 then (x.grp.th l).reg c
  else if c < 96 then x.grp.sreg (c - 64)
  else if c < 100 then (s.latch x.run (c - 96) l).setWidth 32
  else s.special x l c

/-- A 64-bit special in a pair position (R27). -/
def pairSpecial (c : Nat) : Dword :=
  match c with
  | 118 => 1
  | 119 => 0xFFFFFFFFFFFFFFFF
  | _ => 0

/-- A pair source as lane `l` reads it (R7, R27, R32). -/
def State.src64 (s : State) (x : Ctx) (l : Nat) (code : Code) : Dword :=
  let c := code.toNat
  if c < 64 then (x.grp.th l).reg (c + 1) ++ (x.grp.th l).reg c
  else if c < 96 then x.grp.sreg (c - 63) ++ x.grp.sreg (c - 64)
  else if c < 100 then s.latch x.run (c - 96) l
  else pairSpecial c

/-- A 32-bit U-form source (R78). -/
def State.usrc (s : State) (x : Ctx) (code : Code) : Word := s.src x (lowestLane x.run.mask) code
/-- A U-form pair source (R78). -/
def State.usrc64 (s : State) (x : Ctx) (code : Code) : Dword := s.src64 x (lowestLane x.run.mask) code

/-! ## Judging operand uses (R73, items 5 to 7) -/

/-- A use an instruction makes of an operand field (R27, R78). -/
inductive Use where
  | src (c : Code)                 -- 32-bit source
  | pair (c : Code)                -- pair source
  | dst (c : Code) (n : Bool)      -- 32-bit destination, with N
  | dstPair (c : Code) (n : Bool)
  | vregs (c : Code) (k : Nat)     -- `k` consecutive v registers as a source, aligned to `k`
  | dstVregs (c : Code) (k : Nat) (n : Bool)
  | quad (c : Code)                -- quad source: v quad, s quad or zero (R227)
  | quadDst (c : Code)             -- three s registers from an even one, s0 to s28 (R311)
  | sPair (c : Code)               -- an even s pair only (R164)
  | anyLane (c : Code)             -- RDL's source (R94)
  deriving DecidableEq, Repr

/-- A special of kind lane (R26). -/
def laneSpecial (c : Nat) : Bool := c == 101 || c == 102 || c == 103

/-- The latch entry named is filled and uniform, or is not filled (judged as stale later). -/
def Run.uniformLatch (r : Run) (j : Nat) : Bool :=
  match r.latches[j]? with
  | some (.uniform _) => true
  | none => true
  | _ => false

/-- `k` consecutive v registers from `c`, `c` a multiple of `k`, all within the class. -/
def vRange (cls c k : Nat) : Bool := c % k == 0 && c + k ≤ cls

/-- The use is an illegal operand (R27, R32, R78); `u` marks a U-form. -/
def Use.illegal (u : Bool) (cls : Nat) (r : Run) : Use → Bool
  | .src code =>
    let c := code.toNat
    if c < 64 then u || cls ≤ c
    else if c < 96 then false
    else if c < 100 then u && !r.uniformLatch (c - 96)
    else if c < 120 then u && laneSpecial c
    else true
  | .pair code =>
    let c := code.toNat
    if c < 64 then u || !vRange cls c 2
    else if c < 96 then c % 2 == 1
    else if c < 100 then u && !r.uniformLatch (c - 96)
    else !(c == 100 || c == 118 || c == 119)
  | .dst code _ =>
    let c := code.toNat
    if u then !(64 ≤ c && c < 96) else !(c < 64 && c < cls)
  | .dstPair code _ =>
    let c := code.toNat
    if u then !(64 ≤ c && c < 96 && c % 2 == 0) else !(c < 64 && vRange cls c 2)
  | .vregs code k => !(code.toNat < 64 && vRange cls code.toNat k)
  | .dstVregs code k _ => !(code.toNat < 64 && vRange cls code.toNat k)
  | .quad code =>
    let c := code.toNat
    if c < 64 then !vRange cls c 4 else if c < 96 then c % 4 != 0 else c != 100
  | .quadDst code => !(64 ≤ code.toNat && code.toNat ≤ 92 && code.toNat % 2 == 0)
  | .sPair code => !(64 ≤ code.toNat && code.toNat < 96 && code.toNat % 2 == 0)
  | .anyLane code =>
    let c := code.toNat
    if c < 64 then cls ≤ c
    else if c < 100 then false
    else if c < 120 then laneSpecial c
    else true

/-- The operand code a use reads as a source, if it reads one. -/
def Use.read : Use → Option Nat
  | .src c => some c.toNat
  | .pair c => some c.toNat
  | .vregs c _ => some c.toNat
  | .quad c => some c.toNat
  | .sPair c => some c.toNat
  | .anyLane c => some c.toNat
  | _ => none

/-- The use names a latch that reaches back before the run: at its k-th instruction, k - 1 have issued (R15). -/
def Use.stale (r : Run) (u : Use) : Bool :=
  match u.read with
  | some c => 96 ≤ c && c < 100 && r.count ≤ c - 96
  | none => false

/-- Some lane of the path has one of the `k` registers from `c` pending (R35). -/
def Ctx.pendingRegs (x : Ctx) (c k : Nat) : Bool :=
  if c < 64 then
    (lanesOf x.run.mask).any fun l => (List.range k).any fun j => (x.grp.th l).vPend.getLsbD (c + j)
  else if c < 96 then (List.range k).any fun j => x.grp.sPend.getLsbD (c - 64 + j)
  else if c < 100 then
    match x.run.latches[c - 96]? with
    | some .pending => true
    | _ => false
  else false

/-- The use is a pending read (R32, R35): a source, or a destination with N clear. -/
def Use.pending (x : Ctx) : Use → Bool
  | .src c => x.pendingRegs c.toNat 1
  | .anyLane c => x.pendingRegs c.toNat 1
  | .pair c => x.pendingRegs c.toNat 2
  | .quad c => x.pendingRegs c.toNat 4
  | .quadDst _ => false
  | .sPair c => x.pendingRegs c.toNat 2
  | .vregs c k => x.pendingRegs c.toNat k
  | .dst c n => !n && x.pendingRegs c.toNat 1
  | .dstPair c n => !n && x.pendingRegs c.toNat 2
  | .dstVregs c k n => !n && x.pendingRegs c.toNat k

/-- The cause of the first of traps 5 to 7 of R73 that the uses raise. -/
def judgeUses (u : Bool) (x : Ctx) (uses : List Use) : Option Nat :=
  if uses.any (·.illegal u x.grp.cls x.run) then some 2
  else if uses.any (·.stale x.run) then some 4
  else if uses.any (·.pending x) then some 5
  else none

end Sys2Proof.Machine
end

