-- ==== Sys2Proof/Machine/Flags.lean ====
section
/-! DEFINITION. FP events (R57 to R59): the 24 counters of a launch and the interrupts of its threshold,
and the data-loss and corrected counters of R111. -/

namespace Sys2Proof.Machine

/-- Add one, saturating at 0xFFFF_FFFF (R58, R111). -/
def satInc (w : Word) : Word := if w = 0xFFFFFFFF then w else w + 1

def Launch.counter (l : Launch) (i : Nat) : Word := l.counters[i]?.getD 0

/-- The counter interrupts now: the threshold is not 0, the counter has reached it, and it has not
interrupted before (R58, R109). -/
def Launch.thresholdMet (l : Launch) (i : Nat) : Bool :=
  l.fpThr != 0 && decide (l.fpThr.toNat ≤ (l.counter i).toNat) && !(l.interrupted[i]?.getD true)

/-- Interrupt the host for counter `i` of launch number `n`, if it is due. -/
def State.judgeThreshold (s : State) (n i : Nat) : State :=
  match s.launch n with
  | none => s
  | some l =>
    if l.thresholdMet i then
      (s.setLaunch n { l with interrupted := l.interrupted.setIfInBounds i true }).interrupt (.fpThreshold n i)
    else s

/-- Count one occurrence in counter `i` of a launch. -/
def State.countOne (s : State) (n i : Nat) : State :=
  match s.launch n with
  | none => s
  | some l =>
    (s.setLaunch n { l with counters := l.counters.setIfInBounds i (satInc (l.counter i)) }).judgeThreshold n i

/-- Count events of one format (R58): format × 4 + event. -/
def State.countEvents (s : State) (n fmt : Nat) (evs : Events) : State :=
  evs.foldl (fun s e => s.countOne n (fmt * 4 + e)) s

/-- Count a protected unit lost, in the launch and its partition (R111). -/
def State.countLoss (s : State) (n : Nat) : State :=
  match s.launch n with
  | none => s
  | some l =>
    let p := s.partition l.part
    (s.setLaunch n { l with dataLoss := satInc l.dataLoss }).setPartition l.part { p with dataLoss := satInc p.dataLoss }

/-- Count a corrected error, in the launch and its partition (R111). -/
def State.countCorrected (s : State) (n : Nat) : State :=
  match s.launch n with
  | none => s
  | some l =>
    let p := s.partition l.part
    (s.setLaunch n { l with corrected := satInc l.corrected }).setPartition l.part { p with corrected := satInc p.corrected }

end Sys2Proof.Machine
end

