-- ==== Sys2Proof/Machine/Consist.lean ====
section
/-! DEFINITION. The consist managers (R212 to R226): headers, generations, pins, splices, reclaim. The
header's fields stand in memory and are read as they stand; what the manager keeps in the table area,
whose contents are not architectural, is the record `Consist`, which a store into the table area makes
unreliable (log entry 17). -/

namespace Sys2Proof.Machine

/-! ## Where groups are -/

/-- The core and group slot of a group, by launch, block and grp. -/
def State.findGroup (s : State) (launch block grp : Nat) : Option (Nat × Nat) :=
  match s.block block with
  | none => none
  | some b =>
    ((List.range 32).find? fun g => match s.group b.core g with
      | some x => x.launch == launch && x.block == block && x.grp == grp
      | none => false).map fun g => (b.core, g)

/-- The group is resident or pre-empted, and some thread of it has not exited (R226). -/
def State.groupLives (s : State) (launch block grp : Nat) : Bool :=
  (match s.findGroup launch block grp with
   | some (c, g) => match s.group c g with
     | some x => !x.over
     | none => false
   | none => false) ||
  s.saved.any fun cl => cl.any fun b => b.number == block &&
    b.groups.any fun x => x.launch == launch && x.grp == grp && !x.over

/-! ## The header (R212, R213) -/

/-- Fields of a header, as they stand. -/
structure Header where
  gen : Nat
  rows : Nat
  rowBytes : Nat
  pieces : Nat
  area : Nat
  areaBytes : Nat
  live : Nat
  pending : Nat
  reserved : Nat
  deriving DecidableEq, Repr

/-- Read a header. -/
def State.header (s : State) (k : Nat) : Header :=
  let l := keyLoc k
  { gen := (s.wordAt l).toNat, rows := (s.wordAt (l.add 4)).toNat, rowBytes := (s.wordAt (l.add 8)).toNat,
    pieces := (s.wordAt (l.add 12)).toNat, area := (s.dwordAt (l.add 16)).toNat,
    areaBytes := (s.wordAt (l.add 24)).toNat, live := (s.wordAt (l.add 28)).toNat,
    pending := (s.wordAt (l.add 32)).toNat, reserved := leNat (s.bytesAt (l.add 36) 28) }

/-- The header meets R212, and before first use R213. -/
def Header.ok (h : Header) : Bool :=
  h.gen ≤ 0x7FFFFFFF && 64 ≤ h.rowBytes && h.rowBytes ≤ 4096 && h.rowBytes % 64 == 0 && h.pieces ≤ 4096 &&
  h.area % 1024 == 0 && pathOk (BitVec.ofNat 64 h.area) && pathOf (BitVec.ofNat 64 h.area) == 0 &&
  4096 ≤ h.areaBytes && h.areaBytes ≤ 67108864 && h.areaBytes % 1024 == 0 && h.live ≤ 64 && h.reserved == 0 &&
  (h.live != 0 || (h.gen == 0 && h.rows == 0 && h.pieces == 0 && h.pending == 0))

/-- Lay a word at a place: the manager's own writes of a header are no stores of the program. -/
def State.layWord (s : State) (l : Loc) (w : Nat) : State := s.layBytes l (leBytes w 4)

/-- Write the fields the manager writes. -/
def State.setHeader (s : State) (k gen rows pieces live pending : Nat) : State :=
  let l := keyLoc k
  ((((s.layWord l gen).layWord (l.add 4) rows).layWord (l.add 12) pieces).layWord (l.add 28) live).layWord (l.add 32) pending

/-- The pieces of a live generation: base and rows. -/
def Consist.piecesOf (c : Consist) (g : Nat) : Option (List (Nat × Nat)) := (c.gens.find? fun x => x.1 == g).map (·.2)
def Consist.pins (c : Consist) (g : Nat) : Nat := tget 0 c.pinCounts g
def rowsOf (ps : List (Nat × Nat)) : Nat := ps.foldl (fun n p => n + p.2) 0

/-- The header as the program has left it does not go with the entries (R213, R222). -/
def Consist.odd (c : Consist) (h : Header) : Bool :=
  h.rowBytes != c.rowBytes || h.area != c.area ||
  (match c.piecesOf h.gen with
   | some ps => rowsOf ps != h.rows || ps.length != h.pieces
   | none => true)

/-- The consist as its manager and STAD find it: what the program has stored into the header is taken as it stands
(R213; log entry 17). -/
def State.consistNow (s : State) (k : Nat) : Consist :=
  let c := s.consist k
  { c with astray := c.astray || c.odd (s.header k) }

/-- The table area stands at other places than when the manager last used it: the mapper has taken its pages away, or the
header names another area. -/
def Consist.uprooted (c : Consist) (area : Nat) (ranges : List (Nat × Loc × Nat)) : Bool :=
  c.area != area || c.ranges.any fun r => ranges.any fun q => q.1 == r.1 && q.2.1 != r.2.1

/-- The manager takes up a live consist whose table area stands at `ranges` (R213). -/
def State.consistTake (s : State) (k : Nat) (ranges : List (Nat × Loc × Nat)) : State :=
  let h := s.header k
  let s1 := (if (s.consist k).uprooted h.area ranges then s.strayConsist k else s).fitRecords k
  s1.setConsist k { s1.consistNow k with ranges := ranges, area := h.area }

/-- A consist whose generation 0 has been set up (R213). -/
def Header.fresh (h : Header) (ranges : List (Nat × Loc × Nat)) : Consist :=
  { Consist.reset with gens := [(0, [])], ranges := ranges, rowBytes := h.rowBytes, area := h.area }

/-- On first use the manager sets up generation 0 (R213). -/
def State.consistSetup (s : State) (k : Nat) (ranges : List (Nat × Loc × Nat)) : State :=
  let h := s.header k
  if h.live = 0 then (s.setConsist k (h.fresh ranges)).setHeader k 0 0 0 1 0 else s.consistTake k ranges

/-- The entries of the current generation: as many as the header says; those that the manager has not written, or whose
generation's number the program has stored, are free (R213). DESIGN CHOICE (log entry 17): the spec does not say what stands
in the table area for a stored number that no generation has. -/
def State.entriesNow (s : State) (k : Nat) : List (Nat × Nat) :=
  let h := s.header k
  let ps := ((s.consist k).piecesOf h.gen).getD []
  ps.take h.pieces ++ (List.range (h.pieces - ps.length)).map (Config.tableEntry s.tick k)

/-- Distinct bases of a list, in order. -/
def distinctBases : List (Nat × Nat) → List Nat
  | [] => []
  | p :: ps => p.1 :: (distinctBases ps).filter (· != p.1)

/-- The remover of a base (R226). -/
def Consist.remover (c : Consist) (base : Nat) : Nat × Nat × Nat :=
  ((c.removers.find? fun r => r.1 == base).map (·.2)).getD (0, 0, 0)

/-- The distinct bases of generation `g` that no other generation holds, in ascending entry order (R225). -/
def Consist.lost (c : Consist) (g : Nat) : List Nat :=
  (distinctBases ((c.piecesOf g).getD [])).filter fun b =>
    !(c.gens.any fun x => x.1 != g && x.2.any fun p => p.1 == b)

/-- Generation `g` dies: a reclaim record for each of those bases, numbered from `seq` on (R225, R226). -/
def Consist.die (c : Consist) (g seq : Nat) : Consist :=
  { c with
    gens := c.gens.filter fun x => x.1 != g
    pinCounts := tdel c.pinCounts g
    waiting := c.waiting ++ (c.lost g).zipIdx.map fun (b, i) =>
      let (launch, block, grp) := c.remover b
      { base := b, launch := launch, block := block, grp := grp, seq := seq + i } }

/-- Lower a generation's pin count; it dies if it is neither current nor pinned (R215, R223). Answers
whether it died. -/
def State.unpin (s0 : State) (k g : Nat) (ranges : List (Nat × Loc × Nat)) : State × Bool :=
  let s := s0.consistTake k ranges
  let c := s.consist k
  let h := s.header k
  let n := c.pins g - 1
  let c1 := { c with pinCounts := tput c.pinCounts g n }
  if n = 0 ∧ g ≠ h.gen ∧ (c1.piecesOf g).isSome then
    let emitted := (c1.lost g).length
    ({ (s.setConsist k (c1.die g s.emitted)).setHeader k h.gen h.rows h.pieces (h.live - 1) (h.pending + emitted) with
       emitted := s.emitted + emitted }, true)
  else (s.setConsist k c1, false)

/-! ## Requests (R208, R223, R242) -/

/-- Send a request of a core to a consist manager; with `rel`, the core's prior stores are released at die scope
first (R208, R242). -/
def State.askManager (s : State) (c part : Nat) (rel : Bool) (r : ConsistReq) : State :=
  let core := s.core c
  let met := !rel || core.releaseMet part core.nextId 2 (.consist s.nextReq)
  let s1 := { s with nextReq := s.nextReq + 1, consistReqs := s.consistReqs ++ [{ r with id := s.nextReq, ready := met }] }
  if rel then s1.startRelease c part 2 (.consist s.nextReq) else s1

/-- The pin of a block that is no more is released as by UNPIN, with no group to answer (R223). -/
def State.dropPin (s : State) (c : Nat) (slot : Nat) (p : Pin) : State :=
  s.askManager c (s.partOf p.launch) true
    { id := 0, kind := 2, core := c, slot := 32, launch := p.launch, block := p.block, grp := 0, header := p.header,
      desc := 0, pin := slot, gen := p.gen, ready := false, d := 0, n := true }

/-- A block ends or is discarded: its pins are released in ascending slot order (R223). -/
def State.releasePins (s : State) (c block : Nat) : State :=
  (List.range 256).foldl (fun s i => match tget none (s.core c).pins i with
    | some p =>
      if p.block = block then
        (s.setCore c { s.core c with pins := tput (s.core c).pins i none }).dropPin c i p
      else s
    | none => s) s

/-! ## SPLICE (R216 to R220) -/

/-- The entries before row `b`, if `b` is a boundary, and those from it on. -/
def splitAtRow : List (Nat × Nat) → Nat → Option (List (Nat × Nat) × List (Nat × Nat))
  | ps, 0 => some ([], ps)
  | [], _ + 1 => none
  | p :: ps, b =>
    if b < p.2 then none
    else match splitAtRow ps (b - p.2) with
      | some (x, y) => some (p :: x, y)
      | none => none

/-- A piece entry meets R214: base, rows, reserved word. DESIGN CHOICE (log entry 17): R214 names bits [63:60] of the base;
that bits [59:57] are zero, as in every global address (R172), is asked too. -/
def pieceOk (base rows reserved : Nat) : Bool :=
  base / 2 ^ 60 == 0 && base % 64 == 0 && pathOk (BitVec.ofNat 64 base) && rows % 16 == 0 && 16 ≤ rows &&
  rows ≤ 65536 && reserved == 0

/-- Perform a SPLICE whose descriptor has passed check 1: the edit, the list, the expected generation and the splicing
group; the answer is the new generation or a status (R217 to R219). `ranges` is where the table area stands; `listOk`
says that every entry meets R214; gen, rows, pieces, live and pending are the header's as they stand (R213). -/
def State.splice (s0 : State) (k : Nat) (ranges : List (Nat × Loc × Nat)) (at_ remove expect : Nat) (list : List (Nat × Nat))
    (listOk : Bool) (who : Nat × Nat × Nat) : State × Word :=
  if !(s0.header k).ok then (s0, 0x80000002)
  else
    let s := s0.consistSetup k ranges
    let h := s.header k
    let c := s.consist k
    let old := s.entriesNow k
    if expect ≠ 0xFFFFFFFF ∧ expect ≠ h.gen then (s, 0x80000003)
    else if !listOk then (s, 0x80000004)
    else match splitAtRow old at_, splitAtRow old (at_ + remove) with
      | some (x, _), some (_, y) =>
        let new := x ++ list ++ y
        let stays := c.pins h.gen != 0
        let alive := (c.gens.filter fun g => g.1 != h.gen).foldl (fun n g => n + g.2.length) (if stays then old.length else 0)
        if h.rows < at_ + remove then (s, 0x80000005)
        else if 4096 < new.length then (s, 0x80000006)
        else if h.gen = 0x7FFFFFFF then (s, 0x80000007)
        else if h.live = 64 ∧ stays then (s, 0x80000008)
        else if h.areaBytes < 2048 + 16 * (alive + new.length + h.pending) then (s, 0x80000009)
        else
          let dropped := (distinctBases old).filter fun b => !(new.any fun p => p.1 == b)
          let removers := dropped.map (fun b => (b, who)) ++ c.removers.filter fun r => !dropped.contains r.1
          let fresh := fun (r : Nat × Nat × Nat × Nat) =>
            if s.groupLives r.2.1 r.2.2.1 r.2.2.2 then r else (r.1, who)
          let pass := fun (r : Reclaim) =>
            if s.groupLives r.launch r.block r.grp then r else { r with launch := who.1, block := who.2.1, grp := who.2.2 }
          let c1 := { c with gens := c.gens ++ [(h.gen + 1, new)], removers := removers.map fresh,
                             waiting := c.waiting.map pass }
          let emitted := if stays then 0 else (c1.lost h.gen).length
          let c2 := if stays then c1 else c1.die h.gen s.emitted
          ({ (s.setConsist k c2).setHeader k (h.gen + 1) (h.rows - remove + rowsOf list) new.length
               (h.live + if stays then 1 else 0) (h.pending + emitted) with emitted := s.emitted + emitted },
           BitVec.ofNat 32 (h.gen + 1))
      | _, _ => (s, 0x80000005)

/-- PIN at the manager: the generation bound, or none where the header fails (R221). -/
def State.pinCurrent (s0 : State) (k : Nat) (ranges : List (Nat × Loc × Nat)) : State × Option Nat :=
  if !(s0.header k).ok then (s0, none)
  else
    let s := s0.consistSetup k ranges
    let h := s.header k
    let c := s.consist k
    (s.setConsist k { c with pinCounts := tput c.pinCounts h.gen (c.pins h.gen + 1) }, some h.gen)

/-- STAD's translation of row `j` (R222): the address, none past the generation's rows. -/
def pieceAddress (rowBytes : Nat) : List (Nat × Nat) → Nat → Option Nat
  | [], _ => none
  | (b, r) :: ps, j => if j < r then some (b + j * rowBytes) else pieceAddress rowBytes ps (j - r)

/-! ## Page moves (R338) -/

/-- Where a place stands after `n` bytes have moved from `src` to `dst`. -/
def Loc.moved (l src dst : Loc) (n : Nat) : Loc := if src.covers n l 1 then dst.add (l.off - src.off) else l

/-- A consist is known by the place of its header, which a page move changes (R212, R338). -/
def State.moveConsists (s : State) (src dst : Loc) (n : Nat) : State :=
  let key := fun k => locKey ((keyLoc k).moved src dst n)
  let pin := fun (p : Pin) => { p with header := key p.header }
  let held := s.consists.map fun (k, c) =>
    (key k, { c with ranges := c.ranges.map fun (va, l, m) => (va, l.moved src dst n, m) })
  { s with
    consists := held.foldl (fun m (k, c) => tput m k c) []
    consistReqs := s.consistReqs.map fun r => if r.kind = 2 then { r with header := key r.header } else r
    cores := s.cores.map fun (i, k) => (i, { k with pins := k.pins.map fun (j, p) => (j, p.map pin) })
    saved := s.saved.map fun cl => cl.map fun b => { b with pins := b.pins.map fun (j, p) => (j, pin p) } }

end Sys2Proof.Machine
end

