-- ==== Sys2Proof/Machine/Ops.lean ====
section
/-! DEFINITION. The named operations every meaning uses: the shapes of V-form and U-form instructions,
the end of threads and blocks (R153, R169), taking a trap and returning from one (R327 to R331, R104). -/

namespace Sys2Proof.Machine

/-- The word of an instruction, as TRAPVAL holds it (R326). -/
def wordOf (i : Instr) : Word := (encode i).getD 0

/-! ## The end of blocks (R153) -/

/-- A group slot becomes free: what its group left outstanding returns to no group (R169). -/
def Core.freeSlot (k : Core) (g : Nat) : Core :=
  let none_ := fun (a : AtomRec) => if a.slot = g then { a with slot := 32 } else a
  { k.setGroup g none with
    loads := k.loads.filter fun r => r.slot != g
    rets := k.rets.filter fun r => r.slot != g
    atoms := k.atoms.map none_
    sideLog := k.sideLog.map fun e => { e with atoms := e.atoms.map none_ } }

/-- The entries of hqm's outbound half that a group leaves behind (R169). -/
def State.leaveMail (s : State) (g : Group) (index : Nat) : State :=
  { s with outbox := s.outbox ++ (g.queue 14).map fun e => { launch := g.launch, part := s.partOf g.launch, index := index, grp := g.grp, entry := e } }

/-- The groups of a core begin no run on a listed path while Junction is pre-empting a cluster of their launch there
(R141, R340). -/
def State.restop (s : State) (c : Nat) : State :=
  let stops := fun (n : Nat) => s.blocks.any fun (_, x) => match x with
    | some b => b.core == c && !b.ended && b.stopping && b.launch == n
    | none => false
  (List.range 32).foldl (fun s g => match s.group c g with
    | some x => s.putGroup c g { x with stopped := stops x.launch }
    | none => s) s

/-- The linear index of a block (R151). -/
def State.blockIndex (s : State) (b : Nat) : Nat :=
  match s.block b with
  | none => 0
  | some x => match s.launch x.launch with
    | none => 0
    | some l => x.bx + (l.word 0x28).toNat * (x.by_ + (l.word 0x2C).toNat * x.bz)

/-- A block whose groups are all spent ends: its pins are released and its group slots are free (R153, R223); what
its groups left for the host stays to be delivered (R169). -/
def State.endBlock (s : State) (b : Nat) : State :=
  match s.block b with
  | none => s
  | some blk =>
    let slots := (s.core blk.core).slotsOf b
    let spent := slots.all fun g => match s.group blk.core g with
      | some x => x.spent
      | none => true
    if blk.ended || !spent then s
    else
      let s1 := s.releasePins blk.core b
      let s2 := slots.foldl (fun s g =>
        let t := match s.group blk.core g with
          | some x => s.leaveMail x (s.blockIndex b)
          | none => s
        t.setCore blk.core ((t.core blk.core).freeSlot g)) s1
      let s3 := (s2.setBlock b { blk with ended := true }).restop blk.core
      match s3.launch blk.launch with
      | none => s3
      | some l => s3.setLaunch blk.launch { l with liveBlocks := l.liveBlocks.filter (· != b) }

/-- After threads of a group have exited: masks and barriers are judged, their returns and a dead
group's status entries are discarded, and the block may end (R167, R169, R170). -/
def State.afterExit (s : State) (c g : Nat) : State :=
  match s.group c g with
  | none => s
  | some grp =>
    let g1 := grp.settle.judgeAll
    let gone := g1.lanesWith fun t => t.standing == .exited
    let g2 := if g1.over then g1.emptyStatus else g1
    let s1 := s.setCore c (((s.core c).dropReturns g gone).setGroup g (some g2))
    (s1.judgeBarriers grp.block).endBlock grp.block

/-- The lanes `m` of a group exit outside any run of theirs. -/
def State.exitAt (s : State) (c g : Nat) (m : LaneMask) : State :=
  match s.group c g with
  | none => s
  | some grp => (s.setGroup c g (grp.exitLanes m)).afterExit c g

/-! ## Trap records and double traps (R329 to R331) -/

/-- Whom a launch's own unit writes for. -/
def Group.who (g : Group) (c : Nat) : Who :=
  { core := c, launch := g.launch, block := g.block, thread := g.grp * 32, supervisor := true, engine := true }

/-- The 64 bytes of a trap record (R331). -/
def State.trapRecord (s : State) (g : Group) (cause : Nat) (pc : Word) (mask : LaneMask) (value : Word)
    (base : Dword) (double : Bool) : List Byte :=
  leBytes cause 4 ++ leBytes pc.toNat 4 ++ leBytes mask.toNat 4 ++ leBytes value.toNat 4 ++
  leBytes g.launch 4 ++ leBytes (s.blockIndex g.block) 4 ++ leBytes g.grp 4 ++
  leBytes (if double then 1 else 0) 4 ++ leBytes base.toNat 8 ++ leBytes 0 24

/-- A unit of the launch writes a record (R330); one that meets an unmapped page posts a fault and is written when
the page is there (R332; log entry 56). A refused page leaves it unwritten. -/
def State.writeRecord (s : State) (w : Who) (a : Dword) (bytes : List Byte) : State :=
  match s.probe w .store a bytes.length with
  | some (.unmapped v) =>
    let t := s.noteUnit w.launch v 3
    { t with owed := t.owed ++ [{ core := w.core, launch := w.launch, block := w.block, addr := a, bytes := bytes }] }
  | _ => s.writeAs w a bytes

/-- Write the records that wait, in the order they were made (R332). -/
def State.payOwed (s : State) : State :=
  s.owed.foldl (fun s o => s.writeRecord { core := o.core, launch := o.launch, block := o.block, thread := 0, supervisor := true, engine := true }
    o.addr o.bytes) { s with owed := [] }

/-- Make a trap record: the first 63 are written, all are counted (R330). -/
def State.recordTrap (s : State) (c : Nat) (g : Group) (bytes : List Byte) : State :=
  match s.launch g.launch with
  | none => s
  | some l =>
    let area := l.dword 0x50
    if area = 0 then s
    else
      let w := g.who c
      let s1 := if l.trapRecords < 63 then s.writeRecord w (area + BitVec.ofNat 64 (64 * l.trapRecords)) bytes else s
      let n := l.trapRecords + 1
      let s2 := s1.writeRecord w (area + 0xFC0) (leBytes (min n 0xFFFFFFFF) 4)
      match s2.launch g.launch with
      | none => s2
      | some l2 => s2.setLaunch g.launch { l2 with trapRecords := n }

/-- Every thread of a group exits, whatever it was doing. -/
def State.killGroup (s : State) (c g : Nat) : State :=
  match s.group c g with
  | none => s
  | some x =>
    let y := (x.mapLanes x.presentMask fun _ t => t.exit)
    (s.setGroup c g { y with run := none, hold := none, fetchWait := [], jumps := [], countWait := [], paths := [] }).afterExit c g

/-- Discard the saved clusters of a launch and release their pins (R329). -/
def State.dropSaved (s : State) (launch : Nat) : State :=
  let mine := fun (cl : List SavedBlock) => cl.any fun b => b.block.launch == launch
  let gone := (s.saved.filter mine).flatten
  let s1 := { s with saved := s.saved.filter fun cl => !mine cl }
  let s2 := gone.foldl (fun s b => b.pins.foldl (fun s p => s.dropPin b.block.core p.1 p.2) s) s1
  match s2.launch launch with
  | none => s2
  | some l => s2.setLaunch launch { l with liveBlocks := l.liveBlocks.filter fun b => !(gone.any fun (x : SavedBlock) => x.number == b) }

/-- Every thread of every block of a launch exits as by EXIT; no further block is dispatched (R329). -/
def State.endThreads (s : State) (launch : Nat) : State :=
  match s.launch launch with
  | none => s
  | some l =>
    let s1 := (s.setLaunch launch { l with doubleTrap := true }).dropSaved launch
    l.liveBlocks.foldl (fun s b => match s.block b with
      | none => s
      | some blk => ((s.core blk.core).slotsOf b).foldl (fun s g => s.killGroup blk.core g) s) s1

/-! ## Taking a trap and returning from one (R327, R104) -/

/-- The part of a trap entry that the group holds: the levels, the trap registers, the saved code base,
the handler path at offset 0 of the code at `vec` (R327). -/
def Group.enterTrap (g : Group) (h : HeldTrap) (vec : Dword) : Group :=
  let t0 := g.th (lowestLane h.mask)
  let e := g.mapLanes h.mask fun _ t =>
    { t with plvl := t.lvl, lvl := true, pc := 0, codeBase := vec, standing := .ready }
  { e with trapCause := BitVec.ofNat 32 h.cause, trapPc := t0.pc &&& ~~~(3 : Word), trapMask := h.mask, trapVal := h.value,
           savedBase := t0.codeBase, handlerSet := g.handlerSet ||| h.mask, handler := g.handler ++ [h.mask] }

/-- The next held trapping set enters, if the trap registers are free (R105, R327). Where the firmware's
default policy answers (log entry 9), a record is made, or the host interrupted, and the set ends (R330). -/
def State.enterTrap (s : State) (c g : Nat) : State :=
  match s.group c g with
  | none => s
  | some grp =>
    if grp.handlerSet ≠ 0 then s
    else match grp.heldTraps with
      | [] => s
      | h :: rest =>
        match s.launch grp.launch with
        | none => s
        | some l =>
          let p := s.partition l.part
          let g1 := ({ grp with heldTraps := rest } : Group).enterTrap h p.trapVec
          let s1 := s.putGroup c g g1
          if p.trapPolicy then
            let s2 := if l.dword 0x50 = 0 then s1.interrupt (.trap grp.launch)
              else s1.recordTrap c g1 (s1.trapRecord g1 h.cause g1.trapPc h.mask h.value g1.savedBase false)
            s2.exitAt c g h.mask
          else s1

/-- Raise the trapping sets `hs` of a group whose run or hold is over and now stands as `closed`; they are
held for the trap registers in this order. A trap at supervisor level is a double trap, which no handler
sees and which ends the launch (R327, R329). -/
def State.raise (s : State) (c g : Nat) (closed : Group) (hs : List HeldTrap) : State :=
  match hs.find? fun h => (lanesOf h.mask).any fun l => (closed.th l).lvl with
  | some h =>
    let t0 := closed.th (lowestLane h.mask)
    let s1 := (s.setGroup c g closed).unfocus
    let s2 := s1.recordTrap c closed (s1.trapRecord closed h.cause t0.pc h.mask h.value t0.codeBase true)
    (s2.interrupt (.doubleTrap closed.launch)).endThreads closed.launch
  | none =>
    let s1 := s.setGroup c g { closed with heldTraps := closed.heldTraps ++ hs, since := s.tick }
    (s1.enterTrap c g).unfocus

/-- The lanes of trapping sets stand held at their instruction (R327). -/
def Group.holdSets (g : Group) (hs : List HeldTrap) : Group :=
  g.mapLanes (hs.foldl (fun m h => m ||| h.mask) 0) fun _ t => { t with standing := .held }

/-- Take a trap: the sets `hs` of the running path trap at the instruction being executed; the run is over,
and the path's other lanes are listed in the order `back` (R36, R327). -/
def State.takeTrap (s : State) (x : Ctx) (grp : Group) (hs : List HeldTrap) (back : List LaneMask) : State :=
  s.raise x.c x.g ((grp.holdSets hs).closeRun x.run.mask back) hs

/-- The instruction that holds a group traps instead of completing. -/
def State.trapHold (s : State) (c g : Nat) (cause : Nat) (value : Word) : State :=
  match s.group c g with
  | none => s
  | some grp => match grp.hold with
    | none => s
    | some (m, _) =>
      let hs := [{ mask := m, cause := cause, value := value, before := 0 : HeldTrap }]
      let open_ := grp.holdSets hs
      s.raise c g { open_ with hold := none } hs

/-- A trap of the whole path. -/
def State.trapPath (s : State) (x : Ctx) (cause : Nat) (value : Word) : State :=
  s.takeTrap x x.grp [{ mask := x.run.mask, cause := cause, value := value, before := 0 }] []

/-- A return from a trap (R104): the lanes of TRAPMASK resume at TRAPPC with their former level and code
base, in a new region; the path's other lanes exit. The run ends as any other, and after a handler's run a listed path
is next (R139, R328). -/
def State.returnTrap (s : State) (x : Ctx) : State :=
  let back := x.run.mask &&& x.grp.trapMask
  let res := x.grp.mapLanes back fun _ t =>
    { t with lvl := t.plvl, codeBase := x.grp.savedBase, pc := x.grp.trapPc, regionStart := x.grp.trapPc }
  let out := res.exitLanes (x.run.mask &&& ~~~back)
  let left := { out with
    handlerSet := out.handlerSet &&& ~~~x.run.mask
    handler := out.handler.filter fun m => (m &&& x.run.mask) == 0 }
  let closed := left.closeRun x.run.mask [back]
  ((s.setGroup x.c x.g { closed with handlerNext := false, since := s.tick }).afterExit x.c x.g).unfocus

/-! ## The shapes of encoded instructions -/

/-- A result per lane, computed once. -/
def lanewise {α : Type} (zero : α) (m : LaneMask) (f : Nat → α) : Vector α 32 :=
  Vector.ofFn fun i : Fin 32 => if m.getLsbD i.val then f i.val else zero

def Group.writeLanes (g : Group) (m : LaneMask) (n : Bool) (d : Code) (r : Vector Word 32) : Group :=
  if n then g else g.mapLanes m fun l t => t.setReg d.toNat (r[l]?.getD 0)
def Group.writePairs (g : Group) (m : LaneMask) (n : Bool) (d : Code) (r : Vector Dword 32) : Group :=
  if n then g else g.mapLanes m fun l t =>
    let v := r[l]?.getD 0
    (t.setReg d.toNat (v.setWidth 32)).setReg (d.toNat + 1) (v.extractLsb' 32 32)
/-- Set or clear one bit of a predicate file. -/
def setBit (k : BitVec 128) (i : Nat) (b : Bool) : BitVec 128 :=
  if b then k ||| ((1 : BitVec 128) <<< i) else k &&& ~~~((1 : BitVec 128) <<< i)
def Group.writePreds (g : Group) (m : LaneMask) (kd : Code) (r : Vector Bool 32) : Group :=
  g.mapLanes m fun l t => { t with k := setBit t.k kd.toNat (r[l]?.getD false) }

/-- The latch entry of a V-form's 32-bit results (R31). -/
def latch32 (r : Vector Word 32) : Latch := .lanes (r.map fun w => w.setWidth 64)
/-- The latch entry of a V-form's predicates (R31). -/
def latchBool (r : Vector Bool 32) : Latch := .lanes (r.map fun b => if b then 1 else 0)
/-- An entry of zeros for every lane (R31). -/
def latchZero : Latch := .lanes (Vector.replicate 32 0)

/-- A V-form: with no active thread it takes no effect (R74, R137); otherwise its operands are judged
(R73), and it goes on. -/
def State.vform (s : State) (i : Instr) (e : Bool) (uses : List Use) (k : Ctx → Out) : Out :=
  s.withRun fun x =>
    if x.real = 0 then .next (s.passOver x e)
    else match judgeUses false x uses with
      | some cause => .next (s.trapPath x cause (wordOf i))
      | none => k x

/-- A U-form: its operands are judged in full (R74), and it goes on. -/
def State.uform (s : State) (i : Instr) (uses : List Use) (k : Ctx → Out) : Out :=
  s.withRun fun x =>
    match judgeUses true x uses with
    | some cause => .next (s.trapPath x cause (wordOf i))
    | none => k x

/-- A V-form with a 32-bit result in every lane of the path (R81). -/
def State.laneOp (s : State) (i : Instr) (e n : Bool) (d : Code) (uses : List Use) (f : Ctx → Nat → Word) : Out :=
  s.vform i e (uses ++ [.dst d n]) fun x =>
    let r := lanewise 0 x.run.mask (f x)
    .next (s.finish x (x.grp.writeLanes x.run.mask n d r) e (latch32 r))

/-- A V-form with a 64-bit result in every lane of the path (R86). -/
def State.laneOp64 (s : State) (i : Instr) (e n : Bool) (d : Code) (uses : List Use) (f : Ctx → Nat → Dword) : Out :=
  s.vform i e (uses ++ [.dstPair d n]) fun x =>
    let r := lanewise 0 x.run.mask (f x)
    .next (s.finish x (x.grp.writePairs x.run.mask n d r) e (.lanes r))

/-- A V-form that writes a predicate in every lane of the path (R89). -/
def State.lanePred (s : State) (i : Instr) (e : Bool) (kd : Code) (uses : List Use) (f : Ctx → Nat → Bool) : Out :=
  s.vform i e uses fun x =>
    let r := lanewise false x.run.mask (f x)
    .next (s.finish x (x.grp.writePreds x.run.mask kd r) e (latchBool r))

/-- Write an s register, unless N is set. -/
def Group.writeS (g : Group) (n : Bool) (d : Code) (v : Word) : Group :=
  if n then g else g.setSreg (d.toNat - 64) v
def Group.writeS2 (g : Group) (n : Bool) (d : Code) (v : Dword) : Group :=
  if n then g else (g.setSreg (d.toNat - 64) (v.setWidth 32)).setSreg (d.toNat - 63) (v.extractLsb' 32 32)

/-- A U-form with a 32-bit result (R81, R90). -/
def State.uniOp (s : State) (i : Instr) (e n : Bool) (d : Code) (uses : List Use) (f : Ctx → Word) : Out :=
  s.uform i (uses ++ [.dst d n]) fun x =>
    let r := f x
    .next (s.finish x (x.grp.writeS n d r) e (.uniform (r.setWidth 64)))

/-- A U-form with a 64-bit result (R86). -/
def State.uniOp64 (s : State) (i : Instr) (e n : Bool) (d : Code) (uses : List Use) (f : Ctx → Dword) : Out :=
  s.uform i (uses ++ [.dstPair d n]) fun x =>
    let r := f x
    .next (s.finish x (x.grp.writeS2 n d r) e (.uniform r))

/-- End the run of a branch: its lanes have moved, and its paths go to the back in the order `back`
(R96, R139). -/
def State.branch (s : State) (x : Ctx) (grp : Group) (back : List LaneMask) : State :=
  (s.setGroup x.c x.g { (grp.closeRun x.run.mask back) with since := s.tick }).unfocus

/-! ## Holding a group (R30, R305) -/

/-- A wait-class instruction begins to hold its group: the run is over and its path stays at it. -/
def State.holdGroup (s : State) (x : Ctx) (h : Hold) : State :=
  let closed := x.grp.closeRun x.run.mask []      -- its lanes are on no path until it completes
  (s.setGroup x.c x.g { closed with hold := some (x.run.mask, h), since := s.tick }).unfocus

/-- The held instruction of a group is complete. -/
def State.completeHold (s : State) (c g : Nat) (commit : Bool) (f : Group → Group) : State :=
  match s.group c g with
  | none => s
  | some grp => match grp.hold with
    | none => s
    | some (m, _) => s.putGroup c g (f (grp.complete m commit))

end Sys2Proof.Machine
end

