-- ==== Sys2Proof/Machine/Integer.lean ====
section
/-! DEFINITION. Integer, address and predicate instructions of the V-set, opcodes 0x00 to 0x3D (chapter 05, R76 to R93) -/

namespace Sys2Proof.Machine

/-! ## Functions shared with the uniform twins (R81 to R85) -/

def sarNat (a : Word) (n : Nat) : Word :=
  if 32 ≤ n then (if a.msb then 0xFFFFFFFF else 0) else a.sshiftRight n
/-- Register shifts: the count is all 32 bits of B, not masked (R82). -/
def shl32 (a b : Word) : Word := if 32 ≤ b.toNat then 0 else a <<< b.toNat
def shr32 (a b : Word) : Word := if 32 ≤ b.toNat then 0 else a >>> b.toNat
def sar32 (a b : Word) : Word := sarNat a b.toNat
def min32 (a b : Word) : Word := if a.slt b then a else b
def max32 (a b : Word) : Word := if a.slt b then b else a
def minn32 (a b : Word) : Word := if a.ult b then a else b
def maxn32 (a b : Word) : Word := if a.ult b then b else a
/-- Bits [63:32] of the exact signed and natural products (R81). -/
def mulh32 (a b : Word) : Word := BitVec.ofInt 32 (a.toInt * b.toInt / 2 ^ 32)
def mulhn32 (a b : Word) : Word := BitVec.ofNat 32 (a.toNat * b.toNat / 2 ^ 32)
/-- Clamped to the signed or the natural range (R41). -/
def satS (i : Int) : Word := BitVec.ofInt 32 (max (-2147483648) (min 2147483647 i))
def satN (i : Int) : Word := BitVec.ofInt 32 (max 0 (min 4294967295 i))
def absd32 (a b : Word) : Word := BitVec.ofNat 32 (a.toInt - b.toInt).natAbs
/-- Position and effective width of a field descriptor (R83). -/
def fieldPos (b : Word) : Nat := (b.extractLsb' 0 5).toNat
def fieldWidth (b : Word) : Nat := min (b.extractLsb' 8 6).toNat (32 - fieldPos b)
def fieldMask (b : Word) : Word := BitVec.ofNat 32 ((2 ^ fieldWidth b - 1) * 2 ^ fieldPos b)
def bfxn32 (a b : Word) : Word := (a &&& fieldMask b) >>> fieldPos b
def bfx32 (a b : Word) : Word :=
  let f := bfxn32 a b
  let w := fieldWidth b
  if 1 ≤ w ∧ f.getLsbD (w - 1) then f - BitVec.ofNat 32 (2 ^ w) else f
def bfi32 (d a b : Word) : Word := (d &&& ~~~fieldMask b) ||| ((a <<< fieldPos b) &&& fieldMask b)
def abs32 (a : Word) : Word := if a.msb then 0 - a else a
def clz32 (a : Word) : Word := if a = 0 then 32 else BitVec.ofNat 32 (31 - Nat.log2 a.toNat)
def popc32 (a : Word) : Word := BitVec.ofNat 32 ((List.range 32).filter fun i => a.getLsbD i).length
def brev32 (a : Word) : Word := maskOf fun i => a.getLsbD (31 - i)
def sextb32 (a : Word) : Word := (a.extractLsb' 0 8).signExtend 32
def sexth32 (a : Word) : Word := (a.extractLsb' 0 16).signExtend 32
def zextb32 (a : Word) : Word := (a.extractLsb' 0 8).setWidth 32
def zexth32 (a : Word) : Word := (a.extractLsb' 0 16).setWidth 32
/-- Exact 64-bit products (R86). -/
def mulw64 (a b : Word) : Dword := BitVec.ofInt 64 (a.toInt * b.toInt)
def mulwn64 (a b : Word) : Dword := BitVec.ofNat 64 (a.toNat * b.toNat)
/-- LDH and ULDH (R88). -/
def ldh32 (i : Half) (d : Word) : Word := i ++ d.extractLsb' 0 16

/-! ## Two-source forms (R81 to R83) -/

/-- A two-source form: `f` of the 32-bit A and B in every lane (R81). -/
def State.lane2 (s : State) (i : Instr) (e n : Bool) (d ca cb : Code) (f : Word → Word → Word) : Out :=
  s.laneOp i e n d [.src ca, .src cb] fun x l => f (s.src x l ca) (s.src x l cb)

/-- ADD (R81). -/
def execAdd (e n : Bool) (d ca cb : Code) (s : State) : Out :=
  s.lane2 (.add e n d ca cb) e n d ca cb fun a b => a + b
/-- SUB (R81). -/
def execSub (e n : Bool) (d ca cb : Code) (s : State) : Out :=
  s.lane2 (.sub e n d ca cb) e n d ca cb fun a b => a - b
/-- MUL (R81). -/
def execMul (e n : Bool) (d ca cb : Code) (s : State) : Out :=
  s.lane2 (.mul e n d ca cb) e n d ca cb fun a b => a * b
/-- MULH (R81). -/
def execMulh (e n : Bool) (d ca cb : Code) (s : State) : Out :=
  s.lane2 (.mulh e n d ca cb) e n d ca cb fun a b => mulh32 a b
/-- MULHN (R81). -/
def execMulhn (e n : Bool) (d ca cb : Code) (s : State) : Out :=
  s.lane2 (.mulhn e n d ca cb) e n d ca cb fun a b => mulhn32 a b
/-- AND (R81). -/
def execAnd (e n : Bool) (d ca cb : Code) (s : State) : Out :=
  s.lane2 (.and e n d ca cb) e n d ca cb fun a b => a &&& b
/-- OR (R81). -/
def execOr (e n : Bool) (d ca cb : Code) (s : State) : Out :=
  s.lane2 (.or e n d ca cb) e n d ca cb fun a b => a ||| b
/-- XOR (R81). -/
def execXor (e n : Bool) (d ca cb : Code) (s : State) : Out :=
  s.lane2 (.xor e n d ca cb) e n d ca cb fun a b => a ^^^ b
/-- ANDN (R81). -/
def execAndn (e n : Bool) (d ca cb : Code) (s : State) : Out :=
  s.lane2 (.andn e n d ca cb) e n d ca cb fun a b => a &&& ~~~b
/-- SHL (R82). -/
def execShl (e n : Bool) (d ca cb : Code) (s : State) : Out :=
  s.lane2 (.shl e n d ca cb) e n d ca cb fun a b => shl32 a b
/-- SHR (R82). -/
def execShr (e n : Bool) (d ca cb : Code) (s : State) : Out :=
  s.lane2 (.shr e n d ca cb) e n d ca cb fun a b => shr32 a b
/-- SAR (R82). -/
def execSar (e n : Bool) (d ca cb : Code) (s : State) : Out :=
  s.lane2 (.sar e n d ca cb) e n d ca cb fun a b => sar32 a b
/-- MIN (R81). -/
def execMin (e n : Bool) (d ca cb : Code) (s : State) : Out :=
  s.lane2 (.min e n d ca cb) e n d ca cb fun a b => min32 a b
/-- MAX (R81). -/
def execMax (e n : Bool) (d ca cb : Code) (s : State) : Out :=
  s.lane2 (.max e n d ca cb) e n d ca cb fun a b => max32 a b
/-- MINN (R81). -/
def execMinn (e n : Bool) (d ca cb : Code) (s : State) : Out :=
  s.lane2 (.minn e n d ca cb) e n d ca cb fun a b => minn32 a b
/-- MAXN (R81). -/
def execMaxn (e n : Bool) (d ca cb : Code) (s : State) : Out :=
  s.lane2 (.maxn e n d ca cb) e n d ca cb fun a b => maxn32 a b
/-- ADDSAT (R81). -/
def execAddsat (e n : Bool) (d ca cb : Code) (s : State) : Out :=
  s.lane2 (.addsat e n d ca cb) e n d ca cb fun a b => satS (a.toInt + b.toInt)
/-- SUBSAT (R81). -/
def execSubsat (e n : Bool) (d ca cb : Code) (s : State) : Out :=
  s.lane2 (.subsat e n d ca cb) e n d ca cb fun a b => satS (a.toInt - b.toInt)
/-- ADDSATN (R81). -/
def execAddsatn (e n : Bool) (d ca cb : Code) (s : State) : Out :=
  s.lane2 (.addsatn e n d ca cb) e n d ca cb fun a b => satN (a.toNat + b.toNat)
/-- SUBSATN (R81). -/
def execSubsatn (e n : Bool) (d ca cb : Code) (s : State) : Out :=
  s.lane2 (.subsatn e n d ca cb) e n d ca cb fun a b => satN ((a.toNat : Int) - b.toNat)
/-- ABSD (R81). -/
def execAbsd (e n : Bool) (d ca cb : Code) (s : State) : Out :=
  s.lane2 (.absd e n d ca cb) e n d ca cb fun a b => absd32 a b
/-- BFX (R83). -/
def execBfx (e n : Bool) (d ca cb : Code) (s : State) : Out :=
  s.lane2 (.bfx e n d ca cb) e n d ca cb fun a b => bfx32 a b
/-- BFXN (R83). -/
def execBfxn (e n : Bool) (d ca cb : Code) (s : State) : Out :=
  s.lane2 (.bfxn e n d ca cb) e n d ca cb fun a b => bfxn32 a b
/-- BFI (R83): D is read too. -/
def execBfi (e n : Bool) (d ca cb : Code) (s : State) : Out :=
  s.laneOp (.bfi e n d ca cb) e n d [.src ca, .src cb, .src d] fun x l => bfi32 (s.src x l d) (s.src x l ca) (s.src x l cb)
/-- SEL (R84): A where the predicate is 1, else D. -/
def execSel (e n : Bool) (d ca p : Code) (s : State) : Out :=
  s.laneOp (.sel e n d ca p) e n d [.src ca, .src d] fun x l =>
    if (x.grp.th l).k.getLsbD p.toNat then s.src x l ca else s.src x l d

/-! ## Unary forms (R85) -/

/-- A unary form. -/
def State.lane1 (s : State) (i : Instr) (e n : Bool) (d ca : Code) (f : Word → Word) : Out :=
  s.laneOp i e n d [.src ca] fun x l => f (s.src x l ca)

/-- MOV (R85). -/
def execMov (e n : Bool) (d ca : Code) (s : State) : Out :=
  s.lane1 (.mov e n d ca) e n d ca fun a => a
/-- NOT (R85). -/
def execNot (e n : Bool) (d ca : Code) (s : State) : Out :=
  s.lane1 (.not e n d ca) e n d ca fun a => ~~~a
/-- NEG (R85). -/
def execNeg (e n : Bool) (d ca : Code) (s : State) : Out :=
  s.lane1 (.neg e n d ca) e n d ca fun a => 0 - a
/-- ABS (R85). -/
def execAbs (e n : Bool) (d ca : Code) (s : State) : Out :=
  s.lane1 (.abs e n d ca) e n d ca fun a => abs32 a
/-- CLZ (R85). -/
def execClz (e n : Bool) (d ca : Code) (s : State) : Out :=
  s.lane1 (.clz e n d ca) e n d ca fun a => clz32 a
/-- POPC (R85). -/
def execPopc (e n : Bool) (d ca : Code) (s : State) : Out :=
  s.lane1 (.popc e n d ca) e n d ca fun a => popc32 a
/-- BREV (R85). -/
def execBrev (e n : Bool) (d ca : Code) (s : State) : Out :=
  s.lane1 (.brev e n d ca) e n d ca fun a => brev32 a
/-- SEXTB (R85). -/
def execSextb (e n : Bool) (d ca : Code) (s : State) : Out :=
  s.lane1 (.sextb e n d ca) e n d ca fun a => sextb32 a
/-- SEXTH (R85). -/
def execSexth (e n : Bool) (d ca : Code) (s : State) : Out :=
  s.lane1 (.sexth e n d ca) e n d ca fun a => sexth32 a
/-- ZEXTB (R85). -/
def execZextb (e n : Bool) (d ca : Code) (s : State) : Out :=
  s.lane1 (.zextb e n d ca) e n d ca fun a => zextb32 a
/-- ZEXTH (R85). -/
def execZexth (e n : Bool) (d ca : Code) (s : State) : Out :=
  s.lane1 (.zexth e n d ca) e n d ca fun a => zexth32 a

/-! ## 64-bit address forms (R86) -/

/-- ADDX (R86). -/
def execAddx (e n : Bool) (d ca cb : Code) (s : State) : Out :=
  s.laneOp64 (.addx e n d ca cb) e n d [.pair ca, .pair cb] fun x l => s.src64 x l ca + s.src64 x l cb
/-- SUBX (R86). -/
def execSubx (e n : Bool) (d ca cb : Code) (s : State) : Out :=
  s.laneOp64 (.subx e n d ca cb) e n d [.pair ca, .pair cb] fun x l => s.src64 x l ca - s.src64 x l cb
/-- MULWX (R86). -/
def execMulwx (e n : Bool) (d ca cb : Code) (s : State) : Out :=
  s.laneOp64 (.mulwx e n d ca cb) e n d [.src ca, .src cb] fun x l => mulw64 (s.src x l ca) (s.src x l cb)
/-- MULWXN (R86). -/
def execMulwxn (e n : Bool) (d ca cb : Code) (s : State) : Out :=
  s.laneOp64 (.mulwxn e n d ca cb) e n d [.src ca, .src cb] fun x l => mulwn64 (s.src x l ca) (s.src x l cb)
/-- LEAX (R86). -/
def execLeax (e n : Bool) (d ca cb : Code) (s : State) : Out :=
  s.laneOp64 (.leax e n d ca cb) e n d [.pair ca, .src cb] fun x l => s.src64 x l ca + (s.src x l cb).signExtend 64
/-- ADDXI (R86). -/
def execAddxi (e n : Bool) (d ca : Code) (i : BitVec 8) (s : State) : Out :=
  s.laneOp64 (.addxi e n d ca i) e n d [.pair ca] fun x l => s.src64 x l ca + i.signExtend 64

/-! ## Immediate forms and constants (R87, R88) -/

/-- ADDI (R87). -/
def execAddi (e n : Bool) (d ca : Code) (i : BitVec 8) (s : State) : Out :=
  s.lane1 (.addi e n d ca i) e n d ca fun a => a + i.signExtend 32
/-- ANDI (R87). -/
def execAndi (e n : Bool) (d ca : Code) (i : BitVec 8) (s : State) : Out :=
  s.lane1 (.andi e n d ca i) e n d ca fun a => a &&& i.setWidth 32
/-- ORI (R87). -/
def execOri (e n : Bool) (d ca : Code) (i : BitVec 8) (s : State) : Out :=
  s.lane1 (.ori e n d ca i) e n d ca fun a => a ||| i.setWidth 32
/-- XORI (R87). -/
def execXori (e n : Bool) (d ca : Code) (i : BitVec 8) (s : State) : Out :=
  s.lane1 (.xori e n d ca i) e n d ca fun a => a ^^^ i.setWidth 32
/-- SHLI (R87). -/
def execShli (e n : Bool) (d ca : Code) (i : BitVec 8) (s : State) : Out :=
  s.lane1 (.shli e n d ca i) e n d ca fun a => shl32 a (i.setWidth 32)
/-- SHRI (R87). -/
def execShri (e n : Bool) (d ca : Code) (i : BitVec 8) (s : State) : Out :=
  s.lane1 (.shri e n d ca i) e n d ca fun a => shr32 a (i.setWidth 32)
/-- SARI (R87). -/
def execSari (e n : Bool) (d ca : Code) (i : BitVec 8) (s : State) : Out :=
  s.lane1 (.sari e n d ca i) e n d ca fun a => sar32 a (i.setWidth 32)
/-- MULI (R87). -/
def execMuli (e n : Bool) (d ca : Code) (i : BitVec 8) (s : State) : Out :=
  s.lane1 (.muli e n d ca i) e n d ca fun a => a * i.signExtend 32
/-- LDI (R88). -/
def execLdi (e : Bool) (d : Code) (i : BitVec 16) (s : State) : Out :=
  s.laneOp (.ldi e d i) e false d [] fun _ _ => i.signExtend 32
/-- LDH (R88): D is read. -/
def execLdh (e : Bool) (d : Code) (i : BitVec 16) (s : State) : Out :=
  s.laneOp (.ldh e d i) e false d [.src d] fun x l => ldh32 i (s.src x l d)

/-! ## Compares and predicates (R89 to R93) -/

/-- A compare of two 32-bit sources. -/
def State.lanePred2 (s : State) (i : Instr) (e : Bool) (kd ca cb : Code) (f : Word → Word → Bool) : Out :=
  s.lanePred i e kd [.src ca, .src cb] fun x l => f (s.src x l ca) (s.src x l cb)
/-- CMPEQ (R89). -/
def execCmpeq (e : Bool) (k ca cb : Code) (s : State) : Out :=
  s.lanePred2 (.cmpeq e k ca cb) e k ca cb fun a b => a == b
/-- CMPNE (R89). -/
def execCmpne (e : Bool) (k ca cb : Code) (s : State) : Out :=
  s.lanePred2 (.cmpne e k ca cb) e k ca cb fun a b => a != b
/-- CMPLT (R89). -/
def execCmplt (e : Bool) (k ca cb : Code) (s : State) : Out :=
  s.lanePred2 (.cmplt e k ca cb) e k ca cb fun a b => a.slt b
/-- CMPLE (R89). -/
def execCmple (e : Bool) (k ca cb : Code) (s : State) : Out :=
  s.lanePred2 (.cmple e k ca cb) e k ca cb fun a b => a.sle b
/-- CMPLTN (R89). -/
def execCmpltn (e : Bool) (k ca cb : Code) (s : State) : Out :=
  s.lanePred2 (.cmpltn e k ca cb) e k ca cb fun a b => a.ult b
/-- CMPLEN (R89). -/
def execCmplen (e : Bool) (k ca cb : Code) (s : State) : Out :=
  s.lanePred2 (.cmplen e k ca cb) e k ca cb fun a b => a.ule b
/-- CMPEQI (R89). -/
def execCmpeqi (e : Bool) (k ca : Code) (i : BitVec 7) (s : State) : Out :=
  s.lanePred (.cmpeqi e k ca i) e k [.src ca] fun x l => let a := s.src x l ca; a == i.signExtend 32
/-- CMPLTI (R89). -/
def execCmplti (e : Bool) (k ca : Code) (i : BitVec 7) (s : State) : Out :=
  s.lanePred (.cmplti e k ca i) e k [.src ca] fun x l => let a := s.src x l ca; a.slt (i.signExtend 32)
/-- CMPLTNI (R89). -/
def execCmpltni (e : Bool) (k ca : Code) (i : BitVec 7) (s : State) : Out :=
  s.lanePred (.cmpltni e k ca i) e k [.src ca] fun x l => let a := s.src x l ca; a.ult (i.setWidth 32)
/-- CMPLTX (R89). -/
def execCmpltx (e : Bool) (k ca cb : Code) (s : State) : Out :=
  s.lanePred (.cmpltx e k ca cb) e k [.pair ca, .pair cb] fun x l =>
    let a := s.src64 x l ca; let b := s.src64 x l cb; a.slt b
/-- CMPEQX (R89). -/
def execCmpeqx (e : Bool) (k ca cb : Code) (s : State) : Out :=
  s.lanePred (.cmpeqx e k ca cb) e k [.pair ca, .pair cb] fun x l =>
    let a := s.src64 x l ca; let b := s.src64 x l cb; a == b
/-- KAND (R91). -/
def execKand (e : Bool) (kd ka kb : Code) (s : State) : Out :=
  s.lanePred (.kand e kd ka kb) e kd [] fun x l =>
    let a := (x.grp.th l).k.getLsbD ka.toNat; let b := (x.grp.th l).k.getLsbD kb.toNat; a && b
/-- KOR (R91). -/
def execKor (e : Bool) (kd ka kb : Code) (s : State) : Out :=
  s.lanePred (.kor e kd ka kb) e kd [] fun x l =>
    let a := (x.grp.th l).k.getLsbD ka.toNat; let b := (x.grp.th l).k.getLsbD kb.toNat; a || b
/-- KXOR (R91). -/
def execKxor (e : Bool) (kd ka kb : Code) (s : State) : Out :=
  s.lanePred (.kxor e kd ka kb) e kd [] fun x l =>
    let a := (x.grp.th l).k.getLsbD ka.toNat; let b := (x.grp.th l).k.getLsbD kb.toNat; a != b
/-- KANDN (R91). -/
def execKandn (e : Bool) (kd ka kb : Code) (s : State) : Out :=
  s.lanePred (.kandn e kd ka kb) e kd [] fun x l =>
    let a := (x.grp.th l).k.getLsbD ka.toNat; let b := (x.grp.th l).k.getLsbD kb.toNat; a && !b
/-- KSET (R92). -/
def execKset (e : Bool) (k ca : Code) (i : BitVec 5) (s : State) : Out :=
  s.lanePred (.kset e k ca i) e k [.src ca] fun x l => (s.src x l ca).getLsbD i.toNat
/-- KGET (R93): `ka` is a predicate index. -/
def execKget (e n : Bool) (d ka : Code) (s : State) : Out :=
  s.laneOp (.kget e n d ka) e n d [] fun x l => if (x.grp.th l).k.getLsbD ka.toNat then 1 else 0

end Sys2Proof.Machine
end

