-- ==== Sys2Proof/Machine/Float.lean ====
section
/-! DEFINITION. Floating-point, conversion and quantizing instructions, V-set opcodes 0x40 to 0x5C
(chapter 07, R116 to R132; chapter 03, R41 to R59). -/

namespace Sys2Proof.Machine

/-- A V-form with a 32-bit result in every lane, whose events the real lanes count in one format (R116). -/
def State.laneOpEv (s : State) (i : Instr) (e n : Bool) (d : Code) (fmt : Nat) (uses : List Use)
    (f : Ctx → Nat → Word × Events) : Out :=
  s.vform i e (uses ++ [.dst d n]) fun x =>
    let r := lanewise (0, []) x.run.mask (f x)
    let v := r.map (·.1)
    let evs := (lanesOf x.real).flatMap fun l => (r[l]?.getD (0, [])).2
    .next ((s.finish x (x.grp.writeLanes x.run.mask n d v) e (latch32 v)).countEvents x.grp.launch fmt evs)

/-- A form of two FP32 sources. -/
def State.fp2 (s : State) (i : Instr) (e n : Bool) (d ca cb : Code) (f : Word → Word → Word × Events) : Out :=
  s.laneOpEv i e n d 0 [.src ca, .src cb] fun x l => f (s.src x l ca) (s.src x l cb)
/-- A form of one FP32 source. -/
def State.fp1 (s : State) (i : Instr) (e n : Bool) (d ca : Code) (f : Word → Word × Events) : Out :=
  s.laneOpEv i e n d 0 [.src ca] fun x l => f (s.src x l ca)

/-- A × B + D exactly, rounded once (R46). -/
def ffma32 (rz : Bool) (a b c : Word) : Word × Events :=
  let x := f32 a; let y := f32 b; let z := f32 c
  let nanIn := x.isNan || y.isNan || z.isNan
  let infIn := x.isInf || y.isInf || z.isInf
  let v := (x.mul y).add z
  if rz then rz32 nanIn infIn v else rne32 nanIn infIn v
def faddz32 (a b : Word) : Word × Events :=
  let x := f32 a; let y := f32 b
  rz32 (x.isNan || y.isNan) (x.isInf || y.isInf) (x.add y)
def fmulz32 (a b : Word) : Word × Events :=
  let x := f32 a; let y := f32 b
  rz32 (x.isNan || y.isNan) (x.isInf || y.isInf) (x.mul y)

/-! ## FP32 arithmetic (R119, R120) -/

/-- FADD (R119). -/
def execFadd (e n : Bool) (d ca cb : Code) (s : State) : Out :=
  s.fp2 (.fadd e n d ca cb) e n d ca cb fadd
/-- FSUB (R119). -/
def execFsub (e n : Bool) (d ca cb : Code) (s : State) : Out :=
  s.fp2 (.fsub e n d ca cb) e n d ca cb fsub
/-- FMUL (R119). -/
def execFmul (e n : Bool) (d ca cb : Code) (s : State) : Out :=
  s.fp2 (.fmul e n d ca cb) e n d ca cb fmul
/-- FADDZ (R119). -/
def execFaddz (e n : Bool) (d ca cb : Code) (s : State) : Out :=
  s.fp2 (.faddz e n d ca cb) e n d ca cb faddz32
/-- FMULZ (R119). -/
def execFmulz (e n : Bool) (d ca cb : Code) (s : State) : Out :=
  s.fp2 (.fmulz e n d ca cb) e n d ca cb fmulz32
/-- FMIN (R120): no event. -/
def execFmin (e n : Bool) (d ca cb : Code) (s : State) : Out :=
  s.fp2 (.fmin e n d ca cb) e n d ca cb fun a b => (fmin32 a b, [])
/-- FMAX (R120): no event. -/
def execFmax (e n : Bool) (d ca cb : Code) (s : State) : Out :=
  s.fp2 (.fmax e n d ca cb) e n d ca cb fun a b => (fmax32 a b, [])
/-- FFMA (R119): D is read. -/
def execFfma (e n : Bool) (d ca cb : Code) (s : State) : Out :=
  s.laneOpEv (.ffma e n d ca cb) e n d 0 [.src ca, .src cb, .src d] fun x l => ffma32 false (s.src x l ca) (s.src x l cb) (s.src x l d)
/-- FFMAZ (R119): D is read. -/
def execFfmaz (e n : Bool) (d ca cb : Code) (s : State) : Out :=
  s.laneOpEv (.ffmaz e n d ca cb) e n d 0 [.src ca, .src cb, .src d] fun x l => ffma32 true (s.src x l ca) (s.src x l cb) (s.src x l d)

/-! ## Compares (R121) -/

/-- FCMPEQ (R121). -/
def execFcmpeq (e : Bool) (k ca cb : Code) (s : State) : Out :=
  s.lanePred2 (.fcmpeq e k ca cb) e k ca cb fun a b => (f32 a).eq (f32 b)
/-- FCMPLT (R121). -/
def execFcmplt (e : Bool) (k ca cb : Code) (s : State) : Out :=
  s.lanePred2 (.fcmplt e k ca cb) e k ca cb fun a b => (f32 a).lt (f32 b)
/-- FCMPLE (R121). -/
def execFcmple (e : Bool) (k ca cb : Code) (s : State) : Out :=
  s.lanePred2 (.fcmple e k ca cb) e k ca cb fun a b => (f32 a).le (f32 b)
/-- FCMPUN (R121). -/
def execFcmpun (e : Bool) (k ca cb : Code) (s : State) : Out :=
  s.lanePred2 (.fcmpun e k ca cb) e k ca cb fun a b => (f32 a).isNan || (f32 b).isNan

/-! ## Sign, integral rounding and special functions (R122, R123) -/

/-- An integral rounding: exact, a zero takes the sign of A (R122). -/
def integral (m : ToInt) (a : Word) : Word × Events :=
  match f32 a with
  | .nan => (nan32, [])
  | .inf _ => (a, [])
  | .fin s n d => ((rne32 false false (.fin s (toInteger m s n d).natAbs 1)).1, [])

/-- FABS (R122). -/
def execFabs (e n : Bool) (d ca : Code) (s : State) : Out :=
  s.fp1 (.fabs e n d ca) e n d ca fun a => ((if (f32 a).isNan then nan32 else a &&& 0x7FFFFFFF), [])
/-- FNEG (R122). -/
def execFneg (e n : Bool) (d ca : Code) (s : State) : Out :=
  s.fp1 (.fneg e n d ca) e n d ca fun a => ((if (f32 a).isNan then nan32 else a ^^^ 0x80000000), [])
/-- FFLOOR (R122). -/
def execFfloor (e n : Bool) (d ca : Code) (s : State) : Out :=
  s.fp1 (.ffloor e n d ca) e n d ca fun a => integral .floor a
/-- FCEIL (R122). -/
def execFceil (e n : Bool) (d ca : Code) (s : State) : Out :=
  s.fp1 (.fceil e n d ca) e n d ca fun a => integral .ceil a
/-- FRINT (R122). -/
def execFrint (e n : Bool) (d ca : Code) (s : State) : Out :=
  s.fp1 (.frint e n d ca) e n d ca fun a => integral .near a
/-- FTRUNC (R122). -/
def execFtrunc (e n : Bool) (d ca : Code) (s : State) : Out :=
  s.fp1 (.ftrunc e n d ca) e n d ca fun a => integral .trunc a
/-- FEXP2 (R123). -/
def execFexp2 (e n : Bool) (d ca : Code) (s : State) : Out :=
  s.fp1 (.fexp2 e n d ca) e n d ca fexp2
/-- FLOG2 (R123). -/
def execFlog2 (e n : Bool) (d ca : Code) (s : State) : Out :=
  s.fp1 (.flog2 e n d ca) e n d ca flog2
/-- FRCP (R123). -/
def execFrcp (e n : Bool) (d ca : Code) (s : State) : Out :=
  s.fp1 (.frcp e n d ca) e n d ca frcp
/-- FRSQ (R123). -/
def execFrsq (e n : Bool) (d ca : Code) (s : State) : Out :=
  s.fp1 (.frsq e n d ca) e n d ca frsq
/-- FSQRT (R123). -/
def execFsqrt (e n : Bool) (d ca : Code) (s : State) : Out :=
  s.fp1 (.fsqrt e n d ca) e n d ca fsqrt
/-- FSINP (R123). -/
def execFsinp (e n : Bool) (d ca : Code) (s : State) : Out :=
  s.fp1 (.fsinp e n d ca) e n d ca fsinp
/-- FCOSP (R123). -/
def execFcosp (e n : Bool) (d ca : Code) (s : State) : Out :=
  s.fp1 (.fcosp e n d ca) e n d ca fcosp
/-- FTANH (R123). -/
def execFtanh (e n : Bool) (d ca : Code) (s : State) : Out :=
  s.fp1 (.ftanh e n d ca) e n d ca ftanh
/-- FSIG (R123). -/
def execFsig (e n : Bool) (d ca : Code) (s : State) : Out :=
  s.fp1 (.fsig e n d ca) e n d ca fsig

/-! ## Conversions (R125 to R127) -/

/-- FP32 to an integer, rounded and clamped (R125). -/
def toIntWord (m : ToInt) (lo hi : Int) (a : Word) : Word :=
  match f32 a with
  | .nan => 0
  | .inf s => BitVec.ofInt 32 (if s then lo else hi)
  | .fin s n d => BitVec.ofInt 32 (clamp lo hi (toInteger m s n d))

/-- A 16-bit half widened to FP32, every NaN canonical (R126). -/
def widen (f : Fmt) (h : Nat) : Word := (rne32 true true (f.value h)).1

/-- The two 16-bit halves of a word. -/
def lowHalf (w : Word) : Nat := w.toNat % 2 ^ 16
def highHalf (w : Word) : Nat := w.toNat / 2 ^ 16
/-- Pack two halves, and join their events. -/
def packHalves (lo hi : Nat × Events) : Word × Events := (BitVec.ofNat 32 (hi.1 * 2 ^ 16 + lo.1), lo.2 ++ hi.2)

/-- CVTFI (R125): no event. -/
def execCvtfi (e n : Bool) (d ca : Code) (s : State) : Out :=
  s.lane1 (.cvtfi e n d ca) e n d ca fun a => toIntWord .near (-2147483648) 2147483647 a
/-- CVTFIZ (R125): no event. -/
def execCvtfiz (e n : Bool) (d ca : Code) (s : State) : Out :=
  s.lane1 (.cvtfiz e n d ca) e n d ca fun a => toIntWord .trunc (-2147483648) 2147483647 a
/-- CVTFN (R125): no event. -/
def execCvtfn (e n : Bool) (d ca : Code) (s : State) : Out :=
  s.lane1 (.cvtfn e n d ca) e n d ca fun a => toIntWord .near 0 4294967295 a
/-- CVTIF (R125): no event. -/
def execCvtif (e n : Bool) (d ca : Code) (s : State) : Out :=
  s.lane1 (.cvtif e n d ca) e n d ca fun a => (rne32 false false (.ofInt a.toInt)).1
/-- CVTNF (R125): no event. -/
def execCvtnf (e n : Bool) (d ca : Code) (s : State) : Out :=
  s.lane1 (.cvtnf e n d ca) e n d ca fun a => (rne32 false false (.ofInt a.toNat)).1
/-- CVTBF (R126): no event. -/
def execCvtbf (e n : Bool) (d ca : Code) (s : State) : Out :=
  s.lane1 (.cvtbf e n d ca) e n d ca fun a => widen bf16 (lowHalf a)
/-- CVTBFH (R126): no event. -/
def execCvtbfh (e n : Bool) (d ca : Code) (s : State) : Out :=
  s.lane1 (.cvtbfh e n d ca) e n d ca fun a => widen bf16 (highHalf a)
/-- CVTHF (R126): no event. -/
def execCvthf (e n : Bool) (d ca : Code) (s : State) : Out :=
  s.lane1 (.cvthf e n d ca) e n d ca fun a => widen fp16 (lowHalf a)
/-- CVTHFH (R126): no event. -/
def execCvthfh (e n : Bool) (d ca : Code) (s : State) : Out :=
  s.lane1 (.cvthfh e n d ca) e n d ca fun a => widen fp16 (highHalf a)

/-- Round an FP32 value into a 16-bit format (R48, R127). -/
def narrow16 (f : Fmt) (m : Rounding) (a : Word) : Nat × Events := f.encode m (f32 a).isNan (f32 a).isInf (f32 a)

/-- CVTFB (R127). -/
def execCvtfb (e n : Bool) (d ca cb : Code) (s : State) : Out :=
  s.laneOpEv (.cvtfb e n d ca cb) e n d 1 [.src ca, .src cb] fun x l =>
    packHalves (narrow16 bf16 .rne (s.src x l ca)) (narrow16 bf16 .rne (s.src x l cb))
/-- CVTFBS (R127). -/
def execCvtfbs (e n : Bool) (d ca cb : Code) (s : State) : Out :=
  s.laneOpEv (.cvtfbs e n d ca cb) e n d 1 [.src ca, .src cb] fun x l =>
    packHalves (narrow16 bf16 .sat (s.src x l ca)) (narrow16 bf16 .sat (s.src x l cb))
/-- CVTFH (R127). -/
def execCvtfh (e n : Bool) (d ca cb : Code) (s : State) : Out :=
  s.laneOpEv (.cvtfh e n d ca cb) e n d 2 [.src ca, .src cb] fun x l =>
    packHalves (narrow16 fp16 .rne (s.src x l ca)) (narrow16 fp16 .rne (s.src x l cb))

/-! ## Packed BF16 pairs (R128) -/

/-- One half of a packed sum, product or fused form. -/
def bsum (a b : Nat) : Nat × Events :=
  let x := bf16.value a; let y := bf16.value b
  bf16.encode .rne (x.isNan || y.isNan) (x.isInf || y.isInf) (x.add y)
def bprod (a b : Nat) : Nat × Events :=
  let x := bf16.value a; let y := bf16.value b
  bf16.encode .rne (x.isNan || y.isNan) (x.isInf || y.isInf) (x.mul y)
def bfused (a b c : Nat) : Nat × Events :=
  let x := bf16.value a; let y := bf16.value b; let z := bf16.value c
  bf16.encode .rne (x.isNan || y.isNan || z.isNan) (x.isInf || y.isInf || z.isInf) ((x.mul y).add z)
/-- A packed form of A and B. -/
def State.packed (s : State) (i : Instr) (e n : Bool) (d ca cb : Code) (f : Nat → Nat → Nat × Events) : Out :=
  s.laneOpEv i e n d 1 [.src ca, .src cb] fun x l =>
    let a := s.src x l ca; let b := s.src x l cb
    packHalves (f (lowHalf a) (lowHalf b)) (f (highHalf a) (highHalf b))

/-- BADD2 (R128). -/
def execBadd2 (e n : Bool) (d ca cb : Code) (s : State) : Out :=
  s.packed (.badd2 e n d ca cb) e n d ca cb bsum
/-- BMUL2 (R128). -/
def execBmul2 (e n : Bool) (d ca cb : Code) (s : State) : Out :=
  s.packed (.bmul2 e n d ca cb) e n d ca cb bprod
/-- BMAX2 (R128). -/
def execBmax2 (e n : Bool) (d ca cb : Code) (s : State) : Out :=
  s.packed (.bmax2 e n d ca cb) e n d ca cb fun a b => (bf16.pick true a b, [])
/-- BMIN2 (R128). -/
def execBmin2 (e n : Bool) (d ca cb : Code) (s : State) : Out :=
  s.packed (.bmin2 e n d ca cb) e n d ca cb fun a b => (bf16.pick false a b, [])
/-- BFMA2 (R128): D is read. -/
def execBfma2 (e n : Bool) (d ca cb : Code) (s : State) : Out :=
  s.laneOpEv (.bfma2 e n d ca cb) e n d 1 [.src ca, .src cb, .src d] fun x l =>
    let a := s.src x l ca; let b := s.src x l cb; let c := s.src x l d
    packHalves (bfused (lowHalf a) (lowHalf b) (lowHalf c)) (bfused (highHalf a) (highHalf b) (highHalf c))

/-! ## Quantizers (R52, R129, R130) -/

/-- A lane's code under scale `c`, with the events of the conversion (R50, R130). -/
def quantizeOne (k c : Nat) (a : Word) : Nat × Events :=
  let x := f32 a
  if c / 256 % 256 = 0 then (0, [])
  else if c / 256 % 256 = 255 then (narrowNan k, if x.isInf then [0] else [])
  else narrowEncode k (x.div (zs16 c))

/-- The least ZS16 code from `lo`, among `2^j` codes, whose value is at least n / d, by halving (R52). -/
def leastScale (v : Num) : Nat → Nat → Nat
  | 0, lo => lo
  | j + 1, lo => if (zs16 (lo + 2 ^ j - 1)).lt v then leastScale v j (lo + 2 ^ j) else leastScale v j lo

/-- err(c) of R52 over the taking-part lanes, by lane number. -/
def scaleError (k c : Nat) (xs : List (Option Word)) : Word :=
  ((tree 5 (xs.map fun o => o.map fun a =>
    let q := narrowValue k (quantizeOne k c a).1
    let d := (rne32 false false ((f32 a).sub (q.mul (zs16 c)))).1
    (fmul d d).1)).1).getD 0

/-- The scale R52 chooses for a block: the values of the taking-part lanes, none for the others. -/
def chooseScale (k : Nat) (xs : List (Option Word)) : Nat :=
  let vals := xs.filterMap fun o => o.map f32
  if vals.any fun v => v.isNan || v.isInf then 0xFF00
  else
    let amax := vals.foldl (fun m v => if m.lt v.abs then v.abs else m) Num.zero
    if amax.isZero then 0
    else
      let c0 := min 0xFEFF (leastScale (amax.div (.ofInt (narrowMax k))) 16 0x100)
      let cands := [c0, c0 - 16, c0 - 32].filter fun c => 0x100 ≤ c
      (cands.foldl (fun (best : Nat × Option Word) c =>
        let er := scaleError k c xs
        match best.2 with
        | none => (c, some er)
        | some b => if (f32 er).lt (f32 b) then (c, some er) else best) (c0, none)).1

/-- A quantizer into narrow format `k` (R129): B naming code 100 selects the automatic scale. -/
def State.quantize (s : State) (i : Instr) (k : Nat) (e n : Bool) (d ca cb : Code) : Out :=
  s.vform i e [.src ca, .src cb, .dst d n] fun x =>
    let xs := laneNumbers.map fun l => if x.real.getLsbD l then some (s.src x l ca) else none
    let auto := chooseScale k xs
    let one := fun l =>
      let c := if cb = 100 then auto else (s.src x l cb).toNat % 2 ^ 16
      let (q, ev) := quantizeOne k c (s.src x l ca)
      ((BitVec.ofNat 32 (c * 2 ^ 16 + q) : Word), ev)
    let r := lanewise ((0 : Word), ([] : Events)) x.real one
    let v := r.map (·.1)
    let evs := (lanesOf x.real).flatMap fun l => (r[l]?.getD (0, [])).2
    .next ((s.finish x (x.grp.writeLanes x.real n d v) e (latch32 v)).countEvents x.grp.launch (narrowIndex k) evs)

/-- QNTF8 (R129). -/
def execQntf8 (e n : Bool) (d ca cb : Code) (s : State) : Out := s.quantize (.qntf8 e n d ca cb) 1 e n d ca cb
/-- QNTF6 (R129). -/
def execQntf6 (e n : Bool) (d ca cb : Code) (s : State) : Out := s.quantize (.qntf6 e n d ca cb) 2 e n d ca cb
/-- QNTF4 (R129). -/
def execQntf4 (e n : Bool) (d ca cb : Code) (s : State) : Out := s.quantize (.qntf4 e n d ca cb) 3 e n d ca cb
/-- QNTI8 (R129). -/
def execQnti8 (e n : Bool) (d ca cb : Code) (s : State) : Out := s.quantize (.qnti8 e n d ca cb) 4 e n d ca cb

/-! ## DQN and RND (R131, R132) -/

/-- DQN's result and FP32 events (R131). -/
def dequantize (k : Nat) (a : Word) : Word × Events :=
  let c := a.toNat % (match k with | 1 => 256 | 2 => 64 | 3 => 16 | _ => 256)
  let sc := a.toNat / 2 ^ 16
  if sc / 256 = 255 then (nan32, [])
  else if k ≠ 4 ∧ c = narrowNan k then (nan32, [])
  else if sc / 256 = 0 then (0, [])
  else rne32 false false ((narrowValue k c).mul (zs16 sc))

/-- DQN (R131): the FP32 events, and counter 12 for a ZI8 0x80. -/
def execDqn (e n : Bool) (d ca : Code) (i : BitVec 8) (s : State) : Out :=
  s.vform (.dqn e n d ca i) e [.src ca, .dst d n] fun x =>
    let r := lanewise (0, []) x.run.mask fun l => dequantize i.toNat (s.src x l ca)
    let v := r.map (·.1)
    let evs := (lanesOf x.real).flatMap fun l => (r[l]?.getD (0, [])).2
    let zi := (lanesOf x.real).filter fun l => i == 4 && (s.src x l ca).toNat % 256 == 128
    .next (((s.finish x (x.grp.writeLanes x.run.mask n d v) e (latch32 v)).countEvents x.grp.launch 0 evs).countEvents
      x.grp.launch 3 (zi.map fun _ => 0))

/-- The hash of R132. -/
def rndHash (a b : Word) : Word :=
  let h := a ^^^ (b * 0x6C8E9CF5)
  let h := h ^^^ (h >>> 16)
  let h := h * 0xB5A347C9
  let h := h ^^^ (h >>> 13)
  let h := h * 0x2D358DCB
  h ^^^ (h >>> 16)
/-- RND (R132). -/
def execRnd (e n : Bool) (d ca cb : Code) (s : State) : Out :=
  s.lane2 (.rnd e n d ca cb) e n d ca cb rndHash

end Sys2Proof.Machine
end

