-- ==== Sys2Proof/Machine/Lane.lean ====
section
/-! DEFINITION. Cross-lane instructions: shuffles, quad exchange, votes, reductions and scans (chapter 09,
R154 to R161). -/

namespace Sys2Proof.Machine

/-- The partner's value of a 32-bit operand, for a reader `t` (R154): a partner outside the path has no
latch entry of this run, and the reader's own entry is read. -/
def State.partner (s : State) (x : Ctx) (t p : Nat) (ca : Code) : Word :=
  if 96 ≤ ca.toNat ∧ ca.toNat < 100 ∧ !x.run.mask.getLsbD p then s.src x t ca else s.src x p ca

/-- A shuffle: lane `t` reads A of lane `f t` if that is a thread of the path, else its own (R156). -/
def State.shuffle (s : State) (i : Instr) (e n : Bool) (d ca : Code) (uses : List Use)
    (f : Ctx → Nat → Option Nat) : Out :=
  s.laneOp i e n d (.src ca :: uses) fun x t =>
    match f x t with
    | some p => if x.run.mask.getLsbD p then s.src x p ca else s.src x t ca
    | none => s.src x t ca

/-- SHFL (R156). -/
def execShfl (e n : Bool) (d ca cb : Code) (s : State) : Out :=
  s.shuffle (.shfl e n d ca cb) e n d ca [.src cb] fun x t => some ((s.src x t cb).toNat % 32)
/-- SHFLU (R156). -/
def execShflu (e n : Bool) (d ca : Code) (i : BitVec 8) (s : State) : Out :=
  s.shuffle (.shflu e n d ca i) e n d ca [] fun _ t => if i.toNat ≤ t then some (t - i.toNat) else none
/-- SHFLD (R156). -/
def execShfld (e n : Bool) (d ca : Code) (i : BitVec 8) (s : State) : Out :=
  s.shuffle (.shfld e n d ca i) e n d ca [] fun _ t => if t + i.toNat < 32 then some (t + i.toNat) else none
/-- SHFLX (R156). -/
def execShflx (e n : Bool) (d ca : Code) (i : BitVec 8) (s : State) : Out :=
  s.shuffle (.shflx e n d ca i) e n d ca [] fun _ t => some (t ^^^ i.toNat)

/-- A lane that QEX may read: a thread of the path, or a helper lane that has not exited (R154). -/
def Ctx.quadReadable (x : Ctx) (p : Nat) : Bool :=
  x.run.mask.getLsbD p || ((x.grp.th p).kind == .helper && (x.grp.th p).standing != .exited)
/-- QEX (R156). -/
def execQex (e n : Bool) (d ca : Code) (i : BitVec 8) (s : State) : Out :=
  s.laneOp (.qex e n d ca i) e n d [.src ca] fun x t =>
    let p := t ^^^ (i.toNat + 1)
    if x.quadReadable p then s.partner x t p ca else s.src x t ca

/-! ## Votes, reductions and scans (R157 to R161) -/

/-- The ballot of the taking-part lanes (R157). -/
def State.ballot (s : State) (x : Ctx) (ca : Code) : LaneMask :=
  maskOf fun l => x.real.getLsbD l && s.src x l ca != 0
/-- VOTEB (R157). -/
def execVoteb (e n : Bool) (d ca : Code) (s : State) : Out :=
  s.laneOp (.voteb e n d ca) e n d [.src ca] fun x _ => s.ballot x ca
/-- VOTEAN (R158). -/
def execVotean (e : Bool) (k ca : Code) (s : State) : Out :=
  s.lanePred (.votean e k ca) e k [.src ca] fun x _ => s.ballot x ca != 0
/-- VOTEAL (R158). -/
def execVoteal (e : Bool) (k ca : Code) (s : State) : Out :=
  s.lanePred (.voteal e k ca) e k [.src ca] fun x _ => s.ballot x ca == x.real

/-- A NaN that an instruction writes is canonical (R42). -/
def canonical (w : Word) : Word := if (f32 w).isNan then nan32 else w

/-- Fold the values of the taking-part lanes, of which there is at least one. -/
def foldLanes (f : Word → Word → Word) : List Word → Word
  | [] => 0
  | a :: as => as.foldl f a

/-- GRED's result and its events (R159, R161). -/
def reduce (k : Nat) (xs : List (Option Word)) : Word × Events :=
  let vs := xs.filterMap id
  match k with
  | 0 => (foldLanes (· + ·) vs, [])
  | 1 => let (r, ev) := tree 5 xs; (canonical (r.getD 0), ev)
  | 2 => (foldLanes max32 vs, [])
  | 3 => (foldLanes min32 vs, [])
  | 4 => (canonical (foldLanes fmax32 vs), [])
  | 5 => (canonical (foldLanes fmin32 vs), [])
  | 6 => (foldLanes (· &&& ·) vs, [])
  | 7 => (foldLanes (· ||| ·) vs, [])
  | _ => (foldLanes (· ^^^ ·) vs, [])

/-- A of the taking-part lanes, by lane number. -/
def State.taking (s : State) (x : Ctx) (ca : Code) : List (Option Word) :=
  laneNumbers.map fun l => if x.real.getLsbD l then some (s.src x l ca) else none

/-- GRED (R159). -/
def execGred (e n : Bool) (d ca : Code) (i : BitVec 8) (s : State) : Out :=
  s.vform (.gred e n d ca i) e [.src ca, .dst d n] fun x =>
    let r := reduce i.toNat (s.taking x ca)
    let v := lanewise 0 x.run.mask fun _ => r.1
    .next ((s.finish x (x.grp.writeLanes x.run.mask n d v) e (latch32 v)).countEvents x.grp.launch 0 r.2)

/-- The running FP32 sums, by lane number: the prefix that a lane reads, and the events (R54). -/
def scanSums : List (Option Word) → Option Word → List Word × Events
  | [], _ => ([], [])
  | none :: xs, acc =>
    let (r, ev) := scanSums xs acc
    (canonical (acc.getD 0) :: r, ev)
  | some v :: xs, none =>
    let (r, ev) := scanSums xs (some v)
    (canonical v :: r, ev)
  | some v :: xs, some a =>
    let (w, e1) := fadd a v
    let (r, ev) := scanSums xs (some w)
    (w :: r, e1 ++ ev)

/-- The running integer sums: with `incl`, a lane's own value counts (R160). -/
def scanInts (incl : Bool) : List (Option Word) → Word → List Word
  | [], _ => []
  | o :: xs, acc =>
    let next := acc + o.getD 0
    (if incl then next else acc) :: scanInts incl xs next

/-- GSCAN (R160): helper lanes receive the prefix at their lane number. -/
def execGscan (e n : Bool) (d ca : Code) (i : BitVec 8) (s : State) : Out :=
  s.vform (.gscan e n d ca i) e [.src ca, .dst d n] fun x =>
    let xs := s.taking x ca
    let r := if i = 2 then scanSums xs none else (scanInts (i == 0) xs 0, [])
    let v := lanewise 0 x.run.mask fun l => r.1.getD l 0
    .next ((s.finish x (x.grp.writeLanes x.run.mask n d v) e (latch32 v)).countEvents x.grp.launch 0 r.2)

end Sys2Proof.Machine
end

