-- ==== Sys2Proof/Machine/Diverge.lean ====
section
/-! DEFINITION. Divergence: per-lane branches, rejoin masks, exits and barriers (chapter 09, R162 to R170;
R17, R137, R139). -/

namespace Sys2Proof.Machine

/-- A free bit: the order between the two paths of a BRK is not specified (R139; log entry 11). -/
def State.drawBit (s : State) : State × Bool := ({ s with freeCtr := s.freeCtr + 1 }, Config.freeBit s.freeCtr)

/-- BRK (R162): each thread of the path, helpers included, moves by its own predicate. -/
def execBrk (k : Code) (t : Bool) (d : BitVec 15) (s : State) : Out :=
  s.withRun fun x =>
    let target := x.pc + 4 * d.signExtend 32
    let taken := maskOf fun l => x.run.mask.getLsbD l && ((x.grp.th l).k.getLsbD k.toNat == t)
    let other := x.run.mask &&& ~~~taken
    let grp := x.grp.mapLanes x.run.mask fun l th => { th with pc := if taken.getLsbD l then target else th.pc + 4 }
    let (s1, first) := if taken = 0 ∨ other = 0 then (s, true) else s.drawBit
    .next (s1.branch x grp ([if first then taken else other, if first then other else taken].filter (· != 0)))

/-- Put a path into a list ordered fullest first, the lower target address first between equals (R139). -/
def insertPath (g : Group) (m : LaneMask) : List LaneMask → List LaneMask
  | [] => [m]
  | p :: ps =>
    let key := fun (q : LaneMask) => (32 - laneCount q, (g.th (lowestLane q)).pc.toNat)
    let a := key m
    let b := key p
    if a.1 < b.1 ∨ (a.1 = b.1 ∧ a.2 ≤ b.2) then m :: p :: ps else p :: insertPath g m ps

/-- The paths of an indirect branch in the order they are listed (R139). -/
def Group.splitOrder (g : Group) (m : LaneMask) : List LaneMask :=
  (g.placesOf m).foldl (fun ps p => insertPath g p ps) []

/-- Finish an indirect branch: lanes outside the trapped sets have moved; the sets are held in order and
enter before any path that proceeds (R163 to R165). -/
def State.indirect (s : State) (x : Ctx) (grp : Group) (sets : List HeldTrap) : State :=
  let trapped := sets.foldl (fun m h => m ||| h.mask) 0
  let go := x.run.mask &&& ~~~trapped
  let back := grp.splitOrder go
  let hs := (sets.filter fun h => h.mask != 0).map fun h => { h with before := go }
  if hs.isEmpty then s.branch x grp back
  else s.takeTrap x grp hs back

/-- Lanes of the path that are helpers (R137). -/
def Ctx.isHelper (x : Ctx) (l : Nat) : Bool := !x.real.getLsbD l

/-- The trapping set of the misaligned targets, with the target of its lowest lane (R163). -/
def misalignedSet (x : Ctx) (target : Nat → Word) (among : Nat → Bool) : HeldTrap :=
  let m := maskOf fun l => x.real.getLsbD l && among l && (target l).getLsbD 0 || x.real.getLsbD l && among l && (target l).getLsbD 1
  { mask := m, cause := 6, value := target (lowestLane m), before := 0 }

/-- The shared body of JMPI and CALLI (R163); `link` writes the return PC. -/
def State.jumpLanes (s : State) (x : Ctx) (ca : Code) (link : Option (Bool × Code)) : State :=
  let target := fun l => s.src x l ca
  let bad := fun l => (target l).getLsbD 0 || (target l).getLsbD 1
  let set := misalignedSet x target fun _ => true
  let ret := x.pc + 4
  let grp := x.grp.mapLanes (x.run.mask &&& ~~~set.mask) fun l t =>
    if bad l then { t with pc := t.pc + 4 }
    else
      let t1 := match link with
        | some (false, d) => t.setReg d.toNat ret
        | _ => t
      { t1 with pc := target l }
  s.indirect x grp [set]

/-- JMPI (R163); a helper-only path moves each helper to its own target, and an operand that R73 would trap on is read
as it stands (R74, R137; log entry 57). -/
def execJmpi (ca : Code) (s : State) : Out :=
  s.withRun fun x =>
    if x.real = 0 then .next (s.jumpLanes x ca none)
    else match judgeUses false x [.src ca] with
      | some cause => .next (s.trapPath x cause (wordOf (.jmpi ca)))
      | none => .next (s.jumpLanes x ca none)

/-- CALLI (R163); every helper of a helper-only path goes on at PC + 4, and nothing is written (R137). -/
def execCalli (n : Bool) (d ca : Code) (s : State) : Out :=
  s.vform (.calli n d ca) true [.src ca, .dst d n] fun x => .next (s.jumpLanes x ca (some (n, d)))

/-- What a JMPT's read of one table word meets (R164): the word with the state after the read, the trap of a refused
page, an unmapped page, or bytes on their way to shared memory. -/
inductive TableWord where
  | word (w : Word)
  | refused (cause : Nat)
  | unmapped (va : Nat)
  | held
  deriving DecidableEq, Repr

/-- Read the table word at `a` as an LD32 of the thread at this moment would; `stale` lets the snapshot serve it, but for
a line that it holds of before an NMU's update (R164, R198, R207). The group's earlier loads of those bytes take them now
(R191). -/
def State.tableWord (s : State) (x : Ctx) (stale : Bool) (l : Nat) (a : Dword) : State × TableWord :=
  let w : Who := { core := x.c, launch := x.grp.launch, block := x.grp.block, thread := x.grp.grp * 32 + l,
                   supervisor := x.supervisor, engine := false }
  match s.judge w .load 4 a with
  | .va v cst =>
    match s.translate x.c x.grp.launch .load v with
    | .unmapped => (s, .unmapped v)
    | .bad k => (s, .refused (if k = 7 then 9 else 7))
    | .ok loc =>
      let k := s.core x.c
      if !cst && (k.logHolds k.nextId (s.partOf x.grp.launch) v 4 || !k.ownClear k.nextId loc 4 || s.atomBefore x.c k.nextId loc 4) then
        (s, .held)
      else
        let older := s.olderLoads x.c x.g k.nextId loc 4
        let s0 := s.takeLoads x.c (older.map fun (r, m) => (r, s.bytesBefore x.c r.id m r.size))
        let (s1, bs) := s0.loadFor x.c k.nextId loc 4 cst (stale && older.isEmpty && !isOld (s.held x.c cst).2 loc)
        (s1.touch loc, .word (BitVec.ofNat 32 (leNat bs)))
  | _ => (s, .refused 7)

/-- Read the table words of some lanes, ascending: the state after the reads, and what each met. -/
def State.tableWords (s : State) (x : Ctx) (stale : Bool) (addr : Nat → Dword) : List Nat → State × List (Nat × TableWord)
  | [] => (s, [])
  | l :: ls =>
    let (s1, w) := s.tableWord x stale l (addr l)
    let (s2, ws) := s1.tableWords x stale addr ls
    (s2, (l, w) :: ws)

/-- The path waits at the run boundary for a page of its table, as it would for a fetch, and keeps what it has read
(R38, R164). -/
def State.waitJump (s : State) (x : Ctx) (base : Dword) (n : Nat) (index : Nat → Word) : State :=
  let j : JumpWait := { mask := x.run.mask, base := base, count := n, index := (lanesOf x.run.mask).map fun l => (l, index l) }
  let g := { x.grp with run := none, jumps := j :: x.grp.jumps }
  let free := g.freed x.run.mask
  let h := (g.addHandlers (free &&& g.handlerSet)).addPaths (g.placesOf (free &&& ~~~g.handlerSet))
  (s.setGroup x.c x.g { h with fetchWait := x.run.mask :: h.fetchWait, since := s.tick }).unfocus

/-- JMPT once its operands are judged: `index` is each lane's (R164); whether the snapshot serves the reads, which merge
as an LD32's do, is a free choice (R186, R198; log entry 5). Helpers go on at PC + 4 where the base has a
refused path or is misaligned and the path holds no real lane, or where their own entry is refused and no real lane's
is; where one lane's entry is refused and another's page is unmapped, the path traps at once, of a page fault if any entry
meets one (log entry 57). -/
def State.jumpTable (s : State) (x : Ctx) (base : Dword) (n : Nat) (index : Nat → Word) : State :=
  let low := BitVec.ofNat 32 (lowestLane x.real)
  let inside := fun l => decide ((index l).toNat < n)
  let wrongPath := 8 ≤ pathOf base && pathOf base != 13
  let misaligned := base.getLsbD 0 || base.getLsbD 1
  if x.real = 0 && (wrongPath || misaligned) then
    s.indirect x (x.grp.mapLanes x.run.mask fun _ t => { t with pc := t.pc + 4 }) []
  else if wrongPath then s.trapPath x 7 low
  else if misaligned then s.trapPath x 6 low
  else
    let readers := (lanesOf x.run.mask).filter inside
    let (s0, stale) := s.drawBit
    let (s1, ws) := s0.tableWords x stale (fun l => base + BitVec.ofNat 64 (4 * (index l).toNat)) readers
    let refused := fun c => ws.find? fun e => x.real.getLsbD e.1 && e.2 == .refused c
    match (refused 9).or (refused 7) with
    | some e => s1.trapPath x (if (refused 9).isSome then 9 else 7) (BitVec.ofNat 32 e.1)
    | none =>
      let missing := ws.filterMap fun e => match e.2 with | .unmapped v => some v | _ => none
      if ws.any fun e => match e.2 with | .unmapped _ => true | .held => true | _ => false then
        (missing.foldl (fun s v => s.noteFault x.grp.launch v 0 false) s).waitJump x base n index
      else
        let word := fun l => (ws.findSome? fun e => match e.2 with | .word w => if e.1 = l then some w else none | _ => none).getD 1
        let boundMask := maskOf fun l => x.real.getLsbD l && !inside l
        let bound : HeldTrap := { mask := boundMask, cause := 12, value := index (lowestLane boundMask), before := 0 }
        let mis := misalignedSet x word inside
        let grp := x.grp.mapLanes (x.run.mask &&& ~~~(boundMask ||| mis.mask)) fun l t =>
          if inside l && !(word l).getLsbD 0 && !(word l).getLsbD 1 then { t with pc := word l }
          else { t with pc := t.pc + 4 }
        s1.indirect x grp [bound, mis]

/-- JMPT (R164): a base that is not a global or constant address, a misaligned base, an entry that may not be read; then
the bound set and the misaligned set. -/
def execJmpt (d ca : Code) (i : BitVec 8) (s : State) : Out :=
  s.withRun fun x =>
    let go : Out := .next (s.jumpTable x (s.src64 x (lowestLane x.run.mask) d) i.toNat fun l => s.src x l ca)
    if x.real = 0 then go
    else match judgeUses false x [.sPair d, .src ca] with
      | some cause => .next (s.trapPath x cause (wordOf (.jmpt d ca i)))
      | none => go

/-- A path that waits in a JMPT goes on with it, when its group issues it again. -/
def State.resumeJump (s : State) (c g : Nat) (grp : Group) (j : JumpWait) : State :=
  let m := j.mask &&& grp.lanesWith (fun t => t.standing == .ready)
  let run : Run := { mask := m, count := 0, latches := [], logRoom := 0, words := [], refusal := 7 }
  let h := { grp with run := some run, jumps := grp.jumps.filter (· != j) }
  s.jumpTable ⟨c, g, s.core c, h, run⟩ j.base j.count fun l => ((j.index.find? fun e => e.1 == l).map (·.2)).getD 0

/-- Bytes have come to shared memory: the core's JMPTs that waited for them may try again (R164). -/
def State.wakeJumps (s : State) (c : Nat) : State :=
  (List.range 32).foldl (fun s g => match s.group c g with
    | some x => if x.jumps.isEmpty then s
        else s.putGroup c g { x with fetchWait := x.fetchWait.filter fun m => !(x.jumps.any fun j => j.mask == m) }
    | none => s) s

/-! ## Rejoin masks (R166, R167) -/

/-- WAIT (R167): every thread of the path arrives and blocks, and the mask is judged. -/
def execWait (i : BitVec 8) (s : State) : Out :=
  s.withRun fun x =>
    let m := i.toNat % 16
    let arr := (x.grp.arrived[m]?.getD 0) ||| x.run.mask
    let blocked := x.grp.mapLanes x.run.mask fun _ t => { t with standing := .waits m }
    let closed := ({ blocked with arrived := x.grp.arrived.setIfInBounds m arr } : Group).closeRun x.run.mask []
    .next ((s.setGroup x.c x.g { closed.judge m with since := s.tick }).unfocus)

/-- Write a rejoin mask and judge it (R166); threads it releases are listed when the run ends (R139; log entry 53). -/
def State.writeMask (s : State) (x : Ctx) (e : Bool) (m : Nat) (v : LaneMask) : State :=
  let g := ({ x.grp with m := x.grp.m.setIfInBounds m v } : Group).judge m
  s.finish x g e (.uniform 0)
/-- MSET (R166): the issuing path's lanes. -/
def execMset (e : Bool) (i : BitVec 8) (s : State) : Out :=
  s.withRun fun x => .next (s.writeMask x e (i.toNat % 16) x.run.mask)
/-- MCLR (R166). -/
def execMclr (e : Bool) (i : BitVec 8) (s : State) : Out :=
  s.withRun fun x => .next (s.writeMask x e (i.toNat % 16) 0)

/-! ## Exits and barriers (R169, R170) -/

/-- The path's threads exit (R169); helper lanes are finished until their quad has ended (R136). -/
def State.exitPath (s : State) (x : Ctx) : State :=
  let closed := (x.grp.exitLanes x.run.mask).closeRun x.run.mask []
  ((s.setGroup x.c x.g { closed with since := s.tick }).afterExit x.c x.g).unfocus
/-- EXIT (R169). -/
def execExit (s : State) : Out := s.withRun fun x => .next (s.exitPath x)
/-- UEXIT (R101). -/
def execUexit (s : State) : Out := s.withRun fun x => .next (s.exitPath x)

/-- The path arrives at a barrier: it blocks, and its stores are released at the barrier's scope (R170). -/
def State.arrive (s : State) (x : Ctx) (st : Standing) (scope : Nat) (why : ReleaseFor) : State :=
  let closed := (x.grp.mapLanes x.run.mask fun _ t => { t with standing := st }).closeRun x.run.mask []
  let s1 := (s.setGroup x.c x.g { closed with since := s.tick }).unfocus
  (s1.startRelease x.c (s.partOf x.grp.launch) scope why).judgeBarriers x.grp.block
/-- BAR (R170). -/
def execBar (s : State) : Out := s.withRun fun x => .next (s.arrive x .bar 0 (.bar x.grp.block))
/-- BARC (R170). -/
def execBarc (s : State) : Out := s.withRun fun x => .next (s.arrive x .barc 1 (.barc x.grp.block))

end Sys2Proof.Machine
end

