-- ==== Sys2Proof/Machine/System.lean ====
section
/-! DEFINITION. Control, region and system instructions (chapter 06, R96 to R115), and PHASE (R240). -/

namespace Sys2Proof.Machine

/-! ## Uniform branches (R96 to R98) -/

/-- Move the whole path to a target. -/
def State.moveAll (s : State) (x : Ctx) (grp : Group) (target : Word) : State :=
  s.branch x (grp.mapLanes x.run.mask fun _ t => { t with pc := target }) [x.run.mask]

/-- UBRA (R98). -/
def execUbra (d : BitVec 23) (s : State) : Out :=
  s.uform (.ubra d) [] fun x => .next (s.moveAll x x.grp (x.pc + 4 * d.signExtend 32))
/-- UBZ (R98). -/
def execUbz (ca : Code) (d : BitVec 16) (s : State) : Out :=
  s.uform (.ubz ca d) [.src ca] fun x =>
    .next (s.moveAll x x.grp (if s.usrc x ca = 0 then x.pc + 4 * d.signExtend 32 else x.pc + 4))
/-- UBNZ (R98). -/
def execUbnz (ca : Code) (d : BitVec 16) (s : State) : Out :=
  s.uform (.ubnz ca d) [.src ca] fun x =>
    .next (s.moveAll x x.grp (if s.usrc x ca ≠ 0 then x.pc + 4 * d.signExtend 32 else x.pc + 4))
/-- UCALL (R98): s31 receives PC + 4; a pending s31 is a pending read. -/
def execUcall (d : BitVec 23) (s : State) : Out :=
  s.uform (.ucall d) [.dst 95 false] fun x =>
    .next (s.moveAll x (x.grp.setSreg 31 (x.pc + 4)) (x.pc + 4 * d.signExtend 32))
/-- URET (R98): a misaligned target traps the whole path (R37). -/
def execUret (ca : Code) (s : State) : Out :=
  s.uform (.uret ca) [.src ca] fun x =>
    let t := s.usrc x ca
    if t.getLsbD 0 || t.getLsbD 1 then .next (s.trapPath x 6 0) else .next (s.moveAll x x.grp t)

/-! ## Regions, traps, the supervisor (R100 to R104) -/

/-- REGION (R100): a new region starts at PC + 4. -/
def execRegion (s : State) : Out := s.withRun fun x => .next (s.finishCommit x x.grp)
/-- UNOP (R102). -/
def execUnop (e : Bool) (s : State) : Out := s.withRun fun x => .next (s.finish x x.grp e (.uniform 0))
/-- TRAP (R103). -/
def execTrap (i : BitVec 8) (s : State) : Out := s.withRun fun x => .next (s.trapPath x 19 (i.setWidth 32))
/-- BKPT (R103). -/
def execBkpt (i : BitVec 8) (s : State) : Out := s.withRun fun x => .next (s.trapPath x 18 (i.setWidth 32))
/-- ERET (R104): a privilege trap at user level. -/
def execEret (s : State) : Out :=
  s.withRun fun x =>
    if x.supervisor then .next (s.returnTrap x) else .next (s.trapPath x 10 (wordOf .eret))

/-! ## System registers (R105 to R109) -/

/-- The 64-bit system registers (R105). -/
def wideReg (n : Nat) : Bool := n == 0 || n == 6 || n == 7 || n == 8 || n == 9

/-- The level word of a path: PRIV (R106). -/
def Ctx.priv (x : Ctx) : Word :=
  let t := x.grp.th (lowestLane x.run.mask)
  (if t.lvl then 1 else 0) + (if t.plvl then 2 else 0)

/-- The value of a system register (R105). -/
def State.sysReg (s : State) (x : Ctx) (n : Nat) : Dword :=
  let l := (s.launch x.grp.launch).getD Launch.reset
  match n with
  | 0 => (s.partition l.part).trapVec
  | 1 => x.grp.trapCause.setWidth 64
  | 2 => x.grp.trapPc.setWidth 64
  | 3 => x.grp.trapMask.setWidth 64
  | 4 => x.grp.trapVal.setWidth 64
  | 5 => x.priv.setWidth 64
  | 6 => l.heapBase
  | 7 => l.heapLim
  | 8 => l.heapOfs
  | 9 => l.ptroot
  | 10 => BitVec.ofNat 64 l.part
  | 11 => BitVec.ofNat 64 x.grp.launch
  | _ => l.fpThr.setWidth 64

/-- A system register that user code may read (R67). -/
def userReg (n : Nat) : Bool := n == 10 || n == 11 || n == 12

/-- MFSR (R108): privilege first, then the operand. -/
def execMfsr (e n : Bool) (d : Code) (i : BitVec 8) (s : State) : Out :=
  s.withRun fun x =>
    if !x.supervisor && !userReg i.toNat then .next (s.trapPath x 10 (wordOf (.mfsr e n d i)))
    else if wideReg i.toNat then s.uniOp64 (.mfsr e n d i) e n d [] fun x => s.sysReg x i.toNat
    else s.uniOp (.mfsr e n d i) e n d [] fun x => (s.sysReg x i.toNat).setWidth 32

/-- The heap registers ignore bits [20:0] of a written value (R334). -/
def heapValue (v : Dword) : Dword := v &&& ~~~(0x1FFFFF : Dword)

/-- Discard the translations a launch's cores hold (R109). -/
def State.dropTlb (s : State) (launch : Nat) : State :=
  { s with cores := s.cores.map fun (c, k) => (c, { k with tlb := k.tlb.filter fun t => t.launch != launch }) }

/-- What the group issued before it changes its launch's translation keeps the old values (R109). -/
def State.keepRoots (s : State) (c g launch : Nat) : State :=
  match s.launch launch with
  | none => s
  | some l =>
    let k := s.core c
    let keep := fun (r : Option Roots) => some (r.getD l.roots)
    s.setCore c { k with
      loads := k.loads.map fun r => if r.slot = g ∧ r.loc = none then { r with roots := keep r.roots } else r
      atoms := k.atoms.map fun a => if a.slot = g ∧ a.loc = none then { a with roots := keep a.roots } else a
      sideLog := k.sideLog.map fun e => if e.slot = g then { e with roots := keep e.roots } else e }

/-- A write of a system register takes effect in its whole scope (R109). -/
def State.writeSys (s : State) (launch reg : Nat) (v : Dword) : State :=
  match s.launch launch with
  | none => s
  | some l =>
    match reg with
    | 0 => s.setPartition l.part { s.partition l.part with trapVec := v, trapPolicy := false }
    | 6 => (s.setLaunch launch { l with heapBase := heapValue v }).dropTlb launch
    | 7 => (s.setLaunch launch { l with heapLim := heapValue v }).dropTlb launch
    | 8 => (s.setLaunch launch { l with heapOfs := heapValue v }).dropTlb launch
    | 9 => (s.setLaunch launch { l with ptroot := v }).dropTlb launch
    | 12 => (List.range 24).foldl (fun s i => s.judgeThreshold launch i) (s.setLaunch launch { l with fpThr := v.setWidth 32 })
    | _ => s

/-- The trap registers of a group after a write (R105, R107): absent lanes have no bit in TRAPMASK (R134); the reserved
bits of TRAPCAUSE, which R106 gives the access RW, keep what is written (log entry 58). -/
def Group.writeTrapReg (g : Group) (reg : Nat) (v : Word) : Group :=
  match reg with
  | 1 => { g with trapCause := v }
  | 2 => { g with trapPc := v &&& ~~~(3 : Word) }
  | 3 => { g with trapMask := v &&& g.presentMask }
  | 4 => { g with trapVal := v }
  | _ => g

/-- MTSR (R109): supervisor only; the registers of a wider scope hold the group until every core has
taken the new value. -/
def execMtsr (ca : Code) (i : BitVec 8) (s : State) : Out :=
  s.withRun fun x =>
    let i' := Instr.mtsr ca i
    if !x.supervisor then .next (s.trapPath x 10 (wordOf i'))
    else s.uform i' [if wideReg i.toNat then .pair ca else .src ca] fun x =>
      if wideReg i.toNat then .next (s.holdGroup x (.mtsr i.toNat (s.usrc64 x ca)))
      else
        let v := s.usrc x ca
        let s1 := if i = 12 then s.writeSys x.grp.launch 12 (v.setWidth 64) else s
        .next (s1.finish x (x.grp.writeTrapReg i.toNat v) true (.uniform 0))

/-- MTSR_COMPLETE (R109). -/
def execMtsrComplete (c g : Nat) (s : State) : Out :=
  match s.group c g with
  | none => .fault .notEnabled
  | some grp => match grp.hold with
    | some (_, .mtsr reg v) =>
      let s1 := if 6 ≤ reg ∧ reg ≤ 9 then s.keepRoots c g grp.launch else s
      .next ((s1.writeSys grp.launch reg v).completeHold c g false id)
    | _ => .fault .notEnabled

/-! ## Counters and the cycle count (R110 to R112) -/

/-- FPEV (R110): a run that holds one begins only when the events of the group's earlier runs are counted, and the FPEV
waits within its run for those of atomics before it there (R59; log entry 54). -/
def execFpev (e n : Bool) (d : Code) (i : BitVec 8) (s : State) : Out :=
  s.uform (.fpev e n d i) [.dst d n] fun x =>
    if x.core.eventsOwed x.g then .next s.unfocus
    else
      let v := ((s.launch x.grp.launch).getD Launch.reset).counter i.toNat
      .next (s.finish x (x.grp.writeS n d v) e (.uniform (v.setWidth 64)))
/-- ERRC (R111). -/
def execErrc (e n : Bool) (d : Code) (i : BitVec 8) (s : State) : Out :=
  s.uniOp (.errc e n d i) e n d [] fun x =>
    let l := (s.launch x.grp.launch).getD Launch.reset
    let p := s.partition l.part
    match i.toNat with
    | 0 => l.dataLoss
    | 1 => p.dataLoss
    | 2 => l.corrected
    | _ => p.corrected

/-- The core's count at a CYC: it has advanced by a free amount since the last one, and by at least one
if this issue slot's instruction is in a later cycle (R112; log entry 12). -/
def Core.readCycle (k : Core) (slot draw : Nat) : Core × Dword :=
  let free := (Config.freeDword draw).toNat % 2 ^ 32
  let adv := if k.cycSlots.contains slot then free + 1 else free
  let v := k.cycle + BitVec.ofNat 64 adv
  ({ k with cycle := v, cycSlots := if adv = 0 then slot :: k.cycSlots else [slot] }, v)
/-- CYC (R112). -/
def execCyc (e : Bool) (d : Code) (s : State) : Out :=
  s.uform (.cyc e d) [.dstPair d false] fun x =>
    let (k, v) := (s.core x.c).readCycle (x.g / 8) s.freeCtr
    let s1 := { s with freeCtr := s.freeCtr + 1 }.setCore x.c k
    .next (s1.finish x (x.grp.writeS2 false d v) e (.uniform v))

/-! ## IFENCE and TBLD (R113 to R115) -/

/-- IFENCE (R113): every instruction the core's cache and run buffers hold goes. -/
def execIfence (s : State) : Out :=
  s.withRun fun x => .next ((s.setCore x.c { s.core x.c with icache := [] }).finish x x.grp true (.uniform 0))

/-- Table image reads are loads of the issuing core (R114). -/
def Group.reader (g : Group) (c : Nat) (sup : Bool) : Who :=
  { core := c, launch := g.launch, block := g.block, thread := g.grp * 32, supervisor := sup, engine := true }

/-- The check that a mapped page of an image refuses a read by: its 4,096 bytes reach two pages at most. -/
def State.imageRefused (s : State) (w : Who) (a : Dword) : Option Nat :=
  [a, a + 4095].findSome? fun b => match s.resolve w .load b with
    | (_, .bad j) => some j
    | _ => none

/-- TBLD (R114): the checks of its own, then the group is held while the image is copied; a path of helper lanes is
judged in full and takes no effect (R74, R137). A takes any U-form pair
source of R78 (log entry 59). -/
def execTbld (n : Bool) (d ca cb : Code) (s : State) : Out :=
  s.uform (.tbld n d ca cb) [.pair ca, .src cb, .dst d n] fun x =>
    let slot := s.usrc x cb
    let a := s.usrc64 x ca
    if slot.extractLsb' 0 4 = 0 ∨ 16 ≤ slot.toNat then .next (s.trapPath x 17 0)
    else if 8 ≤ pathOf a ∨ !pathOk a then .next (s.trapPath x 7 0)
    else if a.toNat % 256 ≠ 0 then .next (s.trapPath x 6 0)
    else if x.real = 0 then
      match s.imageRefused (x.grp.reader x.c x.supervisor) a with
      | some j => .next (s.trapPath x (checkCause j) 0)
      | none => .next (s.finish x x.grp true (.uniform 0))
    else
      let s1 := match s.probe (x.grp.reader x.c x.supervisor) .load a 4096 with
        | some (.unmapped v) => s.noteUnit x.grp.launch v 0
        | _ => s
      .next (s1.holdGroup x (.tbld a slot.toNat d n))

/-- No accepted matrix command still holds the bank that would be overwritten (R115). -/
def Core.bankFree (k : Core) (slot : Nat) (bank : Bool) : Bool :=
  k.mx.all fun m => !((m.words.getD 11 0).extractLsb' 4 4 == BitVec.ofNat 4 slot &&
    (m.words.getD 11 0).getLsbD 3 && m.bank == bank)

def Core.table (k : Core) (slot : Nat) : TableSlot := tget TableSlot.reset k.tables slot

/-- Load an image into a slot: the inactive bank is filled and the banks are swapped (R114). -/
def TableSlot.load (t : TableSlot) (image : Mem) : TableSlot :=
  if t.active then { t with bank0 := image, active := false, gen := t.gen + 1 }
  else { t with bank1 := image, active := true, gen := t.gen + 1 }

/-- TBLD_BANK_SWAP (R114): the image is copied and the banks are swapped; a page that refuses the read is
a trap at the TBLD; an unmapped one waits. -/
def execTbldBankSwap (c g : Nat) (s : State) : Out :=
  match s.group c g with
  | none => .fault .notEnabled
  | some grp => match grp.hold with
    | some (m, .tbld a slot d n) =>
      let w := grp.reader c (grp.th (lowestLane m)).lvl
      let k := s.core c
      let t := k.table slot
      match s.readAs w a 4096 with
      | .ok bs =>
        if !k.bankFree slot (!t.active) then .fault .notEnabled
        else
          let t' := t.load (mputs [] 0 bs)
          let s1 := s.setCore c { k with tables := tput k.tables slot t' }
          .next ((s1.hasRead w a 4096).completeHold c g false fun g => g.writeS n d t'.gen)
      | .refused j => .next (s.trapHold c g (checkCause j) 0)
      | .unmapped v => s.waitPage grp.launch v 0
      | .absent => .fault .notEnabled
    | _ => .fault .notEnabled

/-! ## PHASE (R194, R195, R240) -/

/-- PHASE (R240): `k` is the kind, `sc` the scope. -/
def execPhase (sc : BitVec 3) (k : BitVec 2) (s : State) : Out :=
  s.uform (.phase sc k) [] fun x =>
    let part := s.partOf x.grp.launch
    let core := s.core x.c
    if k.getLsbD 1 && !core.releaseMet part core.nextId sc.toNat (.phase x.g) then
      let s1 := s.holdGroup x (.phase core.nextId sc.toNat (k.getLsbD 0))
      .next (s1.startRelease x.c part sc.toNat (.phase x.g))
    else
      let s1 := if k.getLsbD 0 then s.acquireAt x.c sc.toNat else s
      .next (s1.finishCommit x x.grp)

end Sys2Proof.Machine
end

