-- ==== Sys2Proof/Machine/Issue.lean ====
section
/-! DEFINITION. Issuing: the fetch of instruction words (R37, R38, R210), the choice of a group and of a
path at a run boundary (R138, R141, R328), the reservation in the side log (R233). -/

namespace Sys2Proof.Machine

/-! ## Fetch -/

/-- What the fetch of one word meets (R38). -/
inductive Fetched where
  | word (w : Word)
  | unmapped (va : Nat)
  | refused (cause : Nat)
  deriving DecidableEq, Repr

/-- The word the instruction cache holds for a place. -/
def Core.cachedWord (k : Core) (l : Loc) : Option Word := (k.icache.find? fun p => p.1 == locKey l).map (·.2)

/-- Where the word at offset `pc` of the code at `base` stands (R37). -/
def State.fetchPlace (s : State) (c launch : Nat) (base : Dword) (pc : Word) : Xlat :=
  let a := base + pc.setWidth 64
  if pathOf a != 0 || !pathOk a then .bad 9 else s.translate c launch .fetch (abits a 56 0)

/-- The 64-byte fetch block that holds a place: its 16 words, by key (R37). -/
def State.fetchBlock (s : State) (l : Loc) : List (Nat × Word) :=
  (List.range 16).map fun j =>
    let a : Loc := { l with off := l.off / 64 * 64 + 4 * j }
    (locKey a, s.wordAt a)

/-- Fetch one word; a refused fetch is an aperture trap, or a page fault where the walk is malformed (R38, R336). The
instruction cache takes the whole fetch block and keeps it until an IFENCE (R37, R113, R210). -/
def State.fetchWord (s : State) (c launch : Nat) (base : Dword) (pc : Word) : State × Fetched :=
  match s.fetchPlace c launch base pc with
  | .unmapped => (s, .unmapped (abits (base + pc.setWidth 64) 56 0))
  | .bad k => (s, .refused (if k = 7 then 9 else 7))
  | .ok l =>
    match (s.core c).cachedWord l with
    | some w => (s, .word w)
    | none =>
      let s1 := s.fillTlb c launch (abits (base + pc.setWidth 64) 56 0)
      let k := s1.core c
      (s1.setCore c { k with icache := s.fetchBlock l ++ k.icache }, .word (s.wordAt l))

/-- What the fetch of a run brings: its words, the trap cause where it ended at a refused word, and the address of an
unmapped word, if it met one (R38). -/
structure FetchedRun where
  words : List Word
  refusal : Nat
  unmapped : Option Nat
  deriving DecidableEq, Repr

/-- Fetch a run: from `pc` through the first word with E, at most `n` words; it stops before a word whose fetch is
refused or whose page is unmapped (R38). -/
def State.fetchRun (s : State) (c launch : Nat) (base : Dword) (pc : Word) : Nat → State × FetchedRun
  | 0 => (s, ⟨[], 7, none⟩)
  | n + 1 =>
    match s.fetchWord c launch base pc with
    | (s1, .word w) =>
      if w.getLsbD 30 then (s1, ⟨[w], 7, none⟩)
      else
        let (s2, f) := s1.fetchRun c launch base (pc + 4) n
        (s2, { f with words := w :: f.words })
    | (s1, .unmapped va) => (s1, ⟨[], 7, some va⟩)
    | (s1, .refused cause) => (s1, ⟨[], cause, none⟩)

/-! ## Choosing (R138, R141, R328) -/

/-- Side-log entries that a new run may reserve: free, beyond the reservations of runs in progress. -/
def Core.logFree (k : Core) : Nat :=
  256 - k.sideLog.length - ((List.range 32).map fun g => match k.group g with
    | some x => (match x.run with | some r => r.logRoom | none => 0)
    | none => 0).sum

/-- The path the group in slot `i` issues next: the handler path and the front-most ready listed path take turns. -/
def Core.choosePath (k : Core) (i : Nat) (g : Group) : Option LaneMask :=
  let h := g.handler.find? (k.pathReady i g)
  let p := (g.paths.find? (k.listedReady i g)).map (·.mask)
  match h, p with
  | some m, some n => some (if g.handlerNext then m else n)
  | some m, none => some m
  | none, x => x

/-- The groups of issue slot `i` that are eligible. -/
def State.eligible (s : State) (c i : Nat) : List (Nat × Group) :=
  ((List.range 8).filterMap fun j =>
    match s.group c (8 * i + j) with
    | some x => if (s.core c).mayBegin (8 * i + j) x then some (8 * i + j, x) else none
    | none => none)

/-- `a` is served before `b`: longest wait, then priority, then restarted launches, then slot (R141). -/
def State.servedBefore (s : State) (a b : Nat × Group) : Bool :=
  let prio := fun (g : Group) => match s.launch g.launch with | some l => l.priority | none => 0
  if a.2.since != b.2.since then decide (a.2.since < b.2.since)
  else if prio a.2 != prio b.2 then decide (prio b.2 < prio a.2)
  else if a.2.restarted != b.2.restarted then a.2.restarted
  else decide (a.1 < b.1)

/-- The eligible group that the slot takes. -/
def State.longest (s : State) : List (Nat × Group) → Option (Nat × Group)
  | [] => none
  | a :: as => match s.longest as with
    | none => some a
    | some b => some (if s.servedBefore a b then a else b)

/-- The group of an issue slot whose run is in progress. -/
def State.running (s : State) (c i : Nat) : Option Nat :=
  ((List.range 8).map (8 * i + ·)).find? fun g => match s.group c g with
    | some x => x.run.isSome
    | none => false

/-- A word is an FPEV. -/
def isFpev (w : Word) : Bool :=
  match decode w with
  | some (.fpev _ _ _ _) => true
  | _ => false

/-- A group begins a run of path `m` with the words fetched for it (R38). A path that met an unmapped word waits, and so
does one whose run holds an FPEV while events of the group are not yet counted (R59; log entry 54). -/
def State.beginRun (s : State) (c g : Nat) (grp : Group) (m : LaneMask) (f : FetchedRun) : State :=
  match f.unmapped with
  | some va => (s.noteFault grp.launch va 2 false).setGroup c g { grp with fetchWait := m :: grp.fetchWait }
  | none =>
    if f.words.any isFpev && (s.core c).eventsOwed g then s.setGroup c g { grp with countWait := m :: grp.countWait }
    else
      let run : Run := { mask := m, count := 0, latches := [], logRoom := 32, words := f.words, refusal := f.refusal }
      { s.setGroup c g { grp with run := some run, countWait := grp.countWait.filter (· != m) } with focus := some (c, g) }

/-- RUN_ISSUE (R141): on a core that is in service (R189; log entry 66), the slot takes the group that has waited
longest, which fetches and begins the run of its chosen path, or goes on with a JMPT of it that waited (R164). -/
def execRunIssue (c slot : Nat) (s : State) : Out :=
  if 4 ≤ slot ∨ (s.running c slot).isSome ∨ (s.core c).logFree < 32 ∨ s.removedCores.contains c then .fault .notEnabled
  else match s.longest (s.eligible c slot) with
    | none => .fault .notEnabled
    | some (g, grp) => match (s.core c).choosePath g grp with
      | none => .fault .notEnabled
      | some m => match grp.jumps.find? fun j => (j.mask &&& m) != 0 with
        | some j => .next (s.resumeJump c g grp j)
        | none =>
          let t := grp.th (lowestLane m)
          let (s1, f) := s.fetchRun c grp.launch t.codeBase t.pc 25
          .next (s1.beginRun c g grp m f)

/-- TRAP_ENTRY (R327): at a run boundary the next held trapping set enters the free trap registers. -/
def execTrapEntry (c g : Nat) (s : State) : Out :=
  match s.group c g with
  | none => .fault .notEnabled
  | some grp =>
    if grp.heldTraps.isEmpty || grp.handlerSet != 0 || grp.run.isSome then .fault .notEnabled
    else .next (s.enterTrap c g)

/-! ## One instruction of a run -/

/-- An issue slot issues an instruction, be it one that traps: where it has executed a CYC at the core's present count,
whatever CYC comes from now on is in a later cycle (R112). -/
def State.cycleMoves (s : State) (c g : Nat) : State :=
  let k := s.core c
  if k.cycSlots.contains (g / 8) then s.setCore c { k with cycSlots := [0, 1, 2, 3] } else s

/-- What the run in focus does next: the instruction to execute, or the state after the trap (R29, R38, R71, R74) that
comes instead. Its words were fetched before it began. -/
def State.fetchInstr (s0 : State) (x : Ctx) : Sum State (State × Instr) :=
  let s := s0.cycleMoves x.c x.g
  if 24 ≤ x.run.count then .inl (s.trapPath x 3 0)
  else match x.run.words[x.run.count]? with
    | none => .inl (s.trapPath x x.run.refusal 0)
    | some w =>
      match decode w with
      | some i => .inr (s, i)
      | none =>
        if !w.getLsbD 31 && x.real == 0 then .inl (s.passOver x (w.getLsbD 30))
        else .inl (s.trapPath x 1 w)

/-- An instruction of the table without an encoding: an event. -/
def isEvent (i : Instr) : Bool := (encode i).isNone

/-- A moment passes. -/
def State.passTime (s : State) : State := { s with tick := s.tick + 1 }

/-- Continue the run in progress of an issue slot. -/
def State.withIssue (s : State) (c i : Nat) (k : State → Ctx → Out) : Out :=
  match s.running c i with
  | none => .fault .noRun
  | some g =>
    let t := { s with focus := some (c, g) }
    match t.ctx with
    | none => .fault .noRun
    | some x => k t x

/-! ## Placing a program (log entry 4) -/

/-- A thread at its entry: real, at offset 0 of the code at address 0. -/
def Thread.entered : Thread := { Thread.reset with kind := .real, standing := .ready }

/-- A group of 32 real threads whose run, of these words, is about to issue its first instruction. -/
def Group.entered (launch block : Nat) (words : List Word) : Group :=
  { Group.reset with
    launch := launch, block := block, cls := 64, threads := Vector.replicate 32 Thread.entered
    paths := [{ mask := 0xFFFFFFFF, age := 0 }]
    run := some { mask := 0xFFFFFFFF, count := 0, latches := [], logRoom := 32, words := words, refusal := 7 } }

/-- The record of a launch of one block of one group (R144 to R146). -/
def smallRecord : List Word :=
  zeros 6 ++ [0x301, 0, 0, 0, 1, 1, 1, 0, 4096, 131072, 4, 1024] ++ zeros 46

/-- The launch that the placed group belongs to: its tables at 0x20_0000, through which global address 0 is
physical address 0x40_0000. -/
def Launch.placed (part : Nat) : Launch :=
  { Launch.reset with part := part, record := smallRecord, ptroot := 0x200000, nextBlock := 1, ended := false }

/-- The placed block. -/
def Block.placed (launch cluster : Nat) : Block :=
  { launch := launch, core := 0, bx := 0, by_ := 0, bz := 0, crank := 0, cluster := cluster, scratch := [],
    share := [], slices := [], tiles := [], absentScratch := [], absentShare := [], started := 0,
    stopping := false, ended := false }

/-- Load a word as the program of one group on core 0, slot 0, and put that group's run in focus: the page
tables map address 0 by one 2 MiB leaf that allows everything (R335, R336). -/
def State.placeWord (s : State) (w : Nat) : State :=
  let l := s.nextLaunch
  let b := s.nextBlock
  let s1 := { s with nextLaunch := l + 1, nextBlock := b + 1, nextCluster := s.nextCluster + 1 }
  let s2 := (s1.setLaunch l { Launch.placed 0 with liveBlocks := [b] }).setBlock b (Block.placed l s.nextCluster)
  let s3 := s2.setPartition 0 { s2.partition 0 with ranges := Vector.replicate 8 (0, 4), active := true }
  let s4 := s3.setDword ⟨.local, 0x200000⟩ 0x201001
  let s5 := s4.setDword ⟨.local, 0x201000⟩ 0x40001F
  let word := BitVec.ofNat 32 w
  let s6 := s5.setWord ⟨.local, 0x400000⟩ word
  let k := { s6.core 0 with icache := [], tlb := [] }
  { s6.setCore 0 (k.setGroup 0 (some (Group.entered l b (word :: if word.getLsbD 30 then [] else zeros 24)))) with focus := some (0, 0), agenda := [] }

end Sys2Proof.Machine
end

