-- ==== Sys2Proof/Machine/Queue.lean ====
section
/-! DEFINITION. Queue registers (R245 to R248, R304 to R313): the checks of a block address, the elected GO
forms, CEGO, REGO, PUSH, POP, QTRY, QSTAT, and the posting of status entries. -/

namespace Sys2Proof.Machine

/-! ## Judging a block address (R304) -/

/-- The first of R304's checks that `n` bytes at `a` fail, numbered as R228 numbers its checks. -/
def State.judgeBlock (s : State) (w : Who) (paths : List Nat) (align n : Nat) (a : Dword) : Option Nat :=
  if !pathOk a then some 1
  else if !paths.contains (pathOf a) then some 3
  else if a.toNat % align != 0 then some 4
  else if pathOf a == 0 then none
  else match s.window w a with
    | none => some 5
    | some (o, lim, _) => if o + n ≤ lim then none else some 6

/-- Global, core scratchpad, cluster memory, chip scratchpad. -/
def blockPaths : List Nat := [0, 9, 10, 11]

/-! ## Shapes -/

/-- A commit-class V-form: with no active thread it takes no effect and its path goes on (R137, R306). -/
def State.vcommit (s : State) (i : Instr) (uses : List Use) (k : Ctx → Out) : Out :=
  s.withRun fun x =>
    if x.real = 0 then .next (s.finishCommit x x.grp)
    else match judgeUses false x uses with
      | some cause => .next (s.trapPath x cause (wordOf i))
      | none => k x

/-- A commit-class U-form of R137's list: judged in full, its own trap `own` included; a path of helper lanes
only then takes no effect (R306). -/
def State.ucommit (s : State) (i : Instr) (uses : List Use) (own : Ctx → Option (Nat × Word)) (k : Ctx → Out) : Out :=
  s.uform i uses fun x =>
    match own x with
    | some (cause, v) => .next (s.trapPath x cause v)
    | none => if x.real = 0 then .next (s.finishCommit x x.grp) else k x

/-- The trap of a block address that fails a check (R304). -/
def State.blockTrap (s : State) (x : Ctx) (paths : List Nat) (align n : Nat) (a : Dword) : Option (Nat × Word) :=
  (s.judgeBlock (x.grp.reader x.c x.supervisor) paths align n a).map fun k => (checkCause k, 0)

/-! ## Entries -/

/-- Room in a queue (R245). -/
def Group.room (g : Group) (q : Nat) : Bool := decide ((g.queue q).length < 8)

/-- Append an entry; the format word of an mxc or aec entry goes with it (R245). -/
def Group.append (g : Group) (q : Nat) (e : Dword) (fmt : Word) : Group :=
  let h := g.setQueue q (g.queue q ++ [e])
  match q with
  | 0 => { h with mxFmt := g.mxFmt ++ [fmt] }
  | 2 => { h with aeFmt := g.aeFmt ++ [fmt] }
  | _ => h

/-- Post a status entry for a command of a group, which is answered (R247); the entry of a group that is over is
discarded (R169), and a group that is gone takes none. -/
def State.post (s : State) (c slot launch block q : Nat) (e : Dword) : State :=
  match s.group c slot with
  | none => s
  | some g =>
    if g.launch == launch && g.block == block then
      let h := if g.over then g else g.setQueue q (g.queue q ++ [e])
      s.setGroup c slot (h.setUnans (q - 1) (g.unans (q - 1) - 1))
    else s

/-- The entry is for this group and queue. -/
def WaitingEntry.isFor (w : WaitingEntry) (launch block grp q : Nat) : Bool :=
  w.launch == launch && w.block == block && w.grp == grp && w.q == q

/-- An entry of rds, rdl, nms or sps comes to its group: it waits at its source behind those that wait
already, if the queue has no room or the group is pre-empted; a group that is over takes none (R248). -/
def State.deliver (s : State) (launch block grp q : Nat) (e : Dword) : State :=
  let waits := { s with waitingEntries := s.waitingEntries ++
    [{ launch := launch, block := block, grp := grp, q := q, entry := e }] }
  if !s.groupLives launch block grp then s
  else match s.findGroup launch block grp with
    | none => waits
    | some (c, g) => match s.group c g with
      | none => waits
      | some x =>
        if x.room q && !s.waitingEntries.any (·.isFor launch block grp q) then s.setGroup c g (x.setQueue q (x.queue q ++ [e]))
        else waits

/-- STATUS_ENTRY_DELIVERY (R248): waiting entry `k`, the oldest for its group and queue, is delivered; an entry
for a group that is over goes. -/
def execStatusEntryDelivery (k : Nat) (s : State) : Out :=
  match s.waitingEntries[k]? with
  | none => .fault .notEnabled
  | some w =>
    let t := { s with waitingEntries := ldrop s.waitingEntries k }
    if !s.groupLives w.launch w.block w.grp then .next t
    else match s.findGroup w.launch w.block w.grp with
      | none => .fault .notEnabled
      | some (c, g) => match s.group c g with
        | none => .fault .notEnabled
        | some x =>
          if (s.waitingEntries.take k).any (·.isFor w.launch w.block w.grp w.q) || !x.room w.q then .fault .notEnabled
          else .next (t.setGroup c g (x.setQueue w.q (x.queue w.q ++ [w.entry])))

/-! ## The elected GO forms (R251, R307) -/

/-- The lowest active lane whose word differs from the elected lane's. -/
def divergentLane (x : Ctx) (f : Nat → Word) : Option Nat :=
  (lanesOf x.real).find? fun l => f l != f (lowestLane x.real)

/-- MXGO and AEGO: vote, elect, judge the elected address, queue the command. -/
def State.goElected (s : State) (i : Instr) (ca cb : Code) (q align n : Nat) : Out :=
  s.vcommit i [.src ca, .pair cb] fun x =>
    let fmt := fun l => s.src x l ca
    let lane := lowestLane x.real
    let a := s.src64 x lane cb
    match divergentLane x fmt with
    | some l => .next (s.trapPath x 11 (BitVec.ofNat 32 l))
    | none =>
      match s.judgeBlock (x.grp.reader x.c x.supervisor) blockPaths align n a with
      | some k => .next (s.trapPath x (checkCause k) (BitVec.ofNat 32 lane))
      | none =>
        if x.grp.room q then .next (s.finishCommit x (x.grp.append q a (fmt lane)))
        else .next (s.holdGroup x (.push q a (fmt lane)))

/-- MXGO (R307). -/
def execMxgo (ca cb : Code) (s : State) : Out := s.goElected (.mxgo ca cb) ca cb 0 64 64
/-- AEGO (R307). -/
def execAego (ca cb : Code) (s : State) : Out := s.goElected (.aego ca cb) ca cb 2 32 96

/-! ## PUSH, CEGO, REGO (R308, R309, R313) -/

/-- PUSH (R309): cea, ceb or hqm's outbound half; any other queue is queue misuse. -/
def execPush (ca : Code) (q : BitVec 5) (s : State) : Out :=
  let i := Instr.push ca q
  s.ucommit i [.pair ca] (fun _ => if q = 4 ∨ q = 6 ∨ q = 13 then none else some (13, wordOf i)) fun x =>
    let t := if q = 13 then 14 else q.toNat
    let e := s.usrc64 x ca
    if x.grp.room t then .next (s.finishCommit x (x.grp.append t e 0)) else .next (s.holdGroup x (.push t e 0))

/-- The command queue of a copy engine. -/
def ceQueue (eng : Bool) : Nat := if eng then 6 else 4

/-- CEGO (R308): it holds its group until the engine accepts its entry. -/
def execCego (n : Bool) (d ca : Code) (im : BitVec 8) (s : State) : Out :=
  let eng := im.getLsbD 0
  s.ucommit (.cego n d ca im) [.pair ca, .dst d n] (fun x => s.blockTrap x blockPaths 64 64 (s.usrc64 x ca)) fun x =>
    let e := s.usrc64 x ca
    if x.grp.room (ceQueue eng) then
      .next (s.holdGroup { x with grp := x.grp.append (ceQueue eng) e 0 } (.cego eng e true d n))
    else .next (s.holdGroup x (.cego eng e false d n))

/-- The group after its REGO entry has entered rdc: the count goes to D (R313). -/
def Group.regoQueued (g : Group) (e : Dword) (d : Code) (n : Bool) : Group :=
  let k := g.seqs.rego + 1
  ({ g with seqs := { g.seqs with rego := k } }.append 8 e 0).writeS n d k

/-- REGO (R313). -/
def execRego (n : Bool) (d ca : Code) (s : State) : Out :=
  s.ucommit (.rego n d ca) [.pair ca, .dst d n] (fun x => s.blockTrap x blockPaths 64 64 (s.usrc64 x ca)) fun x =>
    let e := s.usrc64 x ca
    if x.grp.room 8 then .next (s.finishCommit x (x.grp.regoQueued e d n)) else .next (s.holdGroup x (.rego e d n))

/-- QUEUE_ENTRY_APPEND (R246): the entry of a held instruction enters its queue. -/
def execQueueEntryAppend (c g : Nat) (s : State) : Out :=
  match s.group c g with
  | none => .fault .notEnabled
  | some grp => match grp.hold with
    | some (_, .push q e fmt) =>
      if grp.room q then .next (s.completeHold c g true fun h => h.append q e fmt) else .fault .notEnabled
    | some (_, .rego e d n) =>
      if grp.room 8 then .next (s.completeHold c g true fun h => h.regoQueued e d n) else .fault .notEnabled
    | some (m, .cego eng e false d n) =>
      if grp.room (ceQueue eng) then
        .next (s.setGroup c g { grp.append (ceQueue eng) e 0 with hold := some (m, .cego eng e true d n) })
      else .fault .notEnabled
    | _ => .fault .notEnabled

/-! ## POP, QTRY, QSTAT (R310 to R312) -/

/-- A command queue: taking from it is queue misuse (R246). -/
def isCommandQueue (q : Nat) : Bool := q == 0 || q == 2 || q == 4 || q == 6 || q == 8

/-- Taking from these queues acquires (R310). -/
def takeAcquires (q : Nat) : Bool := q == 1 || q == 3 || q == 9 || q == 10 || q == 12 || q == 13

/-- Mark s registers pending. -/
def Group.pendS (g : Group) (rs : List Nat) : Group :=
  { g with sPend := rs.foldl (fun m r => m ||| ((1 : BitVec 32) <<< r)) g.sPend }

/-- Values that only wait to be written (R34): they are marked pending now. -/
def State.returnS (s : State) (c g : Nat) (vals : List (Nat × Word)) : State :=
  match s.group c g with
  | none => s
  | some grp =>
    let s1 := s.setGroup c g (grp.pendS (vals.map (·.1)))
    let k := s1.core c
    if vals.isEmpty then s1
    else s1.setCore c { k with rets := k.rets ++ [{ slot := g, vals := [], svals := vals }] }

/-- The words of an entry for D and D + 1. -/
def entryWords (d : Code) (n : Bool) (e : Dword) : List (Nat × Word) :=
  if n then [] else [(d.toNat - 64, e.setWidth 32), (d.toNat - 63, e.extractLsb' 32 32)]

/-- POP (R310). -/
def execPop (n : Bool) (d : Code) (q : BitVec 5) (s : State) : Out :=
  let i := Instr.pop n d q
  s.ucommit i [.dstPair d n] (fun _ => if isCommandQueue q.toNat then some (13, wordOf i) else none) fun x =>
    match x.grp.queue q.toNat with
    | [] => .next (s.holdGroup x (.pop q.toNat d n))
    | e :: rest =>
      let s1 := if takeAcquires q.toNat then s.acquire x.c else s
      .next ((s1.finishCommit x (x.grp.setQueue q.toNat rest)).returnS x.c x.g (entryWords d n e))

/-- QUEUE_ENTRY_TAKE (R246): a held POP takes the entry that has come. -/
def execQueueEntryTake (c g : Nat) (s : State) : Out :=
  match s.group c g with
  | none => .fault .notEnabled
  | some grp => match grp.hold with
    | some (_, .pop q d n) =>
      match grp.queue q with
      | [] => .fault .notEnabled
      | e :: rest =>
        let s1 := if takeAcquires q then s.acquire c else s
        .next ((s1.completeHold c g true fun h => h.setQueue q rest).returnS c g (entryWords d n e))
    | _ => .fault .notEnabled

/-- QTRY (R311). -/
def execQtry (n : Bool) (d : Code) (q : BitVec 5) (s : State) : Out :=
  let i := Instr.qtry n d q
  s.ucommit i [.quadDst d] (fun _ => if isCommandQueue q.toNat then some (13, wordOf i) else none) fun x =>
    match x.grp.queue q.toNat with
    | [] =>
      let vals := if n then [] else [(d.toNat - 64, 0), (d.toNat - 63, 0), (d.toNat - 62, 0)]
      .next ((s.finishCommit x x.grp).returnS x.c x.g vals)
    | e :: rest =>
      let s1 := if takeAcquires q.toNat then s.acquire x.c else s
      let vals := if n then [] else entryWords d n e ++ [(d.toNat - 62, 1)]
      .next ((s1.finishCommit x (x.grp.setQueue q.toNat rest)).returnS x.c x.g vals)

/-- The word QSTAT writes (R312). -/
def Group.queueStatus (g : Group) (q : Nat) : Word :=
  let unans := if q == 0 || q == 2 || q == 4 || q == 6 then g.unans q else 0
  let out := if q == 13 then (g.queue 14).length else 0
  BitVec.ofNat 32 ((g.queue q).length + 16 * unans + 256 * out)

/-- QSTAT (R312): performed at issue, when the region start of its path moves past it (R305). -/
def execQstat (e n : Bool) (d : Code) (q : BitVec 5) (s : State) : Out :=
  s.uform (.qstat e n d q) [.dst d n] fun x =>
    let v := x.grp.queueStatus q.toNat
    .next (s.finish x ((x.grp.passRegion x.run.mask).writeS n d v) e (.uniform (v.setWidth 64)))

/-! ## Accepting an entry (R246, R247, R255, R260) -/

/-- The engine may accept the head entry of the group's command queue `q`: its status queue keeps a place, unless the
group is over (R169, R247), and a matrix command waits for the group's earlier one (R255). -/
def Group.acceptable (g : Group) (q : Nat) : Bool :=
  !(g.queue q).isEmpty && (g.over || decide ((g.queue (q + 1)).length + g.unans q < 8)) && (q != 0 || g.unans q == 0)

/-- The group slots in rotation order after `last` (R260). -/
def rotation (last : Nat) : List Nat := (List.range 32).map fun i => (last + 1 + i) % 32

/-- The first slot of the rotation whose group's head entry may be accepted. -/
def Core.nextToAccept (k : Core) (last q : Nat) : Option (Nat × Group) :=
  (rotation last).findSome? fun g => match k.group g with
    | some x => if x.acceptable q then some (g, x) else none
    | none => none

/-- Take the head entry of a command queue: the group, the entry, its format word. -/
def Group.takeHead (g : Group) (q : Nat) : Group × Dword × Word :=
  let e := (g.queue q).headD 0
  let h := (g.setQueue q ((g.queue q).drop 1)).setUnans q (g.unans q + 1)
  match q with
  | 0 => ({ h with mxFmt := g.mxFmt.drop 1 }, e, g.mxFmt.headD 0)
  | 2 => ({ h with aeFmt := g.aeFmt.drop 1 }, e, g.aeFmt.headD 0)
  | _ => (h, e, 0)

end Sys2Proof.Machine
end

