-- ==== Sys2Proof/Machine/Barrier.lean ====
section
/-! DEFINITION. Performing stores (R191 to R193), barrier objects (R249, R250), BEXP, BARV and BWAIT (R317 to
R319). -/

namespace Sys2Proof.Machine

/-! ## Stores becoming performed -/

/-- A store of a core becomes performed at the scopes up to `level` (R190, R192); its bytes enter shared memory
at the first of them (log entry 6), unless a peer drops it (R367). -/
def State.performStore (s : State) (c : Nat) (st : StoreRec) (level : Nat) : State :=
  let s1 := if st.level = 0 ∧ 1 ≤ level ∧ s.takesWrite (s.partOf st.launch) st.loc then s.setBytes st.loc st.bytes else s
  let k := s1.core c
  s1.setCore c { k with stores := (k.stores.map fun x =>
    if x.id = st.id then { x with level := max x.level level } else x).filter fun x => x.level < 4 }

/-! ## The object (R249, R250) -/

/-- A barrier object's four words. -/
structure BarrierWords where
  bytes : Word
  arrivals : Word
  phase : Word
  init : Word
  deriving DecidableEq, Repr

def State.barrierAt (s : State) (l : Loc) : BarrierWords :=
  { bytes := s.wordAt l, arrivals := s.wordAt (l.add 4), phase := s.wordAt (l.add 8), init := s.wordAt (l.add 12) }

/-- The object is well formed: phase bits [31:1] zero, init_arrivals from 1 to 2^31 - 1. -/
def BarrierWords.ok (b : BarrierWords) : Bool := decide (b.phase.toNat ≤ 1) && b.init != 0 && decide (b.init.toNat < 2 ^ 31)

/-- Apply one update: bytes added, arrivals counted; then the flip is judged. -/
def BarrierWords.update (b : BarrierWords) (bytes arrivals : Word) : BarrierWords :=
  let x := b.bytes + bytes
  let y := b.arrivals - arrivals
  if x = 0 ∧ y = 0 then { b with bytes := 0, arrivals := b.init, phase := b.phase ^^^ 1 }
  else { b with bytes := x, arrivals := y }

def State.setBarrier (s : State) (l : Loc) (b : BarrierWords) : State :=
  ((s.setWord l b.bytes).setWord (l.add 4) b.arrivals).setWord (l.add 8) b.phase

/-! ## Waiting on an object (R319) -/

/-- Where a barrier address stands for the issuing group, or the trap it raises (R317, checks 1 to 4). -/
def State.barrierPlace (s : State) (w : Who) (a : Dword) : Sum Nat Loc :=
  if !pathOk a then .inl 7
  else if !(pathOf a == 9 || pathOf a == 10 || pathOf a == 11) || a.toNat % 16 != 0 then .inl 17
  else match s.window w a with
    | none => .inl 8
    | some (o, lim, f) => if o + 16 ≤ lim then .inr (f o) else .inl 7

/-- Add the bytes whose count an engine subtracted from an object (R206). -/
def State.credit (s : State) (object : Loc) (places : List (Loc × Nat)) : State :=
  let new := (places.map fun (l, n) => ({ object := object, loc := l, size := n, flipped := false } : Credit)).filter
    fun c => !s.credits.contains c
  { s with credits := s.credits ++ new }

/-- The object's words after an update; a flip covers all that was subtracted from it before (R206, R250). -/
def State.updateBarrier (s : State) (l : Loc) (b new : BarrierWords) : State :=
  let t := s.setBarrier l new
  if new.phase = b.phase then t
  else { t with credits := t.credits.map fun c => if c.object = l then { c with flipped := true } else c }

/-- A BWAIT that observes the flip acquires exactly the bytes subtracted before it, for the constant path, too (R21, R203,
R206). -/
def State.acquireCredits (s : State) (c : Nat) (object : Loc) : State :=
  let mine := s.credits.filter fun x => x.object == object && x.flipped
  let h := hwCluster c
  { s.setCore c (mine.foldl (fun k x => k.dropSnap x.loc x.size) (s.core c)) with
    constants := tput s.constants h (mine.foldl (fun m x => snapCut m x.loc x.size) (tget [] s.constants h)) }

/-- One waiting BWAIT reads its object again. -/
def State.rereadOne (s : State) (c g : Nat) : State :=
  match s.group c g with
  | none => s
  | some grp => match grp.hold with
    | some (_, .bwait a parity) =>
      match s.barrierPlace (grp.reader c true) a with
      | .inl cause => s.trapHold c g cause 0
      | .inr l =>
        let b := s.barrierAt l
        if !b.ok then s.trapHold c g 17 0
        else if b.phase.getLsbD 0 != parity then ((s.acquireCredits c l).completeHold c g true id)
        else s
    | _ => s

/-- Every waiting BWAIT reads again, after a write that may have reached its object. -/
def State.reread (s : State) : State :=
  s.cores.foldl (fun s ck => (List.range 32).foldl (fun s g => s.rereadOne ck.1 g) s) s

/-- The loads of a core issued before `id` that could return and read these bytes take them now: each then only waits to
be written (R34, R193). -/
def State.captureLoads (s : State) (c id : Nat) (l : Loc) (n : Nat) : State :=
  if s.absent l then s
  else s.takeLoads c ((s.core c).loads.filterMap fun r =>
    if id ≤ r.id || r.waits then none
    else match s.loadLoc c r with
      | some m => if m.meets r.size l n then some (r, s.bytesBefore c r.id m r.size) else none
      | none => none)

/-- Perform the core's stores in issue order, up to the last one that meets a range: what an update at the owning place
sees of the core's own earlier stores, behind its earlier loads of those bytes (R193). A waiting BWAIT reads again after
each (R319). -/
def State.settleStores (s : State) (c : Nat) (l : Loc) (n : Nat) : State :=
  let mine := (s.core c).stores.filter fun st => st.level == 0
  let last := mine.foldl (fun m st => if st.loc.meets st.bytes.length l n then st.id + 1 else m) 0
  (mine.filter fun st => st.id < last).foldl
    (fun s st => ((s.captureLoads c st.id st.loc st.bytes.length).performStore c st 1).reread) s

/-- An engine subtracts the completed bytes of some places; a malformed object is left, and the answer says so (R206,
R249, R250). -/
def State.subtractBytes (s : State) (l : Loc) (n : Nat) (places : List (Loc × Nat)) : State × Bool :=
  let b := s.barrierAt l
  if b.ok then (((s.credit l places).updateBarrier l b (b.update (0 - BitVec.ofNat 32 n) 0)).reread, true) else (s, false)

/-- Junction counts one arrival at a chip-scratchpad object of a partition; one that is malformed is left and
the host interrupted (R147, R153). -/
def State.countArrival (s : State) (launch : Nat) (l : Loc) : State :=
  let b := s.barrierAt l
  if b.ok then (s.updateBarrier l b (b.update 0 1)).reread else s.interrupt (.barrier launch)

/-! ## The instructions (R318, R319) -/

/-- BEXP and BARV: the trap, or the update and the phase bit before it. Other waiting BWAITs read again after the stores
and after the update (R319). -/
def State.barrierOp (s : State) (i : Instr) (n : Bool) (d ca : Code) (uses : List Use) (bytes : Ctx → Word) : Out :=
  s.uform i uses fun x =>
    match s.barrierPlace (x.grp.reader x.c x.supervisor) (s.usrc64 x ca) with
    | .inl cause => .next (s.trapPath x cause 0)
    | .inr l =>
      let s1 := s.settleStores x.c l 16
      let b := s1.barrierAt l
      if !b.ok then .next (s1.trapPath x 17 0).reread
      else if x.real = 0 then .next (s.finishCommit x x.grp)
      else
        let s2 := s1.updateBarrier l b (b.update (bytes x) 1)
        .next ((s2.finishCommit x (x.grp.writeS n d (b.phase &&& 1))).reread)

/-- BEXP (R318). -/
def execBexp (n : Bool) (d ca cb : Code) (s : State) : Out :=
  s.barrierOp (.bexp n d ca cb) n d ca [.pair ca, .src cb, .dst d n] fun x => s.usrc x cb
/-- BARV (R318). -/
def execBarv (n : Bool) (d ca : Code) (s : State) : Out :=
  s.barrierOp (.barv n d ca) n d ca [.pair ca, .dst d n] fun _ => 0

/-- BWAIT (R319): a path of helper lanes performs it in full (R306). -/
def execBwait (ca : Code) (im : BitVec 8) (s : State) : Out :=
  s.uform (.bwait ca im) [.pair ca] fun x =>
    let a := s.usrc64 x ca
    match s.barrierPlace (x.grp.reader x.c x.supervisor) a with
    | .inl cause => .next (s.trapPath x cause 0)
    | .inr l =>
      let s1 := s.settleStores x.c l 16
      let b := s1.barrierAt l
      if !b.ok then .next (s1.trapPath x 17 0).reread
      else if b.phase.getLsbD 0 != im.getLsbD 0 then .next ((s1.acquireCredits x.c l).finishCommit x x.grp).reread
      else .next (s1.holdGroup x (.bwait a (im.getLsbD 0))).reread

end Sys2Proof.Machine
end

