-- ==== Sys2Proof/Machine/Spdm.lean ====
section
/-! DEFINITION. A partition's global space as the module itself reaches it, and the Stationmaster as an
SPDM responder (R388, R389). Message codes are those of DSP0274 (log entry 18). -/

namespace Sys2Proof.Machine

/-! ## A partition's global space outside any launch (log entry 19) -/

/-- Where a global address of partition `p` stands: by the tables of the partition's first interface. -/
def State.partPlace (s : State) (p : Nat) (k : Kind) (a : Nat) : Option Loc :=
  let e := BitVec.ofNat 64 a
  if pathOf e != 0 || !pathOk e then none
  else
    match s.walk (s.iface (s.partition p).qifFirst).ptroot.toNat (abits e 56 0) with
    | .inl _ => none
    | .inr (leaf, big) => match s.judgeLeaf p 0 k (abits e 56 0) big leaf with
      | .ok l => some l
      | _ => none

/-- Bytes of the partition's space, if every one of them may be read. -/
def State.partBytes (s : State) (p a : Nat) : Nat → Option (List Byte)
  | 0 => some []
  | n + 1 => match s.partPlace p .load a, s.partBytes p (a + 1) n with
    | some l, some bs => some (s.byteAt l :: bs)
    | _, _ => none

/-- Write bytes into the partition's space; a byte whose page or peer refuses it is left. -/
def State.partWrite (s : State) (p a : Nat) : List Byte → State
  | [] => s
  | b :: bs =>
    let t := match s.partPlace p .store a with
      | some l => if s.takesWrite p l then s.setBytes l [b] else s
      | none => s
    t.partWrite p (a + 1) bs

/-- A word of a list of bytes. -/
def wordIn (bs : List Byte) (off : Nat) : Nat := leNat ((bs.drop off).take 4)
/-- A dword of a list of bytes. -/
def dwordIn (bs : List Byte) (off : Nat) : Nat := leNat ((bs.drop off).take 8)
/-- The `n` bytes at `off` are zero. -/
def zeroIn (bs : List Byte) (off n : Nat) : Bool := ((bs.drop off).take n).all (· == 0)

/-! ## The counter and the slots that measurements name (R385, R386) -/

/-- A copy's set bits form one run from bit 0 (R386). -/
def thermometer (b : BitVec 128) : Bool := (b &&& (b + 1)) == 0
/-- A copy reads cleanly (R386). -/
def RollCopy.reads (r : RollCopy) : Bool := r.clean && thermometer r.bits
/-- The length of the run from bit 0. -/
def runLength (b : BitVec 128) : Nat := ((List.range 128).filter fun i => b.getLsbD i).length
/-- A copy holding `v`. -/
def rollOf (v : Nat) : RollCopy := { bits := BitVec.ofNat 128 (2 ^ min v 128 - 1), clean := true }
/-- V: the higher of the values of the copies that read cleanly. -/
def Manager.rollback (m : Manager) : Option Nat :=
  match m.roll1.reads, m.roll2.reads with
  | true, true => some (max (runLength m.roll1.bits) (runLength m.roll2.bits))
  | true, false => some (runLength m.roll1.bits)
  | false, true => some (runLength m.roll2.bits)
  | false, false => none

def Manager.slot (m : Manager) (b : Bool) : FwSlot := if b then m.slotB else m.slotA
def Manager.setSlot (m : Manager) (b : Bool) (x : FwSlot) : Manager := if b then { m with slotB := x } else { m with slotA := x }

/-! ## Responses -/

/-- SPDM request codes (DSP0274; log entry 18). -/
def codeOf (request : List Byte) : Nat := (request.getD 1 0).toNat
/-- The header of the response to a request code. -/
def replyHeader (code : Nat) : List Byte := [0x13, BitVec.ofNat 8 (code % 128), 0, 0]

/-- A measurement block as DSP0274 lays it out: index, specification, size, type, length, value (log entry 18). -/
def measurementBlock (index type : Nat) (value : List Byte) : List Byte :=
  [BitVec.ofNat 8 index, 1] ++ leBytes (value.length + 3) 2 ++ [BitVec.ofNat 8 type] ++ leBytes value.length 2 ++ value

/-- Measurement blocks 1 to 4 (R388): the ROM digest, the running slot's digest and SVN, V, the digest of the lock-class
table (R368). -/
def Manager.blocks (m : Manager) : List (List Byte) :=
  [measurementBlock 1 0 Config.romDigest,
   measurementBlock 2 1 (Config.sha384 (m.slot m.runningB).image ++ leBytes (m.slot m.runningB).svn 4),
   measurementBlock 3 0x87 (leBytes (m.rollback.getD 0) 4),
   measurementBlock 4 3 (Config.sha384 (m.lockTable.flatMap fun (k, v) => leBytes k 4 ++ leBytes v 4))]

/-- All four blocks. -/
def Manager.measured (m : Manager) : List Byte := m.blocks.flatten

/-- A certificate chain (R389). -/
def Manager.chain (m : Manager) (slot : Nat) : List Byte := tget [] m.certs slot

/-- The algorithms the responder offers (R388), as DSP0274 numbers them (log entry 18). -/
def ecdsaP384 : Nat := 0x80
def hashSha384 : Nat := 2
def dheSecp384r1 : Nat := 0x10
def aeadAes256Gcm : Nat := 2

/-- Of what a request's word of `n` bytes at `off` supports, what is offered. -/
def selected (request : List Byte) (off n offer : Nat) : Nat := leNat ((request.drop off).take n) &&& offer

/-- The selections from a request's algorithm structures, `n` of them: of DHE groups (type 2) and AEAD suites (type 3) what
is offered, of any other type nothing. -/
def selectedStructs : Nat → List Byte → List Byte
  | 0, _ => []
  | n + 1, bs =>
    let type := (bs.getD 0 0).toNat
    let offer := if type = 2 then dheSecp384r1 else if type = 3 then aeadAes256Gcm else 0
    [bs.getD 0 0, 0x20] ++ leBytes (selected bs 2 2 offer) 2 ++
      selectedStructs n (bs.drop (4 + 4 * ((bs.getD 1 0).toNat % 16)))

/-- The ALGORITHMS response: whatever a request supports, nothing but the four is selected (R388; log entry 18). -/
def algorithmsReply (m : List Byte) : List Byte :=
  let tables := selectedStructs (m.getD 2 0).toNat (m.drop (32 + 4 * ((m.getD 28 0).toNat + (m.getD 29 0).toNat)))
  [0x13, 0x63, m.getD 2 0, 0] ++ leBytes (36 + tables.length) 2 ++ [m.getD 6 0 &&& 1, m.getD 7 0 &&& 2] ++ leBytes 4 4 ++
  leBytes (selected m 8 4 ecdsaP384) 4 ++ leBytes (selected m 12 4 hashSha384) 4 ++ List.replicate 16 0 ++ tables

/-- The secret a route's session holds. -/
def State.secretOf (s : State) (r : SpdmRequest) : List Byte :=
  match r.route with
  | .host _ => s.mgr.hostSecret
  | .partition p => (s.partition p).sessionSecret

/-- The route has an open session. -/
def State.sessionOpen (s : State) (r : SpdmRequest) : Bool :=
  match r.route with
  | .host _ => s.mgr.hostSession
  | .partition p => (s.partition p).sessionOpen

/-- The message a request carries, and whether it came secured under the route's session (R388). -/
def State.message (s : State) (r : SpdmRequest) : List Byte × Bool :=
  if (s.secretOf r).isEmpty then (r.request, false)
  else match Config.openSecured (s.secretOf r) r.request with
    | some m => (m, true)
    | none => (r.request, false)

/-- Write a response where its request asked and complete the command that carried it (R371, R384). -/
def State.spdmDone (s : State) (r : SpdmRequest) (resp : List Byte) : State :=
  match r.route with
  | .host _ =>
    let t := s.setBytes ⟨.host, r.buffer⟩ (resp.take 4096)
    { t with mgr := { t.mgr with smAns := 0, smBusy := false } }
  | .partition p =>
    let t := s.partWrite p r.buffer (resp.take 4096)
    t.setPartition p { t.partition p with pcmdAns := BitVec.ofNat 32 (min resp.length 4096), pcmdBusy := false }

/-- Answer a request: secured where it came secured (R388). -/
def State.reply (s : State) (r : SpdmRequest) (resp : List Byte) : State :=
  s.spdmDone r (if (s.message r).2 then Config.secure (s.secretOf r) resp else resp)

/-- A response whose body rests on `material`. -/
def State.spdmBody (s : State) (r : SpdmRequest) (material : List Byte) : State :=
  let m := (s.message r).1
  s.reply r (replyHeader (codeOf m) ++ Config.spdmBody m material)

/-- An ERROR response with a code of DSP0274 (log entry 18). -/
def State.spdmError (s : State) (r : SpdmRequest) (code data : Nat) : State :=
  s.reply r [0x13, 0x7F, BitVec.ofNat 8 code, BitVec.ofNat 8 data]

/-- GET_VERSION. -/
def State.serveVersion (s : State) (r : SpdmRequest) : State := s.spdmBody r []
/-- GET_CAPABILITIES. -/
def State.serveCapabilities (s : State) (r : SpdmRequest) : State := s.spdmBody r []
/-- NEGOTIATE_ALGORITHMS: the response selects from what is offered. -/
def State.serveAlgorithms (s : State) (r : SpdmRequest) : State := s.reply r (algorithmsReply (s.message r).1)
/-- GET_DIGESTS: one SHA-384 digest for each certificate slot in use. -/
def State.serveDigests (s : State) (r : SpdmRequest) : State :=
  s.spdmBody r (s.mgr.certs.flatMap fun (_, c) => Config.sha384 c)

/-- The chain a GET_CERTIFICATE reads: the one its first portion was read from, while it goes on (R389). -/
def Manager.chainFor (m : Manager) (route : SpdmRoute) (slot offset : Nat) : List Byte :=
  match m.certReads.find? fun x => x.1 == route && x.2.1 == slot with
  | some (_, _, c) => if offset = 0 then m.chain slot else c
  | none => m.chain slot

/-- GET_CERTIFICATE: the portion asked for, of a chain wholly from before or wholly from after a SET_CERT (R389); at
most 4,032 bytes at once, which the buffer holds (log entry 18). -/
def State.serveCertificate (s : State) (r : SpdmRequest) : State :=
  let m := (s.message r).1
  let slot := (m.getD 2 0).toNat % 16
  let offset := leNat ((m.drop 4).take 2)
  let chain := s.mgr.chainFor r.route slot offset
  let portion := (chain.drop offset).take (min (leNat ((m.drop 6).take 2)) 4032)
  let reads := (r.route, slot, chain) :: s.mgr.certReads.filter fun x => !(x.1 == r.route && x.2.1 == slot)
  if chain.length ≤ offset then s.spdmError r 0x01 0
  else
    let t := s.reply r ([0x13, 0x02, BitVec.ofNat 8 slot, 0] ++ leBytes portion.length 2 ++
      leBytes (chain.length - offset - portion.length) 2 ++ portion)
    { t with mgr := { t.mgr with certReads := reads } }

/-- CHALLENGE: its slot is pending until CHALLENGE_AUTH is sent (R389). -/
def State.serveChallenge (s : State) (r : SpdmRequest) : State :=
  let slot := ((s.message r).1.getD 2 0).toNat % 16
  let t := { s with mgr := { s.mgr with challenges := s.mgr.challenges ++ [(slot, r)] } }
  match r.route with
  | .host _ => { t with mgr := { t.mgr with smBusy := true } }
  | .partition p => t.setPartition p { t.partition p with pcmdBusy := true }
/-- The blocks that a GET_MEASUREMENTS asks for: none but their number, all four, or one; none where there is no such
block. -/
def Manager.asked (m : Manager) (operation : Nat) : Option (List (List Byte)) :=
  if operation = 0 then some []
  else if operation = 0xFF then some m.blocks
  else (m.blocks[operation - 1]?).map fun b => [b]

/-- GET_MEASUREMENTS: the number of blocks, and those asked for; what follows the record is an opaque function of the
request and of all blocks (log entry 18). -/
def State.serveMeasurements (s : State) (r : SpdmRequest) : State :=
  let m := (s.message r).1
  match s.mgr.asked (m.getD 3 0).toNat with
  | none => s.spdmError r 0x01 0
  | some bs =>
    s.reply r ([0x13, 0x60, if (m.getD 3 0) = 0 then 4 else 0, 0, BitVec.ofNat 8 bs.length] ++ leBytes bs.flatten.length 3 ++
      bs.flatten ++ Config.spdmBody m s.mgr.measured)

/-- The session of a route opens or closes. -/
def State.setSession (s : State) (r : SpdmRequest) (isOpen : Bool) (secret : List Byte) : State :=
  match r.route with
  | .host _ => { s with mgr := { s.mgr with hostSession := isOpen, hostSecret := secret } }
  | .partition p => s.setPartition p { s.partition p with sessionOpen := isOpen, sessionSecret := secret }

/-- KEY_EXCHANGE: the route's earlier session ends, and a new secret is agreed. -/
def State.serveKeyExchange (s : State) (r : SpdmRequest) : State :=
  let secret := Config.sessionSecret s.freeCtr (s.message r).1
  (({ s with freeCtr := s.freeCtr + 1 } : State).spdmBody r s.mgr.measured).setSession r false secret

/-- A message of a session, which comes secured (R388); any other way it is unexpected. -/
def State.inSession (s : State) (r : SpdmRequest) (needsOpen : Bool) (k : State) : State :=
  if (s.message r).2 && (!needsOpen || s.sessionOpen r) then k else s.spdmError r 0x04 0

/-- FINISH: the session is open. -/
def State.serveFinish (s : State) (r : SpdmRequest) : State :=
  s.inSession r false ((s.spdmBody r (s.secretOf r)).setSession r true (s.secretOf r))
/-- KEY_UPDATE: the session and its export master secret stay. -/
def State.serveKeyUpdate (s : State) (r : SpdmRequest) : State := s.inSession r true (s.spdmBody r (s.secretOf r))
/-- HEARTBEAT. -/
def State.serveHeartbeat (s : State) (r : SpdmRequest) : State := s.inSession r true (s.spdmBody r (s.secretOf r))
/-- END_SESSION: the session and its wrapping key end (R365). -/
def State.serveEndSession (s : State) (r : SpdmRequest) : State :=
  s.inSession r true ((s.spdmBody r (s.secretOf r)).setSession r false [])

/-- The event of a request with an SPDM code: the module is ready and the route's command register takes it (R371,
R383, R384). -/
def State.spdmEvent (s : State) (r : SpdmRequest) (code : Nat) (k : State) : Out :=
  let free := match r.route with
    | .host port => s.semHeld && s.semOwner == port && !s.mgr.smBusy
    | .partition p => decide (p < 32) && !(s.partition p).pcmdBusy
  if s.ready && free && codeOf (s.message r).1 == code then .next k else .fault .notEnabled

/-- GET_VERSION (R388). -/
def execGetVersion (r : SpdmRequest) (s : State) : Out := s.spdmEvent r 0x84 (s.serveVersion r)
/-- GET_CAPABILITIES (R388). -/
def execGetCapabilities (r : SpdmRequest) (s : State) : Out := s.spdmEvent r 0xE1 (s.serveCapabilities r)
/-- NEGOTIATE_ALGORITHMS (R388). -/
def execNegotiateAlgorithms (r : SpdmRequest) (s : State) : Out := s.spdmEvent r 0xE3 (s.serveAlgorithms r)
/-- GET_DIGESTS (R388). -/
def execGetDigests (r : SpdmRequest) (s : State) : Out := s.spdmEvent r 0x81 (s.serveDigests r)
/-- GET_CERTIFICATE (R389). -/
def execGetCertificate (r : SpdmRequest) (s : State) : Out := s.spdmEvent r 0x82 (s.serveCertificate r)
/-- CHALLENGE (R389). -/
def execChallenge (r : SpdmRequest) (s : State) : Out := s.spdmEvent r 0x83 (s.serveChallenge r)
/-- GET_MEASUREMENTS (R388). -/
def execGetMeasurements (r : SpdmRequest) (s : State) : Out := s.spdmEvent r 0xE0 (s.serveMeasurements r)
/-- KEY_EXCHANGE (R388). -/
def execKeyExchange (r : SpdmRequest) (s : State) : Out := s.spdmEvent r 0xE4 (s.serveKeyExchange r)
/-- FINISH (R388). -/
def execFinish (r : SpdmRequest) (s : State) : Out := s.spdmEvent r 0xE5 (s.serveFinish r)
/-- KEY_UPDATE (R388). -/
def execKeyUpdate (r : SpdmRequest) (s : State) : Out := s.spdmEvent r 0xE9 (s.serveKeyUpdate r)
/-- HEARTBEAT (R388). -/
def execHeartbeat (r : SpdmRequest) (s : State) : Out := s.spdmEvent r 0xE8 (s.serveHeartbeat r)
/-- END_SESSION (R388). -/
def execEndSession (r : SpdmRequest) (s : State) : Out := s.spdmEvent r 0xEC (s.serveEndSession r)

/-- The oldest pending challenge is answered with CHALLENGE_AUTH (R389). -/
def State.sendChallengeAuth (s : State) : Option State :=
  match s.mgr.challenges with
  | [] => none
  | (slot, r) :: rest =>
    some ({ s with mgr := { s.mgr with challenges := rest } }.spdmBody r (s.mgr.chain slot ++ s.mgr.measured))

/-- CHALLENGE_TIMEOUT (R389): the oldest pending challenge is abandoned; the manual states no answer for the
command that carried it, so that is a free value (log entry 7). -/
def execChallengeTimeout (s : State) : Out :=
  match s.mgr.challenges with
  | [] => .fault .notEnabled
  | (_, r) :: rest =>
    let v := (Config.freeDword s.freeCtr).setWidth 32
    let t := { s with freeCtr := s.freeCtr + 1, mgr := { s.mgr with challenges := rest } }
    .next (match r.route with
      | .host _ => { t with mgr := { t.mgr with smAns := v, smBusy := false } }
      | .partition p => t.setPartition p { t.partition p with pcmdAns := v, pcmdBusy := false })

/-- Serve any SPDM request; one that is not listed is answered ERROR, UnsupportedRequest (R388). -/
def State.respond (s : State) (r : SpdmRequest) : State :=
  match codeOf (s.message r).1 with
  | 0x84 => s.serveVersion r
  | 0xE1 => s.serveCapabilities r
  | 0xE3 => s.serveAlgorithms r
  | 0x81 => s.serveDigests r
  | 0x82 => s.serveCertificate r
  | 0x83 => s.serveChallenge r
  | 0xE0 => s.serveMeasurements r
  | 0xE4 => s.serveKeyExchange r
  | 0xE5 => s.serveFinish r
  | 0xE9 => s.serveKeyUpdate r
  | 0xE8 => s.serveHeartbeat r
  | 0xEC => s.serveEndSession r
  | c => s.spdmError r 0x07 c

end Sys2Proof.Machine
end

