-- ==== Sys2Proof/Machine/Command.lean ====
section
/-! DEFINITION. The commands of PCMD (R365, R358, R370, R371): sealed key handles, collectives, layer
definitions, SPDM requests of a partition. -/

namespace Sys2Proof.Machine

/-- Answer a partition's command; it is over (R364). -/
def State.pcmdDone (s : State) (p : Nat) (a : Word) : State :=
  s.setPartition p { s.partition p with pcmdAns := a, pcmdBusy := false }

/-- The answer for a malformed descriptor or an unknown command (R371). -/
def malformed : Word := 0x80000001

/-- A command's descriptor: 64 bytes, aligned to 64, in the partition's global space (R370). -/
def State.descriptor (s : State) (p desc : Nat) : Option (List Byte) :=
  if desc % 64 = 0 then s.partBytes p desc 64 else none

/-! ## Sealed key handles (R365) -/

/-- A handle from 1 to 0xFFFF that none of the module's handles has, the next unused one first. -/
def State.freeHandle (s : State) : Option Nat :=
  ((List.range 0xFFFF).map fun i => (s.nextKey + i - 1) % 0xFFFF + 1).find? fun h => s.keys.all fun k => k.handle != h

/-- Bytes of equal length, exclusive-or. -/
def xorBytes (a b : List Byte) : List Byte := (a.zip b).map fun (x, y) => x ^^^ y

/-- HMAC with SHA-384, as RFC 2104 gives it for a key of at most 128 bytes (log entry 13). -/
def hmac (key m : List Byte) : List Byte :=
  let k := key ++ List.replicate (128 - key.length) 0
  Config.sha384 (xorBytes k (List.replicate 128 0x5C) ++ Config.sha384 (xorBytes k (List.replicate 128 0x36) ++ m))

/-- The blocks T(i), T(i + 1) ... of HKDF-Expand, `n` of them, behind the block `last` (RFC 5869; log entry 13). -/
def hkdfBlocks (secret info : List Byte) : Nat → Nat → List Byte → List Byte
  | 0, _, _ => []
  | n + 1, i, last =>
    let t := hmac secret (last ++ info ++ [BitVec.ofNat 8 i])
    t ++ hkdfBlocks secret info n (i + 1) t

/-- HKDF-Expand with SHA-384: `len` bytes (RFC 5869; log entry 13). -/
def hkdfExpand (secret info : List Byte) (len : Nat) : List Byte := (hkdfBlocks secret info ((len + 47) / 48) 1 []).take len

/-- The steps of key unwrap, the last first: step `t` is of block `(t - 1) % n + 1`; A is the first block, `r` the others
(RFC 3394; log entry 13). -/
def unwrapSteps (key : List Byte) (n : Nat) : Nat → List Byte → List (List Byte) → List Byte × List (List Byte)
  | 0, a, r => (a, r)
  | t + 1, a, r =>
    let b := Config.aesDecipher key (xorBytes a (leBytes (t + 1) 8).reverse ++ r.getD (t % n) [])
    unwrapSteps key n t (b.take 8) (r.set (t % n) ((b.drop 8).take 8))

/-- Blocks of 8 bytes. -/
def eights (bs : List Byte) (n : Nat) : List (List Byte) := (List.range n).map fun i => (bs.drop (8 * i)).take 8

/-- AES key unwrap: the key data, if its check value is that of RFC 3394 (log entry 13). The blob of `wrapped` bytes holds
that value and then the key data. -/
def keyUnwrap (key blob : List Byte) : Option (List Byte) :=
  let n := blob.length / 8 - 1
  let (a, r) := unwrapSteps key n (6 * n) (blob.take 8) (eights (blob.drop 8) n)
  if a = List.replicate 8 0xA6 then some r.flatten else none

/-- A partition's wrapping key (R365): 32 bytes of HKDF-Expand over the session's export master secret, with "zhm wrap"
and the partition number as the info string. -/
def wrappingKey (secret : List Byte) (p : Nat) : List Byte :=
  hkdfExpand secret [0x7A, 0x68, 0x6D, 0x20, 0x77, 0x72, 0x61, 0x70, BitVec.ofNat 8 p] 32

/-- Command 1: create a handle from a wrapped blob. -/
def State.createKey (s : State) (p : Nat) (d : List Byte) : State :=
  match s.partBytes p (dwordIn d 8) 96 with
  | none => s.pcmdDone p malformed
  | some blob =>
    let q := s.partition p
    match if q.sessionOpen then keyUnwrap (wrappingKey q.sessionSecret p) blob else none, s.freeHandle with
    | some keys, some h =>
      let k : KeyHandle := { handle := h, part := p, blob := keys, bound := none }
      ({ s with keys := s.keys ++ [k], nextKey := h % 0xFFFF + 1 } : State).pcmdDone p (BitVec.ofNat 32 h)
    | _, _ => s.pcmdDone p 0x80000003

/-- The end of the range that holds a byte. -/
def Partition.rangeEnd (q : Partition) (a : Nat) : Option Nat :=
  (q.ranges.toList.find? fun (b, n) => b * 2 ^ 21 ≤ a && a < (b + n) * 2 ^ 21).map fun (b, n) => (b + n) * 2 ^ 21

/-- The bytes from `a` up to `e` lie within the partition's ranges, one range after another. -/
def Partition.holdsTo (q : Partition) (e : Nat) : Nat → Nat → Bool
  | 0, a => decide (e ≤ a)
  | n + 1, a => decide (e ≤ a) || (match q.rangeEnd a with
    | some b => q.holdsTo e n b
    | none => false)

/-- A byte range lies within the partition's eight ranges (R364, R365), and in the module's 1 TiB (R2). -/
def Partition.holds (q : Partition) (base len : Nat) : Bool :=
  decide (base + len ≤ 2 ^ 40) && q.holdsTo (base + len) 8 base

/-- Command 2: bind a handle to a sub-range. DESIGN CHOICE (log entry 13): what bytes already there read as afterwards, the
spec does not say; they are left as they were. -/
def State.bindKey (s : State) (p : Nat) (d : List Byte) : State :=
  let h := wordIn d 4
  let base := dwordIn d 8
  let len := wordIn d 16 * 65536
  if (s.keys.any fun k => k.handle == h && k.part == p && k.bound.isNone) && base % 65536 == 0 && len != 0 &&
      (s.partition p).holds base len then
    ({ s with keys := s.keys.map fun k => if k.handle == h then { k with bound := some (base, len) } else k } : State).pcmdDone p 0
  else s.pcmdDone p malformed

/-- Command 3: destroy a handle that is not bound. -/
def State.destroyKey (s : State) (p : Nat) (d : List Byte) : State :=
  let h := wordIn d 4
  if s.keys.any fun k => k.handle == h && k.part == p && k.bound.isNone then
    ({ s with keys := s.keys.filter fun k => k.handle != h } : State).pcmdDone p 0
  else s.pcmdDone p malformed

/-! ## Collectives (R295, R370) -/

/-- Contributor entries of a descriptor. -/
def contributorsOf (bs : List Byte) : Nat → List (Nat × Nat)
  | 0 => []
  | n + 1 => (wordIn bs 0 % 65536, wordIn bs 0 / 65536) :: contributorsOf (bs.drop 4) n
/-- Station entries of a descriptor: id, parent, child index, expected children. -/
def stationsOf (bs : List Byte) : Nat → List (Nat × Nat × Nat × Nat)
  | 0 => []
  | n + 1 => (wordIn bs 0 % 65536, wordIn bs 0 / 65536, wordIn bs 4 % 65536, wordIn bs 4 / 65536) ::
      stationsOf (bs.drop 8) n

/-- A station id names a module and one of its stations (R370). -/
def stationIdOk (i : Nat) : Bool := i % 1024 ≤ 40 || (42 ≤ i % 1024 && i % 1024 ≤ 47)

/-- The numbers and lists of a descriptor that R370 allows. -/
def collectiveOk (module n bytes op st : Nat) (cs : List (Nat × Nat)) (ss : List (Nat × Nat × Nat × Nat)) : Bool :=
  module ≤ 63 && 1 ≤ n && n ≤ 4096 && bytes % 4 == 0 && 4 ≤ bytes && bytes ≤ 65536 && op ≤ 2 && 1 ≤ st && st ≤ 4096 &&
  (cs.all fun (i, c) => c ≤ 4095 && ss.any fun x => x.1 == i) &&
  (ss.all fun (i, par, _, _) => stationIdOk i && (par == 0xFFFF || ss.any fun y => y.1 == par)) &&
  (ss.filter fun x => x.2.1 == 0xFFFF).length == 1

/-- Command 4: create a collective. -/
def State.createCollective (s : State) (p : Nat) (d : List Byte) : State :=
  let n := wordIn d 0x10
  let st := wordIn d 0x1C
  if 4096 < n ∨ 4096 < st then s.pcmdDone p malformed
  else match s.partBytes p (dwordIn d 0x20) (4 * n), s.partBytes p (dwordIn d 0x28) (8 * st) with
    | some cb, some sb =>
      let cs := contributorsOf cb n
      let ss := stationsOf sb st
      if !collectiveOk (wordIn d 4) n (wordIn d 0x14) (wordIn d 0x18) st cs ss || !zeroIn d 0x30 16 then s.pcmdDone p malformed
      else if 256 ≤ s.collectives.length then s.pcmdDone p 0x80000002
      else
        let low := BitVec.ofNat 32 s.nextCollective
        let id := BitVec.ofNat 64 (dwordIn d 8)
        let c : Collective :=
          { part := p, handle := id.setWidth 32 ++ low, id := id, module := wordIn d 4, n := n,
            bytes := wordIn d 0x14, op := wordIn d 0x18, contributors := cs, stations := ss, destroying := false }
        ({ s with collectives := s.collectives ++ [c], nextCollective := s.nextCollective + 1 } : State).pcmdDone p low
    | _, _ => s.pcmdDone p malformed

/-- A collective has a round in progress (R370). -/
def State.roundOpen (s : State) (c : Collective) : Bool :=
  (s.rounds.any fun r => r.id == c.id && r.part == c.part && (!r.departed || !r.lateHeld.isEmpty) &&
    (!r.onTime.isEmpty || !r.lateHeld.isEmpty)) ||
  (s.packets.any fun k => k.id == c.id && k.part == c.part) ||
  (s.rootRecords.any fun k => k.id == c.id && k.part == c.part)

/-- A collective that is being destroyed goes once its records are delivered; the command is then over. -/
def State.endCollectives (s : State) : State :=
  match s.collectives.find? fun c => c.destroying && !s.roundOpen c with
  | none => s
  | some c =>
    ({ s with collectives := s.collectives.filter fun x => !(x.handle == c.handle && x.part == c.part),
              rounds := s.rounds.filter fun r => !(r.id == c.id && r.part == c.part) } : State).pcmdDone c.part 0

/-- Command 5: destroy a collective, once a round in progress is over. -/
def State.destroyCollective (s : State) (p : Nat) (d : List Byte) : State :=
  let h := BitVec.ofNat 64 (dwordIn d 8)
  if s.collectives.any fun c => c.handle == h && c.part == p then
    (({ s with collectives := s.collectives.map fun c =>
        if c.handle == h && c.part == p then { c with destroying := true } else c } : State).setPartition p
      { s.partition p with pcmdBusy := true }).endCollectives
  else s.pcmdDone p malformed

/-! ## Layers (R262, R358) -/

def State.layer (s : State) (h : Nat) : Option Layer := s.layers.find? fun l => l.handle == h

/-- Words of a list of bytes. -/
def wordsIn (bs : List Byte) : Nat → List Nat
  | 0 => []
  | n + 1 => wordIn bs 0 :: wordsIn (bs.drop 4) n

/-- No number stands in the list twice. -/
def distinct : List Nat → Bool
  | [] => true
  | x :: xs => !xs.contains x && distinct xs

/-- A dimension of a layer (R262). -/
def layerDim (n : Nat) : Bool := n % 1024 == 0 && 1024 ≤ n && n ≤ 8192

/-- An FP32 word that is finite and not zero. -/
def finiteNonzero (w : Nat) : Bool := w / 2 ^ 23 % 256 != 255 && w % 2 ^ 31 != 0

/-- Command 6: define a layer; the writer is judged first, then the descriptor, then the handle. -/
def State.defineLayer (s : State) (p : Nat) (d : List Byte) : State :=
  if !(s.partition p).operator then s.pcmdDone p 0x80000004
  else
    let die := wordIn d 4
    let nIn := wordIn d 0xC
    let nOut := wordIn d 0x10
    let arr := dwordIn d 0x18
    let sc := dwordIn d 0x20
    if 16 ≤ die || !layerDim nIn || !layerDim nOut || wordIn d 0x14 != 0 || arr % 4 != 0 || sc % 4 != 0 || !zeroIn d 0x28 24 then
      s.pcmdDone p malformed
    else
      let na := (nIn / 1024) * (nOut / 512)
      let ns := (nIn / 1024) * (nOut / 1024)
      match s.partBytes p arr (4 * na), s.partBytes p sc (4 * ns) with
      | some ab, some sb =>
        let arrays := wordsIn ab na
        let scales := wordsIn sb ns
        let taken := s.layers.any fun l => l.die == die && l.arrays.any fun a => arrays.contains a
        if !(arrays.all fun a => decide (a < 65536)) || !distinct arrays || taken || !scales.all finiteNonzero then s.pcmdDone p malformed
        else if (s.layer (wordIn d 8)).isSome then s.pcmdDone p 0x80000003
        else
          let l : Layer :=
            { handle := wordIn d 8, die := die, nIn := nIn, nOut := nOut, arrays := arrays,
              scales := scales.map fun w => BitVec.ofNat 32 w }
          ({ s with layers := s.layers ++ [l] } : State).pcmdDone p 0
      | _, _ => s.pcmdDone p malformed

/-- Command 7: retire a layer; a command accepted before goes on with what it holds (R280). -/
def State.retireLayer (s : State) (p : Nat) (d : List Byte) : State :=
  if !(s.partition p).operator then s.pcmdDone p 0x80000004
  else if (s.layer (wordIn d 8)).isSome then
    ({ s with layers := s.layers.filter fun l => l.handle != wordIn d 8 } : State).pcmdDone p 0
  else s.pcmdDone p malformed

/-- Command 8: one SPDM request of the partition. -/
def State.partSpdm (s : State) (p : Nat) (d : List Byte) : State :=
  match s.partBytes p (dwordIn d 8) (wordIn d 4) with
  | none => s.pcmdDone p malformed
  | some req => s.respond { route := .partition p, request := req, buffer := dwordIn d 0x10 }

/-- A write of PCMD (R371); while a command is in progress it has no effect. -/
def State.pcmd (s : State) (p desc : Nat) : State :=
  if (s.partition p).pcmdBusy then s
  else match s.descriptor p desc with
    | none => s.pcmdDone p malformed
    | some d => match wordIn d 0 with
      | 1 => s.createKey p d
      | 2 => s.bindKey p d
      | 3 => s.destroyKey p d
      | 4 => s.createCollective p d
      | 5 => s.destroyCollective p d
      | 6 => s.defineLayer p d
      | 7 => s.retireLayer p d
      | 8 => s.partSpdm p d
      | _ => s.pcmdDone p malformed

/-- Remember an access answered BUSY (R363). -/
def State.answerBusy (s : State) (w : Writer) (off : Nat) : State :=
  match w with
  | .port n => { s with busy := s.busy ++ [(n, off)] }
  | .core _ => s

/-- Where partition block `p` begins in the control window (R359). -/
def partBlock (p : Nat) : Nat := 0x10000 + 0x1000 * p

/-- Write PCMD of partition `p` (R371): a command in progress answers a port BUSY. -/
def State.writePcmd (s : State) (w : Writer) (p desc : Nat) : State :=
  if (s.partition p).pcmdBusy then s.answerBusy w (partBlock p + 0x130) else s.pcmd p desc

/-- The writer may write PCMD of partition `p` (R371): a host port, or the partition's own supervisor. -/
def mayCommand (w : Writer) (p : Nat) : Bool :=
  decide (p < 32) && (match w with
    | .port n => decide (n < 2)
    | .core q => q == p)

/-- The event of a PCMD write whose descriptor holds command `c`. -/
def State.pcmdEvent (s : State) (w : Writer) (p desc c : Nat) : Out :=
  if !s.ready || !mayCommand w p then .fault .notEnabled
  else match s.descriptor p desc with
    | none => .fault .notEnabled
    | some d => if wordIn d 0 = c then .next (s.writePcmd w p desc) else .fault .notEnabled

/-- PCMD_CREATE_KEY_HANDLE (R365). -/
def execPcmdCreateKeyHandle (w : Writer) (p desc : Nat) (s : State) : Out := s.pcmdEvent w p desc 1
/-- PCMD_BIND_KEY_HANDLE (R365). -/
def execPcmdBindKeyHandle (w : Writer) (p desc : Nat) (s : State) : Out := s.pcmdEvent w p desc 2
/-- PCMD_DESTROY_KEY_HANDLE (R365). -/
def execPcmdDestroyKeyHandle (w : Writer) (p desc : Nat) (s : State) : Out := s.pcmdEvent w p desc 3
/-- PCMD_CREATE_COLLECTIVE (R370). -/
def execPcmdCreateCollective (w : Writer) (p desc : Nat) (s : State) : Out := s.pcmdEvent w p desc 4
/-- PCMD_DESTROY_COLLECTIVE (R370). -/
def execPcmdDestroyCollective (w : Writer) (p desc : Nat) (s : State) : Out := s.pcmdEvent w p desc 5
/-- PCMD_DEFINE_LAYER (R358). -/
def execPcmdDefineLayer (w : Writer) (p desc : Nat) (s : State) : Out := s.pcmdEvent w p desc 6
/-- PCMD_RETIRE_LAYER (R358). -/
def execPcmdRetireLayer (w : Writer) (p desc : Nat) (s : State) : Out := s.pcmdEvent w p desc 7
/-- PCMD_SPDM (R371). -/
def execPcmdSpdm (w : Writer) (p desc : Nat) (s : State) : Out := s.pcmdEvent w p desc 8

end Sys2Proof.Machine
end

