-- ==== Sys2Proof/Machine/Arrays.lean ====
section
/-! DEFINITION. Array dies: the link, incarnations and resets (R347 to R351), programming and its journal
(R352 to R355, R316), probes (R356) and the registers of the array port (R357). -/

namespace Sys2Proof.Machine

def Die.array (d : Die) (a : Nat) : ArrayRec := tget ArrayRec.reset d.arrays a
def Die.setArray (d : Die) (a : Nat) (x : ArrayRec) : Die := { d with arrays := tput d.arrays a x }
def ArrayRec.row (x : ArrayRec) (r : Nat) : RowJournal := tget RowJournal.reset x.rows r
def ArrayRec.setRow (x : ArrayRec) (r : Nat) (j : RowJournal) : ArrayRec := { x with rows := tput x.rows r j }

/-! ## The journal (R353) -/

/-- A record of a kind is present. -/
def RowJournal.has (j : RowJournal) (kind : Nat) : Bool := j.records.any fun r => r.1 == kind
/-- Record 2: row intent. -/
def RowJournal.intent (j : RowJournal) : Bool := j.has 2
/-- Record 3: the row's codes are in the staging slot. -/
def RowJournal.stage (j : RowJournal) : Bool := j.has 3
/-- Record 4: programming pulses on the row's cells have begun. -/
def RowJournal.write (j : RowJournal) : Bool := j.has 4
/-- Record 5: every cell of the row has read back within its level. -/
def RowJournal.verify (j : RowJournal) : Bool := j.has 5
/-- Record 6: the row is final. -/
def RowJournal.commit (j : RowJournal) : Bool := j.has 6

/-- An array's journal is open: an array-intent record and no close or abort. -/
def ArrayRec.journalOpen (x : ArrayRec) : Bool :=
  x.records.any (fun r => r.1 == 1) && !(x.records.any fun r => r.1 == 7 || r.1 == 8)

/-- Write a journal record of a row, under the die's next sequence number. -/
def Die.recordRow (d : Die) (a row kind : Nat) : Die :=
  let x := d.array a
  let j := x.row row
  { d.setArray a (x.setRow row { j with records := (kind, d.nextRecord) :: j.records }) with nextRecord := d.nextRecord + 1 }

/-- Write a journal record of an array. -/
def Die.recordArray (d : Die) (a kind : Nat) : Die :=
  let x := d.array a
  { d.setArray a { x with records := (kind, d.nextRecord) :: x.records } with nextRecord := d.nextRecord + 1 }

/-- What replay finds of some records: one that fails its ECC is taken as absent. -/
def readable (records : List (Nat × Nat)) (bad : List Nat) : List (Nat × Nat) := records.filter fun r => !bad.contains r.1

/-- A journal record decays: it will fail its ECC at replay (R353). -/
def State.decay (s : State) (die a : Nat) (row : Option Nat) (kind : Nat) : State :=
  let d := s.die die
  let x := d.array a
  s.setDie die (d.setArray a (match row with
    | none => { x with bad := kind :: x.bad }
    | some r => x.setRow r { x.row r with bad := kind :: (x.row r).bad }))

/-- Append a log entry of the Stationmaster's ring of 65,536 (R387). -/
def State.logEvent (s : State) (kind : Nat) (part : Word) (d0 d1 : Dword) : State :=
  let m := s.mgr
  let e : LogEntry := { index := m.logNext, kind := kind, part := part, d0 := d0, d1 := d1 }
  { s with mgr := { m with log := (e :: m.log).take 65536, logNext := m.logNext + 1 } }

/-- No partition in a log entry (R387). -/
def noPart : Word := 0xFFFFFFFF

/-! ## Probes (R356) -/

/-- A weight code as a signed number. -/
def codeVal (b : Byte) : Int := b.toInt
/-- The weight code of row `r`, column `c`. -/
def ArrayRec.code (x : ArrayRec) (r c : Nat) : Int := codeVal ((tget [] x.codes r).getD c 0)

/-- Input `e` of probe `p` of array `a`. -/
def probeInput (a : Nat) (seed : Word) (transpose : Bool) (p e : Nat) : Int :=
  let k := 2048 * p + (if transpose then 1024 else 0) + e
  ((rndHash (BitVec.ofNat 32 k) (seed ^^^ BitVec.ofNat 32 a)).toNat % 31 : Nat) - 15

/-- The golden integer of output `i`: a column in forward mode, a row in transpose mode. -/
def ArrayRec.golden (x : ArrayRec) (a : Nat) (transpose : Bool) (p i : Nat) : Int :=
  if transpose then ((List.range 512).map fun e => probeInput a x.seed true p e * x.code i e).sum
  else ((List.range 1024).map fun e => probeInput a x.seed false p e * x.code e i).sum

/-- Outputs of a mode. -/
def outputs (transpose : Bool) : Nat := if transpose then 1024 else 512

/-- The shift of a probe: the least f from 0 to 11 with every |G| / 2^f at most the bound. -/
def ArrayRec.shift (x : ArrayRec) (a : Nat) (transpose : Bool) (p : Nat) : Nat :=
  let gs := (List.range (outputs transpose)).map fun i => (x.golden a transpose p i).natAbs
  let bound := if transpose then 240 else 480
  ((List.range 12).find? fun f => gs.all fun g => g ≤ bound * 2 ^ f).getD 11

/-- The array serves layers: closed, and covered by a published generation (R281, R354). -/
def ArrayRec.online (x : ArrayRec) : Bool := x.state == 0

/-! ## The array port (R357) -/

/-- A word of array port `die` at `off`, as partition `p` reads it. -/
def State.readPort (s : State) (p die off : Nat) : Word :=
  let d := s.die die
  let sel := (s.partition p).arrSel[die]?.getD 0
  let a := (sel.extractLsb' 0 16).toNat
  let pr := (sel.extractLsb' 16 6).toNat
  let tr := sel.getLsbD 22
  let x := d.array a
  if off = 0 then sel
  else if off = 4 then BitVec.ofNat 32 (x.count * 2 ^ 16 + x.state)
  else if off = 8 then if x.online then BitVec.ofNat 32 (x.shift a tr pr) else 0
  else if off = 0xC then BitVec.ofNat 32 (d.rate * 2 ^ 24 + d.narrow * 2 ^ 20 + d.incarnation.toNat)
  else if off = 0x10 then d.stale
  else if 0x1000 ≤ off ∧ off < 0x2000 then
    let e := (off - 0x1000) / 4
    if x.online && (e < 512 || !tr) then BitVec.ofInt 32 (probeInput a x.seed tr pr e) else 0
  else if 0x2000 ≤ off ∧ off < 0x3000 then
    let e := (off - 0x2000) / 4
    if x.online && e < outputs tr then BitVec.ofInt 32 (x.golden a tr pr e) else 0
  else 0

/-- Write a word of an array port: ARRSEL alone takes writes, its reserved bits none. -/
def State.writePort (s : State) (p die off : Nat) (v : Word) : State :=
  if off = 0 then
    s.setPartition p { s.partition p with arrSel := (s.partition p).arrSel.setIfInBounds die (v &&& 0x7FFFFF) }
  else s

/-! ## The end of an array's programming (R354 to R356) -/

/-- The job an array belongs to. -/
def Die.job (d : Die) (n : Nat) : Option ApgoJob := d.jobs.find? fun j => j.number == n

/-- The operator partition (R364). -/
def State.operatorPart (s : State) : Nat := ((s.partitions.find? fun p => p.2.operator).map (·.1)).getD 0

/-- Bytes written at module scope for a launch's own unit. -/
def launchWho (launch : Nat) : Who :=
  { core := 320, launch := launch, block := 0, thread := 0, supervisor := true, engine := true }

/-- Log the outcome of an APGO and interrupt the operator's host (R355). -/
def State.tellOutcome (s : State) (die closed failed : Nat) : State :=
  (s.logEvent 3 (BitVec.ofNat 32 s.operatorPart) (BitVec.ofNat 64 closed) (BitVec.ofNat 64 failed)).interrupt (.apgo s.operatorPart die)

/-- An array of a job has closed or failed; after the last, the completion record is written, unless a die reset fell
between, and the outcome is told (R355). -/
def State.jobEvent (s : State) (die a : Nat) (failed : Bool) (n : Nat) : State :=
  let d := s.die die
  match d.job n with
  | none => s
  | some j =>
    if !j.left.contains a then s
    else
      let j1 := { j with left := j.left.filter (· != a), closed := j.closed + (if failed then 0 else 1), failed := j.failed + if failed then 1 else 0 }
      if j1.left.isEmpty then
        let s1 := s.setDie die { d with jobs := d.jobs.filter fun x => x.number != n }
        let bytes := leBytes j1.closed 4 ++ leBytes j1.failed 4 ++ leBytes j1.desc 8
        let s2 := if j1.silent then s1 else s1.writeRecord (launchWho j1.launch) (BitVec.ofNat 64 j1.doneAddr) bytes
        s2.tellOutcome die j1.closed j1.failed
      else s.setDie die { d with jobs := d.jobs.map fun x => if x.number = n then j1 else x }

/-- An array has closed or failed: every APGO that named it hears of it. -/
def State.jobEvents (s : State) (die a : Nat) (failed : Bool) : State :=
  ((s.die die).jobs.map (·.number)).foldl (fun s n => s.jobEvent die a failed n) s

/-! ## The end of bring-up (R382) -/

/-- A die's journal replay still has rows to write: of an array that no APGO is programming. -/
def Die.replaying (d : Die) : Bool := d.up && d.arrays.any fun (_, x) => x.journalOpen && x.state == 1 && x.apgo.isNone

/-- Every SRAM, LLC way and register file is filled with zeros (R174, R382). -/
def State.zeroFill (s : State) : State := { s with cores := [], constants := [], chip := [], hints := [], dirty := [] }

/-- Steps 6 and 7 follow when every die has replayed its journal. -/
def State.endBringUp (s : State) : State :=
  match s.mgr.bringing with
  | none => s
  | some ok =>
    if (List.range 16).any fun d => (s.die d).replaying then s
    else
      let t := { s.zeroFill with mgr := { s.mgr with bringing := none } }
      if ok then { t with ready := true } else { t with merr := true }

/-- ARRAY_ABORT (R354): the array has failed, and its journal closes. -/
def State.abortArray (s : State) (die a : Nat) : State :=
  let d := (s.die die).recordArray a 8
  let x := d.array a
  ((s.setDie die (d.setArray a { x with state := 3, rows := [], writing := false, closed := false, covered := false, apgo := none })).jobEvents
    die a true).endBringUp

/-- The second array of a transpose group whose first is `a` (R274). -/
def State.pairOf (s : State) (die a : Nat) : Option Nat :=
  (s.layers.find? fun l => l.die == die && l.arrays.contains a).bind fun l =>
    let i := l.arrays.findIdx (· == a)
    if i % 2 = 0 then l.arrays[i + 1]? else none

/-- The first array of the transpose group that array `a` belongs to. -/
def State.firstOf (s : State) (die a : Nat) : Option Nat :=
  (s.layers.find? fun l => l.die == die && l.arrays.contains a).bind fun l =>
    let i := l.arrays.findIdx (· == a)
    l.arrays[i / 2 * 2]?

/-- The fits of the groups an array belongs to go: it is fitted afresh (R281). -/
def State.dropFits (s : State) (die a : Nat) : State :=
  let d := s.die die
  s.setDie die { d with fits := d.fits.filter fun f =>
    if f.transpose then s.firstOf die a != some f.array else f.array != a }

/-- ARRAY_CLOSE (R356): every row is committed; goldens are stored, close is written and the journal's records are
discarded. The array serves layers once a published generation covers it (R281). -/
def State.closeArray (s : State) (die a : Nat) : State :=
  let s := s.dropFits die a
  let d := s.die die
  let x := d.array a
  ((s.setDie die { d.setArray a { x with records := [], bad := [], rows := [], writing := false, closed := true, covered := false, apgo := none } with
    nextRecord := d.nextRecord + 1 }).jobEvents die a false).endBringUp

/-- The rows of an array. -/
def rowNumbers : List Nat := List.range 1024

/-- The lowest row that is not final. -/
def ArrayRec.nextRow (x : ArrayRec) : Option Nat := rowNumbers.find? fun r => !(x.row r).commit

/-- JOURNAL_REPLAY's judgement of an array's next row (R355): close after the last, await source at a row that
was never staged, otherwise go on. -/
def State.replayNext (s : State) (die a : Nat) : State :=
  let x := (s.die die).array a
  match x.nextRow with
  | none => s.closeArray die a
  | some r =>
    if (x.row r).stage then s
    else (s.setDie die ((s.die die).setArray a { x with state := 2, writing := false })).endBringUp

/-! ## APGO (R316, R352) -/

/-- The judgement of a descriptor's own fields (R352). -/
def apgoFieldsOk (b : List Byte) : Bool :=
  wordIn b 0 < 16 && 1 ≤ wordIn b 4 && wordIn b 4 ≤ 64 && dwordIn b 8 % 4 == 0 && dwordIn b 8 < 2 ^ 57 &&
  dwordIn b 0x10 % 4096 == 0 && dwordIn b 0x10 < 2 ^ 57 && wordIn b 0x1C ≤ 1 && dwordIn b 0x20 % 16 == 0 &&
  dwordIn b 0x20 < 2 ^ 57 && zeroIn b 0x28 24

/-- The die's answer to a well-formed descriptor's list (R316, R352). DESIGN CHOICE (log entry 28): the spec does not say
which answer is given where both 0x8000_0002 and 0x8000_0003 hold; the former is. -/
def Die.apgoAnswer (d : Die) (resume : Bool) (arrays : List Nat) : Word :=
  let opened := (d.arrays.filter fun (_, x) => x.journalOpen && (!resume || x.state != 2)).length
  if !(arrays.all fun a => decide (a < 65536)) || !distinct arrays then 0x80000001
  else if !resume && arrays.any fun a => (d.array a).journalOpen then 0x80000001
  else if resume && arrays.any fun a => (d.array a).state != 2 then 0x80000001
  else if 64 < opened + arrays.length then 0x80000002
  else if !resume && arrays.any fun a => 1000 ≤ (d.array a).count then 0x80000003
  else 0

/-- An answer of 0: an intent record, the count, the array offline (R352, R353). -/
def Die.begin (d : Die) (a : Nat) (resume : Bool) (seed : Word) (job : Nat) : Die :=
  let x := d.array a
  let y := { x with
    state := 1, records := if resume then x.records else [], bad := if resume then x.bad else [], writing := false, seed := seed
    closed := false, covered := false, apgo := some job
    count := if resume then x.count else x.count + 1
    rows := if resume then x.rows else [] }
  (d.setArray a y).recordArray a 1

/-- APGO (R316): a privilege trap outside the operator partition's supervisor; the group is held until the die
answers. -/
def execApgo (n : Bool) (d ca : Code) (s : State) : Out :=
  let i := Instr.apgo n d ca
  s.withRun fun x =>
    if !x.supervisor || !(s.partition (s.partOf x.grp.launch)).operator then .next (s.trapPath x 10 (wordOf i))
    else s.ucommit i [.pair ca, .dst d n] (fun x => s.blockTrap x [0] 64 64 (s.usrc64 x ca)) fun x =>
      .next (s.holdGroup x (.apgo (s.usrc64 x ca) d n))

/-- APGO_ANSWER (R316): the die named reads the descriptor and its list and answers. -/
def execApgoAnswer (c g : Nat) (s : State) : Out :=
  match s.group c g with
  | none => .fault .notEnabled
  | some grp => match grp.hold with
    | some (_, .apgo a d n) =>
      let w := grp.reader c true
      let answer := fun (s : State) (v : Word) => s.completeHold c g true fun h => h.writeS n d v
      match s.readAs w a 64 with
      | .unmapped v => s.waitPage grp.launch v 3
      | .refused _ => .next (answer s 0x80000001)
      | .absent => .fault .notEnabled
      | .ok b =>
        if !apgoFieldsOk b then .next (answer s 0x80000001)
        else match s.readAs w (BitVec.ofNat 64 (dwordIn b 8)) (4 * wordIn b 4) with
          | .unmapped v => s.waitPage grp.launch v 3
          | .refused _ => .next (answer s 0x80000001)
          | .absent => .fault .notEnabled
          | .ok lb =>
            let die := wordIn b 0
            let dd := s.die die
            if !dd.up then .fault .notEnabled
            else
              let arrays := wordsIn lb (wordIn b 4)
              let resume := wordIn b 0x1C == 1
              let v := dd.apgoAnswer resume arrays
              if v ≠ 0 then .next (answer s v)
              else
                let job : ApgoJob :=
                  { number := dd.nextJob, desc := a.toNat, launch := grp.launch, arrays := arrays, left := arrays, silent := false,
                    source := dwordIn b 0x10, staged := 0, doneAddr := dwordIn b 0x20, closed := 0, failed := 0 }
                let d1 := arrays.foldl (fun (z : Die) k => z.begin k resume (BitVec.ofNat 32 (wordIn b 0x18)) dd.nextJob) dd
                .next (((answer (s.setDie die { d1 with jobs := dd.jobs ++ [job], nextJob := dd.nextJob + 1 }) 0).hasRead w a 64).hasRead w
                  (BitVec.ofNat 64 (dwordIn b 8)) (4 * wordIn b 4))
    | _ => .fault .notEnabled

/-! ## Rows (R353) -/

/-- Every command that reached the hub has finished its operations on the array (R280). -/
def State.arrayIdle (s : State) (die a : Nat) : Bool :=
  s.cores.all fun (_, k) => k.ae.all fun m => m.layer.die != die || m.phase == .done ||
    !((m.waiting ++ m.running).any fun o => o.array == a)

/-- A code of the image is in range (R352). -/
def imageByteOk (b : Byte) : Bool := decide (-15 ≤ b.toInt) && decide (b.toInt ≤ 15)

/-- The next row that a job stages, in list order: the array's place in the list, the array, the row. Rows that are final
are left out; a resume stages every other row afresh (R355). -/
def Die.toStage (d : Die) (j : ApgoJob) : Option (Nat × Nat × Nat) :=
  (List.range j.arrays.length).findSome? fun k =>
    let a := j.arrays.getD k 0
    let x := d.array a
    if x.apgo != some j.number then none
    else (rowNumbers.find? fun r => decide (j.staged ≤ 1024 * k + r) && !(x.row r).commit).map fun r => (k, a, r)

/-- ROW_STAGE (R353): the next row of a job is read from the image into its staging slot, behind its intent record; a byte
outside the range fails its array, and so does a page that refuses the read (log entry 20). -/
def execRowStage (die a row : Nat) (s : State) : Out :=
  let d := s.die die
  let x := d.array a
  match x.apgo.bind d.job with
  | none => .fault .notEnabled
  | some j => match d.toStage j with
    | none => .fault .notEnabled
    | some (k, a', r') =>
      if a' ≠ a ∨ r' ≠ row then .fault .notEnabled
      else
        let va := BitVec.ofNat 64 (j.source + 524288 * k + 512 * row)
        let d1 := if (x.row row).intent then d else d.recordRow a row 2
        let s1 := s.setDie die d1
        match s.readAs (launchWho j.launch) va 512 with
        | .unmapped v => if (x.row row).intent then s.waitPage j.launch v 3 else .next (s1.noteUnit j.launch v 3)
        | .absent => .fault .notEnabled
        | .refused _ => .next (s1.abortArray die a)
        | .ok bs =>
          if bs.all imageByteOk then
            let d2 := d1.recordRow a row 3
            let y := d2.array a
            let done := { j with staged := 1024 * k + row + 1 }
            .next (s.setDie die { d2.setArray a (y.setRow row { y.row row with codes := bs }) with
              jobs := d2.jobs.map fun z => if z.number = j.number then done else z })
          else .next (s1.abortArray die a)

/-- Every row of the array's job is staged, or the array replays without one. -/
def Die.mayWrite (d : Die) (a : Nat) : Bool :=
  match (d.array a).apgo.bind d.job with
  | none => true
  | some j => (d.toStage j).isNone

/-- Arrays of the die that are being programmed now: each holds an array slot (R281). -/
def Die.programming (d : Die) : Nat := (d.arrays.filter fun (_, x) => x.writing).length

/-- How many operations of commands run on a die. -/
def State.runningOps (s : State) (die : Nat) : Nat :=
  (s.cores.map fun (_, k) => (k.ae.map fun m => if m.layer.die = die then m.running.length else 0).sum).sum

/-- How many of the die's arrays are in operation, those that a starved Oboe has been given among them (R271, R275, R281). -/
def State.opsOn (s : State) (die : Nat) : Nat := s.runningOps die + (s.die die).programming + (s.die die).oboeArrays

/-- `n` more arrays of the die may come into operation, beside those that a starved Oboe has been given (R271, R275,
R281). -/
def State.slotsFree (s : State) (die n : Nat) : Bool :=
  decide (s.opsOn die + n ≤ (s.die die).limit)

/-- ROW_WRITE_COMPLETE (R353, R355): the array's next staged row has been written and verified, or not; the fourth failure
aborts. A row that has been verified is then committed, by the next such event. An array's first write takes an array
slot, which it holds while its programming runs (R281). -/
def execRowWriteComplete (die a row : Nat) (ok : Bool) (s : State) : Out :=
  let d := s.die die
  let x := d.array a
  let j := x.row row
  if !x.journalOpen || x.state != 1 || x.nextRow != some row || !j.stage || !d.mayWrite a || !s.arrayIdle die a || !d.up ||
     !(x.writing || s.slotsFree die 1) then
    .fault .notEnabled
  else if j.verify then .next ((s.setDie die (d.recordRow a row 6)).replayNext die a)
  else
    let d1 := (d.setArray a { x with writing := true }).recordRow a row 4
    if ok then
      let d2 := d1.recordRow a row 5
      let y := d2.array a
      .next (s.setDie die (d2.setArray a { y with codes := tput y.codes row j.codes }))
    else if j.tries = 3 then .next ((s.setDie die d1).abortArray die a)
    else
      let y := d1.array a
      .next (s.setDie die (d1.setArray a (y.setRow row { y.row row with tries := j.tries + 1 })))

/-! ## Die resets (R350) -/

/-- The aes entry of an array command (R266). -/
def aesEntry (info dropped : Nat) (recal linkbound : Bool) (result : Nat) (seq : Word) : Dword :=
  BitVec.ofNat 64 (info * 2 ^ 48 + dropped * 2 ^ 40 + (if recal then 2 ^ 37 else 0) + (if linkbound then 2 ^ 36 else 0) +
    result * 2 ^ 32 + seq.toNat)

/-- A command has its answer. -/
def AeCmd.finish (m : AeCmd) (e : Dword) : AeCmd :=
  { m with phase := .done, waiting := [], running := [], src := [], answer := e }

/-- Post the answers of a slot's commands that no earlier command of the slot holds back (R247). -/
def State.flushAe (s : State) (c slot : Nat) : Nat → State
  | 0 => s
  | n + 1 =>
    let k := s.core c
    match k.ae.find? fun m => m.slot == slot with
    | none => s
    | some m =>
      if m.phase = .done then
        let s1 := s.setCore c { k with ae := k.ae.filter fun x => x.order != m.order }
        (s1.post c m.slot m.launch m.block 3 m.answer).flushAe c slot n
      else s

/-- Post what can be posted in every slot of a core. -/
def State.flushAes (s : State) (c : Nat) : State := (List.range 32).foldl (fun s g => s.flushAe c g 16) s

/-- A row's journal as replay reads it: what fails its ECC is absent; a row verified and not committed is written
again. -/
def RowJournal.afterReset (j : RowJournal) : RowJournal :=
  let r := readable j.records j.bad
  { j with records := if r.any (fun x => x.1 == 6) then r else r.filter (fun x => x.1 ≤ 3), bad := [], tries := 0 }

/-- An array as a die reset finds it: a closed one waits for a new generation, an open journal replays, with no image
to read. -/
def ArrayRec.afterReset (x : ArrayRec) : ArrayRec :=
  let y := { x with
    records := readable x.records x.bad, bad := [], writing := false, covered := false, apgo := none
    rows := x.rows.map fun (r, j) => (r, RowJournal.afterReset j) }
  { y with state := if x.state = 0 ∨ y.journalOpen then 1 else x.state }

/-- The bound bank of a command marks a group that it used as exceeded (R279). -/
def AeCmd.recal (m : AeCmd) : Bool :=
  let transpose := (m.words.getD 1 0).getLsbD 0
  let used := if transpose then m.layer.arrays.zipIdx.filterMap fun (a, i) => if i % 2 = 0 then some a else none else m.layer.arrays
  used.any fun a => m.bound.any fun f => f.transpose == transpose && f.array == a && f.exceeded

/-- The commands of a core whose sums have not all arrived from a die are answered offline (R350); whether one has waited
on the link is a free value (R271; log entry 7). -/
def State.failAnalogue (s : State) (c die : Nat) : State :=
  let k := s.core c
  let fail := fun (m : AeCmd) (j : Nat) => m.finish (aesEntry 0xFFFF 0 m.recal (Config.freeBit (s.freeCtr + j)) 2 m.seq)
  let ae := k.ae.zipIdx.map fun (m, j) => if m.layer.die == die && m.phase == .analogue then fail m j else m
  (({ s with freeCtr := s.freeCtr + k.ae.length } : State).setCore c { k with ae := ae }).flushAes c

/-- The reset of a die itself: a new incarnation, generation 0, no fits, forwarded commands answered; an APGO's
completion record will not be written (R278, R350, R355). -/
def State.dropDie (s : State) (die : Nat) : State :=
  let d := s.die die
  let late := s.runningOps die
  let s1 := s.cores.foldl (fun s ck => s.failAnalogue ck.1 die) s
  let d1 := { d with
    incarnation := d.incarnation + 1, gen := 0, bank0 := [], bank1 := [], active := false, fits := []
    arrays := d.arrays.map fun (a, x) => (a, x.afterReset)
    jobs := d.jobs.map fun j => { j with silent := true }, order := [], linkUp := true, rate := 0, narrow := 0, pendRate := none, pendNarrow := none
    applying := none, retried := false, lateAnswers := d.lateAnswers + late }
  (s1.setDie die d1).logEvent 4 noPart (BitVec.ofNat 64 die) (d1.incarnation.setWidth 64)

/-- JOURNAL_REPLAY (R355): every array whose journal is open. -/
def State.replayDie (s : State) (die : Nat) : State :=
  (s.die die).arrays.foldl (fun s ax => if ax.2.journalOpen && ax.2.state == 1 then s.replayNext die ax.1 else s) s

/-- A die reset (R350); bring-up goes on where it leaves no row to write (R382). -/
def State.resetDie (s : State) (die : Nat) : State := ((s.dropDie die).replayDie die).endBringUp

/-- DIE_RESET (R350): at the operator's request. -/
def execDieReset (die : Nat) (s : State) : Out := if 16 ≤ die then .fault .notEnabled else .next (s.resetDie die)
/-- DIE_WATCHDOG_EXPIRY (R350). -/
def execDieWatchdogExpiry (die : Nat) (s : State) : Out := if 16 ≤ die then .fault .notEnabled else .next (s.resetDie die)
/-- LINK_FAILURE (R347, R350): a failed link resets its die. -/
def execLinkFailure (die : Nat) (s : State) : Out :=
  if 16 ≤ die then .fault .notEnabled
  else .next ((s.setDie die { s.die die with linkUp := false }).resetDie die)

/-! ## Rate and width (R349) -/

/-- Start the next retrain: a pending rate change first, else a pending width change. -/
def Die.startRetrain (d : Die) : Die :=
  match d.applying, d.pendRate, d.pendNarrow with
  | none, some r, _ => { d with applying := some (some r, none), pendRate := none, retried := false }
  | none, none, some w => { d with applying := some (none, some w), pendNarrow := none, retried := false }
  | _, _, _ => d

/-- LINK_RATE_CHANGE_REQUEST (R349): the later of two pending requests stands. -/
def execLinkRateChangeRequest (die rate : Nat) (s : State) : Out :=
  if 16 ≤ die ∨ 3 ≤ rate then .fault .notEnabled
  else .next (s.setDie die ({ s.die die with pendRate := some rate }).startRetrain)
/-- LINK_WIDTH_CHANGE_REQUEST (R349): one bit for each module at x32. -/
def execLinkWidthChangeRequest (die narrow : Nat) (s : State) : Out :=
  if 16 ≤ die ∨ 16 ≤ narrow then .fault .notEnabled
  else .next (s.setDie die ({ s.die die with pendNarrow := some narrow }).startRetrain)

/-- RETRAIN_COMPLETE (R349): what was asked is applied and the next retrain starts; a failed one is retried
once at 16 GT/s and x32, and then the link has failed. -/
def execRetrainComplete (die : Nat) (ok : Bool) (s : State) : Out :=
  let d := s.die die
  match d.applying with
  | none => .fault .notEnabled
  | some (r, w) =>
    if ok then
      let d1 := { d with rate := r.getD d.rate, narrow := w.getD d.narrow, applying := none, retried := false }
      .next ((s.setDie die d1.startRetrain).logEvent 5 noPart (BitVec.ofNat 64 die) (BitVec.ofNat 64 (d1.rate * 16 + d1.narrow)))
    else if d.retried then .next ((s.setDie die { d with linkUp := false }).resetDie die)
    else .next (s.setDie die { d with applying := some (some 2, some 15), retried := true })

end Sys2Proof.Machine
end

