-- ==== Sys2Proof/Machine/Manage.lean ====
section
/-! DEFINITION. The Stationmaster (R382 to R389): bring-up, firmware slots, the anti-rollback counter, the log
and the sensors, the commands of SMCMD, the carve-out (R180), and errors (R188, R189). -/

namespace Sys2Proof.Machine

/-! ## Boot (R385, R386) -/

/-- The counter at boot: a copy that reads low or unclean is programmed up to V, and an increment that CONFIRM
left unfinished is repeated. -/
def Manager.repair (m : Manager) : Option Manager :=
  m.rollback.map fun v =>
    let w := max v (m.slot m.activeB).svn
    { m with roll1 := rollOf w, roll2 := rollOf w }

/-- The slot verifies and is not behind the counter. -/
def Manager.bootable (m : Manager) (b : Bool) : Bool := (m.slot b).verified && decide (m.rollback.getD 0 ≤ (m.slot b).svn)

/-- The active slot is tried; with it fails the boot. -/
def Manager.bootActive (m : Manager) : Manager := { m with runningB := m.activeB, dark := !m.bootable m.activeB }

/-- FIRMWARE_SLOT_SELECT (R385): the pending slot, with its attempt counted, then the active slot; where none boots, the
module is dark, and what the attempts changed stands. -/
def Manager.boot (m : Manager) : Manager :=
  if m.pending && m.attempts < 3 then
    let m1 := { m with attempts := m.attempts + 1 }
    if m1.bootable (!m.activeB) then { m1 with runningB := !m.activeB, dark := false }
    else (if m1.attempts = 3 then { m1 with pending := false } else m1).bootActive
  else ({ m with pending := false } : Manager).bootActive

/-- The next bit of the counter on its way up: in copy 1, then in copy 2 (R386). -/
def Manager.raiseBit (m : Manager) : Manager :=
  if runLength m.roll1.bits ≤ runLength m.roll2.bits then { m with roll1 := rollOf (runLength m.roll1.bits + 1) }
  else { m with roll2 := rollOf (runLength m.roll2.bits + 1) }

/-- The dies of the module. -/
def dieNumbers : List Nat := List.range 16

/-- Step 2 for a die (R382): it is reset at power-up; one whose calibration fails is reset once more and left with every
layer offline. -/
def State.calibrateDie (s : State) (r : BringUp) (die : Nat) : State :=
  let s1 := s.dropDie die
  let bad := r.calibrationFailed.contains die
  let s2 := if bad then s1.dropDie die else s1
  s2.setDie die { s2.die die with up := !bad, linkUp := false }

/-- Step 4 for a die (R349, R382): its link trains at full rate and width, or on the retry at 16 GT/s and x32, or it has
failed: then the die is reset (R350) and its layers stay offline. -/
def State.trainLink (s : State) (r : BringUp) (die : Nat) : State :=
  let d := s.die die
  if r.linkFailed.contains die then
    let s1 := s.dropDie die
    s1.setDie die { s1.die die with up := false, linkUp := false }
  else if r.linkSlow.contains die then s.setDie die { d with linkUp := true, rate := 2, narrow := 15 }
  else s.setDie die { d with linkUp := true }

/-- POWER_GOOD (R382): bring-up, each step after the one before; what the world decides comes with it. Steps 6 and 7
follow once every die has replayed its journal. -/
def execPowerGood (r : BringUp) (s : State) : Out :=
  if s.mgr.powered then .fault .notEnabled
  else
    let m0 := { s.mgr with powered := true, bringing := none }
    match m0.repair.map Manager.boot with
    | none => .next { s with mgr := { m0 with dark := true } }
    | some m =>
      if m.dark then .next { s with mgr := m }
      else
        let s1 := ({ s with mgr := m }).logEvent 7 noPart (if m.runningB then 1 else 0)
          (BitVec.ofNat 64 (m.slot m.runningB).svn)
        let s2 := dieNumbers.foldl (fun s d => s.calibrateDie r d) s1
        if !r.memoryTrained then .next { s2 with merr := true }
        else
          let s3 := dieNumbers.foldl (fun s d => s.trainLink r d) s2
          let s4 := dieNumbers.foldl (fun s d => if (s.die d).up then s.replayDie d else s) s3
          .next ({ s4 with mgr := { s4.mgr with bringing := some r.fillOk } } : State).endBringUp

/-- What of a die survives a loss of power (R353, R355, R358): its incarnation, its cells and its journals, which arrays
each APGO named, and the responses on their way, `late` of them (R351). -/
def Die.survives (d : Die) (late : Nat) : Die := { Die.reset with
  lateAnswers := late
  incarnation := d.incarnation, arrays := d.arrays, nextJob := d.nextJob, nextRecord := d.nextRecord
  jobs := d.jobs.map fun j => { j with silent := true } }

/-- What of the Stationmaster survives (R385 to R389). -/
def Manager.survives (m : Manager) : Manager :=
  { Manager.reset with
    slotA := m.slotA, slotB := m.slotB, activeB := m.activeB, pending := m.pending, attempts := m.attempts
    roll1 := m.roll1, roll2 := m.roll2, log := m.log, logNext := m.logNext, certs := m.certs, lockTable := m.lockTable }

/-- Power is lost while CONFIRM raises the counter: the bit being programmed is left unprogrammed, programmed, or failing
its margin read, as two free bits say; where both copies have reached their goal, none is (R386; log entry 7). -/
def Manager.loseBit (m : Manager) (draw : Nat) : Manager :=
  match m.raising with
  | none => m
  | some v => if v ≤ runLength m.roll1.bits ∧ v ≤ runLength m.roll2.bits then m else match Config.freeBit draw, Config.freeBit (draw + 1) with
    | false, _ => m
    | true, true => m.raiseBit
    | true, false =>
      let n := m.raiseBit
      { n with roll1 := { n.roll1 with clean := n.roll1 == m.roll1 && m.roll1.clean }
               roll2 := { n.roll2 with clean := n.roll2 == m.roll2 && m.roll2.clean } }

/-- POWER_LOSS (R353): everything but the non-volatile state is lost. -/
def execPowerLoss (s : State) : Out :=
  if !s.mgr.powered then .fault .notEnabled
  else .next { State.reset with
    dies := s.dies.map fun (k, d) => (k, d.survives (d.lateAnswers + s.runningOps k))
    mgr := (s.mgr.loseBit s.freeCtr).survives, layers := s.layers, hostMem := s.hostMem, peerMem := s.peerMem, interrupts := s.interrupts, answers := s.answers
    sent := s.sent, tick := s.tick, freeCtr := s.freeCtr + 2, agenda := s.agenda }

/-! ## Temperature (R387) -/

/-- THERMAL_STEP (R387): a sensor word reads `t`; above 105 °C at the Flica die the clock is lowered by a
step, above 95 °C at an array die its activity limit by 64, to no fewer than 256, and below 90 °C raised. A limit is lowered
at a moment when no more arrays are in operation (R271; log entry 67). -/
def execThermalStep (sensor : Nat) (t : Int) (s : State) : Out :=
  if sensor = 0 ∨ 34 ≤ sensor then .fault .notEnabled
  else
    let s1 := { s with mgr := { s.mgr with sensors := tput s.mgr.sensors sensor t } }
    let note := fun (u : State) => u.logEvent 6 noPart (BitVec.ofNat 64 sensor) (BitVec.ofInt 64 t)
    if 17 ≤ sensor ∧ sensor ≤ 20 ∧ 840 < t then
      .next (note { s1 with mgr := { s1.mgr with clockSteps := s1.mgr.clockSteps + 1 } })
    else if sensor ≤ 16 ∧ 760 < t then
      let d := s1.die (sensor - 1)
      if s.opsOn (sensor - 1) ≤ max 256 (d.limit - 64) then
        .next (note (s1.setDie (sensor - 1) { d with limit := max 256 (d.limit - 64) }))
      else .fault .notEnabled
    else if sensor ≤ 16 ∧ t < 720 ∧ (s1.die (sensor - 1)).limit < 512 then
      let d := s1.die (sensor - 1)
      .next (note (s1.setDie (sensor - 1) { d with limit := min 512 (d.limit + 64) }))
    else .next s1

/-! ## Errors (R188, R189) -/

/-- The bytes of a protected unit at a place (R188). -/
def unitBytes : Place → ErrorLevel → Nat
  | .local, .own => 64
  | .local, .llc => 32
  | .tiles _, _ => 8
  | _, _ => 32

/-- An error leaves bytes without a copy: not one in a clean LLC sector, which is fetched again (R188). -/
def State.losesAt (s : State) (l : Loc) (level : ErrorLevel) : Bool :=
  match level with
  | .own => true
  | .llc => l.place == .local && s.dirty.contains (l.off / 256)

/-- Replace the unit that holds a byte by zeros. -/
def State.zeroUnit (s : State) (l : Loc) (level : ErrorLevel) : State :=
  let n := unitBytes l.place level
  s.setBytes { l with off := l.off / n * n } (List.replicate n 0)

/-- The partition of a block. -/
def State.partOfBlock (s : State) (b : Nat) : Option Nat := (s.block b).map fun x => s.partOf x.launch

/-- The partition that owns a byte. -/
def State.ownerOf (s : State) (l : Loc) : Option Nat :=
  match l.place with
  | .scratch b => s.partOfBlock b
  | .share b => s.partOfBlock b
  | .slice b _ => s.partOfBlock b
  | .tiles b => s.partOfBlock b
  | _ => (s.partitions.find? fun (_, p) => p.active && match l.place with
    | .local => p.owns l.off
    | .chip => p.cspBase * 2 ^ 21 ≤ l.off && l.off < (p.cspBase + p.cspLen) * 2 ^ 21
    | _ => false).map (·.1)

/-- Count an error in a partition's counters alone. -/
def State.countOwner (s : State) (p : Option Nat) (lost : Bool) : State :=
  match p with
  | none => s
  | some p =>
    let q := s.partition p
    if lost then s.setPartition p { q with dataLoss := satInc q.dataLoss }
    else s.setPartition p { q with corrected := satInc q.corrected }

def partWord : Option Nat → Word
  | some p => BitVec.ofNat 32 p
  | none => noPart

/-- A loss's level and place as its log entry holds them (R189; log entry 39): the level, with a block or a core beside
it, and the address. -/
def lossPlace (l : Loc) (level : ErrorLevel) : Nat × Nat :=
  match l.place, level with
  | .local, .own => (2, l.off)
  | .local, .llc => (1, l.off)
  | .scratch b, _ => (3 + 2 ^ 8 * b, l.off)
  | .slice b t, _ => (3 + 2 ^ 8 * b, 2 ^ 32 * (t + 1) + l.off)
  | .share b, _ => (4 + 2 ^ 8 * b, l.off)
  | .chip, _ => (5, l.off)
  | .tiles b, _ => (6 + 2 ^ 8 * b, l.off)
  | .host, _ => (7, l.off)
  | .peer p, _ => (8 + 2 ^ 8 * p, l.off)

/-- Log a data loss: its level, its place, the owner partition (R189). -/
def State.logLoss (s : State) (owner : Option Nat) (at_ : Nat × Nat) : State :=
  s.logEvent 1 (partWord owner) (BitVec.ofNat 64 at_.1) (BitVec.ofNat 64 at_.2)

/-- An error that scrubbing or a write-back finds at a byte. -/
def State.scrub (s : State) (l : Loc) (level : ErrorLevel) (lost : Bool) : State :=
  let p := s.ownerOf l
  if !lost then s.countOwner p false
  else if s.losesAt l level then ((s.countOwner p true).zeroUnit l level).logLoss p (lossPlace l level)
  else s

/-- A group with the 4 bytes of a register replaced by zeros (R188). -/
def Group.zeroReg (x : Group) : RegPlace → Group
  | .v lane reg => x.mapLanes (laneMask lane) fun _ t => t.setReg reg 0
  | .s reg => x.setSreg reg 0
  | .k lane word => x.mapLanes (laneMask lane) fun _ t => { t with k := t.k &&& ~~~((0xFFFFFFFF : BitVec 128) <<< (32 * word)) }
  | .m i => { x with m := x.m.setIfInBounds i 0 }

/-- A register's place as a log entry holds it. -/
def regPlace (c g : Nat) (r : RegPlace) : Nat × Nat :=
  (2 ^ 8 * c + 2 ^ 20 * g, match r with
    | .v lane reg => 2 ^ 8 * lane + reg
    | .s reg => 2 ^ 16 + reg
    | .k lane word => 2 ^ 17 + 2 ^ 8 * lane + word
    | .m i => 2 ^ 18 + i)

/-- A group's register is replaced by zeros; a rejoin mask that now stands at zero is judged (R166, R167). -/
def State.zeroRegAt (s : State) (c g : Nat) (x : Group) (r : RegPlace) : State :=
  match r with
  | .m i => s.putGroup c g ((x.zeroReg r).judge i)
  | _ => s.setGroup c g (x.zeroReg r)

/-- The places of memory that the module has (R2, R149, R179). -/
def State.hasPlace (s : State) (l : Loc) : Bool :=
  let within := fun (b : Nat) (n : Launch → Nat) => match s.block b with
    | some x => (s.launch x.launch).any fun y => decide (l.off < n y)
    | none => false
  match l.place with
  | .local => decide (l.off < 2 ^ 40)
  | .host => decide (l.off < 2 ^ 52)
  | .peer p => decide (2 ≤ p) && decide (p < 8) && decide (l.off < 2 ^ 52)
  | .chip => decide (l.off < s.chipBytes)
  | .scratch b => within b Launch.scratchBytes
  | .share b => within b Launch.shareBytes
  | .tiles b => within b fun y => y.accTiles * 16384
  | .slice b t => decide (t < 1024) && within b Launch.sliceBytes

/-- Where a soft error strikes memory: the place, and at which level. -/
def errorLoc : ErrorPlace → Option (Loc × ErrorLevel)
  | .memory pa => some (⟨.local, pa⟩, .own)
  | .cache pa => some (⟨.local, pa⟩, .llc)
  | .chip off => some (⟨.chip, off⟩, .own)
  | .scratch b off => some (⟨.scratch b, off⟩, .own)
  | .share b off => some (⟨.share b, off⟩, .own)
  | .tiles b off => some (⟨.tiles b, off⟩, .own)
  | .slice b t off => some (⟨.slice b t, off⟩, .own)
  | .register _ _ _ => none
  | .metadata _ _ => none

/-- The module has the place (R2). -/
def State.hasError (s : State) (e : ErrorPlace) : Bool :=
  match e with
  | .metadata n isCore => decide (n < if isCore then 320 else 64)
  | .register _ _ (.v lane reg) => decide (lane < 32) && decide (reg < 64)
  | .register _ _ (.s reg) => decide (reg < 32)
  | .register _ _ (.k lane word) => decide (lane < 32) && decide (word < 4)
  | .register _ _ (.m i) => decide (i < 8)
  | _ => (errorLoc e).any fun p => s.hasPlace p.1

/-- SCRUB_ERROR (R189): counted for the owner partition only; a metadata entry whose two copies fail removes its
slice or core and is a machine error. -/
def execScrubError (loc : ErrorPlace) (lost : Bool) (s : State) : Out :=
  if !s.hasError loc then .fault .notEnabled
  else match loc with
  | .memory pa => .next (s.scrub ⟨.local, pa⟩ .own lost)
  | .cache pa => .next (s.scrub ⟨.local, pa⟩ .llc lost)
  | .chip off => .next (s.scrub ⟨.chip, off⟩ .own lost)
  | .scratch b off => .next (s.scrub ⟨.scratch b, off⟩ .own lost)
  | .share b off => .next (s.scrub ⟨.share b, off⟩ .own lost)
  | .tiles b off => .next (s.scrub ⟨.tiles b, off⟩ .own lost)
  | .slice b t off => .next (s.scrub ⟨.slice b t, off⟩ .own lost)
  | .register c g r => match s.group c g with
    | none => .fault .notEnabled
    | some x =>
      let p := some (s.partOf x.launch)
      .next (if lost then ((s.zeroRegAt c g x r).countOwner p true).logLoss p (regPlace c g r) else s.countOwner p false)
  | .metadata n isCore =>
    if !lost then .next s
    else
      let s1 := if isCore then { s with removedCores := n :: s.removedCores } else { s with removedSlices := n :: s.removedSlices }
      .next (({ s1 with merr := true }.logEvent 8 noPart (BitVec.ofNat 64 n) (if isCore then 1 else 0)).interrupt .machineError)

/-- An access of a launch meets an error in memory (R188, R189). -/
def State.meetMemError (s : State) (launch : Nat) (l : Loc) (level : ErrorLevel) (lost : Bool) : State :=
  if !s.hasPlace l then s
  else if !lost then s.countCorrected launch
  else if s.losesAt l level then ((s.zeroUnit l level).countLoss launch).logLoss (s.ownerOf l) (lossPlace l level)
  else s

/-- An instruction meets an error in a register of its group (R188). -/
def State.meetRegError (s : State) (c g : Nat) (r : RegPlace) (lost : Bool) : State :=
  match s.group c g with
  | none => s
  | some x =>
    if lost then ((s.zeroRegAt c g x r).countLoss x.launch).logLoss (some (s.partOf x.launch)) (regPlace c g r)
    else s.countCorrected x.launch

/-- A unit of 64 bytes of a core's cache fails its parity: it goes, and the next access fetches it again; nothing is lost
or counted (R188). -/
def State.cacheError (s : State) (c : Nat) (cache : CacheKind) (l : Loc) : State :=
  let unit : Loc := { l with off := l.off / 64 * 64 }
  let k := s.core c
  match cache with
  | .data => s.setCore c (k.dropSnap unit 64)
  | .code => s.setCore c { k with icache := k.icache.filter fun p => !((List.range 16).any fun j => p.1 == locKey (unit.add (4 * j))) }
  | .constant => { s with constants := tput s.constants (hwCluster c) (snapCut (tget [] s.constants (hwCluster c)) unit 64) }

/-- The LLC writes a dirty sector back to LPDDR-6 (R184). -/
def State.writeBack (s : State) (sector : Nat) : State := { s with dirty := s.dirty.filter (· != sector) }

/-- The die's DMA copies a page (R338, step 3): it reads what the LLC and the memory controller hold. What a
consist manager knows of the page goes with it. -/
def State.pageCopy (s : State) (src dst : Loc) (n : Nat) : Out :=
  if src.place.cached && dst.place.cached && n != 0 && s.hasPlace (src.add (n - 1)) && s.hasPlace (dst.add (n - 1)) then
    .next ((s.setBytes dst (s.bytesAt src n)).moveConsists src dst n)
  else .fault .notEnabled

/-! ## The commands of SMCMD (R384) -/

/-- Answer the command; it is over. -/
def State.smDone (s : State) (a : Word) : State := { s with mgr := { s.mgr with smAns := a, smBusy := false } }

/-- Bytes of host memory. -/
def State.hostBytes (s : State) (a n : Nat) : List Byte := s.bytesAt ⟨.host, a⟩ n

/-- An image verifies: its digest and both signatures; its header's SVN is one of 0 to 128 (R385). -/
def imageVerifies (img : List Byte) : Bool :=
  Config.digestMatches img && Config.ecdsaVerifies img && Config.lmsVerifies img && decide (Config.imageSvn img ≤ 128)

/-- WRITE_IMAGE. -/
def State.doWriteImage (s : State) (d : List Byte) : State :=
  let m := s.mgr
  if m.runningB != m.activeB then s.smDone malformed
  else
    let img := s.hostBytes (dwordIn d 8) (wordIn d 4)
    let ok := imageVerifies img
    ({ s with mgr := m.setSlot (!m.activeB) { svn := Config.imageSvn img, image := img, verified := ok } } : State).smDone
      (if ok then 0 else 0x80000003)

/-- ACTIVATE. -/
def State.doActivate (s : State) : State :=
  let m := s.mgr
  let x := m.slot (!m.activeB)
  if m.runningB != m.activeB then s.smDone malformed
  else if !x.verified then s.smDone 0x80000003
  else if x.svn < m.rollback.getD 0 then s.smDone 0x80000004
  else ({ s with mgr := { m with pending := true, attempts := 0 } } : State).smDone 0

/-- The counter goes up by one bit in one copy; when both copies have reached their goal, CONFIRM is done (R386). -/
def State.raiseCounter (s : State) : State :=
  match s.mgr.raising with
  | none => s
  | some v =>
    let m := s.mgr
    if v ≤ runLength m.roll1.bits ∧ v ≤ runLength m.roll2.bits then ({ s with mgr := { m with raising := none } } : State).smDone 0
    else { s with mgr := m.raiseBit }

/-- CONFIRM: the running pending slot becomes active; then the counter is raised to its SVN, bit by bit (R384, R386). -/
def State.doConfirm (s : State) : State :=
  let m := s.mgr
  if m.pending && m.runningB != m.activeB then
    { s with mgr := { m with activeB := m.runningB, pending := false, attempts := 0, smBusy := true
                             raising := some (max (m.rollback.getD 0) (m.slot m.runningB).svn) } }
  else s.smDone malformed

/-- The 32 bytes of a log entry (R387). -/
def LogEntry.bytes (e : LogEntry) : List Byte :=
  leBytes e.index 4 ++ leBytes e.kind 4 ++ leBytes e.part.toNat 4 ++ leBytes 0 4 ++ leBytes e.d0.toNat 8 ++ leBytes e.d1.toNat 8

/-- READ_LOG: an index already overwritten starts at the oldest entry held. -/
def State.doReadLog (s : State) (d : List Byte) : State :=
  let n := wordIn d 24
  let es := ((s.mgr.log.filter fun e => wordIn d 4 ≤ e.index).reverse).take n
  if n = 0 ∨ 65536 < n ∨ es.isEmpty then s.smDone malformed
  else (s.setBytes ⟨.host, dwordIn d 8⟩ (es.flatMap LogEntry.bytes)).smDone (BitVec.ofNat 32 es.length)

/-- SPDM from a host port. -/
def State.doSpdm (s : State) (port : Nat) (d : List Byte) : State :=
  s.respond { route := .host port, request := s.hostBytes (dwordIn d 8) (wordIn d 4), buffer := dwordIn d 16 }

/-- SET_CERT: a slot whose challenge is pending is busy. -/
def State.doSetCert (s : State) (d : List Byte) : State :=
  let slot := wordIn d 4
  if slot = 0 ∨ 8 ≤ slot then s.smDone malformed
  else if s.mgr.challenges.any fun c => c.1 == slot then s.smDone 0x80000002
  else
    let chain := s.hostBytes (dwordIn d 8) (wordIn d 24)
    ({ s with mgr := { s.mgr with certs := tput s.mgr.certs slot chain } } : State).smDone 0

/-- READ_SENSORS: 64 signed words. -/
def State.doReadSensors (s : State) (d : List Byte) : State :=
  let w := fun i => if i = 0 then (33 : Int) else if i ≤ 33 then tget 0 s.mgr.sensors i else 0
  (s.setBytes ⟨.host, dwordIn d 8⟩ ((List.range 64).flatMap fun i => leBytes (BitVec.ofInt 32 (w i)).toNat 4)).smDone 0

/-- SET_CARVEOUT is refused: a grant reaches into a way that would go, or the shares and c exceed 24. -/
def State.carveRefused (s : State) (c : Nat) : Bool :=
  (c < s.carveout && s.partitions.any fun (_, p) =>
    p.active && p.cspLen != 0 && decide (c * 64 < p.cspBase + p.cspLen) && decide (p.cspBase < s.carveout * 64)) ||
  decide (24 < (s.partitions.map fun (_, p) => if p.active then p.ways else 0).sum + c)

/-- SET_CARVEOUT: the answer comes when the change has completed. -/
def State.doSetCarveout (s : State) (d : List Byte) : State :=
  let c := wordIn d 4
  if 8 < c then s.smDone malformed
  else if s.carveRefused c then s.smDone 0x80000005
  else { s with mgr := { s.mgr with carveTarget := some c, smBusy := true } }

/-- CARVEOUT_CHANGE_COMPLETE (R180): ways that join the chip scratchpad are zero. DESIGN CHOICE (log entry 64): the spec does
not say what becomes of a grant made, while a shrink was in progress, in ways that it removes; its bytes there go. -/
def execCarveoutChangeComplete (s : State) : Out :=
  match s.mgr.carveTarget with
  | none => .fault .notEnabled
  | some c =>
    let kept := s.chip.filter fun (a, _) => a < min s.carveout c * 2 ^ 27
    .next (({ s with carveout := c, chip := kept, mgr := { s.mgr with carveTarget := none } } : State).smDone 0)

/-- The fields of a descriptor that its command uses: the word at +4, the dwords at +8 and +16, the word at +24. -/
def smFields : Nat → Bool × Bool × Bool × Bool
  | 1 => (true, true, false, false)
  | 4 => (true, true, false, true)
  | 5 => (true, true, true, false)
  | 6 => (true, true, false, true)
  | 7 => (false, true, false, false)
  | 8 => (true, false, false, false)
  | _ => (false, false, false, false)

/-- A descriptor of SMCMD: 64 bytes of host memory, aligned to 64; every byte that its command does not use is zero
(R384). -/
def State.smDescriptor (s : State) (desc : Nat) : Option (List Byte) :=
  let d := s.hostBytes desc 64
  let (a, b, c, e) := smFields (wordIn d 0)
  if desc % 64 = 0 ∧ zeroIn d 28 36 ∧ (a || zeroIn d 4 4) ∧ (b || zeroIn d 8 8) ∧ (c || zeroIn d 16 8) ∧ (e || zeroIn d 24 4) then
    some d
  else none

/-- A write of SMCMD by a port: only the port that holds PRIVSEM, and only while no command is in progress. -/
def State.smcmd (s : State) (port desc : Nat) : State :=
  if !s.semHeld || s.semOwner != port || s.mgr.smBusy then s.answerBusy (.port port) 0x10
  else match s.smDescriptor desc with
    | none => s.smDone malformed
    | some d => match wordIn d 0 with
      | 1 => s.doWriteImage d
      | 2 => s.doActivate
      | 3 => s.doConfirm
      | 4 => s.doReadLog d
      | 5 => s.doSpdm port d
      | 6 => s.doSetCert d
      | 7 => s.doReadSensors d
      | 8 => s.doSetCarveout d
      | _ => s.smDone malformed

/-- The event of an SMCMD write whose descriptor holds command `c`. -/
def State.smEvent (s : State) (port desc c : Nat) : Out :=
  if !s.ready ∨ 2 ≤ port then .fault .notEnabled
  else match s.smDescriptor desc with
    | none => .fault .notEnabled
    | some d => if wordIn d 0 = c then .next (s.smcmd port desc) else .fault .notEnabled

/-- WRITE_IMAGE (R384, R385). -/
def execWriteImage (port desc : Nat) (s : State) : Out := s.smEvent port desc 1
/-- ACTIVATE (R384). -/
def execActivate (port desc : Nat) (s : State) : Out := s.smEvent port desc 2
/-- CONFIRM (R386): the command is taken; while it raises the counter, the event is the next bit. -/
def execConfirm (port desc : Nat) (s : State) : Out :=
  if s.mgr.raising.isSome then .next s.raiseCounter else s.smEvent port desc 3
/-- READ_LOG (R387). -/
def execReadLog (port desc : Nat) (s : State) : Out := s.smEvent port desc 4
/-- SPDM (R388). -/
def execSpdm (port desc : Nat) (s : State) : Out := s.smEvent port desc 5
/-- SET_CERT (R389). -/
def execSetCert (port desc : Nat) (s : State) : Out := s.smEvent port desc 6
/-- READ_SENSORS (R387). -/
def execReadSensors (port desc : Nat) (s : State) : Out := s.smEvent port desc 7
/-- SET_CARVEOUT (R180). -/
def execSetCarveout (port desc : Nat) (s : State) : Out := s.smEvent port desc 8

end Sys2Proof.Machine
end

