-- ==== Sys2Proof/Machine/Window.lean ====
section
/-! DEFINITION. The control window (R359 to R371): what each register reads, what a write does, who may reach
what; partitions, queue interfaces, mailboxes, resolve and shootdown, and the outside world's accesses. -/

namespace Sys2Proof.Machine

/-! ## 64-bit registers by words (R359) -/

def lowWord (d : Dword) : Word := d.setWidth 32
def highWord (d : Dword) : Word := d.extractLsb' 32 32
def withLow (d : Dword) (w : Word) : Dword := highWord d ++ w
def withHigh (d : Dword) (w : Word) : Dword := w ++ lowWord d

/-! ## Reading (R362, R364, R368, R384) -/

/-- A word of the module block. Reading PRIVSEM.req gives what the last accepted write left (log entry 21). -/
def State.readModule (s : State) (off : Nat) : Word :=
  match off with
  | 0 => BitVec.ofNat 32 ((if s.merr then 2 else 0) + if s.ready then 1 else 0)
  | 4 => BitVec.ofNat 32 ((if s.semHeld then 5 else 0) + if s.semHeld then 2 * s.semOwner else 0)
  | 8 => s.dropCnt
  | 0x18 => s.mgr.smAns
  | 0x1C => if s.mgr.smBusy then 1 else 0
  | _ => 0

/-- The dword RANGEk (R364). -/
def Partition.rangeReg (p : Partition) (k : Nat) : Dword := BitVec.ofNat 64 ((p.ranges[k]?.getD (0, 0)).1 * 2 ^ 21)

/-- A word of a partition block. -/
def Partition.readReg (p : Partition) (off : Nat) : Word :=
  let r := off - 0x10
  if off = 0 then BitVec.ofNat 32 ((if p.operator then 2 else 0) + if p.active then 1 else 0)
  else if off = 8 then lowWord (p.clusters.setWidth 64)
  else if off = 0xC then highWord (p.clusters.setWidth 64)
  else if 0x10 ≤ off ∧ off < 0x90 then
    match r % 16 with
    | 0 => lowWord (p.rangeReg (r / 16))
    | 4 => highWord (p.rangeReg (r / 16))
    | 8 => BitVec.ofNat 32 (p.ranges[r / 16]?.getD (0, 0)).2
    | _ => 0
  else if off = 0x90 then BitVec.ofNat 32 p.ways
  else if off = 0x94 then BitVec.ofNat 32 p.cspBase
  else if off = 0x98 then BitVec.ofNat 32 p.cspLen
  else if 0xA0 ≤ off ∧ off < 0xC0 then p.images.extractLsb' (8 * (off - 0xA0)) 32
  else if off = 0xC0 then BitVec.ofNat 32 (p.qifCount * 4096 + p.qifFirst)
  else if 0xC8 ≤ off ∧ off < 0xE0 then p.peers[(off - 0xC8) / 4 + 2]?.getD 0
  else match off with
    | 0x100 => BitVec.ofNat 32 p.slice
    | 0x108 => lowWord p.faultQ
    | 0x10C => highWord p.faultQ
    | 0x110 => p.faultN
    | 0x114 => p.faultTail
    | 0x118 => p.faultHead
    | 0x128 => if p.shoots.isEmpty then 0 else 1
    | 0x138 => p.pcmdAns
    | 0x13C => if p.pcmdBusy then 1 else 0
    | 0x140 => lowWord p.mboxOut
    | 0x144 => highWord p.mboxOut
    | 0x148 => p.mboxN
    | 0x14C => p.mboxTail
    | 0x150 => p.mboxHead
    | 0x178 => p.mboxAns
    | 0x180 => lowWord p.trapVecP
    | 0x184 => highWord p.trapVecP
    | _ => 0

/-- A word of a queue interface. -/
def Iface.readReg (f : Iface) (off : Nat) : Word :=
  match off with
  | 0 => BitVec.ofNat 32 f.state
  | 0x08 => BitVec.ofNat 32 f.pasid
  | 0x10 => lowWord f.ringBase
  | 0x14 => highWord f.ringBase
  | 0x18 => BitVec.ofNat 32 f.ringSize
  | 0x1C => if f.sealOnly then 1 else 0
  | 0x20 => lowWord f.ptroot
  | 0x24 => highWord f.ptroot
  | 0x28 => f.wrIdx
  | 0x2C => f.rdIdx
  | 0x34 => BitVec.ofNat 32 f.errCause
  | 0x38 => BitVec.ofNat 32 f.intVec
  | 0x40 => lowWord f.heapBase
  | 0x44 => highWord f.heapBase
  | 0x48 => lowWord f.heapLim
  | 0x4C => highWord f.heapLim
  | 0x50 => lowWord f.heapOfs
  | 0x54 => highWord f.heapOfs
  | _ => 0

/-- The blocks of the window (R359). -/
inductive WinBlock where
  | module (off : Nat)
  | partition (q off : Nat)
  | iface (i off : Nat)
  | port (die off : Nat)
  | reserved
  deriving DecidableEq, Repr

/-- Which block an offset lies in. -/
def winBlock (off : Nat) : WinBlock :=
  if off < 0x1000 then .module off
  else if off < 0x10000 then .reserved
  else if off < 0x30000 then .partition ((off - 0x10000) / 0x1000) (off % 0x1000)
  else if off < 0x100000 then .reserved
  else if off < 0x180000 then .iface ((off - 0x100000) / 128) (off % 128)
  else if off < 0x200000 then .reserved
  else if off < 0x300000 then .port ((off - 0x200000) / 0x10000) (off % 0x10000)
  else .reserved

/-- The word at an offset as partition `p` reads it (the port's ARRSEL is partition 0's for a host port, log
entry 21). -/
def State.readWindow (s : State) (p off : Nat) : Word :=
  match winBlock off with
  | .module o => s.readModule o
  | .partition q o => (s.partition q).readReg o
  | .iface i o => (s.iface i).readReg o
  | .port d o => s.readPort p d o
  | .reserved => 0

/-- What a host port reads at an offset: before ready, 0 but for MODSTATUS and PRIVSEM (R383). -/
def State.portRead (s : State) (off : Nat) : Word :=
  if s.ready || off == 0 || off == 4 then s.readWindow 0 off else 0

/-! ## Who may reach what (R359, R363) -/

/-- A writer of the window exists: a host port, or a partition's supervisor. -/
def writerOk : Writer → Bool
  | .port n => decide (n < 2)
  | .core p => decide (p < 32)

/-- Interface `i` lies in the partition's range (R364). -/
def Partition.hasIface (p : Partition) (i : Nat) : Bool := p.qifFirst ≤ i && i < p.qifFirst + p.qifCount

/-- The trap cause of a supervisor's access to the window, if it may not make it. -/
def State.windowCause (s : State) (p off : Nat) (write : Bool) : Option Nat :=
  match winBlock off with
  | .module _ => if write then some 7 else none
  | .partition q o => if q ≠ p then some 7 else if write && o < 0x100 then some 10 else none
  | .iface i _ => if (s.partition p).hasIface i then none else some 7
  | .port _ o => if write && o ≠ 0 then some 7 else none
  | .reserved => some 7

/-! ## Partitions (R364, R187) -/

/-- No launch of a partition is resident, pre-empted or queued. -/
def State.noLaunch (s : State) (p : Nat) : Bool :=
  (s.launches.all fun (_, x) => match x with
    | some l => l.part != p || l.ended
    | none => true) &&
  s.ifaces.all fun (i, f) => !(s.partition p).hasIface i || f.wrIdx == f.rdIdx

/-- The owner a byte of local memory had last. -/
def State.lastOwner (s : State) (pa : Nat) : Option Nat :=
  (s.owned.find? fun (b, n, _) => b * 2 ^ 21 ≤ pa && pa < (b + n) * 2 ^ 21).map (·.2.2)

/-- A range passes to a partition, which has a new key: it is zeroed before any access of the new owner (R187, R364). -/
def State.takeRange (s : State) (p : Nat) (r : Nat × Nat) : State :=
  let inside := fun (a : Nat) => r.1 * 2 ^ 21 ≤ a && a < (r.1 + r.2) * 2 ^ 21
  if r.2 = 0 then s
  else { s with mem := s.mem.filter fun (a, _) => !inside a, dirty := s.dirty.filter fun q => !inside (256 * q)
                owned := (r.1, r.2, p) :: s.owned }

/-- A core is reset when its hardware cluster passes to a partition (R24, R114; log entry 61): nothing of an earlier
partition stays in its caches, table slots and TLB. -/
def Core.passes (k : Core) : Core := { k with tables := [], icache := [], tlb := [], snap := [], old := [] }

/-- The cores of a partition's hardware clusters pass to it, and so do their constant caches. -/
def State.takeClusters (s : State) (q : Partition) : State :=
  { s with
    cores := s.cores.map fun (c, k) => (c, if q.clusters.getLsbD (hwCluster c) then k.passes else k)
    constants := s.constants.filter fun (h, _) => !q.clusters.getLsbD h
    constantsOld := s.constantsOld.filter fun (h, _) => !q.clusters.getLsbD h }

/-- Setting active (R364): the key is made, the ranges and clusters become the partition's, its grant is zero (R174), its
counters are zero (R111), and TRAPVEC takes TRAPVECP (R105); with none given, the default policy answers traps (R330;
log entry 9). -/
def State.createPartition (s : State) (p : Nat) : State :=
  let q := s.partition p
  let s1 := q.ranges.toList.foldl (fun s r => s.takeRange p r) s
  let grant := fun (a : Nat) => q.cspBase * 2 ^ 21 ≤ a && a < (q.cspBase + q.cspLen) * 2 ^ 21
  let s2 := ({ s1 with chip := s1.chip.filter fun (a, _) => !grant a } : State).takeClusters q
  s2.setPartition p { q with active := true, trapVec := q.trapVecP, trapPolicy := q.trapVecP == 0, dataLoss := 0, corrected := 0 }

/-- Clearing active (R364). -/
def State.dissolvePartition (s : State) (p : Nat) : State := s.setPartition p { s.partition p with active := false }

/-- A write of PCTL; none where it is answered BUSY (R364). -/
def State.writePctl (s : State) (p : Nat) (v : Word) : Option State :=
  let q := s.partition p
  let op := v.getLsbD 1
  let act := v.getLsbD 0
  let other := s.partitions.any fun (k, x) => k != p && x.operator
  if (op != q.operator && q.active) || (op && !q.operator && other) then none
  else
    let s1 := s.setPartition p { q with operator := op }
    if act && !q.active then some (s1.createPartition p)
    else if !act && q.active then (if s.noLaunch p then some (s1.dissolvePartition p) else none)
    else some s1

/-- A write of a privileged register; none where it is answered BUSY (R364). -/
def State.writePriv (s : State) (p off : Nat) (v : Word) : Option State :=
  let q := s.partition p
  let put := fun (x : Partition) => if q.active then none else some (s.setPartition p x)
  let r := off - 0x10
  if off = 0 then s.writePctl p v
  else if off = 8 then put { q with clusters := (withLow (q.clusters.setWidth 64) v).setWidth 40 }
  else if off = 0xC then put { q with clusters := (withHigh (q.clusters.setWidth 64) v).setWidth 40 }
  else if 0x10 ≤ off ∧ off < 0x90 then
    let old := q.ranges[r / 16]?.getD (0, 0)
    let base := fun (d : Dword) => (d.extractLsb' 21 31).toNat
    match r % 16 with
    | 0 => put { q with ranges := q.ranges.setIfInBounds (r / 16) (base (withLow (q.rangeReg (r / 16)) v), old.2) }
    | 4 => put { q with ranges := q.ranges.setIfInBounds (r / 16) (base (withHigh (q.rangeReg (r / 16)) v), old.2) }
    | 8 => put { q with ranges := q.ranges.setIfInBounds (r / 16) (old.1, v.toNat) }
    | _ => some s
  else if off = 0x90 then put { q with ways := v.toNat % 32 }
  else if off = 0x94 then put { q with cspBase := v.toNat }
  else if off = 0x98 then put { q with cspLen := v.toNat }
  else if 0xA0 ≤ off ∧ off < 0xC0 then
    let sh := 8 * (off - 0xA0)
    some (s.setPartition p { q with
      images := (q.images &&& ~~~((0xFFFFFFFF : BitVec 256) <<< sh)) ||| (v.setWidth 256 <<< sh) })
  else if off = 0xC0 then
    some (s.setPartition p { q with qifCount := v.toNat / 4096 % 8192, qifFirst := v.toNat % 4096 })
  else if 0xC8 ≤ off ∧ off < 0xE0 then
    some (s.setPartition p { q with peers := q.peers.setIfInBounds ((off - 0xC8) / 4 + 2) v })
  else some s

/-! ## Resolve and shootdown (R332, R337) -/

/-- A launch runs in partition `p`. -/
def State.inPart (s : State) (p launch : Nat) : Bool := (s.launch launch).isSome && s.partOf launch == p

/-- The global addresses that a partition's waiting accesses of a core name. -/
def State.waitingVas (s : State) (p : Nat) (k : Core) : List Nat :=
  let mine := fun (slot : Nat) => match k.group slot with
    | some g => s.inPart p g.launch
    | none => false
  (k.loads.filterMap fun r => if r.waits && mine r.slot then some (abits r.ea 56 0) else none) ++
  (k.atoms.filterMap fun a => if a.waits && s.inPart p a.launch then some (abits a.ea 56 0) else none) ++
  k.sideLog.flatMap fun e => if e.waits && e.part == p then
    e.writes.map (·.1) ++ e.atoms.map fun a => abits a.ea 56 0 else []

/-- A core's accesses that wait for a page walk the tables again: no leaf that it cached serves them (R332). -/
def State.resolveCore (s : State) (p : Nat) (k : Core) : Core :=
  let mine := fun (slot : Nat) => match k.group slot with
    | some g => s.inPart p g.launch
    | none => false
  let vas := s.waitingVas p k
  { k with
    tlb := k.tlb.filter fun t => !(s.inPart p t.launch && vas.any fun v => t.va ≤ v && v < t.va + t.size)
    loads := k.loads.map fun r => if mine r.slot then { r with waits := false } else r
    atoms := k.atoms.map fun a => if s.inPart p a.launch then { a with waits := false } else a
    sideLog := k.sideLog.map fun e => if e.part = p then { e with waits := false } else e
    groups := k.groups.map fun (i, g) => (i, g.map fun (x : Group) => if s.inPart p x.launch then { x with fetchWait := [] } else x) }

/-- A write of RESOLVE (R332): the engines' accesses and the units that have a record to write try again, too. -/
def State.doResolve (s : State) (p : Nat) : State :=
  let t := ({ s with cores := s.cores.map fun (c, k) => (c, s.resolveCore p k) } : State).setPartition p
    { s.partition p with faultsPosted := [], unitPages := [] }
  (s.cores.foldl (fun t ck => (t.renew s ck.1).supplyCore ck.1) t).payOwed

/-- A write of SHOOT: a shootdown of the leaves that cover `va`, rounded to 64 KiB; it is in progress beside any earlier
one (R337, R364). -/
def State.doShoot (s : State) (p va : Nat) : State :=
  let q := s.partition p
  s.setPartition p { q with shoots := q.shoots ++ [pageOf (va % 2 ^ 57)] }

/-- Drop the leaves of a partition's launches that cover `va`. -/
def State.dropLeaves (s : State) (p va : Nat) : State :=
  { s with cores := s.cores.map fun (c, k) => (c, { k with
      tlb := k.tlb.filter fun t => !(s.inPart p t.launch && t.va ≤ va && va < t.va + t.size) }) }

/-- SHOOTDOWN_COMPLETE (R337): every access that translated through the old leaf has been performed; the oldest shootdown
of the partition is over. -/
def execShootdownComplete (p : Nat) (s : State) : Out :=
  let q := s.partition p
  let held := s.cores.any fun (_, k) => k.stores.any fun st => s.inPart p st.launch && st.level == 0
  match q.shoots with
  | [] => .fault .notEnabled
  | va :: rest => if held then .fault .notEnabled else .next ((s.dropLeaves p va).setPartition p { q with shoots := rest })

/-! ## Mailboxes (R366) -/

/-- The group an MBOXIN write names, if it is resident, of the partition, and has not exited. -/
def State.mailTarget (s : State) (p : Nat) : Option (Nat × Nat × Group) :=
  let m := (s.partition p).mboxIn
  let launch := (m[0]?.getD 0).toNat
  if !s.inPart p launch then none
  else
    let b := s.blocks.find? fun (b, x) => match x with
      | some y => y.launch == launch && !y.ended && s.blockIndex b == (m[1]?.getD 0).toNat
      | none => false
    match b with
    | none => none
    | some (b, _) => match s.findGroup launch b (m[2]?.getD 0).toNat with
      | none => none
      | some (c, g) => match s.group c g with
        | none => none
        | some x => if x.over then none else some (c, g, x)

/-- Deliver the entry that MBOXIN holds (R366). -/
def State.deliverMail (s : State) (p : Nat) : State :=
  let q := s.partition p
  let ans := fun (t : State) (a : Word) => t.setPartition p { t.partition p with mboxAns := a }
  match s.mailTarget p with
  | none => ans s 2
  | some (c, g, x) =>
    if x.room 13 then
      let e := (q.mboxIn[5]?.getD 0) ++ (q.mboxIn[4]?.getD 0)
      ans (s.setGroup c g (x.setQueue 13 (x.queue 13 ++ [e]))) 0
    else ans s 1

/-- Write an entry's record into a partition's MBOXOUT ring, if it has room (R366). -/
def State.mailRecord (s : State) (p launch index grp : Nat) (e : Dword) : Option State :=
  let q := s.partition p
  if q.mboxN = 0 ∨ q.mboxTail - q.mboxHead = q.mboxN then none
  else
    let at_ := q.mboxOut.toNat + 32 * (q.mboxTail.toNat % q.mboxN.toNat)
    let rec_ := leBytes launch 4 ++ leBytes index 4 ++ leBytes grp 4 ++ leBytes 0 4 ++ leBytes e.toNat 8 ++ leBytes 0 8
    some ((s.setBytes ⟨.host, at_⟩ rec_).setPartition p { q with mboxTail := q.mboxTail + 1 })

/-- Two entries left behind are the same group's. -/
def LeftMail.sameGroup (a b : LeftMail) : Bool := a.launch == b.launch && a.index == b.index && a.grp == b.grp

/-- MAILBOX_OUT_RECORD (R366): the head of a group's outbound half goes to the ring, if it has room; from slot 32 on, an
entry that a group left behind, the oldest of its group. -/
def execMailboxOutRecord (c g : Nat) (s : State) : Out :=
  if 32 ≤ g then
    match s.outbox[g - 32]? with
    | none => .fault .notEnabled
    | some o =>
      if (s.outbox.take (g - 32)).any o.sameGroup then .fault .notEnabled
      else match s.mailRecord o.part o.launch o.index o.grp o.entry with
        | none => .fault .notEnabled
        | some t => .next { t with outbox := ldrop s.outbox (g - 32) }
  else match s.group c g with
    | none => .fault .notEnabled
    | some x => match x.queue 14 with
      | [] => .fault .notEnabled
      | e :: rest => match s.mailRecord (s.partOf x.launch) x.launch (s.blockIndex x.block) x.grp e with
        | none => .fault .notEnabled
        | some t => .next (t.setGroup c g (x.setQueue 14 rest))

/-! ## The registers of a partition that are not privileged (R364) -/

/-- Write a word of a partition block at +0x100 or above. -/
def State.writePart (s : State) (w : Writer) (p off : Nat) (v : Word) : State :=
  let q := s.partition p
  let put := fun (x : Partition) => s.setPartition p x
  match off with
  | 0x100 => put { q with slice := v.toNat % 32 }
  | 0x108 => put { q with faultQ := withLow q.faultQ v }
  | 0x10C => put { q with faultQ := withHigh q.faultQ v }
  | 0x110 => put { q with faultN := v }
  | 0x118 => put { q with faultHead := v }
  | 0x11C => s.doResolve p
  | 0x120 => put { q with shootLow := v }
  | 0x124 => s.doShoot p (v ++ q.shootLow).toNat
  | 0x130 => if q.pcmdBusy then s.answerBusy w (partBlock p + 0x130) else put { q with pcmdLow := v }
  | 0x134 => s.writePcmd w p (v ++ q.pcmdLow).toNat
  | 0x140 => put { q with mboxOut := withLow q.mboxOut v }
  | 0x144 => put { q with mboxOut := withHigh q.mboxOut v }
  | 0x148 => put { q with mboxN := v }
  | 0x150 => put { q with mboxHead := v }
  | 0x160 => put { q with mboxIn := q.mboxIn.setIfInBounds 0 v }
  | 0x164 => put { q with mboxIn := q.mboxIn.setIfInBounds 1 v }
  | 0x168 => put { q with mboxIn := q.mboxIn.setIfInBounds 2 v }
  | 0x16C => put { q with mboxIn := q.mboxIn.setIfInBounds 3 v }
  | 0x170 => put { q with mboxIn := q.mboxIn.setIfInBounds 4 v }
  | 0x174 => (put { q with mboxIn := q.mboxIn.setIfInBounds 5 v }).deliverMail p
  | 0x180 => put { q with trapVecP := withLow q.trapVecP v }
  | 0x184 => put { q with trapVecP := withHigh q.trapVecP v }
  | _ => s

/-! ## Queue interfaces (R368, R369) -/

/-- The lock class of a configuration register: the module's table, by default R368's classes. -/
def Manager.lockClass (m : Manager) (off : Nat) : Nat :=
  let r := off / 8 * 8
  let key := if off = 0x1C then 0x1C else r
  tget (if off = 0x1C then 2 else if r = 0x38 then 0 else 1) m.lockTable key

/-- The interface falls into ERROR. -/
def Iface.fail (f : Iface) (cause : Nat) : Iface := if f.state = 3 then f else { f with state := 3, errCause := cause }

/-- The register is locked now: class 1 in CONFIG_LOCKED and RUN, class 2 from the first LOCK since reset. -/
def Iface.lockedAt (f : Iface) (cls : Nat) : Bool :=
  (cls == 1 && (f.state == 1 || f.state == 2)) || (cls == 2 && f.everLocked)

/-- A configuration register of an interface with a new word. -/
def Iface.writeReg (f : Iface) (off : Nat) (v : Word) : Iface :=
  match off with
  | 0x08 => { f with pasid := v.toNat % 2 ^ 20 }
  | 0x10 => { f with ringBase := withLow f.ringBase v }
  | 0x14 => { f with ringBase := withHigh f.ringBase v }
  | 0x18 => { f with ringSize := v.toNat % 2 ^ 13 }
  | 0x1C => { f with sealOnly := v.getLsbD 0 }
  | 0x20 => { f with ptroot := withLow f.ptroot v }
  | 0x24 => { f with ptroot := withHigh f.ptroot v }
  | 0x38 => { f with intVec := v.toNat % 2 ^ 16 }
  | 0x40 => { f with heapBase := withLow f.heapBase v }
  | 0x44 => { f with heapBase := withHigh f.heapBase v }
  | 0x48 => { f with heapLim := withLow f.heapLim v }
  | 0x4C => { f with heapLim := withHigh f.heapLim v }
  | 0x50 => { f with heapOfs := withLow f.heapOfs v }
  | 0x54 => { f with heapOfs := withHigh f.heapOfs v }
  | _ => f

/-- A configuration register of an interface. -/
def isConfigReg (off : Nat) : Bool := [8, 0x10, 0x14, 0x18, 0x1C, 0x20, 0x24, 0x38, 0x40, 0x44, 0x48, 0x4C, 0x50, 0x54].contains off

/-- LOCK (R369). -/
def Iface.doLock (f : Iface) : Iface :=
  match f.state with
  | 0 => { f with state := 1, wrIdx := 0, rdIdx := 0, everLocked := true }
  | 3 => f
  | _ => f.fail 2
/-- START (R369). -/
def Iface.doStart (f : Iface) : Iface :=
  match f.state with
  | 1 => { f with state := 2 }
  | 3 => f
  | _ => f.fail 2
/-- STOP (R369). -/
def Iface.doStop (f : Iface) : Iface :=
  match f.state with
  | 0 => f
  | 3 => { f with state := 0, errCause := 0 }
  | _ => { f with state := 0 }

/-- DOORBELL `n` (R369). -/
def Iface.doDoorbell (f : Iface) (n : Nat) (now : Nat) : Iface :=
  if f.state ≠ 2 then f
  else
    let w := f.wrIdx + BitVec.ofNat 32 n
    if 1 ≤ n ∧ (w - f.rdIdx).toNat ≤ f.ringSize then
      { f with wrIdx := w, waitSince := if f.wrIdx = f.rdIdx then now else f.waitSince }
    else f.fail 4

/-- A queue waits (R343). -/
def Iface.waiting (f : Iface) : Bool := f.state == 2 && f.wrIdx != f.rdIdx

/-- Some launch taken from interface `i` has not ended. -/
def State.queueRuns (s : State) (i : Nat) : Bool :=
  s.launches.any fun (_, l) => match l with
    | some x => x.iface == i && !x.ended
    | none => false

/-- A bound queue that neither waits nor has a launch left is unbound (R343). -/
def State.unbindIdle (s : State) (i : Nat) : State :=
  let f := s.iface i
  if f.bound && !f.waiting && !s.queueRuns i then s.setIface i { f with bound := false } else s

/-- Write a word of interface `i`, but for what it does to its slot. -/
def State.writeIfaceReg (s : State) (i off : Nat) (v : Word) : State :=
  let f := s.iface i
  if off = 4 then
    match v.toNat % 4 with
    | 1 => s.setIface i f.doLock
    | 2 => s.setIface i f.doStart
    | 3 => s.setIface i f.doStop
    | _ => s
  else if off = 0x30 then s.setIface i (f.doDoorbell (v.toNat % 2 ^ 13) s.tick)
  else if isConfigReg off then
    if f.lockedAt (s.mgr.lockClass off) then s.setIface i (f.fail 1) else s.setIface i (f.writeReg off v)
  else s

/-- Write a word of interface `i`. -/
def State.writeIface (s : State) (i off : Nat) (v : Word) : State := (s.writeIfaceReg i off v).unbindIdle i

/-! ## PRIVSEM (R363) -/

/-- A write of PRIVSEM.req by a port. -/
def State.writeSem (s : State) (port : Nat) (req : Bool) : State :=
  if req then
    if !s.semHeld then { s with semHeld := true, semOwner := port }
    else if s.semOwner = port then s else s.answerBusy (.port port) 4
  else if s.semHeld && s.semOwner == port then { s with semHeld := false }
  else s.answerBusy (.port port) 4

/-! ## A write of one word -/

/-- A host port, 0 or 1 (R2), writes a word (R359, R363, R383): everything is ignored before ready. -/
def State.portWrite (s : State) (port off : Nat) (v : Word) : State :=
  if !s.ready || 2 ≤ port then s
  else match winBlock off with
    | .module 4 => s.writeSem port (v.getLsbD 0)
    | .module 0x10 =>
      if s.semHeld && s.semOwner == port && !s.mgr.smBusy then { s with mgr := { s.mgr with smLow := v } }
      else s.answerBusy (.port port) 0x10
    | .module 0x14 => s.smcmd port (v ++ s.mgr.smLow).toNat
    | .module _ => s
    | .partition q o =>
      if o < 0x100 then
        if s.semHeld && s.semOwner == port then (s.writePriv q o v).getD (s.answerBusy (.port port) off)
        else s.answerBusy (.port port) off
      else s.writePart (.port port) q o v
    | .iface i o => s.writeIface i o v
    | .port d o => s.writePort 0 d o v
    | .reserved => s

/-- A supervisor of partition `p` writes a word; what it may not reach has trapped before. -/
def State.coreWrite (s : State) (p off : Nat) (v : Word) : State :=
  if (s.windowCause p off true).isSome then s
  else match winBlock off with
    | .partition q o => s.writePart (.core p) q o v
    | .iface i o => s.writeIface i o v
    | .port d o => s.writePort p d o v
    | _ => s

/-- The low word of a 64-bit configuration register that is locked: the whole write is refused at once. -/
def State.refusedWhole (s : State) (off : Nat) : Bool :=
  match winBlock off with
  | .iface i o => [0x10, 0x20, 0x40, 0x48, 0x50].contains o && (s.iface i).lockedAt (s.mgr.lockClass o)
  | _ => false

/-- A write of 4 or 8 bytes: the low word first (R359); one access is answered BUSY once. -/
def State.writeWindow (s : State) (w : Writer) (off width value : Nat) : State :=
  let one := fun (t : State) (o : Nat) (v : Word) => match w with
    | .port n => t.portWrite n o v
    | .core p => t.coreWrite p o v
  let s1 := one s off (BitVec.ofNat 32 value)
  if width = 8 ∧ !s.refusedWhole off then
    let s2 := one s1 (off + 4) (BitVec.ofNat 32 (value / 2 ^ 32))
    if s1.busy = s.busy then s2 else { s2 with busy := s1.busy }
  else s1

/-! ## The events of the window -/

/-- CONTROL_REGISTER_WRITE (R359, R363). -/
def execControlRegisterWrite (w : Writer) (off width value : Nat) (s : State) : Out :=
  if off % width ≠ 0 ∨ ¬(width = 4 ∨ width = 8) ∨ 2 ^ 24 ≤ off ∨ !writerOk w then .fault .notEnabled
  else .next (s.writeWindow w off width value)

/-- Where queue interface `i` begins in the window (R359). -/
def ifaceBlock (i : Nat) : Nat := 0x100000 + 128 * i

/-- IFCMD_LOCK (R369). -/
def execIfcmdLock (w : Writer) (i : Nat) (s : State) : Out :=
  if 4096 ≤ i ∨ !writerOk w then .fault .notEnabled else .next (s.writeWindow w (ifaceBlock i + 4) 4 1)
/-- IFCMD_START (R369). -/
def execIfcmdStart (w : Writer) (i : Nat) (s : State) : Out :=
  if 4096 ≤ i ∨ !writerOk w then .fault .notEnabled else .next (s.writeWindow w (ifaceBlock i + 4) 4 2)
/-- IFCMD_STOP (R369). -/
def execIfcmdStop (w : Writer) (i : Nat) (s : State) : Out :=
  if 4096 ≤ i ∨ !writerOk w then .fault .notEnabled else .next (s.writeWindow w (ifaceBlock i + 4) 4 3)
/-- IFCMD_NONE (R369): no effect. -/
def execIfcmdNone (w : Writer) (i : Nat) (s : State) : Out :=
  if 4096 ≤ i ∨ !writerOk w then .fault .notEnabled else .next (s.writeWindow w (ifaceBlock i + 4) 4 0)
/-- DOORBELL (R369). -/
def execDoorbell (w : Writer) (i n : Nat) (s : State) : Out :=
  if 4096 ≤ i ∨ !writerOk w then .fault .notEnabled else .next (s.writeWindow w (ifaceBlock i + 0x30) 4 n)
/-- RESOLVE (R332). -/
def execResolve (w : Writer) (p : Nat) (s : State) : Out :=
  if 32 ≤ p ∨ !writerOk w then .fault .notEnabled else .next (s.writeWindow w (partBlock p + 0x11C) 4 0)
/-- SHOOT (R337). -/
def execShoot (w : Writer) (p va : Nat) (s : State) : Out :=
  if 32 ≤ p ∨ !writerOk w then .fault .notEnabled else .next (s.writeWindow w (partBlock p + 0x120) 8 va)
/-- MBOXIN_DELIVER (R366): the entry that MBOXIN's words hold is delivered. -/
def execMboxinDeliver (w : Writer) (p : Nat) (s : State) : Out :=
  if 32 ≤ p ∨ !writerOk w then .fault .notEnabled
  else .next (s.writeWindow w (partBlock p + 0x174) 4 ((s.partition p).mboxIn[5]?.getD 0).toNat)
/-- PRIVSEM_TAKE (R363). -/
def execPrivsemTake (port : Nat) (s : State) : Out :=
  if 2 ≤ port then .fault .notEnabled else .next (s.portWrite port 4 1)
/-- PRIVSEM_GIVE (R363). -/
def execPrivsemGive (port : Nat) (s : State) : Out :=
  if 2 ≤ port then .fault .notEnabled else .next (s.portWrite port 4 0)
/-- HOST_LINK_DOWN (R363): a port that holds the semaphore gives it back. -/
def execHostLinkDown (port : Nat) (s : State) : Out :=
  if 2 ≤ port then .fault .notEnabled
  else .next (if s.semHeld && s.semOwner == port then { s with semHeld := false } else s)
/-- PARTITION_CREATE (R364): the port writes PCTL with active set. -/
def execPartitionCreate (port p : Nat) (s : State) : Out :=
  if 32 ≤ p ∨ (s.partition p).active then .fault .notEnabled
  else .next (s.portWrite port (partBlock p) (if (s.partition p).operator then 3 else 1))
/-- PARTITION_DISSOLVE (R364): the port writes PCTL with active clear; no launch remains. -/
def execPartitionDissolve (port p : Nat) (s : State) : Out :=
  if 32 ≤ p ∨ !(s.partition p).active ∨ !s.noLaunch p then .fault .notEnabled
  else .next (s.portWrite port (partBlock p) (if (s.partition p).operator then 2 else 0))

/-- FAULT_RECORD_POST (R364): the oldest waiting record goes to the ring and the host is interrupted. -/
def execFaultRecordPost (p : Nat) (s : State) : Out :=
  let q := s.partition p
  match q.faultsWaiting with
  | [] => .fault .notEnabled
  | f :: rest =>
    if !q.faultRoom || q.faultN = 0 then .fault .notEnabled
    else
      let at_ := q.faultQ.toNat + 16 * (q.faultTail.toNat % q.faultN.toNat)
      let s1 := s.partWrite p at_ f.bytes
      .next ((s1.setPartition p { q with faultsWaiting := rest, faultTail := q.faultTail + 1 }).interrupt (.fault p))

/-! ## Accesses from outside (R361, R367, R383) -/

/-- An access is dropped and counted (R362). -/
def State.drop (s : State) : State := { s with dropCnt := satInc s.dropCnt }

/-- Where a byte of a host access stands by its interface's tables, if they allow it: within the ranges of the active
partition that owns the interface. -/
def State.hostPlace (s : State) (i va : Nat) (k : Kind) : Option Loc :=
  let e := BitVec.ofNat 64 va
  match s.partitions.find? fun (_, q) => q.active && q.hasIface i with
  | none => none
  | some (p, _) =>
    if pathOf e != 0 || !pathOk e then none
    else match s.walk (s.iface i).ptroot.toNat va with
      | .inl _ => none
      | .inr (leaf, big) => match s.judgeLeaf p 0 k va big leaf with
        | .ok l => some l
        | _ => none

/-- Write the bytes of a host access whose bytes are all allowed; a peer may drop what would go to it (R367). -/
def State.hostPut (s : State) (part i va : Nat) : List Byte → State
  | [] => s
  | b :: bs =>
    let t := match s.hostPlace i va .store with
      | some l => if s.takesWrite part l then s.setBytes l [b] else s
      | none => s
    t.hostPut part i (va + 1) bs

/-- The partition that owns interface `i`. -/
def State.partOfIface (s : State) (i : Nat) : Option Nat := (s.partitions.find? fun (_, q) => q.active && q.hasIface i).map (·.1)

/-- The bytes of a host read whose bytes are all allowed. -/
def State.hostGet (s : State) (i va : Nat) : Nat → List Byte
  | 0 => []
  | n + 1 => (match s.hostPlace i va .load with | some l => s.byteAt l | none => 0xFF) :: s.hostGet i (va + 1) n

/-- An access from outside is answered. -/
def State.answer (s : State) (a : Answer) : State := { s with answers := s.answers ++ [a] }

/-- HOST_MEMORY_ACCESS (R361): through the tables of the interface in RUN whose PASID it carries; a refused
access makes none and moves the interface to ERROR, and a refused read returns 0xFFFF_FFFF in every word. -/
def execHostMemoryAccess (acc : HostAccess) (s : State) : Out :=
  if !s.ready then .next s.drop
  else match s.ifaces.find? fun (_, f) => f.state == 2 && f.pasid == acc.pasid with
    | none => .next s.drop
    | some (i, _) =>
      let n := acc.data.length
      let k := if acc.write then Kind.store else Kind.load
      let ok := (List.range n).all fun j => (s.hostPlace i (acc.va + j) k).isSome
      if !ok then
        let t := (s.setIface i { s.iface i with state := 3, errCause := 3 }).unbindIdle i
        .next (if acc.write then t else t.answer (.host acc.pasid (List.replicate n 0xFF)))
      else if acc.write then .next (s.hostPut ((s.partOfIface i).getD 0) i acc.va acc.data).reread
      else .next (s.answer (.host acc.pasid (s.hostGet i acc.va n)))

end Sys2Proof.Machine
end

