-- ==== Sys2Proof/Machine/LoadStore.lean ====
section
/-! DEFINITION. Loads, stores, atomics and PF (R227 to R239), and the events that complete them: returns,
stores and atomics performed, the replay of the side log, releases complete. -/

namespace Sys2Proof.Machine

/-! ## One lane's access (R228) -/

/-- What a lane's address comes to; `fails` counts R228's checks, then those of `Xlat`, then 12, the privilege
of a control register. -/
inductive Access where
  | loc (l : Loc) (constant : Bool)
  | unmapped (va : Nat)
  | window (off : Nat)
  | fails (check : Nat)
  deriving DecidableEq, Repr

/-- A lane, its effective address and what it comes to. -/
structure LaneAcc where
  lane : Nat
  ea : Dword
  acc : Access
  deriving DecidableEq, Repr

/-- On whose behalf lane `l` accesses. -/
def Ctx.who (x : Ctx) (l : Nat) : Who :=
  { core := x.c, launch := x.grp.launch, block := x.grp.block, thread := x.grp.grp * 32 + l,
    supervisor := x.supervisor, engine := false }

/-- A supervisor's access to the control window (R172, R359). -/
def State.windowAccess (s : State) (part off size : Nat) (write : Bool) : Access :=
  match s.windowCause part off write, if size = 8 then s.windowCause part (off + 4) write else none with
  | some c, _ => .fails (if c = 10 then 12 else 6)
  | none, some c => .fails (if c = 10 then 12 else 6)
  | none, none => .window off

/-- Judge one access and translate it, by the launch's present values or by earlier ones (R109). -/
def State.accessBy (s : State) (w : Who) (r : Option Roots) (k : Kind) (size : Nat) (a : Dword) : Access :=
  match s.judge w k size a with
  | .fails n => .fails n
  | .window off => s.windowAccess (s.partOf w.launch) off size (k != .load)
  | .loc l => .loc l false
  | .va v cst => match s.translateBy w.core w.launch r k v with
    | .ok l => .loc l cst
    | .unmapped => .unmapped v
    | .bad n => .fails n

/-- Judge one access and translate it by the launch's present values. -/
def State.access (s : State) (w : Who) (k : Kind) (size : Nat) (a : Dword) : Access := s.accessBy w none k size a

/-- The accesses of the lanes of `m`, ascending. -/
def State.accesses (s : State) (x : Ctx) (k : Kind) (size : Nat) (m : LaneMask) (ea : Nat → Dword) : List LaneAcc :=
  (lanesOf m).map fun l => ⟨l, ea l, s.access (x.who l) k size (ea l)⟩

/-- The first check that some lane of `m` fails, and the lowest lane that fails it (R228). -/
def firstFail (m : LaneMask) (as : List LaneAcc) : Option (Nat × Nat) :=
  as.foldl (fun r a => match a.acc with
    | .fails n => if !m.getLsbD a.lane then r else match r with
      | some (j, _) => if n < j then some (n, a.lane) else r
      | none => some (n, a.lane)
    | _ => r) none

/-- The trap of a failed check: its value is the lowest failing lane (R228), but the instruction word for a privileged
control register (R326, R363). -/
def State.accessTrap (s : State) (x : Ctx) (i : Instr) (f : Nat × Nat) : State :=
  s.trapPath x (checkCause f.1) (if f.1 = 12 then wordOf i else BitVec.ofNat 32 f.2)

/-- The lanes that fail: helper lanes, once no real lane does. -/
def failing (as : List LaneAcc) : LaneMask :=
  maskOf fun l => as.any fun a => a.lane == l && (match a.acc with | .fails _ => true | _ => false)

/-- Effective address in format M (R228). -/
def State.eaM (s : State) (x : Ctx) (ca : Code) (o : BitVec 8) (scale l : Nat) : Dword :=
  s.src64 x l ca + o.signExtend 64 * BitVec.ofNat 64 scale

/-- The virtual address of a global or constant address. -/
def vaOf (a : Dword) : Nat := abits a 56 0

/-- Note the pages that lanes met unmapped. -/
def State.noteLanes (s : State) (launch kind : Nat) (as : List LaneAcc) : State :=
  as.foldl (fun s a => match a.acc with
    | .unmapped v => s.noteFault launch v kind false
    | _ => s) s

/-- Cache the leaves that lanes translated through (R335). -/
def State.cacheLanes (s : State) (c launch : Nat) (as : List LaneAcc) : State :=
  as.foldl (fun s a => match a.acc, pathOf a.ea with
    | .loc _ _, 0 => s.fillTlb c launch (vaOf a.ea)
    | _, _ => s) s

/-! ## Registers awaiting values (R34) -/

/-- Mark `k` registers from `d` pending in the lanes of `m`. -/
def Group.pendV (g : Group) (m : LaneMask) (d k : Nat) : Group :=
  g.mapLanes m fun _ t => { t with vPend := t.vPend ||| BitVec.ofNat 64 ((2 ^ k - 1) * 2 ^ d) }

/-- Write words from register `d` on in a lane, which are no longer pending. -/
def Thread.receive (t : Thread) (d : Nat) : List Word → Thread
  | [] => t
  | w :: ws => ({ t.setReg d w with vPend := t.vPend &&& ~~~(BitVec.ofNat 64 (2 ^ d)) } : Thread).receive (d + 1) ws

/-- Write an s register, which is no longer pending. -/
def Group.receiveS (g : Group) (r : Nat) (w : Word) : Group :=
  { g.setSreg r w with sPend := g.sPend &&& ~~~(BitVec.ofNat 32 (2 ^ r)) }

/-- Write what a return brings. -/
def Group.receiveAll (g : Group) (r : RetRec) : Group :=
  let h := r.vals.foldl (fun (g : Group) (l, d, w) => g.mapLanes (laneMask l) fun _ t => t.receive d [w]) g
  r.svals.foldl (fun g (i, w) => g.receiveS i w) h

/-! ## Loads (R229 to R231) -/

/-- Registers a load or a returning atomic of `size` bytes writes. -/
def regsFor (size : Nat) : Nat := if size ≤ 4 then 1 else size / 4

/-- What a lane's load returns already at issue: a control register, or private bytes, whose order is the
thread's own (R193, R203). -/
def State.loadNow (s : State) (x : Ctx) (size : Nat) (a : LaneAcc) : Option (List Byte) :=
  match a.acc with
  | .window off =>
    let p := s.partOf x.grp.launch
    some (leBytes (s.readWindow p off).toNat 4 ++ if size = 8 then leBytes (s.readWindow p (off + 4)).toNat 4 else [])
  | .loc l _ => if l.place.shared then none else some (s.bytesAt l size)
  | _ => none

/-- What lanes of one request have in common: the effective address, which stands for the location (R186; log entry
62); for a constant narrower than a word, the address of its word (R182). -/
def mergeKey (size : Nat) (a : Dword) : Dword :=
  if pathOf a == 13 && size < 4 then a &&& ~~~(3 : Dword) else a

/-- Merge lanes that address one location (R182, R186). -/
def mergeLanes (size : Nat) : List LaneAcc → List (LaneAcc × LaneMask)
  | [] => []
  | a :: as =>
    let rest := mergeLanes size as
    let same := fun (b : LaneAcc × LaneMask) => mergeKey size b.1.ea == mergeKey size a.ea
    match rest.find? same with
    | some _ => rest.map fun b => if same b then (a, b.2 ||| laneMask a.lane) else b
    | none => (a, laneMask a.lane) :: rest

/-- The record of a merged load; `ea` gives each lane's address. -/
def loadRec (x : Ctx) (id : Nat) (n : Bool) (d size : Nat) (sg : Bool) (ea : Nat → Dword) (a : LaneAcc) (m : LaneMask) : LoadRec :=
  let word := pathOf a.ea == 13 && size < 4
  { id := id, slot := x.g, lanes := m, ea := mergeKey size a.ea
    loc := (match a.acc, pathOf a.ea with
      | .loc _ _, 0 => none
      | .loc _ _, 13 => none
      | .loc l _, _ => some l
      | _, _ => none)
    size := if word then 4 else size, signed := sg, d := d, n := n
    waits := (match a.acc with | .unmapped _ => true | _ => false)
    parts := if word then (lanesOf m).map fun l => (l, (ea l).toNat % 4, size) else []
    tied := false, roots := none }

/-- A load whose lanes have been judged is issued. -/
def State.issueLoads (s : State) (x : Ctx) (e n : Bool) (d : Code) (size : Nat) (sg : Bool) (as : List LaneAcc) : State :=
  let bad := failing as
  let k := regsFor size
  let g1 := if n then x.grp else
    (x.grp.mapLanes bad fun _ t => t.receive d.toNat (zeros k)).pendV (x.run.mask &&& ~~~bad) d.toNat k
  let s1 := ((s.noteLanes x.grp.launch 0 as).cacheLanes x.c x.grp.launch as).finish x g1 e .pending
  let core := s1.core x.c
  let now := as.filterMap fun a => (s.loadNow x size a).map fun bs => laneVals a.lane d.toNat (loadWords size sg bs)
  let later := as.filter fun a => !bad.getLsbD a.lane && (s.loadNow x size a).isNone
  let ea := fun l => match as.find? fun a => a.lane == l with | some a => a.ea | none => 0
  let recs := (mergeLanes size later).map fun (a, m) => loadRec x core.nextId n d.toNat size sg ea a m
  s1.setCore x.c { core with
    loads := core.loads ++ recs
    nextId := core.nextId + 1
    rets := if n || now.isEmpty then core.rets else core.rets ++ [{ slot := x.g, vals := now.flatten, svals := [] }] }

/-- A load of `size` bytes (R229, R230). -/
def State.loadOp (s : State) (i : Instr) (e n : Bool) (d ca : Code) (o : BitVec 8) (size : Nat) (sg : Bool) : Out :=
  s.vform i e [.pair ca, .dstVregs d (regsFor size) n] fun x =>
    let as := s.accesses x .load size x.run.mask (s.eaM x ca o size)
    match firstFail x.real as with
    | some f => .next (s.accessTrap x i f)
    | none => .next (s.issueLoads x e n d size sg as)

/-- LD8 (R229). -/
def execLd8 (e n : Bool) (d ca : Code) (o : BitVec 8) (s : State) : Out := s.loadOp (.ld8 e n d ca o) e n d ca o 1 false
/-- LD8S (R229). -/
def execLd8s (e n : Bool) (d ca : Code) (o : BitVec 8) (s : State) : Out := s.loadOp (.ld8s e n d ca o) e n d ca o 1 true
/-- LD16 (R229). -/
def execLd16 (e n : Bool) (d ca : Code) (o : BitVec 8) (s : State) : Out := s.loadOp (.ld16 e n d ca o) e n d ca o 2 false
/-- LD16S (R229). -/
def execLd16s (e n : Bool) (d ca : Code) (o : BitVec 8) (s : State) : Out := s.loadOp (.ld16s e n d ca o) e n d ca o 2 true
/-- LD32 (R229). -/
def execLd32 (e n : Bool) (d ca : Code) (o : BitVec 8) (s : State) : Out := s.loadOp (.ld32 e n d ca o) e n d ca o 4 false
/-- LD64 (R229). -/
def execLd64 (e n : Bool) (d ca : Code) (o : BitVec 8) (s : State) : Out := s.loadOp (.ld64 e n d ca o) e n d ca o 8 false
/-- LD128 (R229). -/
def execLd128 (e n : Bool) (d ca : Code) (o : BitVec 8) (s : State) : Out := s.loadOp (.ld128 e n d ca o) e n d ca o 16 false

/-! ## Order within the core (R193) -/

/-- On whose behalf an outstanding access of a group is made. -/
def recWho (c launch block thread : Nat) : Who :=
  { core := c, launch := launch, block := block, thread := thread, supervisor := true, engine := false }

/-- Where an outstanding load stands now. -/
def State.loadPlace (s : State) (c : Nat) (r : LoadRec) : Access :=
  match r.loc, s.group c r.slot with
  | some l, _ => .loc l false
  | none, some g => s.accessBy (recWho c g.launch g.block 0) r.roots .load r.size r.ea
  | none, none => .fails 5

/-- Where an outstanding atomic stands now. -/
def State.atomPlace (s : State) (c : Nat) (a : AtomRec) : Access :=
  match a.loc with
  | some l => .loc l false
  | none => s.accessBy (recWho c a.launch 0 0) a.roots .atomic a.size a.ea

/-- The place meets `n` bytes at `l`. -/
def Access.meets (a : Access) (size : Nat) (l : Loc) (n : Nat) : Bool :=
  match a with
  | .loc m _ => m.meets size l n
  | _ => false

/-- An entry of the core's side log, issued before `id`, holds a byte of a global access of a launch (R231, R233). -/
def State.logHeld (s : State) (c id launch : Nat) (ea : Dword) (size : Nat) : Bool :=
  pathOf ea == 0 && (s.core c).logHolds id (s.partOf launch) (vaOf ea) size

/-- A load issued before `id` that could return still has to read these bytes. -/
def State.loadBefore (s : State) (c id : Nat) (l : Loc) (n : Nat) : Bool :=
  (s.core c).loads.any fun r => decide (r.id < id) && !r.waits && (s.loadPlace c r).meets r.size l n && !s.absent l &&
    !(match s.group c r.slot with | some g => s.logHeld c r.id g.launch r.ea r.size | none => false)

/-- A store issued before `id` to these bytes is not yet performed at `level`. -/
def Core.storeBefore (k : Core) (id level : Nat) (l : Loc) (n : Nat) : Bool :=
  k.stores.any fun t => decide (t.id < id) && decide (t.level < level) && t.loc.meets t.bytes.length l n

/-! ## Returns (R34, R198, R231) -/

/-- A load that met an unmapped or refused page waits for a resolve (R332). -/
def State.loadWaits (s : State) (c k : Nat) (r : LoadRec) : State :=
  let core := s.core c
  s.setCore c { core with loads := lset core.loads k { r with waits := true } }

/-- Values have come for a group slot: they are written, but not before the run that issued the access has ended (R34,
R35). -/
def State.deliverVals (s : State) (c slot : Nat) (vals : List (Nat × Nat × Word)) : State :=
  match s.group c slot with
  | none => s
  | some g =>
    if g.run.isSome then s.setCore c ((s.core c).addRet slot vals)
    else if vals.isEmpty then s
    else s.putGroup c slot (g.receiveAll { slot := slot, vals := vals, svals := [] })

/-- The other loads of an instruction whose places lie in the line of local memory that a load of it reads. -/
def State.siblings (s : State) (c : Nat) (r : LoadRec) (l : Loc) : List (LoadRec × Loc) :=
  if l.place ≠ .local then []
  else (s.core c).loads.filterMap fun q =>
    if q.id != r.id || q == r then none
    else match s.loadLoc c q with
      | some m => if m.place = .local ∧ lineOf m = lineOf l then some (q, m) else none
      | none => none

/-- The bytes that the cache holds for every load of the instruction in the line; none where it does not hold all. -/
def heldAll (m : List (Loc × List Byte)) : List (LoadRec × Loc) → Option (List (LoadRec × List Byte))
  | [] => some []
  | q :: qs => match snapGets m q.2 q.1.size, heldAll m qs with
    | some bs, some r => some ((q.1, bs) :: r)
    | _, _ => none

/-- A load is served and with it, where the cache holds its line as it stood before an NMU's update, every other load
of its instruction in the line: all of them by what the cache holds, or none. Otherwise those are tied to it, for an
update that comes before they return (R207, R323). Answers the state, and whether the cache may serve the load. -/
def State.serveLine (s : State) (c : Nat) (r : LoadRec) (l : Loc) (cst stale : Bool) : State × Bool :=
  let sib := s.siblings c r l
  let (m, old) := s.held c cst
  if sib.isEmpty then (s, stale)
  else match if stale && isOld old l then heldAll m sib else none with
    | some qs => (s.takeLoads c qs, true)
    | none =>
      let tie := fun (q : LoadRec) => if sib.any fun x => x.1 == q then { q with tied := true } else q
      (s.setCore c { s.core c with loads := (s.core c).loads.map tie }, stale && !isOld old l)

/-- LOAD_RETURN (R34): entry `k` of the values ready to be written (`ret`), or of the loads; `stale` lets a load
return what the snapshot holds (R198). A load waits for the core's own earlier stores where its bytes would otherwise not
have stood together, and for its group's earlier loads of the same bytes (R191). -/
def execLoadReturn (c : Nat) (ret : Bool) (k : Nat) (stale : Bool) (s : State) : Out :=
  let core := s.core c
  if ret then
    match core.rets[k]? with
    | none => .fault .notEnabled
    | some r =>
      let s1 := s.setCore c { core with rets := ldrop core.rets k }
      match s.group c r.slot with
      | none => .next s1
      | some g => if g.run.isSome then .fault .notEnabled else .next (s1.putGroup c r.slot (g.receiveAll r))
  else match core.loads[k]? with
    | none => .fault .notEnabled
    | some r => match s.group c r.slot with
      | none => .next (s.setCore c { core with loads := ldrop core.loads k })
      | some g =>
        if r.waits || s.logHeld c r.id g.launch r.ea r.size then .fault .notEnabled
        else match s.loadPlace c r with
          | .unmapped v => .next ((s.noteFault g.launch v 0 false).loadWaits c k r)
          | .fails _ => .next ((s.noteFault g.launch (vaOf r.ea) 0 true).loadWaits c k r)
          | .window _ => .fault .notEnabled
          | .loc l cst =>
            if s.absent l || !(s.olderLoads c r.slot r.id l r.size).isEmpty || (!cst && (s.atomBefore c r.id l r.size || !core.ownClear r.id l r.size)) then
              .fault .notEnabled
            else
              let s0 := s.setCore c { core with loads := ldrop core.loads k }
              let (s1, served) := s0.serveLine c r l cst stale
              let (s2, bs) := s1.loadFor c r.id l r.size cst served
              .next ((s2.touch l).deliverVals c r.slot (r.results bs))

/-! ## Stores (R232, R233) -/

/-- The two dwords of a quad source (R227). -/
def State.srcQuad (s : State) (x : Ctx) (l : Nat) (code : Code) : Dword × Dword :=
  if code = 100 then (0, 0) else (s.src64 x l code, s.src64 x l (code + 2))

/-- The lane's access goes into the side log: its page is unmapped, or the log holds a byte of it (R233). -/
def State.retires (s : State) (x : Ctx) (size : Nat) (a : LaneAcc) : Bool :=
  match a.acc with
  | .unmapped _ => true
  | .loc _ _ => s.logHeld x.c x.core.nextId x.grp.launch a.ea size
  | _ => false

/-- The distinct pages of lanes, in lane order. -/
def pagesOf : List LaneAcc → List Nat
  | [] => []
  | a :: as => pageOf (vaOf a.ea) :: (pagesOf as).filter (· != pageOf (vaOf a.ea))

/-- The lanes that would draw entries beyond the run's reservation: none, or the trap's lane (R233). -/
def overflows (x : Ctx) (logged : List LaneAcc) : Option Nat :=
  if x.run.logRoom < (pagesOf logged).length then logged.head?.map (·.lane) else none

/-- The run with the entries drawn from its reservation. -/
def Ctx.draw (x : Ctx) (logged : List LaneAcc) : Ctx :=
  { x with run := { x.run with logRoom := x.run.logRoom - (pagesOf logged).length } }

/-- The side-log entries of an instruction: one for each page. -/
def State.logEntries (s : State) (x : Ctx) (id : Nat) (logged : List LaneAcc) (writes : LaneAcc → List (Nat × List Byte))
    (atoms : LaneAcc → List AtomRec) : List SideEntry :=
  (pagesOf logged).map fun pg =>
    let mine := logged.filter fun a => pageOf (vaOf a.ea) == pg
    { id := id, part := s.partOf x.grp.launch, launch := x.grp.launch, slot := x.g, page := pg,
      writes := mine.flatMap writes, atoms := mine.flatMap atoms
      waits := mine.any fun a => (match a.acc with | .unmapped _ => true | _ => false)
      roots := none }

/-- Stores of lanes to the control window, the highest lane of each register (R186). -/
def State.storeWindow (s : State) (part size : Nat) (data : Nat → List Byte) : List LaneAcc → State
  | [] => s
  | a :: as =>
    let s1 := match a.acc with
      | .window off => if as.any fun b => b.ea == a.ea then s else s.writeWindow (.core part) off size (leNat (data a.lane))
      | _ => s
    s1.storeWindow part size data as

/-- Of the lanes that store to one place, the highest: the lanes of one instruction merge, and each of their bytes is its
(R186, R232). -/
def lastLanes : List LaneAcc → List LaneAcc
  | [] => []
  | a :: as => if as.any fun b => b.acc == a.acc then lastLanes as else a :: lastLanes as

/-- A store whose lanes have been judged is issued. -/
def State.issueStores (s : State) (x : Ctx) (e : Bool) (size : Nat) (data : Nat → List Byte) (as logged : List LaneAcc) : State :=
  let s1 := ((s.noteLanes x.grp.launch 1 as).cacheLanes x.c x.grp.launch as).finish (x.draw logged) x.grp e latchZero
  let core := s1.core x.c
  let entries := s.logEntries x core.nextId logged (fun a => [(vaOf a.ea, data a.lane)]) fun _ => []
  let s2 := s1.setCore x.c { core with sideLog := core.sideLog ++ entries, nextId := core.nextId + 1 }
  let s3 := (lastLanes (as.filter fun a => !logged.contains a)).foldl (fun s a => match a.acc with
    | .loc l _ => s.issueStore x.c x.g x.grp.launch l (data a.lane)
    | _ => s) s2
  s3.storeWindow (s.partOf x.grp.launch) size data as

/-- A store of `size` bytes (R232). -/
def State.storeOp (s : State) (i : Instr) (e : Bool) (use : Use) (ca : Code) (o : BitVec 8) (size : Nat)
    (data : Ctx → Nat → List Byte) : Out :=
  s.vform i e [use, .pair ca] fun x =>
    let as := s.accesses x .store size x.real (s.eaM x ca o size)
    match firstFail x.real as with
    | some f => .next (s.accessTrap x i f)
    | none =>
      let logged := as.filter (s.retires x size)
      match overflows x logged with
      | some l => .next (s.trapPath x 20 (BitVec.ofNat 32 l))
      | none => .next (s.issueStores x e size (data x) as logged)

/-- ST8 (R232). -/
def execSt8 (e : Bool) (d ca : Code) (o : BitVec 8) (s : State) : Out :=
  s.storeOp (.st8 e d ca o) e (.src d) ca o 1 fun x l => leBytes (s.src x l d).toNat 1
/-- ST16 (R232). -/
def execSt16 (e : Bool) (d ca : Code) (o : BitVec 8) (s : State) : Out :=
  s.storeOp (.st16 e d ca o) e (.src d) ca o 2 fun x l => leBytes (s.src x l d).toNat 2
/-- ST32 (R232). -/
def execSt32 (e : Bool) (d ca : Code) (o : BitVec 8) (s : State) : Out :=
  s.storeOp (.st32 e d ca o) e (.src d) ca o 4 fun x l => leBytes (s.src x l d).toNat 4
/-- ST64 (R232). -/
def execSt64 (e : Bool) (d ca : Code) (o : BitVec 8) (s : State) : Out :=
  s.storeOp (.st64 e d ca o) e (.pair d) ca o 8 fun x l => leBytes (s.src64 x l d).toNat 8
/-- ST128 (R232). -/
def execSt128 (e : Bool) (d ca : Code) (o : BitVec 8) (s : State) : Out :=
  s.storeOp (.st128 e d ca o) e (.quad d) ca o 16 fun x l =>
    leBytes (s.srcQuad x l d).1.toNat 8 ++ leBytes (s.srcQuad x l d).2.toNat 8

/-- STORE_PERFORM (R192): store `k` becomes performed at `scope`; stores and atomics to one address are
performed in the order the core issued them (R193). -/
def execStorePerform (c k scope : Nat) (s : State) : Out :=
  match (s.core c).stores[k]? with
  | none => .fault .notEnabled
  | some st =>
    let n := st.bytes.length
    if scope ≤ st.level ∨ 4 < scope ∨ (s.core c).storeBefore st.id scope st.loc n ∨ s.atomBefore c st.id st.loc n ∨
       s.loadBefore c st.id st.loc n then .fault .notEnabled
    else .next (((s.performStore c st scope).touch st.loc).reread.wakeJumps c)

/-! ## Atomics (R234 to R237) -/

/-- Words an atomic's data takes (R235). -/
def atomDataRegs (aop : Nat) : Nat := if aop < 11 then 1 else if aop < 14 then 2 else 4

/-- The use of D (R234). -/
def atomUse (aop : Nat) (n : Bool) (d : Code) : Use :=
  if n then (match atomDataRegs aop with | 1 => .src d | 2 => .pair d | _ => .quad d) else .vregs d (atomDataRegs aop)

/-- A lane's data. -/
def State.atomData (s : State) (x : Ctx) (aop : Nat) (d : Code) (l : Nat) : AtomLane :=
  match atomDataRegs aop with
  | 1 => ⟨l, (s.src x l d).setWidth 64, 0⟩
  | 2 => ⟨l, s.src64 x l d, 0⟩
  | _ => ⟨l, (s.srcQuad x l d).1, (s.srcQuad x l d).2⟩

/-- The new value of a 32-bit form, and the events by format (R235). -/
def atomNew32 (aop : Nat) (old : Word) (x : Dword) : Word × Nat × Events :=
  let d : Word := x.setWidth 32
  match aop with
  | 0 => (old + d, 0, [])
  | 1 => let (r, ev) := fadd old d; (r, 0, ev)
  | 2 =>
    let (lo, e1) := bsum (old.toNat % 65536) (d.toNat % 65536)
    let (hi, e2) := bsum (old.toNat / 65536) (d.toNat / 65536)
    (BitVec.ofNat 32 (lo + 65536 * hi), 1, e1 ++ e2)
  | 3 => (if old.slt d then old else d, 0, [])
  | 4 => (if old.slt d then d else old, 0, [])
  | 5 => (if old.ult d then old else d, 0, [])
  | 6 => (if old.ult d then d else old, 0, [])
  | 7 => (old &&& d, 0, [])
  | 8 => (old ||| d, 0, [])
  | 9 => (old ^^^ d, 0, [])
  | 10 => (d, 0, [])
  | _ => (if old = d then x.extractLsb' 32 32 else old, 0, [])

/-- The new value of a 64-bit form (R235). -/
def atomNew64 (aop : Nat) (old x y : Dword) : Dword :=
  match aop with
  | 12 => old + x
  | 13 => x
  | _ => if old = x then y else old

/-- One lane's operation: the new value and its events. -/
def atomNew (aop : Nat) (old : Dword) (a : AtomLane) : Dword × Nat × Events :=
  if aop < 12 then
    let (w, f, ev) := atomNew32 aop (old.setWidth 32) a.x
    (w.setWidth 64, f, ev)
  else (atomNew64 aop old a.x a.y, 0, [])

/-- The words an old value returns. -/
def atomWords (aop : Nat) (old : Dword) : List Word :=
  if aop < 12 then [old.setWidth 32] else [old.setWidth 32, old.extractLsb' 32 32]

/-- The merged lanes of an atomic at its place, ascending (R186, R236): the value left, what each lane
receives, the events. -/
def atomFold (a : AtomRec) (old : Dword) : Dword × List (Nat × Nat × Word) × List (Nat × Events) :=
  a.lanes.foldl (fun (cur, vals, evs) ln =>
    let (new, f, ev) := atomNew a.aop cur ln
    (new, vals ++ laneVals ln.lane a.d (atomWords a.aop cur), evs ++ [(f, ev)])) (old, [], [])

/-- The source of an atomic as its bytes: data, then new value (R235). -/
def atomOperands (aop : Nat) (bs : List Byte) : AtomLane :=
  ⟨0, BitVec.ofNat 64 (leNat (bs.take (if atomDataRegs aop = 1 then 4 else 8))), BitVec.ofNat 64 (leNat ((bs.drop 8).take 8))⟩

/-- An atomic is performed at its place. -/
def State.applyAtom (s : State) (c : Nat) (a : AtomRec) (l : Loc) : State :=
  let old := BitVec.ofNat 64 (leNat (s.bytesAt l a.size))
  let (new, vals, evs) := atomFold a old
  let s1 := s.setBytes l (leBytes new.toNat a.size)
  let core := (s1.core c).dropSnap l a.size
  let live := match s.group c a.slot with
    | some g => vals.filter fun v => (g.th v.1).standing != .exited
    | none => []
  let s2 := s1.setCore c { core with
    rets := if a.n || live.isEmpty then core.rets else core.rets ++ [{ slot := a.slot, vals := live, svals := [] }] }
  ((evs.foldl (fun s (f, ev) => s.countEvents a.launch f ev) s2).touch l).reread

/-- The acquire of an atomic follows once every location of the instruction has been performed (R236). -/
def State.atomAcquire (s : State) (c : Nat) (a : AtomRec) : State :=
  let k := s.core c
  let more := fun (b : AtomRec) => b.instr == a.instr
  if a.ord % 2 = 1 ∧ !(k.atoms.any more || k.sideLog.any fun e => e.atoms.any more) then s.acquireAt c a.scope else s

/-- The release before an atomic has not completed (R201). -/
def Core.releaseOwed (k : Core) (a : AtomRec) : Bool := k.releases.any fun r => r.why == .atomic a.instr

/-- The records of an atomic instruction, one for each location. -/
def State.atomRecs (s : State) (x : Ctx) (aop : Nat) (n : Bool) (d : Code) (sc r : Nat) (id : Nat) (as : List LaneAcc) : List AtomRec :=
  (mergeLanes (if aop < 12 then 4 else 8) as).zipIdx.map fun ((a, m), j) =>
    { id := id + j, instr := id, slot := x.g, launch := x.grp.launch, aop := aop, ord := r, scope := sc + 1, ea := a.ea
      loc := (match a.acc, pathOf a.ea with
        | .loc _ _, 0 => none
        | .loc l _, _ => some l
        | _, _ => none)
      lanes := (lanesOf m).map (s.atomData x aop d), d := d.toNat, n := n
      waits := (match a.acc with | .unmapped _ => true | _ => false), roots := none }

/-- An atomic whose lanes have been judged is issued; `logged` are the lanes of an N-set form that retire into
the side log. -/
def State.issueAtoms (s : State) (x : Ctx) (aop : Nat) (n : Bool) (d : Code) (sc r : Nat) (as logged : List LaneAcc) : State :=
  let k := regsFor (if aop < 12 then 4 else 8)
  let bad := failing as
  let g1 := if n then x.grp else
    (x.grp.mapLanes bad fun _ t => t.receive d.toNat (zeros k)).pendV x.real d.toNat k
  let mine := as.filter fun a => x.real.getLsbD a.lane
  let s1 := ((s.noteLanes x.grp.launch (if n then 1 else 0) mine).cacheLanes x.c x.grp.launch mine).finishCommit x g1
  let id := (s1.core x.c).nextId
  let s2 := if 2 ≤ r then s1.startRelease x.c (s.partOf x.grp.launch) (sc + 1) (.atomic id) else s1
  let core := s2.core x.c
  let recs := s.atomRecs x aop n d sc r id mine
  let isLogged := fun (q : AtomRec) => logged.any fun a => a.ea == q.ea
  let entries := s.logEntries x id logged (fun _ => []) fun a =>
    recs.filter fun q => q.ea == a.ea && (q.lanes.head?.map (·.lane) == some a.lane)
  s2.setCore x.c { core with
    atoms := core.atoms ++ recs.filter fun q => !isLogged q
    sideLog := core.sideLog ++ entries
    nextId := id + recs.length + 1 }

/-- An atomic (R234 to R237). -/
def State.atomOp (s : State) (i : Instr) (aop : Nat) (n : Bool) (d ca : Code) (sc r : BitVec 2) : Out :=
  s.vcommit i [atomUse aop n d, .pair ca] fun x =>
    let size := if aop < 12 then 4 else 8
    let as := s.accesses x .atomic size x.run.mask fun l => s.src64 x l ca
    match firstFail x.real as with
    | some f => .next (s.accessTrap x i f)
    | none =>
      let logged := if n then as.filter fun a => x.real.getLsbD a.lane && s.retires x size a else []
      match overflows x logged with
      | some l => .next (s.trapPath x 20 (BitVec.ofNat 32 l))
      | none => .next (s.issueAtoms x aop n d sc.toNat r.toNat as logged)

/-- AADD (R235). -/
def execAadd (n : Bool) (d ca : Code) (sc r : BitVec 2) (s : State) : Out := s.atomOp (.aadd n d ca sc r) 0 n d ca sc r
/-- AADDF (R235). -/
def execAaddf (n : Bool) (d ca : Code) (sc r : BitVec 2) (s : State) : Out := s.atomOp (.aaddf n d ca sc r) 1 n d ca sc r
/-- AADDB2 (R235). -/
def execAaddb2 (n : Bool) (d ca : Code) (sc r : BitVec 2) (s : State) : Out := s.atomOp (.aaddb2 n d ca sc r) 2 n d ca sc r
/-- AMIN (R235). -/
def execAmin (n : Bool) (d ca : Code) (sc r : BitVec 2) (s : State) : Out := s.atomOp (.amin n d ca sc r) 3 n d ca sc r
/-- AMAX (R235). -/
def execAmax (n : Bool) (d ca : Code) (sc r : BitVec 2) (s : State) : Out := s.atomOp (.amax n d ca sc r) 4 n d ca sc r
/-- AMINN (R235). -/
def execAminn (n : Bool) (d ca : Code) (sc r : BitVec 2) (s : State) : Out := s.atomOp (.aminn n d ca sc r) 5 n d ca sc r
/-- AMAXN (R235). -/
def execAmaxn (n : Bool) (d ca : Code) (sc r : BitVec 2) (s : State) : Out := s.atomOp (.amaxn n d ca sc r) 6 n d ca sc r
/-- AAND (R235). -/
def execAand (n : Bool) (d ca : Code) (sc r : BitVec 2) (s : State) : Out := s.atomOp (.aand n d ca sc r) 7 n d ca sc r
/-- AOR (R235). -/
def execAor (n : Bool) (d ca : Code) (sc r : BitVec 2) (s : State) : Out := s.atomOp (.aor n d ca sc r) 8 n d ca sc r
/-- AXOR (R235). -/
def execAxor (n : Bool) (d ca : Code) (sc r : BitVec 2) (s : State) : Out := s.atomOp (.axor n d ca sc r) 9 n d ca sc r
/-- AXCH (R235). -/
def execAxch (n : Bool) (d ca : Code) (sc r : BitVec 2) (s : State) : Out := s.atomOp (.axch n d ca sc r) 10 n d ca sc r
/-- ACAS (R235). -/
def execAcas (n : Bool) (d ca : Code) (sc r : BitVec 2) (s : State) : Out := s.atomOp (.acas n d ca sc r) 11 n d ca sc r
/-- AADDX (R235). -/
def execAaddx (n : Bool) (d ca : Code) (sc r : BitVec 2) (s : State) : Out := s.atomOp (.aaddx n d ca sc r) 12 n d ca sc r
/-- AXCHX (R235). -/
def execAxchx (n : Bool) (d ca : Code) (sc r : BitVec 2) (s : State) : Out := s.atomOp (.axchx n d ca sc r) 13 n d ca sc r
/-- ACASX (R235). -/
def execAcasx (n : Bool) (d ca : Code) (sc r : BitVec 2) (s : State) : Out := s.atomOp (.acasx n d ca sc r) 14 n d ca sc r

/-- ATOMIC_PERFORM (R236): atomic `k` of the core is performed at its place, or meets a page that makes it
wait (R237, R332). -/
def execAtomicPerform (c k : Nat) (s : State) : Out :=
  let core := s.core c
  match core.atoms[k]? with
  | none => .fault .notEnabled
  | some a =>
    let hold := fun (s : State) => s.setCore c { s.core c with atoms := lset (s.core c).atoms k { a with waits := true } }
    if a.waits || core.releaseOwed a || s.logHeld c a.id a.launch a.ea a.size then .fault .notEnabled
    else match s.atomPlace c a with
      | .unmapped v => .next (hold (s.noteFault a.launch v 0 false))
      | .fails _ => .next (hold (s.noteFault a.launch (vaOf a.ea) 0 true))
      | .window _ => .fault .notEnabled
      | .loc l _ =>
        if s.absent l || core.storeBefore a.id 1 l a.size || s.atomBefore c a.id l a.size || s.loadBefore c a.id l a.size then
          .fault .notEnabled
        else
          let s1 := s.setCore c { core with atoms := ldrop core.atoms k }
          .next ((((s1.applyAtom c a l).atomAcquire c a).wakeJumps c).renew s c)

/-! ## The side log's replay (R233, R333) -/

/-- Two entries hold a common byte. -/
def SideEntry.overlaps (a b : SideEntry) : Bool :=
  let ranges := fun (e : SideEntry) => e.writes.map (fun w => (w.1, w.2.length)) ++ e.atoms.map fun q => (vaOf q.ea, q.size)
  a.part == b.part && (ranges a).any fun (v, n) => (ranges b).any fun (u, m) => decide (v < u + m) && decide (u < v + n)

/-- Where a byte range of an entry stands (R109). -/
def State.entryPlace (s : State) (c : Nat) (e : SideEntry) (k : Kind) (va : Nat) : Xlat := s.translateBy c e.launch e.roots k va

/-- The places of an entry: the address, what its translation answers, how many bytes. -/
def State.entryPlaces (s : State) (c : Nat) (e : SideEntry) : List (Nat × Xlat × Nat) :=
  e.writes.map (fun w => (w.1, s.entryPlace c e .store w.1, w.2.length)) ++
  e.atoms.map fun a => (vaOf a.ea, s.entryPlace c e .atomic (vaOf a.ea), a.size)

/-- The first refused or unmapped access of an entry; none if all its places are open. -/
def State.entryTrouble (s : State) (c : Nat) (e : SideEntry) : Option (Nat × Xlat) :=
  ((s.entryPlaces c e).find? fun p => match p.2.1 with | .ok _ => false | _ => true).map fun p => (p.1, p.2.1)

/-- Earlier accesses of the core to an entry's bytes have still to be performed (R193). -/
def State.entryBehind (s : State) (c : Nat) (e : SideEntry) : Bool :=
  (s.entryPlaces c e).any fun p => match p.2.1 with
    | .ok l => (s.core c).storeBefore e.id 1 l p.2.2 || s.atomBefore c e.id l p.2.2 || s.loadBefore c e.id l p.2.2
    | _ => false

/-- One logged write is performed for every observer. -/
def State.replayWrite (s : State) (c : Nat) (e : SideEntry) (w : Nat × List Byte) : State :=
  match s.entryPlace c e .store w.1 with
  | .ok l =>
    let s1 := (if s.takesWrite e.part l then s.setBytes l w.2 else s).touch l
    let k := s1.core c
    s1.setCore c { k with snap := snapPut k.snap l w.2 }
  | _ => s

/-- One logged atomic is performed. -/
def State.replayAtom (s : State) (c : Nat) (e : SideEntry) (a : AtomRec) : State :=
  match s.entryPlace c e .atomic (vaOf a.ea) with
  | .ok l => (s.applyAtom c a l).atomAcquire c a
  | _ => s

/-- SIDE_LOG_REPLAY (R233): entry `k` replays once its page is mapped and the resolve of that has come (R338), behind the
entries it overlaps; one whose page is found unmapped or refusing waits for the next resolve, which is told once
(R332). -/
def execSideLogReplay (c k : Nat) (s : State) : Out :=
  let core := s.core c
  match core.sideLog[k]? with
  | none => .fault .notEnabled
  | some e =>
    let hold := fun (t : State) => t.setCore c { t.core c with sideLog := lset (t.core c).sideLog k { e with waits := true } }
    if e.waits || (core.sideLog.take k).any (·.overlaps e) || e.atoms.any core.releaseOwed then .fault .notEnabled
    else match s.entryTrouble c e with
      | some (va, .unmapped) => .next (hold (s.noteFault e.launch va 1 false))
      | some (va, _) => .next (hold (s.noteFault e.launch va 1 true))
      | none =>
        if s.entryBehind c e then .fault .notEnabled
        else
          let s1 := s.setCore c { core with sideLog := ldrop core.sideLog k }
          let s2 := e.writes.foldl (fun s w => s.replayWrite c e w) s1
          .next (((e.atoms.foldl (fun s a => s.replayAtom c e a) s2).reread.supplyCore c).wakeJumps c |>.renew s c)

/-! ## Releases complete (R194, R199) -/

/-- A request at a consist manager or at Junction whose release has completed. -/
def State.markReady (s : State) (why : ReleaseFor) : State :=
  match why with
  | .consist q => { s with consistReqs := s.consistReqs.map fun r => if r.id = q then { r with ready := true } else r }
  | .launch q => { s with launchReqs := s.launchReqs.map fun r => if r.id = q then { r with ready := true } else r }
  | _ => s

/-- RELEASE_COMPLETE (R194): release `k` of the core completes once all it covers is performed. -/
def execReleaseComplete (c k : Nat) (s : State) : Out :=
  let core := s.core c
  match core.releases[k]? with
  | none => .fault .notEnabled
  | some r =>
    if !core.releaseMet r.part r.limit r.scope r.why then .fault .notEnabled
    else
      let s1 := s.setCore c { core with releases := ldrop core.releases k }
      match r.why with
      | .phase g => match s1.group c g with
        | none => .next s1
        | some grp => match grp.hold with
          | some (_, .phase _ scope acq) => .next ((if acq then s1.acquireAt c scope else s1).completeHold c g true id)
          | _ => .next s1
      | .bar b => .next (s1.judgeBar b)
      | .barc b => match s1.block b with
        | some blk => .next (s1.judgeBarc blk.cluster)
        | none => .next s1
      | why => .next (s1.markReady why)

/-! ## Prefetch (R239) -/

/-- The local place of a prefetched sector: a global address whose page is local and allows a load. -/
def State.prefetchPlace (s : State) (w : Who) (a : Dword) : Option Loc :=
  match s.access w .load 1 a with
  | .loc l false => if l.place = .local then some { l with off := l.off / 256 * 256 } else none
  | _ => none

/-- The pieces of a range read now that the core may hold beside what it holds already and its own pending stores. -/
def Core.gaps (k : Core) (l : Loc) (bs : List Byte) : List (Loc × List Byte) :=
  let beside := k.snap.foldl (fun m r => snapCut m r.1 r.2.length) [(l, bs)]
  (k.stores.filter fun st => st.level == 0).foldl (fun m st => snapCut m st.loc st.bytes.length) beside

/-- Fill a sector: the LLC's line takes the hint, the L1 the bytes it does not hold yet, read at one instant (R191). -/
def State.prefetch (s : State) (c hint : Nat) (l : Loc) : State :=
  let s1 := s.setHint l.off hint
  let k := s1.core c
  if hint = 3 || isOld k.old l then s1
  else
    s1.setCore c { k with snap := k.snap ++ k.gaps l (s1.bytesAt l 256) }

/-- PF (R239). -/
def State.prefetchOp (s : State) (i : Instr) (e : Bool) (ca : Code) (o : BitVec 8) (hint : Nat) : Out :=
  s.vform i e [.pair ca] fun x =>
    let places := (lanesOf x.real).filterMap fun l => s.prefetchPlace (x.who l) (s.eaM x ca o 256 l)
    .next (places.foldl (fun s l => s.prefetch x.c hint l) (s.finish x x.grp e latchZero))

/-- PF with hint 0 (R239). -/
def execPfNormal (e : Bool) (ca : Code) (o : BitVec 8) (s : State) : Out := s.prefetchOp (.pfNormal e ca o) e ca o 0
/-- PF with hint 1 (R239). -/
def execPfEvictFirst (e : Bool) (ca : Code) (o : BitVec 8) (s : State) : Out := s.prefetchOp (.pfEvictFirst e ca o) e ca o 1
/-- PF with hint 2 (R239). -/
def execPfEvictLast (e : Bool) (ca : Code) (o : BitVec 8) (s : State) : Out := s.prefetchOp (.pfEvictLast e ca o) e ca o 2
/-- PF with hint 3 (R239). -/
def execPfLlcOnly (e : Bool) (ca : Code) (o : BitVec 8) (s : State) : Out := s.prefetchOp (.pfLlcOnly e ca o) e ca o 3

/-! ## Accesses of a peer (R237, R367) -/

/-- An access that peers may make: an atomic is of one of the fifteen kinds, with the source that its kind takes. -/
def peerOk (acc : PeerAccess) : Bool :=
  match acc.atomic with
  | none => true
  | some aop => decide (aop < 15) && acc.data.length == 4 * atomDataRegs aop && acc.pa % (if aop < 12 then 4 else 8) == 0

/-- How many bytes of memory it reaches. -/
def peerSize (acc : PeerAccess) : Nat :=
  match acc.atomic with
  | none => acc.data.length
  | some aop => if aop < 12 then 4 else 8

/-- PEER_ACCESS (R237, R367): accepted only into the ranges of an active partition that admits the sender; a dropped read or
atomic is answered with a refusal. An atomic is performed at the byte's home slice, and its old value goes back; its
events are the sender's to count. -/
def execPeerAccess (acc : PeerAccess) (s : State) : Out :=
  let n := peerSize acc
  let l : Loc := ⟨.local, acc.pa⟩
  let admits := s.partitions.any fun (_, q) => q.active && (q.peers[acc.port]?.getD 0).getLsbD acc.q && q.holds acc.pa n
  let answers := !acc.write || acc.atomic.isSome
  if acc.port < 2 || 8 ≤ acc.port || !peerOk acc then .fault .notEnabled
  else if !s.ready || !admits then .next (if answers then s.drop.answer (.peer acc.port acc.q none) else s.drop)
  else match acc.atomic with
    | some aop =>
      let old := s.bytesAt l n
      let new := (atomNew aop (BitVec.ofNat 64 (leNat old)) (atomOperands aop acc.data)).1
      .next (((s.setBytes l (leBytes new.toNat n)).touch l).answer (.peer acc.port acc.q (some old)))
    | none =>
      if acc.write then .next ((s.setBytes l acc.data).touch l)
      else .next ((s.touch l).answer (.peer acc.port acc.q (some (s.bytesAt l n))))

end Sys2Proof.Machine
end

