-- ==== Sys2Proof/Machine/Stitch.lean ====
section
/-! DEFINITION. Stitched tensors: STAD, SPLICE, PIN, UNPIN (R241 to R244) and what the consist managers do with
them (R216 to R226). -/

namespace Sys2Proof.Machine

/-! ## Handles (R221, R222, R243) -/

/-- The pin a handle grants to a block. -/
def Core.granted (k : Core) (block : Nat) (handle : Word) : Option Pin :=
  if 256 ≤ handle.toNat then none
  else match tget none k.pins handle.toNat with
    | some p => if p.block = block && p.gen != unboundGen then some p else none
    | none => none

/-- The address of a row through a pin (R222): none beyond its rows. Where the program has stored into the header or
the table area, or the generation's entries are not found, an unspecified value or the trap (log entry 10). -/
def State.rowAddress (s : State) (p : Pin) (row draw : Nat) : Option Dword :=
  let c := s.consistNow p.header
  match if c.astray then none else c.piecesOf p.gen with
  | some ps => (pieceAddress (s.header p.header).rowBytes ps row).map fun a => BitVec.ofNat 64 a
  | none => if Config.freeBit draw then none else some (Config.freeDword draw)

/-- The 64 KiB pages that a range meets: where its bytes in each begin, and how many they are. -/
def pageChunks (a bytes : Nat) : List (Nat × Nat) :=
  (List.range ((a + bytes + 65535) / 65536 - a / 65536)).map fun i =>
    let lo := max a ((a / 65536 + i) * 65536)
    (lo, min (a + bytes) ((a / 65536 + i + 1) * 65536) - lo)

/-- What a page does for an access of a unit: one that waits for the mapper counts as unmapped until the resolve (R332;
log entry 65). -/
def State.reachPage (s : State) (w : Who) (k : Kind) (va : Nat) : Xlat :=
  if s.unitWaits w.launch va then .unmapped else s.translate w.core w.launch k va

/-- What the pages of a range do for accesses of kind `k`: the first trouble, and the page that makes it. -/
def State.pagesTrouble (s : State) (w : Who) (k : Kind) (a bytes : Nat) : Option (Nat × Xlat) :=
  ((pageChunks a bytes).map fun (va, _) => (va, s.reachPage w k va)).find? fun t => match t.2 with
    | .ok _ => false
    | _ => true

/-- The bytes of table area in use (R220): 2,048, and 16 for each piece of a live generation and each record pending. -/
def State.areaNeed (s : State) (k : Nat) : Nat :=
  let h := s.header k
  let gens := if h.live = 0 then [] else (s.consist k).gens
  2048 + 16 * (gens.foldl (fun n g => n + g.2.length) h.pending)

/-- The first page of the table area in use that is unmapped to STAD's reading (R244): the spec does not say which entries
stand where, so each page of the part in use counts. DESIGN CHOICE (log entry 17): R241 gives no answer of STAD for a page
that refuses the reading or lies outside the partition; it is then read as any other. -/
def State.areaWaits (s : State) (x : Ctx) (p : Pin) : Option Nat :=
  let h := s.header p.header
  ((pageChunks h.area (min h.areaBytes (s.areaNeed p.header))).map (·.1)).find? fun va =>
    s.reachPage (engineWho x.c x.grp.launch x.grp.block) .load va == .unmapped

/-- STAD (R244): while it waits for a page the focus passes on. -/
def execStad (e n : Bool) (d ca cb : Code) (s : State) : Out :=
  s.vform (.stad e n d ca cb) e [.src ca, .src cb, .dstPair d n] fun x =>
    let pin := fun l => x.core.granted x.grp.block (s.src x l ca)
    let addr := fun l => (pin l).bind fun p => s.rowAddress p (s.src x l cb).toNat (s.freeCtr + l)
    match (lanesOf x.real).find? fun l => (pin l).isNone with
    | some l => .next (s.trapPath x 16 (BitVec.ofNat 32 l))
    | none =>
      match (lanesOf x.run.mask).findSome? fun l => (pin l).bind (s.areaWaits x) with
      | some v => .next (s.noteUnit x.grp.launch v 0).unfocus
      | none => match (lanesOf x.real).find? fun l => (addr l).isNone with
        | some l => .next ({ s with freeCtr := s.freeCtr + 32 }.trapPath x 14 (BitVec.ofNat 32 l))
        | none =>
          let r := lanewise 0 x.run.mask fun l => (addr l).getD 0
          .next { s.finish x (x.grp.writePairs x.run.mask n d r) e (.lanes r) with freeCtr := s.freeCtr + 32 }

/-! ## The instructions at the core (R241 to R243) -/

/-- The checks of a header or descriptor address (R241). -/
def globalTrap (a : Dword) (align : Nat) : Option (Nat × Word) :=
  if pathOf a ≠ 0 ∨ !pathOk a then some (7, 0) else if a.toNat % align ≠ 0 then some (6, 0) else none

/-- The request of an instruction of the running group. -/
def consistReq (x : Ctx) (kind : Nat) (d : Code) (n : Bool) : ConsistReq :=
  { id := 0, kind := kind, core := x.c, slot := x.g, launch := x.grp.launch, block := x.grp.block, grp := x.grp.grp,
    header := 0, desc := 0, pin := 0, gen := 0, ready := false, d := d, n := n }

/-- D waits for the answer (R242). -/
def Ctx.awaits (x : Ctx) (d : Code) (n : Bool) : Group := if n then x.grp else x.grp.pendS [d.toNat - 64]

/-- SPLICE (R241, R242). -/
def execSplice (n : Bool) (d ca cb : Code) (s : State) : Out :=
  s.ucommit (.splice n d ca cb) [.pair ca, .pair cb, .dst d n]
    (fun x => (globalTrap (s.usrc64 x ca) 64).or (globalTrap (s.usrc64 x cb) 32)) fun x =>
    let r := { consistReq x 0 d n with header := (s.usrc64 x ca).toNat, desc := (s.usrc64 x cb).toNat }
    .next ((s.finishCommit x (x.awaits d n)).askManager x.c (s.partOf x.grp.launch) true r)

/-- The core's lowest free pin slot. -/
def Core.freePinSlot (k : Core) : Option Nat := (List.range 256).find? fun i => (tget none k.pins i).isNone

/-- PIN (R221, R241 to R243): it takes its slot at issue. -/
def execPin (n : Bool) (d ca : Code) (s : State) : Out :=
  s.ucommit (.pin n d ca) [.pair ca, .dst d n]
    (fun x => (globalTrap (s.usrc64 x ca) 64).or (if x.core.freePinSlot.isNone then some (15, 0) else none)) fun x =>
    let slot := x.core.freePinSlot.getD 0
    let r := { consistReq x 1 d n with header := (s.usrc64 x ca).toNat, pin := slot }
    let s1 := s.finishCommit x (x.awaits d n)
    let k := s1.core x.c
    let p : Pin := { block := x.grp.block, launch := x.grp.launch, header := 0, gen := unboundGen }
    .next ((s1.setCore x.c { k with pins := tput k.pins slot (some p) }).askManager x.c (s.partOf x.grp.launch) false r)

/-- UNPIN (R223, R242, R243): its slot is free from issue on. -/
def execUnpin (n : Bool) (d ca : Code) (s : State) : Out :=
  s.ucommit (.unpin n d ca) [.src ca, .dst d n]
    (fun x => if (x.core.granted x.grp.block (s.usrc x ca)).isNone then some (16, s.usrc x ca) else none) fun x =>
    let slot := (s.usrc x ca).toNat
    match x.core.granted x.grp.block (s.usrc x ca) with
    | none => .next (s.trapPath x 16 (s.usrc x ca))
    | some p =>
      let r := { consistReq x 2 d n with header := p.header, pin := slot, gen := p.gen }
      let s1 := s.finishCommit x (x.awaits d n)
      let k := s1.core x.c
      .next ((s1.setCore x.c { k with pins := tput k.pins slot none }).askManager x.c (s.partOf x.grp.launch) true r)

/-! ## The managers -/

/-- On whose behalf a manager reads (R204). -/
def ConsistReq.who (r : ConsistReq) : Who :=
  { core := r.core, launch := r.launch, block := r.block, thread := 0, supervisor := true, engine := true }

/-- The answer of a request waits to be written; the group may be gone (R242). -/
def State.answerConsist (s : State) (k : Nat) (r : ConsistReq) (v : Word) : State :=
  let s1 := { s with consistReqs := ldrop s.consistReqs k }
  match s1.group r.core r.slot with
  | none => s1
  | some g =>
    if r.n || g.launch != r.launch || g.block != r.block then s1
    else
      let core := s1.core r.core
      s1.setCore r.core { core with rets := core.rets ++ [{ slot := r.slot, vals := [], svals := [(r.d.toNat - 64, v)] }] }

/-- What a manager meets at a range it reads and writes. -/
def State.managerTrouble (s : State) (w : Who) (a bytes : Nat) : Option (Nat × Xlat) :=
  (s.pagesTrouble w .load a bytes).or (s.pagesTrouble w .store a bytes)

/-- The pages of a range that can be read: their address, where they stand, and the bytes of the range there. -/
def State.placesOf (s : State) (w : Who) (a bytes : Nat) : List (Nat × Loc × Nat) :=
  (pageChunks a bytes).filterMap fun (va, n) => match s.reachPage w .load va with
    | .ok l => some (va, l, n)
    | _ => none

/-- A load of the issuing core would wait at these bytes, for a store of its own or the side log (R204, R231). -/
def State.placesHeld (s : State) (w : Who) (a bytes : Nat) : Bool :=
  let k := s.core w.core
  k.logHolds k.nextId (s.partOf w.launch) a bytes ||
  (s.placesOf w a bytes).any fun (_, l, n) => !(k.ownHeld k.nextId l n).isEmpty

/-- The header's key and where the table area stands, once the manager may read and write both. -/
inductive HeaderGot where
  | key (k : Nat) (area : List (Nat × Loc × Nat))
  | waits (va : Nat)
  | held
  | refused
  deriving DecidableEq, Repr

/-- The bytes of table area that a SPLICE needs (R220): what is in use and what will be, with the new generation counted and
the old one only if it stays live. Where the edit meets no boundary, what is in use. -/
def State.spliceNeed (s : State) (k at_ remove count : Nat) : Nat :=
  let old := if (s.header k).live = 0 then [] else s.entriesNow k
  let new := match splitAtRow old at_, splitAtRow old (at_ + remove) with
    | some (x, _), some (_, y) => x.length + count + y.length
    | _, _ => 0
  let stays := (s.consist k).pins (s.header k).gen != 0
  max (s.areaNeed k) (s.areaNeed k + 16 * new - if stays then 0 else 16 * old.length)

/-- The manager's table area, `need` bytes of which it reads and writes; where the header names none, what it last used. -/
def State.areaGot (s : State) (w : Who) (k need : Nat) : HeaderGot :=
  let h := s.header k
  let n := min h.areaBytes need
  if !h.ok then .key k (s.consist k).ranges
  else match s.managerTrouble w h.area n with
    | none => if s.placesHeld w h.area n then .held else .key k (s.placesOf w h.area h.areaBytes)
    | some (va, .unmapped) => .waits va
    | some _ => .refused

/-- The manager reads a header, as a load of the issuing core (R204, R241; log entry 23). -/
def State.headerGot (s : State) (w : Who) (va : Nat) (need : Nat → Nat) : HeaderGot :=
  match s.managerTrouble w va 64 with
  | some (_, .unmapped) => .waits va
  | some _ => .refused
  | none =>
    if s.placesHeld w va 64 then .held
    else match s.reachPage w .load va with
      | .ok l => s.areaGot w (locKey l) (need (locKey l))
      | _ => .refused

/-- A SPLICE descriptor's words (R216). -/
structure SpliceDesc where
  op : Nat
  row : Nat
  remove : Nat
  count : Nat
  list : Dword
  expect : Nat
  reserved : Nat
  deriving DecidableEq, Repr

def spliceDesc (bs : List Byte) : SpliceDesc :=
  { op := wordIn bs 0, row := wordIn bs 4, remove := wordIn bs 8, count := wordIn bs 12,
    list := BitVec.ofNat 64 (dwordIn bs 16), expect := wordIn bs 24, reserved := wordIn bs 28 }

/-- Check 1 of R219, and the piece list's address (R241). -/
def SpliceDesc.ok (d : SpliceDesc) : Bool :=
  d.reserved == 0 && d.count ≤ 4096 &&
  (match d.op with
    | 0 => d.count != 0 && d.remove == 0
    | 1 => d.count == 0
    | 2 => true
    | _ => false) &&
  (d.count == 0 || (pathOf d.list == 0 && pathOk d.list && d.list.toNat % 16 == 0))

/-- The entries of a piece list: base and rows; and whether each meets R214. -/
def pieceList (bs : List Byte) : Nat → List (Nat × Nat) × Bool
  | 0 => ([], true)
  | n + 1 =>
    let (rest, ok) := pieceList (bs.drop 16) n
    ((dwordIn bs 0, wordIn bs 8) :: rest, pieceOk (dwordIn bs 0) (wordIn bs 8) (wordIn bs 12) && ok)

/-- The SPLICE whose descriptor and list are read, at the header (R217 to R219, R241). -/
def State.spliceAt (s : State) (k : Nat) (r : ConsistReq) (d : SpliceDesc) (list : List Byte) : Out :=
  let (ps, ok) := pieceList list d.count
  match s.headerGot r.who r.header (fun k => s.spliceNeed k d.row d.remove d.count) with
  | .waits v => s.waitPage r.launch v 3
  | .held => .fault .notEnabled
  | .refused => .next (s.answerConsist k r 0x80000002)
  | .key h area =>
    let read := ((s.hasRead r.who (BitVec.ofNat 64 r.desc) 32).hasRead r.who d.list (16 * d.count)).hasRead r.who
      (BitVec.ofNat 64 r.header) 64
    let (s1, v) := read.splice h area d.row d.remove d.expect ps ok (r.launch, r.block, r.grp)
    .next (s1.answerConsist k r v)

/-- SPLICE_PERFORM (R217): request `k` is performed, its release being complete. -/
def execSplicePerform (k : Nat) (s : State) : Out :=
  match s.consistReqs[k]? with
  | none => .fault .notEnabled
  | some r =>
    if r.kind ≠ 0 ∨ !r.ready then .fault .notEnabled
    else match s.readAs r.who (BitVec.ofNat 64 r.desc) 32 with
      | .absent => .fault .notEnabled
      | .unmapped v => s.waitPage r.launch v 3
      | .refused _ => .next (s.answerConsist k r 0x80000001)
      | .ok bs =>
        let d := spliceDesc bs
        if !d.ok then .next (s.answerConsist k r 0x80000001)
        else match s.readAs r.who d.list (16 * d.count) with
          | .absent => .fault .notEnabled
          | .unmapped v => s.waitPage r.launch v 3
          | .refused _ => .next (s.answerConsist k r 0x80000001)
          | .ok list => s.spliceAt k r d list

/-- The pin slot still belongs to the request. -/
def State.pinWaits (s : State) (r : ConsistReq) : Bool :=
  match tget none (s.core r.core).pins r.pin with
  | some p => p.block == r.block && p.gen == unboundGen
  | none => false

/-- Set or free the pin slot of a request. -/
def State.setPin (s : State) (r : ConsistReq) (p : Option Pin) : State :=
  s.setCore r.core { s.core r.core with pins := tput (s.core r.core).pins r.pin p }

/-- PIN_PERFORM (R221): the current generation is bound; the core then acquires at die scope (R208, R242). -/
def execPinPerform (k : Nat) (s : State) : Out :=
  match s.consistReqs[k]? with
  | none => .fault .notEnabled
  | some r =>
    let bad := fun (s : State) => (s.setPin r none).answerConsist k r 0x80000002
    if r.kind ≠ 1 then .fault .notEnabled
    else if !s.pinWaits r then .next { s with consistReqs := ldrop s.consistReqs k }
    else match s.headerGot r.who r.header s.areaNeed with
      | .waits v => s.waitPage r.launch v 3
      | .held => .fault .notEnabled
      | .refused => .next (bad s)
      | .key h area => match s.pinCurrent h area with
        | (s1, none) => .next (bad s1)
        | (s1, some g) =>
          let p : Pin := { block := r.block, launch := r.launch, header := h, gen := g }
          .next (((s1.setPin r (some p)).acquire r.core).answerConsist k r (BitVec.ofNat 32 r.pin))

/-- A pin of the same block's end that is to be released before (R223). -/
def ConsistReq.waitsFor (r q : ConsistReq) : Bool :=
  r.slot == 32 && q.slot == 32 && q.kind == 2 && q.block == r.block && decide (q.id < r.id)

/-- UNPIN_PERFORM (R223, R241): the pin count falls, unless the table area refuses the manager. The pins of a block that
has ended go one behind the other, in ascending slot order. -/
def execUnpinPerform (k : Nat) (s : State) : Out :=
  match s.consistReqs[k]? with
  | none => .fault .notEnabled
  | some r =>
    if r.kind ≠ 2 ∨ !r.ready ∨ s.consistReqs.any r.waitsFor then .fault .notEnabled
    else match s.areaGot r.who r.header (s.areaNeed r.header) with
      | .waits v => s.waitPage r.launch v 3
      | .held => .fault .notEnabled
      | .refused => .next (s.answerConsist k r 0)
      | .key h area =>
        let (s1, died) := s.unpin h r.gen area
        .next (s1.answerConsist k r (if died then 1 else 0))

/-! ## Reclaim records (R225, R226) -/

/-- The sps queue. -/
def spsQueue : Nat := 12

/-- The place of a remover's group, if a record may be delivered to it now. -/
def State.takesRecord (s : State) (r : Reclaim) : Option (Nat × Nat × Group) :=
  match s.findGroup r.launch r.block r.grp with
  | none => none
  | some (c, g) => match s.group c g with
    | none => none
    | some x => if x.room spsQueue && !x.over then some (c, g, x) else none

/-- Two records go to one group. -/
def Reclaim.mate (a b : Reclaim) : Bool := a.launch == b.launch && a.block == b.block && a.grp == b.grp

/-- No record emitted before this one still waits for the same group, at any consist (R226, R248). -/
def State.recordFirst (s : State) (r : Reclaim) : Bool :=
  !(s.consists.any fun (_, c) => c.waiting.any fun q => q.mate r && decide (q.seq < r.seq))

/-- The first undelivered record that may go now: its index, its base, where its group is, the group. -/
def State.nextRecord (s : State) (ws : List Reclaim) : Option (Nat × Nat × Nat × Nat × Group) :=
  ws.zipIdx.findSome? fun (r, j) =>
    if s.recordFirst r then (s.takesRecord r).map fun (c, g, x) => (j, r.base, c, g, x) else none

/-- RECLAIM_RECORD_DELIVERY (R226): the consist that entry `k` of the list names delivers its oldest record that
may go, and counts one fewer in pending. -/
def execReclaimRecordDelivery (k : Nat) (s : State) : Out :=
  match s.consists[k]? with
  | none => .fault .notEnabled
  | some (key, con) =>
    match s.nextRecord con.waiting with
    | none => .fault .notEnabled
    | some (j, base, c, g, x) =>
      let s1 := s.setConsist key { con with waiting := ldrop con.waiting j }
      let s2 := s1.setGroup c g (x.setQueue spsQueue (x.queue spsQueue ++ [BitVec.ofNat 64 base]))
      .next (s2.layWord ((keyLoc key).add 32) (s2.pendingAt key - 1))

end Sys2Proof.Machine
end

