-- ==== Sys2Proof/Machine/Engine.lean ====
section
/-! DEFINITION. What the engines share: reading operands as loads made at acceptance (R204), judging extents
(R390), writing results (R205), and the order of commands on accumulator tiles (R205, R259). -/

namespace Sys2Proof.Machine

/-! ## Reading and writing by pieces -/

/-- What awaited bytes meet, if they still cannot be read. -/
def State.awaitTrouble (s : State) (w : Who) (qs : List Awaited) : Got :=
  match qs with
  | [] => .ok []
  | q :: _ =>
    if q.loc.isSome then .absent
    else match s.resolve w .load q.addr with
      | (.fails k, _) => .refused k
      | (.window _, _) => .refused 3
      | (_, .bad k) => .refused k
      | (.va v _, .unmapped) => .unmapped v
      | (_, .unmapped) => .refused 1
      | (_, .ok _) => .absent

/-- The first trouble of a range for accesses of kind `k`. -/
def State.rangeTrouble (s : State) (w : Who) (k : Kind) : Nat → Dword → Nat → Option Got
  | 0, _, _ => none
  | fuel + 1, a, n =>
    if n = 0 then none
    else match s.resolve w k a with
      | (.fails j, _) => some (.refused j)
      | (.window _, _) => some (.refused 3)
      | (_, .bad j) => some (.refused j)
      | (.va v _, .unmapped) => some (.unmapped v)
      | (_, .unmapped) => some (.refused 1)
      | (_, .ok _) => s.rangeTrouble w k fuel (a + BitVec.ofNat 64 (pieceLen a n)) (n - pieceLen a n)

/-- The address of the first unmapped page of a range that an engine would write. -/
def State.firstUnmapped (s : State) (w : Who) (k : Kind) : Nat → Dword → Nat → Option Nat
  | 0, _, _ => none
  | fuel + 1, a, n =>
    if n = 0 then none
    else match s.resolve w k a with
      | (.va v _, .unmapped) => some v
      | _ => s.firstUnmapped w k fuel (a + BitVec.ofNat 64 (pieceLen a n)) (n - pieceLen a n)

/-- Atomics of the core, or entries of its side log, on bytes that an engine would write: the write stands behind them, as
a store would (R193, R233). An atomic that waits for the sector is not before it (R177). -/
def State.writeBehind (s : State) (w : Who) : Nat → Dword → Nat → Bool
  | 0, _, _ => false
  | fuel + 1, a, n =>
    if n = 0 then false
    else
      let m := pieceLen a n
      let here := match s.resolve w .store a with
        | (_, .ok l) => s.logged w a m || (!s.absent l && s.atomBefore w.core (s.core w.core).nextId l m)
        | _ => false
      here || s.writeBehind w fuel (a + BitVec.ofNat 64 m) (n - m)

/-- An engine writes a range, performed at once and behind the core's earlier stores there (R191, R205); pieces
whose page refuses are left, and the answer says whether one did. What a peer drops is not answered (R367). -/
def State.engineWrite (s : State) (w : Who) : Nat → Dword → List Byte → State × Bool
  | 0, _, _ => (s, false)
  | fuel + 1, a, bs =>
    if bs.isEmpty then (s, false)
    else
      let m := pieceLen a bs.length
      let (s1, bad) := match s.resolve w .store a with
        | (_, .ok l) =>
          let t := s.settleStores w.core l m
          ((if s.takesWrite (s.partOf w.launch) l then t.setBytes l (bs.take m) else t).touch l, false)
        | _ => (s, true)
      let (s2, worse) := s1.engineWrite w fuel (a + BitVec.ofNat 64 m) (bs.drop m)
      (s2, bad || worse)

/-- Rows of a range: their addresses. -/
def rowAddrs (base : Dword) (rows stride : Nat) : List Dword :=
  (List.range rows).map fun r => base + BitVec.ofNat 64 (r * stride)

/-- Rows of a range as ranges of `n` bytes each. -/
def rowRanges (base : Dword) (rows stride n : Nat) : List (Dword × Nat) := (rowAddrs base rows stride).map fun a => (a, n)

/-- An engine has read ranges as loads of the issuing core (R191, R204). -/
def State.hasReadAll (s : State) (w : Who) (rs : List (Dword × Nat)) : State := rs.foldl (fun s r => s.hasRead w r.1 r.2) s

/-! ## Judging a block's address fields (R390) -/

/-- Pass 1 of an address field: path, alignment and place of the first byte it names; the limit of a window is not
among them. -/
def State.fieldOk (s : State) (w : Who) (paths : List Nat) (align : Nat) (a : Dword) : Bool :=
  match s.judgeBlock w paths align 1 a with
  | some check => check == 6
  | none => true

/-- Pass 2 of an address field: every byte of `n` from `a`. -/
def State.extentOk (s : State) (w : Who) (a : Dword) (n : Nat) : Bool :=
  n == 0 || ((s.judgeBlock w blockPaths 1 n a).isNone && pathOk (a + BitVec.ofNat 64 (n - 1)))

/-- Pass 2 of rows. -/
def State.rowsOk (s : State) (w : Who) (base : Dword) (rows stride n : Nat) : Bool :=
  (rowAddrs base rows stride).all fun a => s.extentOk w a n

/-- The offset of the first check that fails. -/
def firstFault (checks : List (Nat × Bool)) : Option Nat := (checks.find? fun c => !c.2).map (·.1)

/-- A half of a parameter block. -/
def halfIn (bs : List Byte) (off : Nat) : Nat := leNat ((bs.drop off).take 2)

/-- An address in a parameter block. -/
def addrIn (bs : List Byte) (off : Nat) : Dword := BitVec.ofNat 64 (dwordIn bs off)

/-- The words of a block. -/
def blockWords (bs : List Byte) (n : Nat) : List Word := (wordsIn bs n).map (BitVec.ofNat 32)

/-- The bytes of a block's words. -/
def wordBytes (ws : List Word) : List Byte := ws.flatMap fun w => leBytes w.toNat 4

/-! ## Order on accumulator tiles (R205, R259) -/

/-- First tile and number of tiles of an accepted array command (R264). -/
def AeCmd.tiles (a : AeCmd) : Nat × Nat :=
  let bs := wordBytes a.words
  (halfIn bs 0x1E, (if (wordIn bs 4) % 2 = 1 then a.layer.nIn else a.layer.nOut) / 64)

/-- Two runs of tiles meet. -/
def tilesMeet (a b : Nat × Nat) : Bool := decide (a.1 < b.1 + b.2) && decide (b.1 < a.1 + a.2)

/-- A command accepted earlier than `order` on core `c` still has one of the block's tiles to finish. -/
def State.tileBusy (s : State) (c order block : Nat) (t : Nat × Nat) : Bool :=
  let k := s.core c
  (k.mx.any fun m => decide (m.order < order) && m.block == block && tilesMeet t (halfIn (wordBytes m.words) 0x2A, 1)) ||
  (k.ae.any fun a => a.phase != .done && decide (a.order < order) && a.block == block && tilesMeet t a.tiles) ||
  (s.drains.any fun d => d.core == c && decide (d.order < order) && d.block == block &&
    d.tilesLeft.any fun u => tilesMeet t (u, 1))

/-- Count the same event `n` times. -/
def State.countMany (s : State) (launch fmt ev : Nat) : Nat → State
  | 0 => s
  | n + 1 => (s.countEvents launch fmt [ev]).countMany launch fmt ev n

end Sys2Proof.Machine
end

