-- ==== Sys2Proof/Machine/Matrix.lean ====
section
/-! DEFINITION. The matrix engine of a core (R252 to R260): acceptance, the rotation, the tile product and its
epilogue. -/

namespace Sys2Proof.Machine

/-! ## Formats and geometry (R252, R253) -/

/-- Bits of an element. -/
def elemBits (f : Nat) : Nat := match f with | 0 => 16 | 1 => 8 | 2 => 6 | 3 => 4 | _ => 8
/-- The value of an element's code (R47, R49). -/
def elemValue (f c : Nat) : Num := match f with | 0 => bf16.value c | k => narrowValue k c
def fmtA (f : Word) : Nat := f.toNat % 16
def fmtB (f : Word) : Nat := f.toNat / 16 % 16
def scaledA (f : Word) : Bool := f.getLsbD 8
def scaledB (f : Word) : Bool := f.getLsbD 9

/-- The format word is valid (R252). -/
def mxFmtOk (f : Word) : Bool :=
  f.toNat / 2 ^ 24 == 0xA5 && f.toNat / 2 ^ 10 % 2 ^ 14 == 0 && fmtA f ≤ 4 && fmtB f ≤ 4 &&
  (fmtA f == 4) == (fmtB f == 4) && !(scaledA f && fmtA f == 0) && !(scaledB f && fmtB f == 0)

/-- An MXGO block's fields (R254). -/
structure MxBlock where
  a : Dword
  b : Dword
  as_ : Dword
  bs_ : Dword
  aStride : Nat
  bStride : Nat
  k : Nat
  tile : Nat
  flags : Word
  out : Dword
  outStride : Nat
  outFmt : Nat
  deriving DecidableEq, Repr

def mxBlock (bs : List Byte) : MxBlock :=
  { a := addrIn bs 0, b := addrIn bs 8, as_ := addrIn bs 0x10, bs_ := addrIn bs 0x18, aStride := wordIn bs 0x20,
    bStride := wordIn bs 0x24, k := halfIn bs 0x28, tile := halfIn bs 0x2A, flags := BitVec.ofNat 32 (wordIn bs 0x2C),
    out := addrIn bs 0x30, outStride := wordIn bs 0x38, outFmt := wordIn bs 0x3C }

def MxBlock.transA (m : MxBlock) : Bool := m.flags.getLsbD 0
def MxBlock.transB (m : MxBlock) : Bool := m.flags.getLsbD 1
def MxBlock.accumulate (m : MxBlock) : Bool := m.flags.getLsbD 2
def MxBlock.epilogue (m : MxBlock) : Bool := m.flags.getLsbD 3
def MxBlock.slot (m : MxBlock) : Nat := m.flags.toNat / 16 % 16

/-- Rows of A and elements in each. -/
def MxBlock.geomA (m : MxBlock) : Nat × Nat := if m.transA then (32 * m.k, 64) else (64, 32 * m.k)
/-- Rows of B and elements in each. -/
def MxBlock.geomB (m : MxBlock) : Nat × Nat := if m.transB then (64, 32 * m.k) else (32 * m.k, 64)
def MxBlock.rowA (m : MxBlock) (f : Word) : Nat := m.geomA.2 * elemBits (fmtA f) / 8
def MxBlock.rowB (m : MxBlock) (f : Word) : Nat := m.geomB.2 * elemBits (fmtB f) / 8
/-- Bytes of a scale array. -/
def MxBlock.scaleBytes (m : MxBlock) (has : Bool) : Nat := if has then 128 * m.k else 0
/-- Bytes of an output element. -/
def MxBlock.outSize (m : MxBlock) : Nat := match m.outFmt with | 0 => 4 | 1 => 2 | _ => 1

/-- What the command reads: the rows of A and of B, and the scales of each. -/
def MxBlock.ranges (m : MxBlock) (f : Word) : List (Dword × Nat) :=
  rowRanges m.a m.geomA.1 m.aStride (m.rowA f) ++ rowRanges m.b m.geomB.1 m.bStride (m.rowB f) ++
  [(m.as_, m.scaleBytes (scaledA f)), (m.bs_, m.scaleBytes (scaledB f))]

/-- The first faulty field (R254, R390); a relation is reported at the later of its fields. -/
def State.mxFault (s : State) (w : Who) (tiles : Nat) (f : Word) (m : MxBlock) : Option Nat :=
  if !mxFmtOk f then some 0xFFFE
  else
    let scale := fun (has : Bool) (a : Dword) => if has then s.fieldOk w [9, 10, 11] 2 a else a == 0
    let pass1 := firstFault [
      (0x00, s.fieldOk w [9, 10, 11] 16 m.a), (0x08, s.fieldOk w [9, 10, 11] 16 m.b),
      (0x10, scale (scaledA f) m.as_), (0x18, scale (scaledB f) m.bs_),
      (0x20, m.aStride % 16 == 0), (0x24, m.bStride % 16 == 0),
      (0x28, 1 ≤ m.k && m.k ≤ 512), (0x2A, decide (m.tile < tiles)),
      (0x2C, m.flags.toNat / 256 == 0 && m.rowA f ≤ m.aStride && m.rowB f ≤ m.bStride),
      (0x30, if m.epilogue then s.fieldOk w blockPaths 16 m.out else m.out == 0),
      (0x38, if m.epilogue then m.outStride % 16 == 0 else m.outStride == 0),
      (0x3C, if m.epilogue then m.outFmt ≤ 2 && 64 * m.outSize ≤ m.outStride else m.outFmt == 0)]
    pass1.or (firstFault [
      (0x00, s.rowsOk w m.a m.geomA.1 m.aStride (m.rowA f)), (0x08, s.rowsOk w m.b m.geomB.1 m.bStride (m.rowB f)),
      (0x10, s.extentOk w m.as_ (m.scaleBytes (scaledA f))), (0x18, s.extentOk w m.bs_ (m.scaleBytes (scaledB f))),
      (0x30, !m.epilogue || s.rowsOk w m.out 64 m.outStride (64 * m.outSize))])

/-! ## The rotation (R255, R259, R260) -/

def MxCmd.block_ (m : MxCmd) : MxBlock := mxBlock (wordBytes m.words)
def MxCmd.who (c : Nat) (m : MxCmd) : Who := engineWho c m.launch m.block

/-- The command may start. -/
def State.mxStartable (s : State) (c : Nat) (m : MxCmd) : Bool :=
  !m.started && !s.tileBusy c m.order m.block (m.block_.tile, 1)
/-- The digital part of an array command may start (R259, R272). -/
def State.aeStartable (s : State) (c : Nat) (a : AeCmd) : Bool :=
  a.phase == .arrived && !s.tileBusy c a.order a.block a.tiles
/-- The engine runs a command. -/
def Core.engineBusy (k : Core) : Bool := k.mx.any (·.started) || k.ae.any (·.phase == .started)

/-- What reading the block of the group's head entry meets, if that entry may be accepted. -/
def State.headBlock (s : State) (c g : Nat) (q n : Nat) : Option Got :=
  match s.group c g with
  | none => none
  | some x => if x.acceptable q then some (s.readAs (engineWho c x.launch x.block) ((x.queue q).headD 0) n) else none

/-- The block can be judged now. -/
def Got.settled : Got → Bool
  | .ok _ => true
  | .refused _ => true
  | _ => false

/-- The slot has a command ready to start or to accept. -/
def State.slotReady (s : State) (c g : Nat) : Bool :=
  let k := s.core c
  (k.mx.any fun m => m.slot == g && s.mxStartable c m) || (k.ae.any fun a => a.slot == g && s.aeStartable c a) ||
  (match s.headBlock c g 0 64 with | some x => x.settled | none => false)

/-- The slot whose turn it is. -/
def State.engineTurn (s : State) (c : Nat) : Option Nat :=
  if (s.core c).engineBusy then none else (rotation (s.core c).mxLast).find? (s.slotReady c)

/-- A page that some head entry's block waits for. -/
def State.blockWait (s : State) (c q n : Nat) : Option (Nat × Nat) :=
  (List.range 32).findSome? fun g => match s.headBlock c g q n, s.group c g with
    | some (.unmapped v), some x =>
      if s.unitWaits x.launch v then none else some (x.launch, v)
    | _, _ => none

/-- The event of a wait, if there is a fresh one. -/
def State.noteBlockWait (s : State) (c q n : Nat) : Out :=
  match s.blockWait c q n with
  | some (launch, v) => s.waitPage launch v 3
  | none => .fault .notEnabled

/-- An mxs entry (R256). -/
def mxsEntry (field result : Nat) (seq : Word) : Dword :=
  BitVec.ofNat 64 (field * 2 ^ 48 + result * 2 ^ 32 + seq.toNat)

/-- The group's head entry is accepted (R255): judged, and answered or held as an accepted command. -/
def State.mxTake (s : State) (c g : Nat) (x : Group) (got : Got) : State :=
  let (h0, _, f) := x.takeHead 0
  let seq := h0.seqs.mx + 1
  let h : Group := { h0 with seqs := { h0.seqs with mx := seq } }
  let w := engineWho c x.launch x.block
  let s1 := (s.hasRead w ((x.queue 0).headD 0) 64).setGroup c g h
  let tiles := ((s.launch x.launch).getD Launch.reset).accTiles
  let fail := fun (field : Nat) =>
    let s2 := s1.post c g x.launch x.block 1 (mxsEntry field 1 seq)
    (s2.setCore c { s2.core c with mxLast := g }).endBlock x.block
  match got with
  | .ok bs =>
    let m := mxBlock bs
    match s.mxFault w tiles f m with
    | some field => fail field
    | none =>
      let s2 := s1.hasReadAll w (m.ranges f)
      let k := s2.core c
      let cmd : MxCmd := { order := s.order, slot := g, launch := x.launch, block := x.block, seq := seq, fmt := f,
                           words := blockWords bs 16, src := s.captureAll w (m.ranges f),
                           wanted := s.opensAll w 0 (m.ranges f), upTo := k.nextId, bank := (k.table m.slot).active, started := false }
      (({ s2 with order := s.order + 1 } : State).setCore c { k with mx := k.mx ++ [cmd] }).endBlock x.block
  | _ => fail 0xFFFD

/-- MX_ACCEPT (R255): the engine accepts the head entry of the slot whose turn it is, or a block it would read
meets an unmapped page. -/
def execMxAccept (c : Nat) (s : State) : Out :=
  match s.engineTurn c with
  | none => if (s.core c).engineBusy then .fault .notEnabled else s.noteBlockWait c 0 64
  | some g => match s.headBlock c g 0 64, s.group c g with
    | some got, some x => if got.settled then .next (s.mxTake c g x got) else s.noteBlockWait c 0 64
    | _, _ => s.noteBlockWait c 0 64

/-- MX_START (R259, R260): command `k` begins when its slot's turn has come. -/
def execMxStart (c k : Nat) (s : State) : Out :=
  match (s.core c).mx[k]? with
  | none => .fault .notEnabled
  | some m =>
    if s.engineTurn c ≠ some m.slot ∨ !s.mxStartable c m then .fault .notEnabled
    else .next (s.setCore c { s.core c with mx := lset (s.core c).mx k { m with started := true }, mxLast := m.slot })

/-! ## The product (R257, R53) -/

/-- The codes of a row, element 0 lowest (R253). -/
def rowCodes (bits n : Nat) (bs : List Byte) : List Nat :=
  let v := leNat bs
  (List.range n).map fun e => v / 2 ^ (bits * e) % 2 ^ bits

/-- The codes of rows that stand one behind the other. -/
def allCodes (bits n rowBytes : Nat) : Nat → List Byte → List (List Nat)
  | 0, _ => []
  | r + 1, bs => rowCodes bits n (bs.take rowBytes) :: allCodes bits n rowBytes r (bs.drop rowBytes)

/-- A matrix of values, row by row. -/
abbrev Grid := Array (Array Num)
def Grid.at (g : Grid) (r c : Nat) : Num := (g.getD r #[]).getD c Num.zero
def gridOf (f : Nat) (rows : List (List Nat)) : Grid := (rows.map fun r => (r.map (elemValue f)).toArray).toArray

/-- Reserved ZI8 codes in an operand (R49). -/
def reservedCodes (f : Nat) (rows : List (List Nat)) : Nat :=
  if f = 4 then (rows.map fun r => (r.filter (· == 128)).length).sum else 0

/-- Step 1 of R53: the exact sum of products; a zero sum is +0. -/
def dotExact (xs : List (Num × Num)) : Num :=
  match xs.foldl (fun d p => d.add (p.1.mul p.2)) Num.zero with
  | .fin s n d => if n = 0 then Num.zero else .fin s n d
  | x => x

/-- The update of one pair of blocks (R53). -/
def blockUpdate (acc : Word) (xs : List (Num × Num)) (sa sb : Num) : Word × Events :=
  let nan := xs.any (fun p => p.1.isNan || p.2.isNan) || sa.isNan || sb.isNan
  let inf := xs.any fun p => p.1.isInf || p.2.isInf
  let (p, e1) := rne32 nan inf ((dotExact xs).mul (rne9 (sa.mul sb)))
  let (r, e2) := fadd acc p
  (r, e1 ++ e2)

/-- The operands of a command, decoded. -/
structure MxData where
  a : Grid
  b : Grid
  sa : Array Nat
  sb : Array Nat
  reserved : Nat

/-- Decode an operand's bytes. -/
def MxBlock.decode (m : MxBlock) (f : Word) (bs : List Byte) : MxData :=
  let na := m.geomA.1 * m.rowA f
  let nb := m.geomB.1 * m.rowB f
  let ra := allCodes (elemBits (fmtA f)) m.geomA.2 (m.rowA f) m.geomA.1 bs
  let rb := allCodes (elemBits (fmtB f)) m.geomB.2 (m.rowB f) m.geomB.1 (bs.drop na)
  let rest := bs.drop (na + nb)
  let ca := rowCodes 16 (if scaledA f then 64 * m.k else 0) (rest.take (m.scaleBytes (scaledA f)))
  let cb := rowCodes 16 (if scaledB f then 64 * m.k else 0) (rest.drop (m.scaleBytes (scaledA f)))
  { a := gridOf (fmtA f) ra, b := gridOf (fmtB f) rb, sa := ca.toArray, sb := cb.toArray,
    reserved := reservedCodes (fmtA f) ra + reservedCodes (fmtB f) rb }

/-- Element (i, k) of A and (k, j) of B. -/
def MxBlock.elemA (m : MxBlock) (d : MxData) (i k : Nat) : Num := if m.transA then d.a.at k i else d.a.at i k
def MxBlock.elemB (m : MxBlock) (d : MxData) (k j : Nat) : Num := if m.transB then d.b.at j k else d.b.at k j

/-- A zero scale: every element of the block reads as +0 (R51). -/
def Num.underScale (v scale : Num) : Num := if scale.isZero then Num.zero else v

/-- One element of the product (R257). -/
def MxBlock.element (m : MxBlock) (f : Word) (d : MxData) (start : Word) (i j : Nat) : Word × Events :=
  (List.range m.k).foldl (fun (acc, ev) kb =>
    let sa := if scaledA f then zs16 (d.sa.getD (i * m.k + kb) 0) else .fin false 1 1
    let sb := if scaledB f then zs16 (d.sb.getD (j * m.k + kb) 0) else .fin false 1 1
    let xs := (List.range 32).map fun t =>
      ((m.elemA d i (32 * kb + t)).underScale sa, (m.elemB d (32 * kb + t) j).underScale sb)
    let (r, e) := blockUpdate acc xs sa sb
    (r, ev ++ e)) (start, [])

/-! ## The epilogue (R258) -/

/-- The entry of a table image: slope and intercept. -/
def tableEntry (img : Mem) (e : Nat) : Word × Word :=
  (BitVec.ofNat 32 (leNat (mgets img (8 * e) 4)), BitVec.ofNat 32 (leNat (mgets img (8 * e + 4) 4)))

/-- The entry's index for an accumulator that is not NaN. -/
def tableIndex (acc : Num) : Nat :=
  match acc with
  | .fin s n d => (clamp 0 511 (toInteger .floor s (16 * n) d + 256)).toNat
  | .inf s => if s then 0 else 511
  | .nan => 0

/-- A product in which 0 × ∞ is taken as 0. -/
def mulZero (a b : Num) : Num := if (a.isZero && b.isInf) || (a.isInf && b.isZero) then Num.zero else a.mul b

/-- y of one element, in FP32; `none` is slot 0. -/
def epilogueValue (img : Option Mem) (acc : Word) : Word × Events :=
  match img with
  | none => (acc, [])
  | some m =>
    let x := f32 acc
    if x.isNan then (nan32, [])
    else
      let (sl, ic) := tableEntry m (tableIndex x)
      let a := f32 sl; let b := f32 ic
      rne32 (a.isNan || b.isNan) (a.isInf || b.isInf || x.isInf) ((mulZero a x).add b)

/-- The output bytes of y, and the narrowing's events (R48, R50). -/
def outBytes (fmt : Nat) (y : Word) : List Byte × Events :=
  match fmt with
  | 0 => (leBytes y.toNat 4, [])
  | 1 => let (c, ev) := bf16.encode .rne (f32 y).isNan (f32 y).isInf (f32 y); (leBytes c 2, ev)
  | _ => let (c, ev) := narrowEncode 1 (f32 y); (leBytes c 1, ev)

/-- The counters of an output format (R58). -/
def outIndex (fmt : Nat) : Nat := match fmt with | 1 => 1 | 2 => 3 | _ => 0

/-- Bytes of a run of output elements, and their events. -/
def outRow (fmt : Nat) (img : Option Mem) : List Word → List Byte × Events × Events
  | [] => ([], [], [])
  | acc :: rest =>
    let (y, e1) := epilogueValue img acc
    let (bs, e2) := outBytes fmt y
    let (more, f1, f2) := outRow fmt img rest
    (bs ++ more, e1 ++ f1, e2 ++ f2)

/-! ## The end of a command -/

/-- All 4,096 elements of the tile, row by row, and their events. -/
def MxBlock.product (m : MxBlock) (f : Word) (d : MxData) (start : Nat → Word) : List Word × Events :=
  let all := (List.range 4096).map fun n => m.element f d (start n) (n / 64) (n % 64)
  (all.map (·.1), all.flatMap (·.2))

/-- The table image a command bound (R115); slot 0 has none. -/
def Core.boundTable (k : Core) (m : MxCmd) : Option Mem :=
  if m.block_.slot = 0 then none
  else
    let t := k.table m.block_.slot
    some (if m.bank then t.bank1 else t.bank0)

/-- Write the epilogue's rows; the answer says whether a page refused (R258). -/
def State.writeRows (s : State) (w : Who) (launch fmt : Nat) (img : Option Mem) : List Dword → List Word → State × Bool
  | [], _ => (s, false)
  | a :: as, xs =>
    let (bs, e1, e2) := outRow fmt img (xs.take 64)
    let (s1, bad) := ((s.countEvents launch 0 e1).countEvents launch (outIndex fmt) e2).engineWrite w bs.length a bs
    let (s2, worse) := s1.writeRows w launch fmt img as (xs.drop 64)
    (s2, bad || worse)

/-- The first unmapped page of the output. -/
def MxBlock.outWait (m : MxBlock) (s : State) (w : Who) : Option Nat :=
  if !m.epilogue then none
  else (rowAddrs m.out 64 m.outStride).findSome? fun a => s.firstUnmapped w .store (64 * m.outSize) a (64 * m.outSize)

/-- A row of the output stands behind earlier atomics or logged writes of the core. -/
def MxBlock.outBehind (m : MxBlock) (s : State) (w : Who) : Bool :=
  m.epilogue && (rowAddrs m.out 64 m.outStride).any fun a => s.writeBehind w (64 * m.outSize) a (64 * m.outSize)

/-- The tile and the output of a command whose operands are read. -/
def State.mxFinish (s : State) (c k : Nat) (cmd : MxCmd) (bs : List Byte) : State :=
  let m := cmd.block_
  let d := m.decode cmd.fmt bs
  let tile : Loc := ⟨.tiles cmd.block, 16384 * m.tile⟩
  let (xs, ev) := m.product cmd.fmt d fun n => if m.accumulate then s.wordAt (tile.add (4 * n)) else 0
  let s1 := s.setBytes tile (xs.flatMap fun x => leBytes x.toNat 4)
  let s2 := (s1.countEvents cmd.launch 0 ev).countMany cmd.launch 3 0 d.reserved
  let (s3, bad) := if m.epilogue then
      s2.writeRows (cmd.who c) cmd.launch m.outFmt (s.core c |>.boundTable cmd) (rowAddrs m.out 64 m.outStride) xs
    else (s2, false)
  let s4 := s3.setCore c { s3.core c with mx := ldrop (s3.core c).mx k }
  (s4.post c cmd.slot cmd.launch cmd.block 1 (if bad then mxsEntry 0x30 2 cmd.seq else mxsEntry 0xFFFF 0 cmd.seq)).reread

/-- MX_COMMAND_COMPLETE (R257, R258): the started command `k` has its operands, its tile and its output, and
answers; an unmapped output page delays it, and so does a sector of an operand until it is present. -/
def execMxCommandComplete (c k : Nat) (s : State) : Out :=
  match (s.core c).mx[k]? with
  | none => .fault .notEnabled
  | some cmd =>
    if !cmd.started || !cmd.wanted.isEmpty then .fault .notEnabled
    else match cmd.block_.outWait s (cmd.who c) with
      | some v => s.waitPage cmd.launch v 3
      | none =>
        if cmd.block_.outBehind s (cmd.who c) then .fault .notEnabled
        else .next (s.mxFinish c k cmd (cmd.src.filterMap id))

end Sys2Proof.Machine
end

