-- ==== Sys2Proof/Machine/Analogue.lean ====
section
/-! DEFINITION. The array engine (R261 to R273, R55): acceptance, the hub's array slots, what the arrays return,
the digital part; and Oboe (R274 to R281). -/

namespace Sys2Proof.Machine

/-! ## The parameter block (R264) -/

structure AeBlock where
  handle : Nat
  flags : Word
  x : Dword
  xs : Dword
  xStride : Nat
  tokens : Nat
  tile : Nat
  bias : Dword
  p : Dword
  q : Dword
  a : Dword
  b : Dword
  r : Nat
  rc : Nat
  alpha : Word
  xb : Dword
  reserved : Nat
  deriving DecidableEq, Repr

def aeBlock (bs : List Byte) : AeBlock :=
  { handle := wordIn bs 0, flags := BitVec.ofNat 32 (wordIn bs 4), x := addrIn bs 8, xs := addrIn bs 0x10,
    xStride := wordIn bs 0x18, tokens := halfIn bs 0x1C, tile := halfIn bs 0x1E, bias := addrIn bs 0x20,
    p := addrIn bs 0x28, q := addrIn bs 0x30, a := addrIn bs 0x38, b := addrIn bs 0x40, r := halfIn bs 0x48,
    rc := halfIn bs 0x4A, alpha := BitVec.ofNat 32 (wordIn bs 0x4C), xb := addrIn bs 0x50, reserved := dwordIn bs 0x58 }

def AeBlock.transpose (m : AeBlock) : Bool := m.flags.getLsbD 0
def AeBlock.accumulate (m : AeBlock) : Bool := m.flags.getLsbD 1
def AeBlock.hasBias (m : AeBlock) : Bool := m.flags.getLsbD 2
def AeBlock.residual (m : AeBlock) : Bool := m.flags.getLsbD 3
def AeBlock.adapter (m : AeBlock) : Bool := m.flags.getLsbD 4
def AeBlock.shift (m : AeBlock) : Nat := m.flags.toNat / 256 % 16
/-- Input and output widths (R262). -/
def AeBlock.nI (m : AeBlock) (l : Layer) : Nat := if m.transpose then l.nOut else l.nIn
def AeBlock.nO (m : AeBlock) (l : Layer) : Nat := if m.transpose then l.nIn else l.nOut
/-- Input stripes. -/
def AeBlock.stripes (m : AeBlock) (l : Layer) : Nat := m.nI l / 1024
/-- Arrays of one stripe. -/
def AeBlock.parts (m : AeBlock) (l : Layer) : Nat := if m.transpose then 2 * (m.nO l / 1024) else m.nO l / 512
/-- Bytes of a row of B. -/
def AeBlock.bRow (m : AeBlock) : Nat := 64 * ((m.r + 31) / 32)

/-- An operand of a command: where its rows start, how many, their stride and bytes. -/
structure Operand where
  base : Dword
  rows : Nat
  stride : Nat
  bytes : Nat
  deriving DecidableEq, Repr

/-- The operands, in the order of the block's fields: x, scales, bias, P, Q, A, B, x_b. -/
def AeBlock.operands (m : AeBlock) (l : Layer) : List Operand :=
  let nI := m.nI l; let nO := m.nO l
  let ifs := fun (c : Bool) (n : Nat) => if c then n else 0
  [ ⟨m.x, m.tokens, m.xStride, nI⟩, ⟨m.xs, 1, 0, 2 * m.tokens * m.stripes l⟩, ⟨m.bias, ifs m.hasBias 1, 0, 4 * nO⟩,
    ⟨m.p, ifs m.residual 1, 0, 64 * nO⟩, ⟨m.q, ifs m.residual 1, 0, 2 * nI * m.rc⟩, ⟨m.a, ifs m.adapter 1, 0, 2 * nI * m.r⟩,
    ⟨m.b, ifs m.adapter 1, 0, nO * m.bRow⟩, ⟨m.xb, ifs (m.residual || m.adapter) m.tokens, 2 * m.xStride, 2 * nI⟩ ]

/-- The first faulty field after the handle (R264, R390). -/
def State.aeFault (s : State) (w : Who) (tiles : Nat) (l : Layer) (m : AeBlock) : Option Nat :=
  let operand := fun (used : Bool) (a : Dword) => if used then a != 0 && s.fieldOk w blockPaths 16 a else a == 0
  let pass1 := firstFault [
    (0x04, m.flags.toNat / 2 ^ 12 == 0 && m.flags.toNat / 32 % 8 == 0 && m.shift ≤ 11),
    (0x08, s.fieldOk w blockPaths 16 m.x), (0x10, s.fieldOk w blockPaths 2 m.xs),
    (0x18, m.xStride % 16 == 0 && m.nI l ≤ m.xStride), (0x1C, 1 ≤ m.tokens && m.tokens ≤ 64),
    (0x1E, m.tile + m.nO l / 64 ≤ tiles), (0x20, operand m.hasBias m.bias),
    (0x28, operand m.residual m.p), (0x30, operand m.residual m.q), (0x38, operand m.adapter m.a), (0x40, operand m.adapter m.b),
    (0x48, if m.adapter then 1 ≤ m.r && m.r ≤ 64 else m.r == 0),
    (0x4A, if m.residual then 1 ≤ m.rc && m.rc ≤ 16 else m.rc == 0),
    (0x4C, m.adapter || m.alpha == 0), (0x50, operand (m.residual || m.adapter) m.xb), (0x58, m.reserved == 0)]
  pass1.or (firstFault (([0x08, 0x10, 0x20, 0x28, 0x30, 0x38, 0x40, 0x50].zip (m.operands l)).map fun (off, o) =>
    (off, s.rowsOk w o.base o.rows o.stride o.bytes)))

/-! ## Layers and fits (R274, R278, R280) -/

/-- The array at a row block and column block (R358). -/
def Layer.arrayAt (l : Layer) (rb cb : Nat) : Nat := l.arrays.getD (rb * (l.nOut / 512) + cb) 0
/-- s_w of a block. -/
def Layer.scaleAt (l : Layer) (rb cb : Nat) : Word := l.scales.getD (rb * (l.nOut / 1024) + cb) 0

/-- The fit of a group in a bank. -/
def fitIn (bank : List GroupFit) (transpose : Bool) (a : Nat) : Option GroupFit :=
  bank.find? fun f => f.transpose == transpose && f.array == a
def Die.bankOf (d : Die) (active : Bool) : List GroupFit := if active then d.bank1 else d.bank0

/-- The position of a group that no fit covers. -/
def CompPos.none : CompPos := { o := 0, g := 0, stuck := true }
def posIn (bank : List GroupFit) (transpose : Bool) (a i : Nat) : CompPos :=
  match fitIn bank transpose a with
  | some f => f.pos.getD i CompPos.none
  | none => CompPos.none

/-- The first arrays of the layer's transpose groups. -/
def Layer.firsts (l : Layer) : List Nat := l.arrays.zipIdx.filterMap fun (a, i) => if i % 2 = 0 then some a else none

/-- The layer is online: its die serves and has replayed its journal (R350), every array is online, and the active
bank covers every group (R280, R281, R382). -/
def State.layerOnline (s : State) (l : Layer) : Bool :=
  let d := s.die l.die
  let bank := d.bankOf d.active
  d.up && !d.replaying && l.arrays.all (fun a => (d.array a).online && (fitIn bank false a).isSome) &&
  l.firsts.all fun a => (fitIn bank true a).isSome

/-- The image of a handle is granted to a partition (R261). -/
def State.granted (s : State) (part handle : Nat) : Bool := (s.partition part).images.getLsbD (handle / 2 ^ 24)

/-! ## Acceptance (R265) -/

/-- The array operations of a command (R267, R271). -/
def AeBlock.ops (m : AeBlock) (l : Layer) : List ArrayOp :=
  (List.range m.tokens).flatMap fun t => (List.range (m.stripes l)).flatMap fun j => (List.range (m.parts l)).map fun p =>
    { token := t, stripe := j, part := p, code := Option.none
      array := if m.transpose then l.arrayAt (p / 2) (2 * j + p % 2) else l.arrayAt j p }

/-- What the command reads: the rows of its operands. -/
def AeBlock.ranges (m : AeBlock) (l : Layer) : List (Dword × Nat) :=
  (m.operands l).flatMap fun o => rowRanges o.base o.rows o.stride o.bytes

/-- The judgement of a block: the entry of a command that is answered at once, or the layer. -/
def State.aeJudge (s : State) (w : Who) (part tiles : Nat) (f seq : Word) (bs : List Byte) : Sum Dword Layer :=
  let m := aeBlock bs
  if f ≠ 0xA5000104 then .inl (aesEntry 0xFFFE 0 false false 1 seq)
  else if !s.granted part m.handle then .inl (aesEntry 0xFFFF 0 false false 3 seq)
  else match s.layer m.handle with
    | none => .inl (aesEntry 0 0 false false 1 seq)
    | some l => match s.aeFault w tiles l m with
      | some field => .inl (aesEntry field 0 false false 1 seq)
      | none => if s.layerOnline l then .inr l else .inl (aesEntry 0xFFFF 0 false false 2 seq)

/-- A layer of nothing, for a command that was answered at once. -/
def Layer.empty : Layer := { handle := 0, die := 16, nIn := 0, nOut := 0, arrays := [], scales := [] }

/-- The group's head aec entry is accepted. -/
def State.aeTake (s : State) (c g : Nat) (x : Group) (got : Got) : State :=
  let (h0, _, f) := x.takeHead 2
  let seq := h0.seqs.ae + 1
  let h : Group := { h0 with seqs := { h0.seqs with ae := seq } }
  let w := engineWho c x.launch x.block
  let l0 := (s.launch x.launch).getD Launch.reset
  let bytes := match got with | .ok bs => bs | _ => []
  let verdict : Sum Dword Layer := match got with
    | .ok bs => s.aeJudge w l0.part l0.accTiles f seq bs
    | _ => .inl (aesEntry 0xFFFD 0 false false 1 seq)
  let m := aeBlock bytes
  let base : AeCmd :=
    { order := s.order, slot := g, launch := x.launch, block := x.block, seq := seq, words := blockWords bytes 24, src := [], wanted := [], upTo := (s.core c).nextId,
      layer := Layer.empty, bank := false, bound := [], weights := [], waiting := [], running := [], done := [], linkbound := false, phase := .done, answer := 0 }
  let s1 := (({ s with order := s.order + 1 } : State).hasRead w ((x.queue 2).headD 0) 96).setGroup c g h
  let add := fun (t : State) (a : AeCmd) => t.setCore c { t.core c with ae := (t.core c).ae ++ [a], aeLast := g }
  match verdict with
  | .inl e => ((add s1 { base with answer := e }).flushAes c).endBlock x.block
  | .inr l =>
    let reads := m.ranges l
    let d := s1.die l.die
    let cmd := { base with
      layer := l, bank := d.active, bound := d.bankOf d.active, weights := l.arrays.map fun a => (a, (d.array a).codes)
      src := s.captureAll w reads, wanted := s.opensAll w 0 reads, waiting := m.ops l, phase := .analogue }
    let s2 := s1.hasReadAll w reads
    ((add s2 cmd).setDie l.die { d with order := d.order ++ [(c, s.order)] }).endBlock x.block

/-- AE_ACCEPT (R265). -/
def execAeAccept (c : Nat) (s : State) : Out :=
  let ready := fun (g : Nat) => match s.headBlock c g 2 96 with | some x => x.settled | none => false
  match (rotation (s.core c).aeLast).find? ready with
  | none => s.noteBlockWait c 2 96
  | some g => match s.headBlock c g 2 96, s.group c g with
    | some got, some x => .next (s.aeTake c g x got)
    | _, _ => .fault .notEnabled

/-! ## Array operations (R271) -/

/-- Some command's operation runs on the array. -/
def State.arrayBusy (s : State) (die a : Nat) : Bool :=
  s.cores.any fun (_, k) => k.ae.any fun m => m.layer.die == die && m.running.any fun o => o.array == a

/-- The accepted command of a core with an order number, and its place. -/
def State.aeOf (s : State) (who : Nat × Nat) : Option (Nat × AeCmd) :=
  ((s.core who.1).ae.zipIdx.find? fun p => p.1.order == who.2).map fun (m, k) => (k, m)

/-- The first waiting operation of a command whose array is free. DESIGN CHOICE (log entry 3): the order of operations
within a command, which the spec leaves open, is that of token, stripe and part. -/
def State.startableOp (s : State) (m : AeCmd) : Option Nat := m.waiting.findIdx? fun o => !s.arrayBusy m.layer.die o.array

/-- Replace command `k` of a core. -/
def State.setAe (s : State) (c k : Nat) (m : AeCmd) : State := s.setCore c { s.core c with ae := lset (s.core c).ae k m }

/-- ARRAY_OPERATION_START (R271): the waiting operation of the earliest command that can start takes a slot. -/
def execArrayOperationStart (die : Nat) (s : State) : Out :=
  if !s.slotsFree die 1 then .fault .notEnabled
  else match (s.die die).order.findSome? fun who => (s.aeOf who).bind fun (k, m) => (s.startableOp m).map fun i => (who.1, k, m, i) with
    | none => .fault .notEnabled
    | some (c, k, m, i) => match m.waiting[i]? with
      | none => .fault .notEnabled
      | some o => .next (s.setAe c k { m with waiting := ldrop m.waiting i, running := m.running ++ [o] })

/-- The running operations of a die, in hub order: core, command's place, operation's place. -/
def State.running_ (s : State) (die : Nat) : List (Nat × Nat × Nat) :=
  (s.die die).order.flatMap fun who => match s.aeOf who with
    | some (k, m) => (List.range m.running.length).map fun i => (who.1, k, i)
    | none => []

/-- ARRAY_OPERATION_COMPLETE (R267, R268, R271): the k-th running operation returns its codes, whose
errors are free values (log entry 7); past the last, a response of an earlier incarnation arrives and is dropped (R351). -/
def execArrayOperationComplete (die k : Nat) (s : State) : Out :=
  let d := s.die die
  match (s.running_ die)[k]? with
  | none =>
    if k = (s.running_ die).length ∧ d.lateAnswers ≠ 0 then
      .next (s.setDie die { d with lateAnswers := d.lateAnswers - 1, stale := satInc d.stale })
    else .fault .notEnabled
  | some (c, j, i) => match (s.core c).ae[j]? with
    | none => .fault .notEnabled
    | some m => match m.running[i]? with
      | none => .fault .notEnabled
      | some o =>
        let rest := ldrop m.running i
        let last := m.waiting.isEmpty && rest.isEmpty
        let m1 := { m with running := rest, done := m.done ++ [{ o with code := some s.freeCtr }]
                           phase := if last then AePhase.arrived else m.phase
                           linkbound := if last then Config.freeBit (s.freeCtr + 1) else m.linkbound }
        let s1 := ({ s with freeCtr := s.freeCtr + 2 } : State).setAe c j m1
        if last then .next (s1.setDie die { d with order := d.order.filter fun w => w != (c, m.order) }) else .next s1

/-! ## What the converters report (R267, R268) -/

/-- The exact sum that output `i` of an array approximates, times 2^f: its weights against the inputs that drive it
(R267). -/
def exactSum (codes : Tbl (List Byte)) (transpose : Bool) (x : Nat → Int) (i : Nat) : Int :=
  if transpose then ((List.range 512).map fun e => x e * codeVal ((tget [] codes i).getD e 0)).sum
  else ((List.range 1024).map fun e => x e * codeVal ((tget [] codes e).getD i 0)).sum

/-- What a converter reports. -/
inductive ConvState where
  | good
  | saturated
  | stuck
  deriving DecidableEq, Repr

/-- The code that a converter contributes to S, and its state: the exact sum in steps of 2^f, and the converter's
error, a free value (R268, R269; log entry 7). -/
def convert (draw pos f : Nat) (sum : Int) : Int × ConvState :=
  let v := sum / 2 ^ f + Config.columnError draw pos
  if Config.columnStuck draw pos then (0, .stuck)
  else if v < -512 then (-512, .saturated)
  else if 511 < v then (511, .saturated)
  else (v, .good)

/-- The draws of a command's operations, by token, stripe and part. -/
def AeCmd.draws (m : AeCmd) (b : AeBlock) : Array Nat :=
  let n := b.tokens * b.stripes m.layer * b.parts m.layer
  m.done.foldl (fun (t : Array Nat) o =>
    t.setIfInBounds ((o.token * b.stripes m.layer + o.stripe) * b.parts m.layer + o.part) (o.code.getD 0)) (Array.replicate n 0)

/-- What output `i` of the `p`-th array of stripe `j` reports for token `t`; `x` holds the tokens' input codes, nI for
each. -/
def AeCmd.converted (cmd : AeCmd) (b : AeBlock) (x : Array Int) (draws : Array Nat) (t j p i : Nat) : Int × ConvState :=
  let l := cmd.layer
  let a := if b.transpose then l.arrayAt (p / 2) (2 * j + p % 2) else l.arrayAt j p
  let from_ := t * b.nI l + 1024 * j + if b.transpose then 512 * (p % 2) else 0
  convert (draws.getD ((t * b.stripes l + j) * b.parts l + p) 0) i b.shift
    (exactSum (tget [] cmd.weights a) b.transpose (fun e => x.getD (from_ + e) 0) i)

/-- S of a token, a stripe and an output (R267). -/
def AeCmd.sumOf (cmd : AeCmd) (b : AeBlock) (x : Array Int) (draws : Array Nat) (t j c : Nat) : Int :=
  let code := fun (p i : Nat) => (cmd.converted b x draws t j p i).1
  if b.transpose then code (2 * (c / 1024)) (c % 1024) + code (2 * (c / 1024) + 1) (c % 1024)
  else code (c / 512) (c % 512)

/-- How many converters of the command report a state. -/
def AeCmd.countState (cmd : AeCmd) (b : AeBlock) (x : Array Int) (draws : Array Nat) (st : ConvState) : Nat :=
  let l := cmd.layer
  ((List.range b.tokens).map fun t => ((List.range (b.stripes l)).map fun j => ((List.range (b.parts l)).map fun p =>
    ((List.range (outputs b.transpose)).filter fun i => (cmd.converted b x draws t j p i).2 == st).length).sum).sum).sum

/-! ## The digital part (R55, R273) -/

/-- The operands of a command, decoded. -/
structure AeData where
  reserved : Nat                   -- reserved ZI8 codes of x (R49)
  x : Array Int                    -- its codes, the reserved one applied as 0 (R267)
  xs : Array Nat
  bias : Array Nat
  p : Grid
  q : Grid
  a : Grid
  b : Grid
  xb : Grid

/-- A grid of BF16 values from bytes of `rows` rows of `n`. -/
def bfGrid (rows n : Nat) (bs : List Byte) : Grid := gridOf 0 (allCodes 16 n (2 * n) rows bs)

/-- Split the captured operands. -/
def splitOps : List Operand → List Byte → List (List Byte)
  | [], _ => []
  | o :: os, bs => bs.take (o.rows * o.bytes) :: splitOps os (bs.drop (o.rows * o.bytes))

def AeBlock.decode (m : AeBlock) (l : Layer) (bs : List Byte) : AeData :=
  let ops := splitOps (m.operands l) bs
  let op := fun (i : Nat) => ops.getD i []
  { reserved := ((op 0).filter fun b => b == 0x80).length
    x := ((op 0).map fun b => if b == 0x80 then 0 else b.toInt).toArray
    xs := (rowCodes 16 (m.tokens * m.stripes l) (op 1)).toArray
    bias := (rowCodes 32 (if m.hasBias then m.nO l else 0) (op 2)).toArray
    p := bfGrid (if m.residual then m.nO l else 0) 32 (op 3), q := bfGrid m.rc (m.nI l) (op 4)
    a := bfGrid m.r (m.nI l) (op 5), b := bfGrid (if m.adapter then m.nO l else 0) (m.bRow / 2) (op 6)
    xb := bfGrid (if m.residual || m.adapter then m.tokens else 0) (m.nI l) (op 7) }

/-- One, as the scale of an unscaled block. -/
def one : Num := .fin false 1 1

/-- Accumulate a row against a vector by R53 with S = 1, in blocks of 32. -/
def accumulateBlocks (acc : Word) (blocks : Nat) (f g : Nat → Num) : Word × Events :=
  (List.range blocks).foldl (fun (r, ev) kb =>
    let (r1, e) := blockUpdate r ((List.range 32).map fun t => (f (32 * kb + t), g (32 * kb + t))) one one
    (r1, ev ++ e)) (acc, [])

/-- A BF16 vector of a token, y or u, with its FP32 and BF16 events; `alpha` scales u. -/
def lowRank (g xb : Grid) (t rows nI : Nat) (alpha : Option Word) : List Num × Events × Events :=
  (List.range rows).foldl (fun (vs, ev, eb) i =>
    let (r, e) := accumulateBlocks 0 (nI / 32) (g.at i) (xb.at t)
    let (r1, e1) := match alpha with | some w => fmul w r | none => (r, [])
    let (c, e2) := bf16.encode .rne (f32 r1).isNan (f32 r1).isInf (f32 r1)
    (vs ++ [bf16.value c], ev ++ e ++ e1, eb ++ e2)) ([], [], [])

/-- One stripe's term (R55). -/
def stripeTerm (acc : Word) (sIn : Num) (sW : Word) (f : Nat) (sum : Int) (pos : CompPos) : Word × Events :=
  let w := f32 sW
  let (q, e1) := rne32 (sIn.isNan || w.isNan) w.isInf ((sIn.mul w).mul (.fin false (2 ^ f) 1))
  let o := f32 pos.o; let g := f32 pos.g
  let (x, e2) := rne32 (o.isNan || g.isNan) (o.isInf || g.isInf) (((Num.ofInt sum).sub o).mul g)
  let (a, e3) := fmul x q
  let (r, e4) := fadd acc a
  (r, e1 ++ e2 ++ e3 ++ e4)

/-- The compensation of stripe `j`, output `c` in a bank (R273). -/
def AeBlock.posOf (m : AeBlock) (l : Layer) (bank : List GroupFit) (j c : Nat) : CompPos :=
  if m.transpose then posIn bank true (l.arrayAt (c / 1024) (2 * j)) (c % 1024)
  else posIn bank false (l.arrayAt j (c / 512)) (c % 512)

/-- One element (R55): the old value, y and u of its token. -/
def AeBlock.element (m : AeBlock) (cmd : AeCmd) (d : AeData) (draws : Array Nat) (old : Word) (y u : List Num)
    (t c : Nat) : Word × Events :=
  let l := cmd.layer
  let acc0 : Word := if m.hasBias then BitVec.ofNat 32 (d.bias.getD c 0) else if m.accumulate then old else 0
  let (acc1, e1) := (List.range (m.stripes l)).foldl (fun (r, ev) j =>
    let sw := if m.transpose then l.scaleAt (c / 1024) j else l.scaleAt j (c / 1024)
    let (r1, e) := stripeTerm r (zs16 (d.xs.getD (t * m.stripes l + j) 0)) sw m.shift (cmd.sumOf m d.x draws t j c)
      (m.posOf l cmd.bound j c)
    (r1, ev ++ e)) (acc0, [])
  let (acc2, e2) := if m.residual then
      accumulateBlocks acc1 1 (fun i => if i < m.rc then d.p.at c i else Num.zero) fun i => y.getD i Num.zero
    else (acc1, [])
  let (acc3, e3) := if m.adapter then
      accumulateBlocks acc2 (m.bRow / 64) (fun i => if i < m.r then d.b.at c i else Num.zero) fun i => u.getD i Num.zero
    else (acc2, [])
  (acc3, e1 ++ e2 ++ e3)

/-- One token: its nO elements written into their tiles, and its events counted. -/
def State.aeToken (s : State) (cmd : AeCmd) (m : AeBlock) (d : AeData) (draws : Array Nat) (t : Nat) : State :=
  let l := cmd.layer
  let (y, ey, by_) := if m.residual then lowRank d.q d.xb t m.rc (m.nI l) none else ([], [], [])
  let (u, eu, bu) := if m.adapter then lowRank d.a d.xb t m.r (m.nI l) (some m.alpha) else ([], [], [])
  let s1 := (s.countEvents cmd.launch 0 (ey ++ eu)).countEvents cmd.launch 1 (by_ ++ bu)
  (List.range (m.nO l)).foldl (fun s c =>
    let at_ : Loc := ⟨.tiles cmd.block, (m.tile + c / 64) * 16384 + (64 * t + c % 64) * 4⟩
    let (r, ev) := m.element cmd d draws (s.wordAt at_) y u t c
    (s.setWord at_ r).countEvents cmd.launch 0 ev) s1

/-- AE_DIGITAL_PART_START (R259, R272): the command's turn in the matrix engine's rotation. -/
def execAeDigitalPartStart (c k : Nat) (s : State) : Out :=
  match (s.core c).ae[k]? with
  | none => .fault .notEnabled
  | some m =>
    if s.engineTurn c ≠ some m.slot ∨ !s.aeStartable c m then .fault .notEnabled
    else
      let s1 := s.setAe c k { m with phase := .started }
      .next (s1.setCore c { s1.core c with mxLast := m.slot })

/-- The end of a command: its tiles, its counts, its answer. -/
def State.aeFinish (s : State) (c k : Nat) (cmd : AeCmd) (bs : List Byte) : State :=
  let m := aeBlock (wordBytes cmd.words)
  let d := m.decode cmd.layer bs
  let draws := cmd.draws m
  let s1 := (List.range m.tokens).foldl (fun s t => s.aeToken cmd m d draws t) s
  let s2 := s1.countMany cmd.launch 3 0 d.reserved
  let e := aesEntry (min 0xFFFF (cmd.countState m d.x draws .saturated)) (min 0xFF (cmd.countState m d.x draws .stuck)) cmd.recal
    cmd.linkbound 0 cmd.seq
  ((s2.setAe c k (cmd.finish e)).flushAes c).reread

/-- AE_DIGITAL_PART_COMPLETE (R273): the fused terms are applied and the command is answered; an operand on an
unmapped page delays it, one on a page that refuses is answered as a faulty block would be (R304). -/
def execAeDigitalPartComplete (c k : Nat) (s : State) : Out :=
  match (s.core c).ae[k]? with
  | none => .fault .notEnabled
  | some cmd =>
    if cmd.phase ≠ .started then .fault .notEnabled
    else
      let (cmd1, ps) := s.supplyAe c cmd
      match s.awaitTrouble (engineWho c cmd.launch cmd.block) cmd1.wanted with
      | .ok _ => .next ((s.readPlaces c ps).aeFinish c k cmd1 (cmd1.src.filterMap id))
      | .unmapped v => s.waitPage cmd.launch v 3
      | .refused _ => .next ((s.setAe c k (cmd.finish (aesEntry 0xFFFD 0 cmd.recal cmd.linkbound 1 cmd.seq))).flushAes c)
      | .absent => .fault .notEnabled

/-! ## Oboe (R274 to R278) -/

/-- The golden responses of a group, in units of 2^-11 LSB, by probe (R274, R276). -/
def Die.groupGolden (d : Die) (transpose : Bool) (a b i : Nat) : List Int :=
  (List.range 64).map fun p =>
    if transpose then
      let f := max ((d.array a).shift a true p) ((d.array b).shift b true p)
      ((d.array a).golden a true p i + (d.array b).golden b true p i) * 2 ^ (11 - f)
    else (d.array a).golden a false p i * 2 ^ (11 - (d.array a).shift a false p)

/-- A rational as a number. -/
def ratio (n d : Int) : Num := if d < 0 then .fin (0 < n) n.natAbs d.natAbs else .fin (n < 0) n.natAbs d.natAbs

/-- The fit of one position (R276): `us` in units of 2^-11 LSB and `ms` in eighths, by probe; and whether ρ
exceeds 1.0 LSB. -/
def fitPosition (us ms : List Int) (stuckReplay : Bool) : CompPos × Bool :=
  let su := us.sum; let sm := ms.sum
  let suu := (us.map fun u => u * u).sum
  let sum := ((us.zip ms).map fun (u, m) => u * m).sum
  let flat := us.all fun u => u == us.headD 0
  -- β = b / a × 2^8, as m counts eighths and u 2^-11 parts
  let a := if flat then 256 else 64 * suu - su * su
  let b := if flat then 1 else 64 * sum - su * sm
  let low := b.natAbs * 512 < a.natAbs
  -- o = (a × Σm − b × Σu) / (8 × 64 × a), rounded before ρ is taken
  let (o, _) := rne32 false false (ratio (a * sm - b * su) (512 * a))
  let (oi, od) : Int × Int := match f32 o with
    | .fin neg n d => (if neg then -(n : Int) else n, d)
    | _ => (0, 1)
  -- ρ² = Σ ((m / 8 − β × u / 2^11 − o)²) / 64, each term over (8 × a × od)²
  let res := ((us.zip ms).map fun (u, m) => let r := (m * a - b * u) * od - 8 * a * oi; r * r).sum
  if stuckReplay || low then (CompPos.none, false)
  else
    let (g, _) := rne32 false false (ratio a (256 * b))
    ({ o := o, g := g, stuck := false }, decide (64 * (8 * a * od) * (8 * a * od) < res))

/-- The sum of the codes that a position returns in the 8 replays of a probe; a transpose group's is the sum of its two
arrays' (R276). -/
def probeSum (transpose : Bool) (draw i p : Nat) : Int :=
  ((List.range 8).map fun r =>
    (Config.probeCode draw i p r).toInt + if transpose then (Config.probeCode (draw + 1) i p r).toInt else 0).sum

/-- The fit of a group from this replay's codes, which are free values (log entry 7). -/
def Die.fitGroup (d : Die) (transpose : Bool) (a b draw : Nat) : GroupFit :=
  let fits := (List.range (outputs transpose)).map fun i =>
    fitPosition (d.groupGolden transpose a b i) ((List.range 64).map (probeSum transpose draw i))
      ((List.range 64).any fun p => Config.probeStuck draw i p)
  { transpose := transpose, array := a, pos := fits.map (·.1), exceeded := fits.any (·.2) }

/-- The array may be probed: programmed, and with no operation running (R275, R281). -/
def State.probeable (s : State) (die a : Nat) : Bool := ((s.die die).array a).closed && !s.arrayBusy die a

/-- The event of a group that becomes exceeded: the log entry names the die, the image and the layer by the handle, and
the stripe by the place of the group's first array in the layer, with the mode (R277; log entry 39). -/
def State.tellExceeded (s : State) (die a : Nat) (transpose : Bool) : State :=
  let mode := if transpose then 1 else 0
  match s.layers.find? fun l => l.die == die && l.arrays.contains a with
  | none => s.logEvent 2 noPart (BitVec.ofNat 64 (die * 2 ^ 32 + 0xFFFFFFFF)) (BitVec.ofNat 64 (2 * a + mode))
  | some l =>
    let stripe := 2 * l.arrays.findIdx (· == a) + mode
    ((s.partitions.map (·.1)).filter fun p => s.granted p l.handle).foldl (fun s p => s.interrupt (.recal p die (2 * a + mode)))
      (s.logEvent 2 noPart (BitVec.ofNat 64 (die * 2 ^ 32 + l.handle)) (BitVec.ofNat 64 stripe))

/-- `n` arrays may be probed at once within the activity limit (R271, R275). -/
def State.oboeSlots (s : State) (die n : Nat) : Bool := decide (s.runningOps die + (s.die die).programming + n ≤ (s.die die).limit)

/-- OBOE_GROUP_FIT (R275 to R277): the group whose first array is `a` is fitted afresh, each of its arrays in a
slot that no command has taken; those a starved Oboe was given are kept from the commands. -/
def execOboeGroupFit (die a : Nat) (transpose : Bool) (s : State) : Out :=
  let d := s.die die
  let pair := if transpose then s.pairOf die a else some a
  match pair with
  | none => .fault .notEnabled
  | some b =>
    if !d.up || !s.probeable die a || !s.probeable die b || !s.oboeSlots die (if transpose then 2 else 1) then .fault .notEnabled
    else
      let f := d.fitGroup transpose a b s.freeCtr
      let was := match fitIn d.fits transpose a with | some g => g.exceeded | none => false
      let d1 := { d with oboeArrays := 0, fits := f :: d.fits.filter fun g => !(g.transpose == transpose && g.array == a) }
      let s1 := ({ s with freeCtr := s.freeCtr + 2 } : State).setDie die d1
      .next (if f.exceeded && !was then s1.tellExceeded die a transpose else s1)

/-- A word of the new bank differs from the active one's by more than R278 allows: by more than `num / den` of
`ref`. -/
def movedBy (new old : Num) (bound : Num) : Bool := bound.lt (new.sub old).abs

/-- A position is worth publishing. -/
def CompPos.moved (n o : CompPos) : Bool :=
  n.stuck != o.stuck || movedBy (f32 n.g) (f32 o.g) ((f32 o.g).abs.div (.fin false 256 1)) ||
  movedBy (f32 n.o) (f32 o.o) (.fin false 1 4)

/-- The latest fit of a group differs from the active bank, or the bank has none (R278). -/
def GroupFit.news (f : GroupFit) (bank : List GroupFit) : Bool :=
  match fitIn bank f.transpose f.array with
  | none => true
  | some g => f.exceeded != g.exceeded || (f.pos.zip g.pos).any fun (n, o) => n.moved o

/-- No accepted command holds a bank of the die. -/
def State.bankUnheld (s : State) (die : Nat) (bank : Bool) : Bool :=
  s.cores.all fun (_, k) => k.ae.all fun m => m.layer.die != die || m.phase == .done || m.bank != bank

/-- Arrays that a generation holding `fits` brings online (R281, R354). -/
def State.bringOnline (s : State) (die : Nat) (fits : List GroupFit) (a : Nat) (x : ArrayRec) : ArrayRec :=
  let pairs := match s.firstOf die a with | some f => (fitIn fits true f).isSome | none => true
  if x.closed && x.state == 1 && (fitIn fits false a).isSome && pairs then { x with state := 0, covered := true } else x

/-- Log and tell the hosts of the layers that come online (R355). -/
def State.tellOnline (s : State) (before : State) (die : Nat) : State :=
  (s.layers.filter fun l => l.die == die && s.layerOnline l && !before.layerOnline l).foldl (fun s l =>
    ((s.partitions.map (·.1)).filter fun p => s.granted p l.handle).foldl (fun s p => s.interrupt (.layerOnline p l.handle))
      (s.logEvent 3 noPart (BitVec.ofNat 64 die) (BitVec.ofNat 64 l.handle))) s

/-- OBOE_PUBLISH (R278), once the die has replayed its journal (R350): the latest fits go into the inactive bank, the
banks are swapped, and arrays that are now covered come online. -/
def execOboePublish (die : Nat) (s : State) : Out :=
  let d := s.die die
  if !s.ready || !d.up || d.replaying || !(d.fits.any fun f => f.news (d.bankOf d.active)) || !s.bankUnheld die (!d.active) then .fault .notEnabled
  else
    let d1 := if d.active then { d with bank0 := d.fits, active := false } else { d with bank1 := d.fits, active := true }
    let d2 := { d1 with gen := d.gen + 1, arrays := d.arrays.map fun (a, x) => (a, s.bringOnline die d.fits a x) }
    .next ((s.setDie die d2).tellOnline s die)

/-- OBOE_STARVATION_TIMEOUT (R275): the hub gives Oboe up to 8 arrays in each slot. -/
def execOboeStarvationTimeout (die : Nat) (s : State) : Out :=
  if 16 ≤ die ∨ !(s.die die).up then .fault .notEnabled
  else .next (s.setDie die { s.die die with oboeArrays := 8 })

end Sys2Proof.Machine
end

