-- ==== Sys2Proof/Machine/Copy.lean ====
section
/-! DEFINITION. The copy engines (R282 to R288). -/

namespace Sys2Proof.Machine

/-! ## The parameter block (R282 to R284) -/

structure CopyBlock where
  src : Dword
  dst : Dword
  rows : Nat
  rowBytes : Nat
  srcStride : Nat
  dstStride : Nat
  barrier : Dword
  flags : Nat
  res1 : Nat
  list : Dword
  res2 : Nat
  deriving DecidableEq, Repr

def copyBlock (bs : List Byte) : CopyBlock :=
  { src := addrIn bs 0, dst := addrIn bs 8, rows := wordIn bs 0x10, rowBytes := wordIn bs 0x14, srcStride := wordIn bs 0x18,
    dstStride := wordIn bs 0x1C, barrier := addrIn bs 0x20, flags := wordIn bs 0x28, res1 := wordIn bs 0x2C,
    list := addrIn bs 0x30, res2 := dwordIn bs 0x38 }

def CopyBlock.gather (m : CopyBlock) : Bool := m.flags % 2 == 1
def CopyBlock.total (m : CopyBlock) : Nat := m.rows * m.rowBytes

/-- Global, core scratchpad, cluster memory, chip scratchpad, accumulator. -/
def copyPaths : List Nat := [0, 9, 10, 11, 12]

/-- Every byte of a range lies in its window: the accumulator path too. -/
def State.copyExtentOk (s : State) (w : Who) (a : Dword) (n : Nat) : Bool :=
  n == 0 || ((s.judgeBlock w copyPaths 1 n a).isNone && pathOk (a + BitVec.ofNat 64 (n - 1)))

/-- The paths of barrier objects (R249). -/
def barrierPaths : List Nat := [9, 10, 11]

/-- Pass 1 of a barrier field: none, or well placed; one that lies within its window is well formed (R249, R390). -/
def State.barrierOk (s : State) (w : Who) (a : Dword) : Bool :=
  a == 0 || match s.judgeBlock w barrierPaths 16 16 a, s.barrierPlace w a with
    | some check, _ => check == 6
    | none, .inr l => (s.barrierAt l).ok
    | none, .inl _ => false

/-- Pass 2 of a barrier field: its 16 bytes lie within the window. -/
def State.barrierExtentOk (s : State) (w : Who) (a : Dword) : Bool :=
  a == 0 || (s.judgeBlock w barrierPaths 16 16 a).isNone

/-- The first faulty field (R282, R283, R390). -/
def State.copyFault (s : State) (w : Who) (m : CopyBlock) : Option Nat :=
  let pass1 := firstFault [
    (0x00, m.gather || s.fieldOk w copyPaths 16 m.src), (0x08, s.fieldOk w copyPaths 16 m.dst),
    (0x10, 1 ≤ m.rows && m.rows ≤ 65536),
    (0x14, m.rowBytes % 16 == 0 && 16 ≤ m.rowBytes && m.rowBytes ≤ 4194304 && m.total ≤ 2147483647),
    (0x18, m.srcStride % 16 == 0), (0x1C, m.dstStride % 16 == 0 && (m.rows ≤ 1 || m.rowBytes ≤ m.dstStride)),
    (0x20, s.barrierOk w m.barrier), (0x28, m.flags < 2 && (!m.gather || (m.src == 0 && m.srcStride == 0))),
    (0x2C, m.res1 == 0), (0x30, if m.gather then s.fieldOk w copyPaths 8 m.list else m.list == 0), (0x38, m.res2 == 0)]
  let rows := fun (a : Dword) (stride : Nat) => (rowAddrs a m.rows stride).all fun r => s.copyExtentOk w r m.rowBytes
  pass1.or (firstFault [
    (0x00, m.gather || rows m.src m.srcStride), (0x08, rows m.dst m.dstStride), (0x20, s.barrierExtentOk w m.barrier),
    (0x30, !m.gather || s.copyExtentOk w m.list (8 * m.rows))])

/-- A gather entry obeys the rules of a source (R284). -/
def State.gatherOk (s : State) (w : Who) (rowBytes : Nat) (a : Dword) : Bool :=
  s.fieldOk w copyPaths 16 a && s.copyExtentOk w a rowBytes

/-- The entries of a gather list. -/
def gatherList (bs : List Byte) : Nat → List Dword
  | 0 => []
  | n + 1 => addrIn bs 0 :: gatherList (bs.drop 8) n

/-! ## Acceptance (R283, R286) -/

/-- A ceas or cebs entry (R285). -/
def ceEntry (field result : Nat) (seq : Word) : Dword :=
  BitVec.ofNat 64 (field * 2 ^ 48 + result * 2 ^ 32 + seq.toNat)

/-- What the engine meets at a head entry: its address is judged here (R304), then its block and list are read. -/
inductive CopyGot where
  | block (m : CopyBlock) (words : List Word) (list : List Dword)
  | fault (field : Nat)
  | waits (va : Nat)
  | absent
  deriving DecidableEq, Repr

/-- The gather list of a block whose fields are right. -/
def State.copyList (s : State) (w : Who) (m : CopyBlock) (words : List Word) : CopyGot :=
  if !m.gather then .block m words []
  else match s.readAs w m.list (8 * m.rows) with
    | .ok bs =>
      let g := gatherList bs m.rows
      if g.all (s.gatherOk w m.rowBytes) then .block m words g else .fault 0x30
    | .refused _ => .fault 0xFFFD
    | .unmapped v => .waits v
    | .absent => .absent

/-- Judge a head entry. -/
def State.copyGot (s : State) (w : Who) (a : Dword) : CopyGot :=
  if (s.judgeBlock w blockPaths 64 64 a).isSome then .fault 0xFFFD
  else match s.readAs w a 64 with
    | .ok bs => match s.copyFault w (copyBlock bs) with
      | some f => .fault f
      | none => s.copyList w (copyBlock bs) (blockWords bs 16)
    | .refused _ => .fault 0xFFFD
    | .unmapped v => .waits v
    | .absent => .absent

/-- The command an engine performs, and the slot it served last. -/
def Core.copyOf (k : Core) (eng : Bool) : Option CopyCmd := if eng then k.ceB else k.ceA
def Core.setCopy (k : Core) (eng : Bool) (x : Option CopyCmd) : Core := if eng then { k with ceB := x } else { k with ceA := x }
def Core.copyLast (k : Core) (eng : Bool) : Nat := if eng then k.ceBLast else k.ceALast
def Core.setCopyLast (k : Core) (eng : Bool) (g : Nat) : Core := if eng then { k with ceBLast := g } else { k with ceALast := g }

/-- The source rows' addresses. -/
def CopyBlock.sources (m : CopyBlock) (g : List Dword) : List Dword := if m.gather then g else rowAddrs m.src m.rows m.srcStride

/-- Cut `n` bytes from `off` on into aligned 32-byte pieces of the destination. -/
def rowChunks (row : Nat) (dst : Dword) : Nat → Nat → Nat → List (Nat × Nat × Nat)
  | 0, _, _ => []
  | fuel + 1, off, n =>
    if n = 0 then []
    else
      let m := min n (32 - (dst.toNat + off) % 32)
      (row, off, m) :: rowChunks row dst fuel (off + m) (n - m)

/-- All chunks of a command, row by row; rows that adjoin in the destination are one (R286). Addresses and lengths are
multiples of 16. -/
def CopyBlock.chunks (m : CopyBlock) : List (Nat × Nat × Nat) :=
  if m.dstStride = m.rowBytes then rowChunks 0 m.dst (m.total / 16 + 1) 0 m.total
  else (rowAddrs m.dst m.rows m.dstStride).zipIdx.flatMap fun (a, r) => rowChunks r a (m.rowBytes / 16 + 1) 0 m.rowBytes

/-- The sector of a place that carries a presence bit. -/
def sectorOf (l : Loc) : Option Loc :=
  match l.place with
  | .scratch _ => some { l with off := l.off / 256 * 256 }
  | .share _ => some { l with off := l.off / 256 * 256 }
  | _ => none

/-- The address of a chunk's destination. -/
def CopyBlock.target (m : CopyBlock) (ch : Nat × Nat × Nat) : Dword := m.dst + BitVec.ofNat 64 (ch.1 * m.dstStride + ch.2.1)

/-- The sector of a chunk. -/
def State.chunkSector (s : State) (w : Who) (m : CopyBlock) (ch : Nat × Nat × Nat) : Option Loc :=
  match s.resolve w .store (m.target ch) with
  | (_, .ok l) => sectorOf l
  | _ => none

/-- The distinct sectors of the destination. -/
def State.copySectors (s : State) (w : Who) (m : CopyBlock) : List Loc :=
  m.chunks.foldl (fun r ch => match s.chunkSector w m ch with
    | some l => if r.contains l then r else l :: r
    | none => r) []

/-- The group's count of commands to an engine. -/
def Group.countCopy (g : Group) (eng : Bool) : Group × Word :=
  if eng then
    let n := g.seqs.ceb + 1
    ({ g with seqs := { g.seqs with ceb := n } }, n)
  else
    let n := g.seqs.cea + 1
    ({ g with seqs := { g.seqs with cea := n } }, n)

/-- A CEGO whose entry is the one accepted is performed: its count goes to D (R305, R308). -/
def State.performCego (s : State) (c g : Nat) (eng : Bool) (seq : Word) : State :=
  match s.group c g with
  | none => s
  | some x => match x.hold with
    | some (_, .cego e _ true d n) =>
      if e = eng ∧ (x.queue (ceQueue eng)).isEmpty then s.completeHold c g true fun h => h.writeS n d seq else s
    | _ => s

/-- The engine takes the head entry of a group. -/
def State.copyTake (s : State) (c g : Nat) (eng : Bool) (x : Group) (got : CopyGot) : State :=
  let (h0, _, _) := x.takeHead (ceQueue eng)
  let (h, seq) := h0.countCopy eng
  let w := engineWho c x.launch x.block
  let s1 := (s.hasRead w ((x.queue (ceQueue eng)).headD 0) 64).setGroup c g h
  let s2 := s1.setCore c ((s1.core c).setCopyLast eng g)
  let s3 := s2.performCego c g eng seq
  match got with
  | .block m words list =>
    let reads := (m.sources list).map fun a => (a, m.rowBytes)
    let sectors := s.copySectors w m
    let cmd : CopyCmd :=
      { slot := g, launch := x.launch, block := x.block, seq := seq, words := words, gather := list, src := s.captureAll w reads,
        wanted := s.opensAll w 0 reads, upTo := (s.core c).nextId,
        chunks := m.chunks, sectors := sectors, landed := 0, written := [], counted := 0, badBarrier := false }
    let read := (s3.hasRead w m.list (8 * list.length)).hasReadAll w reads
    let s4 := read.setCore c ((read.core c).setCopy eng (some cmd))
    (sectors.foldl (fun s l => s.setPresence l false) s4).endBlock x.block
  | .fault f => (s3.post c g x.launch x.block (ceQueue eng + 1) (ceEntry f 1 seq)).endBlock x.block
  | _ => s

/-- What the engine meets at the head entry of a slot that it may accept. -/
def State.copyHead (s : State) (c g : Nat) (eng : Bool) : Option CopyGot :=
  match s.group c g with
  | none => none
  | some x =>
    if x.acceptable (ceQueue eng) then
      some (s.copyGot (engineWho c x.launch x.block) ((x.queue (ceQueue eng)).headD 0)) else none

def CopyGot.settled : CopyGot → Bool
  | .block _ _ _ => true
  | .fault _ => true
  | _ => false

/-- CE_ACCEPT (R286): copy engine A or B (`eng`), idle, accepts in rotation; a block or list that it would read
may meet an unmapped page. -/
def execCeAccept (c : Nat) (eng : Bool) (s : State) : Out :=
  let k := s.core c
  if (k.copyOf eng).isSome then .fault .notEnabled
  else match (rotation (k.copyLast eng)).findSome? fun g => (s.copyHead c g eng).bind fun got => if got.settled then some (g, got) else none with
    | some (g, got) => match s.group c g with
      | some x => .next (s.copyTake c g eng x got)
      | none => .fault .notEnabled
    | none => match (List.range 32).findSome? fun g => match s.copyHead c g eng, s.group c g with
        | some (.waits v), some x =>
          if s.unitWaits x.launch v then none else some (x.launch, v)
        | _, _ => none with
      | some (launch, v) => s.waitPage launch v 3
      | none => .fault .notEnabled

/-! ## The copy (R286, R287) -/

def CopyCmd.block_ (m : CopyCmd) : CopyBlock := copyBlock (wordBytes m.words)

/-- The place of a chunk's byte 0 among the command's bytes. -/
def CopyCmd.flat (cmd : CopyCmd) (ch : Nat × Nat × Nat) : Nat := ch.1 * cmd.block_.rowBytes + ch.2.1

/-- A command with the awaited bytes of one chunk that can be read now. Those that stand in a sector which the command
itself made absent are read as they stand (R286). -/
def State.supplyChunk (s : State) (c : Nat) (cmd : CopyCmd) (flat n : Nat) : CopyCmd × List (Loc × Nat) :=
  let mine := fun (q : Awaited) => decide (flat ≤ q.pos) && decide (q.pos < flat + n)
  let own := fun (q : Awaited) => mine q && (match q.loc.bind sectorOf with | some t => cmd.sectors.contains t | none => false)
  let src := (cmd.wanted.filter own).foldl (fun src q => match q.loc with
    | some l => putBytes src q.pos (s.bytesBefore c cmd.upTo l q.size)
    | none => src) cmd.src
  let rest := cmd.wanted.filter fun q => !own q
  let (src1, left, ps) := s.supply (engineWho c cmd.launch cmd.block) cmd.upTo src (rest.filter mine)
  ({ cmd with src := src1, wanted := left ++ rest.filter fun q => !mine q }, ps)

/-- The first `n` bytes of a list of places, and the rest. -/
def splitPlaces : List (Loc × Nat) → Nat → List (Loc × Nat) × List (Loc × Nat)
  | [], _ => ([], [])
  | (l, m) :: ps, n =>
    if n = 0 then ([], (l, m) :: ps)
    else if m ≤ n then
      let (xs, ys) := splitPlaces ps (n - m)
      ((l, m) :: xs, ys)
    else ([(l, n)], (l.add n, m - n) :: ps)

/-- Subtract `n` bytes from the command's barrier object (R206, R250). -/
def State.copySubtract (s : State) (w : Who) (cmd : CopyCmd) (n : Nat) : State × CopyCmd :=
  let (places, later) := splitPlaces cmd.written n
  let done := { cmd with landed := cmd.landed - n, written := later, counted := cmd.counted + n }
  if n = 0 ∨ cmd.block_.barrier = 0 then (s, done)
  else match s.barrierPlace w cmd.block_.barrier with
    | .inl _ => (s, { done with badBarrier := true })
    | .inr l =>
      let (s1, ok) := s.subtractBytes l n places
      (s1, { done with badBarrier := done.badBarrier || !ok })

/-- The command ends: what is left of the count is subtracted, presence is set, the status entry is posted. A refused page
(result 2) is reported before a barrier object found malformed (log entry 33). -/
def State.copyEnd (s : State) (c : Nat) (eng : Bool) (w : Who) (cmd : CopyCmd) (field result : Nat) : State :=
  let (s1, last) := s.copySubtract w cmd (cmd.block_.total - cmd.counted)
  let s2 := cmd.sectors.foldl (fun s l => s.makePresent l) s1
  let s3 := s2.setCore c ((s2.core c).setCopy eng none)
  let e := if result = 0 ∧ last.badBarrier then ceEntry 0x20 1 cmd.seq else ceEntry field result cmd.seq
  s3.post c cmd.slot cmd.launch cmd.block (ceQueue eng + 1) e

/-- A chunk whose bytes are read is written. -/
def State.copyWrite (s : State) (c : Nat) (eng : Bool) (w : Who) (cmd : CopyCmd) (k : Nat) (ch : Nat × Nat × Nat) (bs : List Byte) :
    State :=
  let m := cmd.block_
  let (s1, _) := s.engineWrite w bs.length (m.target ch) bs
  let rest := ldrop cmd.chunks k
  let place := match s.resolve w .store (m.target ch) with
    | (_, .ok l) => [(l, bs.length)]
    | _ => []
  let done := { cmd with chunks := rest, landed := cmd.landed + bs.length, written := cmd.written ++ place }
  let s2 := s1.setCore c ((s1.core c).setCopy eng (some done))
  let s3 := (match s2.chunkSector w m ch with
    | some l => if rest.any fun x => s2.chunkSector w m x == some l then s2 else s2.makePresent l
    | none => s2).reread
  let now := ((s3.core c).copyOf eng).getD done
  let cmd1 := { now with sectors := now.sectors.filter fun l => s3.absent l }
  if rest.isEmpty then s3.copyEnd c eng w cmd1 0xFFFF 0
  else
    let (s4, cmd2) := s3.copySubtract w cmd1 (cmd1.landed / 32 * 32)
    s4.setCore c ((s4.core c).setCopy eng (some cmd2))

/-- CE_CHUNK_WRITE (R286): the engine writes chunk `k` of those left; a page that is unmapped holds the command,
and one that refuses ends it with result 2. -/
def execCeChunkWrite (c : Nat) (eng : Bool) (k : Nat) (s : State) : Out :=
  match (s.core c).copyOf eng with
  | none => .fault .notEnabled
  | some cmd => match cmd.chunks[k]? with
    | none => .fault .notEnabled
    | some ch =>
      let m := cmd.block_
      let w := engineWho c cmd.launch cmd.block
      let (cmd1, ps) := s.supplyChunk c cmd (cmd.flat ch) ch.2.2
      let open_ := cmd1.wanted.filter fun q => decide (cmd.flat ch ≤ q.pos) && decide (q.pos < cmd.flat ch + ch.2.2)
      match s.awaitTrouble w open_ with
      | .absent => .fault .notEnabled
      | .unmapped v => s.waitPage cmd.launch v 3
      | .refused _ => .next (s.copyEnd c eng w cmd (if m.gather then 0x30 else 0x00) 2)
      | .ok _ => match s.rangeTrouble w .store 32 (m.target ch) ch.2.2 with
        | some (.unmapped v) => s.waitPage cmd.launch v 3
        | some _ => .next (s.copyEnd c eng w cmd 0x08 2)
        | none =>
          if s.writeBehind w 32 (m.target ch) ch.2.2 then .fault .notEnabled
          else
            let bs := ((cmd1.src.drop (cmd.flat ch)).take ch.2.2).filterMap id
            .next ((s.readPlaces c ps).copyWrite c eng w cmd1 k ch bs)

end Sys2Proof.Machine
end

