-- ==== Sys2Proof/Machine/Nmu.lean ====
section
/-! DEFINITION. DRAIN and the near-memory update units (R289 to R294, R314, R56). -/

namespace Sys2Proof.Machine

/-! ## The blocks (R289, R290) -/

structure DrainBlock where
  tile : Nat
  tiles : Nat
  tensor : Dword
  row0 : Nat
  col0 : Nat
  barrier : Dword
  deriving DecidableEq, Repr

def drainBlock (bs : List Byte) : DrainBlock :=
  { tile := wordIn bs 0, tiles := wordIn bs 4, tensor := addrIn bs 8, row0 := wordIn bs 16, col0 := wordIn bs 20,
    barrier := addrIn bs 24 }

structure TensorBlock where
  weights : Dword
  m : Dword
  v : Dword
  rows : Nat
  cols : Nat
  opt : Nat
  lr : Word
  beta1 : Word
  beta2 : Word
  eps : Word
  decay : Word
  clip : Word
  step : Word
  deriving DecidableEq, Repr

def tensorBlock (bs : List Byte) : TensorBlock :=
  let w := fun (o : Nat) => BitVec.ofNat 32 (wordIn bs o)
  { weights := addrIn bs 0, m := addrIn bs 8, v := addrIn bs 0x10, rows := wordIn bs 0x18, cols := wordIn bs 0x1C,
    opt := wordIn bs 0x20, lr := w 0x24, beta1 := w 0x28, beta2 := w 0x2C, eps := w 0x30, decay := w 0x34, clip := w 0x38,
    step := w 0x3C }

/-- A line address: global, aligned to 1,024. -/
def lineAddrOk (a : Dword) : Bool := pathOf a == 0 && pathOk a && a.toNat % 1024 == 0

/-- The first faulty field of a tensor block (R289, R390). An optimizer that does not exist is judged at its own
offset, and leaves open whether m is used. DEDUCED (log entry 33): a beta1, beta2 or eps that must be 0 is the word zero; the
spec does not say that -0 serves too. -/
def TensorBlock.fault (t : TensorBlock) : Option Nat :=
  let used := fun (u : Bool) (a : Dword) => if u then a != 0 && lineAddrOk a else a == 0
  let last := BitVec.ofNat 64 (4 * t.rows * t.cols - 1)
  let pass1 := firstFault [
    (0x00, lineAddrOk t.weights), (0x08, used (t.opt == 1 || t.opt == 2 || (2 < t.opt && t.m != 0)) t.m),
    (0x10, used (t.opt == 2) t.v), (0x18, 1 ≤ t.rows && t.rows ≤ 65536), (0x1C, 1 ≤ t.cols && t.cols ≤ 65536),
    (0x20, t.opt ≤ 2), (0x28, t.opt != 0 || t.beta1 == 0), (0x2C, t.opt == 2 || t.beta2 == 0), (0x30, t.opt == 2 || t.eps == 0),
    (0x38, !(f32 t.clip).isNan && !t.clip.msb), (0x3C, if t.opt = 2 then t.step != 0 else t.step == 0)]
  pass1.or (firstFault [
    (0x00, pathOk (t.weights + last)), (0x08, t.m == 0 || pathOk (t.m + last)), (0x10, t.v == 0 || pathOk (t.v + last))])

/-! ## Acceptance (R291, R314) -/

/-- What acceptance meets; `unread` where bytes of a block are awaited, in an absent sector or behind the side log. -/
inductive DrainGot where
  | ok (words tensor : List Word)
  | fault (field : Nat)
  | waits (va : Nat)
  | unread
  deriving DecidableEq, Repr

/-- The first fields of a DRAIN block, and the address of its tensor block. -/
def State.drainHead (s : State) (w : Who) (tiles : Nat) (m : DrainBlock) : Option Nat :=
  firstFault [
    (0, decide (m.tile < tiles)), (4, 1 ≤ m.tiles && m.tiles ≤ 192 && m.tile + m.tiles ≤ tiles),
    (8, (s.judgeBlock w [0] 64 64 m.tensor).isNone && pathOk (m.tensor + 63))]

/-- Judge both blocks from what their reads met: the DRAIN block whole first, then the tensor block (R291). -/
def State.drainJudge (s : State) (w : Who) (tiles : Nat) (head : List Byte) (tensor : Got) : DrainGot :=
  let m := drainBlock head
  match s.drainHead w tiles m with
  | some f => .fault f
  | none => match tensor with
    | .unmapped v => .waits v
    | .refused _ => .fault 0xFFFD
    | .absent => .unread
    | .ok bs =>
      let t := tensorBlock bs
      match firstFault [(16, decide (m.row0 < t.rows)), (20, decide (m.col0 < t.cols)), (24, s.barrierOk w m.barrier),
          (24, s.barrierExtentOk w m.barrier)] with
      | some f => .fault f
      | none => match t.fault with
        | some f => .fault (0x100 + f)
        | none => .ok (blockWords head 8) (blockWords bs 16)

/-- Read and judge both blocks now. -/
def State.drainGot (s : State) (w : Who) (tiles : Nat) (a : Dword) : DrainGot :=
  match s.readAs w a 32 with
  | .unmapped v => .waits v
  | .refused _ => .fault 0xFFFD
  | .absent => .unread
  | .ok bs => s.drainJudge w tiles bs (s.readAs w (tensorAddr bs) 64)

/-- An nms entry (R293). -/
def nmsEntry (field clipped result : Nat) (seq : Word) : Dword :=
  BitVec.ofNat 64 (field * 2 ^ 48 + min 0xFF clipped * 2 ^ 40 + result * 2 ^ 32 + seq.toNat)

/-- The nms queue. -/
def nmsQueue : Nat := 11

/-- The lines of weights that a DRAIN covers, by line number within the tensor. -/
def drainLines (m : DrainBlock) (t : TensorBlock) : List Nat :=
  (List.range (min 64 (t.rows - m.row0))).foldl (fun r i =>
    let first := (m.row0 + i) * t.cols + m.col0
    let n := min (64 * m.tiles) (t.cols - m.col0)
    let lo := first / 256
    let hi := (first + n - 1) / 256
    r ++ ((List.range (hi + 1 - lo)).map (lo + ·)).filter fun l => !r.contains l) []

/-- A DRAIN whose blocks are read has its words, its tiles and its lines. -/
def DrainCmd.read (d : DrainCmd) (words tensor : List Word) : DrainCmd :=
  let m := drainBlock (wordBytes words)
  let t := tensorBlock (wordBytes tensor)
  { d with unread := none, words := words, tensor := tensor, tilesLeft := (List.range m.tiles).map (m.tile + ·),
           linesLeft := drainLines m t }

/-- The blocks of a DRAIN have been read as loads of the issuing core (R204). -/
def State.hasReadDrain (s : State) (w : Who) (a : Dword) (words : List Word) : State :=
  (s.hasRead w a 32).hasRead w (drainBlock (wordBytes words)).tensor 64

/-- The core accepts a DRAIN of group `g` (R291): answered at once, or handed to the NMUs with its place in the
order of R205. One whose blocks have bytes in an absent sector or behind the side log has its place too, on every tile of
the block; those bytes are read as loads issued now would (R204, R231, R314; log entry 50). -/
def State.drainAccept (s : State) (c : Nat) (g : Group) (seq : Word) (a : Dword) (got : DrainGot) : State :=
  let w := engineWho c g.launch g.block
  let tiles := ((s.launch g.launch).getD Launch.reset).accTiles
  let cmd : DrainCmd :=
    { order := s.order, core := c, launch := g.launch, block := g.block, grp := g.grp, seq := seq, unread := some a,
      src := s.capture w 32 a 32, wanted := s.opens w 32 0 a 32, upTo := (s.core c).nextId, words := [],
      tensor := [], tilesLeft := List.range tiles, grads := [], linesLeft := [], written := [], clipped := 0, refused := none }
  let add := fun (s : State) (d : DrainCmd) => { s with order := s.order + 1, drains := s.drains ++ [d] }
  match got with
  | .fault f => s.deliver g.launch g.block g.grp nmsQueue (nmsEntry f 0 1 seq)
  | .ok words tensor => add (s.hasReadDrain w a words) (cmd.read words tensor)
  | .unread => add s (s.supplyDrain cmd).1
  | .waits _ => s

/-- The group with a DRAIN counted, and its number in D (R314). -/
def Group.countDrain (g : Group) (n : Bool) (d : Code) : Group :=
  let k := g.seqs.drain + 1
  ({ g with seqs := { g.seqs with drain := k } } : Group).writeS n d k

/-- DRAIN (R314): accepted at issue, or held while a page of either block is unmapped. -/
def execDrain (n : Bool) (d ca : Code) (s : State) : Out :=
  s.ucommit (.drain n d ca) [.pair ca, .dst d n] (fun x => s.blockTrap x blockPaths 32 32 (s.usrc64 x ca)) fun x =>
    let a := s.usrc64 x ca
    let tiles := ((s.launch x.grp.launch).getD Launch.reset).accTiles
    match s.drainGot (engineWho x.c x.grp.launch x.grp.block) tiles a with
    | .waits v => .next ((s.noteUnit x.grp.launch v 3).holdGroup x (.drain a d n))
    | got => .next ((s.finishCommit x (x.grp.countDrain n d)).drainAccept x.c x.grp (x.grp.seqs.drain + 1) a got)

/-- DRAIN_DEFERRED_ACCEPT (R314): a held DRAIN whose blocks can be read is accepted. -/
def execDrainDeferredAccept (c g : Nat) (s : State) : Out :=
  match s.group c g with
  | none => .fault .notEnabled
  | some x => match x.hold with
    | some (_, .drain a d n) =>
      let tiles := ((s.launch x.launch).getD Launch.reset).accTiles
      match s.drainGot (engineWho c x.launch x.block) tiles a with
      | .waits v => s.waitPage x.launch v 3
      | got => .next ((s.completeHold c g true fun h => h.countDrain n d).drainAccept c x (x.seqs.drain + 1) a got)
    | _ => .fault .notEnabled

/-! ## Taking the tiles (R292) -/

/-- The gradients of one tile: by tensor element number, where the element lies in the tensor. -/
def State.tileGrads (s : State) (d : DrainCmd) (tile : Nat) : Tbl Word :=
  let m := drainBlock (wordBytes d.words)
  let t := tensorBlock (wordBytes d.tensor)
  let k := tile - m.tile
  (List.range (min 64 (t.rows - m.row0))).flatMap fun i =>
    (List.range (min 64 (t.cols - m.col0 - 64 * k))).map fun j =>
      ((m.row0 + i) * t.cols + m.col0 + 64 * k + j, s.wordAt ⟨.tiles d.block, 16384 * tile + 4 * (64 * i + j)⟩)

/-- 1.0 in FP32. -/
def one32 : Word := 0x3F800000

/-- POW32 (R56): the bits of `n` from bit `k - 1` down. -/
def pow32 (b n : Word) : Nat → Word → Word × Events
  | 0, p => (p, [])
  | k + 1, p =>
    let (q, e1) := fmul p p
    let (r, e2) := if n.getLsbD k then fmul q b else (q, [])
    let (z, e3) := pow32 b n k r
    (z, e1 ++ e2 ++ e3)

/-- What depends on the tensor block alone: 1 - beta1, 1 - beta2, and the two denominators of the bias
corrections, with the events counted once for each DRAIN (R56). -/
structure Once where
  c1 : Word
  c2 : Word
  d1 : Word
  d2 : Word
  ev : Events
  deriving DecidableEq, Repr

def TensorBlock.once (t : TensorBlock) : Once :=
  if t.opt ≠ 2 then { c1 := 0, c2 := 0, d1 := 0, d2 := 0, ev := [] }
  else
    let (c1, e1) := fsub one32 t.beta1
    let (c2, e2) := fsub one32 t.beta2
    let (p1, e3) := pow32 t.beta1 t.step 32 one32
    let (p2, e4) := pow32 t.beta2 t.step 32 one32
    let (d1, e5) := fsub one32 p1
    let (d2, e6) := fsub one32 p2
    { c1 := c1, c2 := c2, d1 := d1, d2 := d2, ev := e1 ++ e2 ++ e3 ++ e4 ++ e5 ++ e6 }

/-- Replace DRAIN `k`. -/
def State.setDrain (s : State) (k : Nat) (d : DrainCmd) : State := { s with drains := lset s.drains k d }

/-- The blocks of DRAIN `k`, which was accepted unread, have been read: its tiles are known, or it is answered (R204,
R291). -/
def State.drainRead (s : State) (k : Nat) (d0 : DrainCmd) (a : Dword) : Out :=
  let w := engineWho d0.core d0.launch d0.block
  let (d, ps) := s.supplyDrain d0
  let tiles := ((s.launch d.launch).getD Launch.reset).accTiles
  let answer := fun (f : Nat) =>
    (({ s with drains := ldrop s.drains k } : State).deliver d.launch d.block d.grp nmsQueue (nmsEntry f 0 1 d.seq) : State)
  let head := (d.src.take 32).filterMap id
  let trouble := s.awaitTrouble w d.wanted
  if head.length < 32 then
    match trouble with
    | .unmapped v => s.waitPage d.launch v 3
    | .refused _ => .next (answer 0xFFFD)
    | _ => .fault .notEnabled
  else
    let tensor : Got := match trouble with
      | .ok _ => .ok ((d.src.drop 32).filterMap id)
      | g => g
    match s.drainJudge w tiles head tensor with
    | .waits v => s.waitPage d.launch v 3
    | .fault f => .next (answer f)
    | .ok words tensor => .next (((s.readPlaces d.core ps).hasReadDrain w a words).setDrain k (d.read words tensor))
    | .unread => .fault .notEnabled

/-- DRAIN_TILE_TAKE (R292): the next tile is read and set to +0, once every command accepted earlier on it has
finished; a DRAIN not yet read is read first. -/
def execDrainTileTake (k : Nat) (s : State) : Out :=
  match s.drains[k]? with
  | none => .fault .notEnabled
  | some d => match d.unread with
    | some a => s.drainRead k d a
    | none => match d.tilesLeft with
      | [] => .fault .notEnabled
      | tile :: rest =>
        if s.tileBusy d.core d.order d.block (tile, 1) then .fault .notEnabled
        else
          let s1 := s.setBytes ⟨.tiles d.block, 16384 * tile⟩ (List.replicate 16384 0)
          let s2 := s1.setDrain k { d with tilesLeft := rest, grads := d.grads ++ s.tileGrads d tile }
          .next (if rest.isEmpty then s2.countEvents d.launch 0 (tensorBlock (wordBytes d.tensor)).once.ev else s2)

/-! ## A line's update (R56, R292) -/

/-- One element: w, m and v after it, and its events. -/
def TensorBlock.stepElement (t : TensorBlock) (o : Once) (g w m v : Word) : Word × Word × Word × Events :=
  match t.opt with
  | 0 =>
    let (a, e1) := fmul t.decay w
    let (h, e2) := fadd g a
    let (b, e3) := fmul t.lr h
    let (w1, e4) := fsub w b
    (w1, m, v, e1 ++ e2 ++ e3 ++ e4)
  | 1 =>
    let (a, e1) := fmul t.decay w
    let (h, e2) := fadd g a
    let (b, e3) := fmul t.beta1 m
    let (m1, e4) := fadd b h
    let (x, e5) := fmul t.lr m1
    let (w1, e6) := fsub w x
    (w1, m1, v, e1 ++ e2 ++ e3 ++ e4 ++ e5 ++ e6)
  | _ =>
    let (a, e1) := fmul t.beta1 m
    let (b, e2) := fmul o.c1 g
    let (m1, e3) := fadd a b
    let (a2, e4) := fmul t.beta2 v
    let (gg, e5) := fmul g g
    let (b2, e6) := fmul o.c2 gg
    let (v1, e7) := fadd a2 b2
    let (mh, e8) := fdiv m1 o.d1
    let (vh, e9) := fdiv v1 o.d2
    let (r, e10) := fsqrt vh
    let (r1, e11) := fadd r t.eps
    let (h, e12) := fdiv mh r1
    let (x, e13) := fmul t.decay w
    let (y, e14) := fadd h x
    let (z, e15) := fmul t.lr y
    let (w1, e16) := fsub w z
    (w1, m1, v1, e1 ++ e2 ++ e3 ++ e4 ++ e5 ++ e6 ++ e7 ++ e8 ++ e9 ++ e10 ++ e11 ++ e12 ++ e13 ++ e14 ++ e15 ++ e16)

/-- The norm's square over the covered elements, ascending. -/
def squareSum : List Word → Option Word → Word × Events
  | [], acc => (acc.getD 0, [])
  | g :: gs, acc =>
    let (x, e1) := fmul g g
    let (y, e2) := match acc with | some a => fadd a x | none => (x, [])
    let (z, e3) := squareSum gs (some y)
    (z, e1 ++ e2 ++ e3)

/-- The gradients after clipping, whether the line was clipped, and the events of n2, norm and c and of the
scaled gradients. -/
def clipLine (clip : Word) (gs : List Word) : List Word × Bool × Events :=
  if (f32 clip).isZero then (gs, false, [])
  else
    let (n2, e1) := squareSum gs none
    let (norm, e2) := fsqrt n2
    if (f32 clip).lt (f32 norm) then
      let (c, e3) := fdiv clip norm
      let xs := gs.map fun g => fmul g c
      (xs.map (·.1), true, e1 ++ e2 ++ e3 ++ xs.flatMap (·.2))
    else (gs, false, e1 ++ e2)

/-- What a line of weights, m or v meets at the NMU. -/
inductive LineGot where
  | place (l : Loc)
  | unmapped (va : Nat)
  | refused
  deriving DecidableEq, Repr

/-- A line must be local and allow the read and the write. -/
def State.lineGot (s : State) (d : DrainCmd) (base : Dword) (line : Nat) : LineGot :=
  let va := vaOf base + 1024 * line
  if s.unitWaits d.launch va then .unmapped va
  else match s.translate d.core d.launch .load va, s.translate d.core d.launch .store va with
  | .unmapped, _ => .unmapped va
  | _, .unmapped => .unmapped va
  | .ok l, .ok _ => if l.place = .local then .place l else .refused
  | _, _ => .refused

/-- Update the covered elements of a line one by one. -/
def State.stepLine (s : State) (launch : Nat) (t : TensorBlock) (o : Once) (w m v : Option Loc) : List (Nat × Word) → State
  | [] => s
  | (i, g) :: rest =>
    let at_ := fun (l : Option Loc) => match l with | some x => s.wordAt (x.add (4 * i)) | none => 0
    let (w1, m1, v1, ev) := t.stepElement o g (at_ w) (at_ m) (at_ v)
    let put := fun (s : State) (l : Option Loc) (x : Word) => match l with | some y => s.setWord (y.add (4 * i)) x | none => s
    (put (put (put s w w1) m m1) v v1 |>.countEvents launch 0 ev).stepLine launch t o w m v rest

/-- The DRAIN after one more line; after the last, the barrier is credited and the group answered (R292). Lines refused
(result 2) are reported before a barrier object found malformed (log entry 33). -/
def State.drainLine (s : State) (k : Nat) (d : DrainCmd) : State :=
  if !d.linesLeft.isEmpty then s.setDrain k d
  else
    let m := drainBlock (wordBytes d.words)
    let w := engineWho d.core d.launch d.block
    let s1 := { s with drains := ldrop s.drains k }
    let (s2, ok) := if m.barrier = 0 then (s1, true) else match s1.barrierPlace w m.barrier with
      | .inl _ => (s1, false)
      | .inr l => s1.subtractBytes l (m.tiles * 16384) d.written
    let e := match d.refused with
      | some f => nmsEntry f d.clipped 2 d.seq
      | none => if ok then nmsEntry 0xFFFF d.clipped 0 d.seq else nmsEntry 24 0 1 d.seq
    s2.deliver d.launch d.block d.grp nmsQueue e

/-- A cache's lines that it holds of before an NMU's update of the line at a place. -/
def oldWith (m : List (Loc × List Byte)) (old : List Nat) (l : Loc) : List Nat :=
  if (m.any fun p => p.1.meets p.2.length l 1024) && !old.contains (lineOf l) then lineOf l :: old else old

/-- An NMU is about to update the line at `l`: the loads of it whose instruction has read other words of the line take
their bytes now, and every cache that holds bytes of it holds them of before the update (R207, R294, R323). -/
def State.beforeUpdate (s : State) (l : Loc) : State :=
  let t := s.cores.foldl (fun s ck => s.takeLoads ck.1 ((s.core ck.1).loads.filterMap fun r =>
    if !r.tied then none
    else match s.loadLoc ck.1 r with
      | some m => if m.meets r.size l 1024 then some (r, s.bytesBefore ck.1 r.id m r.size) else none
      | none => none)) s
  { t with
    cores := t.cores.map fun (c, k) => (c, { k with old := oldWith k.snap k.old l })
    constantsOld := t.constants.map fun (h, m) => (h, oldWith m (tget [] t.constantsOld h) l) }

/-- The lowest refused field so far. -/
def lowerField (a : Option Nat) (b : Nat) : Option Nat := some (match a with | some x => min x b | none => b)

/-- NMU_LINE_UPDATE (R56, R292): line `line` of DRAIN `k` is updated; an unmapped line waits, and one that is
refused stays as it is. -/
def execNmuLineUpdate (k line : Nat) (s : State) : Out :=
  match s.drains[k]? with
  | none => .fault .notEnabled
  | some d =>
    let t := tensorBlock (wordBytes d.tensor)
    if d.unread.isSome ∨ !d.tilesLeft.isEmpty ∨ !d.linesLeft.contains line then .fault .notEnabled
    else
      let bases := [(0x100, t.weights)] ++ (if t.opt = 0 then [] else [(0x108, t.m)]) ++ (if t.opt = 2 then [(0x110, t.v)] else [])
      let gots := bases.map fun b => (b.1, s.lineGot d b.2 line)
      match gots.findSome? fun g => match g.2 with | .unmapped v => some v | _ => none with
      | some v => s.waitPage d.launch v 3
      | none =>
        let rest := { d with linesLeft := d.linesLeft.filter (· != line) }
        match gots.find? fun g => g.2 == .refused with
        | some (f, _) => .next (s.drainLine k { rest with refused := lowerField d.refused f })
        | none =>
          let place := fun (i : Nat) => match gots[i]? with | some (_, .place l) => some l | _ => none
          let mine := (List.range 256).filterMap fun i => (d.grads.find? fun p => p.1 == 256 * line + i).map fun p => (i, p.2)
          let (gs, clipped, ev) := clipLine t.clip (mine.map (·.2))
          let lines := gots.filterMap fun g => match g.2 with | .place l => some l | _ => none
          let s0 := lines.foldl (fun s l => (s.beforeUpdate l).touch l) s
          let s1 := (s0.countEvents d.launch 0 ev).stepLine d.launch t t.once (place 0) (place 1) (place 2) ((mine.map (·.1)).zip gs)
          .next (s1.drainLine k { rest with written := d.written ++ lines.map (·, 1024), clipped := d.clipped + if clipped then 1 else 0 })

end Sys2Proof.Machine
end

