-- ==== Sys2Proof/Machine/Departure.lean ====
section
/-! DEFINITION. Departure stations (R295 to R302, R372 to R374): acceptance of REGO, arrivals, departures, late
packets, and the root's records. -/

namespace Sys2Proof.Machine

/-! ## Collectives as the stations see them (R295, R301) -/

/-- A station's entry: parent, child index there, expected children. -/
def Collective.station (c : Collective) (st : Nat) : Option (Nat × Nat × Nat) :=
  (c.stations.find? fun x => x.1 == st).map (·.2)

/-- The root station. -/
def Collective.root (c : Collective) : Nat := ((c.stations.find? fun x => x.2.1 == 0xFFFF).map (·.1)).getD 0xFFFF

/-- The contributor at the root station with the lowest child index there (R296). -/
def Collective.rootContributor (c : Collective) : Option Nat :=
  (List.range c.n).foldl (fun (r : Option Nat) i =>
    if (c.contributors.getD i (0xFFFF, 0)).1 = c.root then
      match r with
      | none => some i
      | some j => if (c.contributors.getD i (0, 0)).2 < (c.contributors.getD j (0, 0)).2 then some i else r
    else r) none

/-- Where the data of a record begins. -/
def Collective.dataAt (c : Collective) : Nat := 16 + 16 * ((c.n + 127) / 128)
/-- The bytes of a slot of the late ring. -/
def Collective.slotBytes (c : Collective) : Nat := (c.dataAt + c.bytes + 63) / 64 * 64

/-- The open collective of an id and a partition. -/
def State.collectiveOf (s : State) (id : Dword) (part : Nat) : Option Collective :=
  s.collectives.find? fun c => c.id == id && c.part == part

/-! ## Combining (R298) -/

/-- One word of two children. -/
def combineWord (op : Nat) (a b : Word) : Word :=
  match op with
  | 0 => (fadd a b).1
  | 1 => fmax32 a b
  | _ => a + b

/-- Data of two children. -/
def combineData (op : Nat) (a b : List Word) : List Word := (a.zip b).map fun (x, y) => combineWord op x y

/-- Insert an arrival behind those of lower or equal child index. -/
def insertChild (a : Arrival) : List Arrival → List Arrival
  | [] => [a]
  | b :: bs => if a.child < b.child then a :: b :: bs else b :: insertChild a bs

/-- Union of manifests, ascending. -/
def manifestOr (n : Nat) (ms : List (List Nat)) : List Nat := (List.range n).filter fun i => ms.any (·.contains i)

/-- A contribution as a station reads it: a NaN of an FP32 operation by R43, its payload dropped (R42, R299). -/
def combineFirst (op : Nat) (d : List Word) : List Word :=
  if op < 2 then d.map fun w => if (f32 w).isNan then nan32 else w else d

/-- The data of arrivals in ascending child index. -/
def combineAll (op : Nat) : List Arrival → List Word
  | [] => []
  | a :: as => as.foldl (fun d b => combineData op d b.data) (combineFirst op a.data)

/-- The children present, each once. -/
def childrenOf (l : List Nat) : Nat := l.eraseDups.length

/-! ## Rounds (R300) -/

/-- Round `a` is newer than round `b`. -/
def newer (a b : Word) : Bool := 1 ≤ (a - b).toNat && (a - b).toNat < 2 ^ 31

/-- The round belongs to this station and collective. -/
def RoundState.isAt (r : RoundState) (st : Nat) (id : Dword) (part : Nat) : Bool :=
  r.station == st && r.id == id && r.part == part

/-- The same round of the same station. -/
def RoundState.same (r q : RoundState) : Bool := q.isAt r.station r.id r.part && q.round == r.round

/-- A round at its first arrival. -/
def RoundState.new (st : Nat) (id : Dword) (part : Nat) (round deadline : Word) : RoundState :=
  { station := st, id := id, part := part, round := round, deadline := deadline, counting := deadline != 0, onTime := [],
    departed := false, lateHeld := [], lateCounting := false, kept := true, seen := [], repeats := 0, root := none,
    delivered := [], lateNumber := 0 }

/-- Put a round back. -/
def State.setRound (s : State) (r : RoundState) : State :=
  { s with rounds := s.rounds.map fun q => if r.same q then r else q }

/-- The round of a record, whether the station still keeps it or not. -/
def State.roundOf (s : State) (st : Nat) (id : Dword) (part : Nat) (round : Word) : Option RoundState :=
  s.rounds.find? fun r => r.isAt st id part && r.round == round

/-- A round that is kept no longer goes, once no record of it waits at the root; what it held goes with it. -/
def State.dropRounds (s : State) : State :=
  { s with rounds := s.rounds.filter fun r => r.kept || s.rootRecords.any fun k => r.isAt k.station k.id k.part && r.round == k.round }

/-- Make room for a round that the station has not seen: none if it keeps two newer ones, else what is left. -/
def State.openRound (s : State) (r : RoundState) : Option State :=
  let kept := s.rounds.filter fun q => q.isAt r.station r.id r.part && q.kept
  let old := kept.filter fun q => newer r.round q.round
  if kept.length < 2 then some { s with rounds := s.rounds ++ [r] }
  else match old with
    | [] => none
    | q :: qs =>
      let oldest := qs.foldl (fun (m : RoundState) x => if newer m.round x.round then x else m) q
      let gone := { oldest with kept := false, onTime := [], lateHeld := [], counting := false, lateCounting := false }
      some ({ s.setRound gone with rounds := (s.setRound gone).rounds ++ [r] } : State).dropRounds

/-- Count a discarded arrival in the newest round that the station keeps (R300). -/
def State.countOld (s : State) (st : Nat) (id : Dword) (part : Nat) : State :=
  match s.rounds.filter fun q => q.isAt st id part && q.kept with
  | [] => s
  | q :: qs =>
    let r := qs.foldl (fun (m : RoundState) x => if newer x.round m.round then x else m) q
    s.setRound { r with repeats := r.repeats + 1 }

/-! ## Packets that leave (R298, R299) -/

/-- Send a packet to the parent, or leave it at the root for delivery. -/
def State.sendPacket (s : State) (c : Collective) (r : RoundState) (late : Bool) (as : List Arrival) : State :=
  let data := combineAll c.op as
  let manifest := manifestOr c.n (as.map (·.manifest))
  let repeats := r.repeats + as.foldl (fun n a => n + a.repeats) 0
  match c.station r.station with
  | none => s
  | some (parent, child, _) =>
    if parent = 0xFFFF then
      { s with rootRecords := s.rootRecords ++ [{ station := r.station, id := r.id, part := r.part, round := r.round, late := late,
                                                   manifest := manifest, repeats := repeats, data := data }] }
    else
      let p : Packet := { id := r.id, part := r.part, toStation := parent, child := child, round := r.round, deadline := r.deadline,
                          late := late, manifest := manifest, repeats := repeats, data := data }
      if parent / 1024 = c.module then { s with packets := s.packets ++ [p] } else { s with sent := s.sent ++ [p] }

/-- Every expected child has sent something of the round. -/
def RoundState.allSeen (r : RoundState) (expected : Nat) : Bool := decide (expected ≤ childrenOf (r.seen.map (·.1)))

/-- The late packet leaves with what the station holds. -/
def State.sendLate (s : State) (c : Collective) (r : RoundState) : State :=
  (s.setRound { r with lateHeld := [], lateCounting := false, repeats := 0 }).sendPacket c r true r.lateHeld

/-- A station that has departed holds late arrivals: they leave if no child is missing. -/
def State.judgeLate (s : State) (c : Collective) (r : RoundState) (expected : Nat) (fresh : Bool) : State :=
  if r.lateHeld.isEmpty then s.setRound r
  else if r.allSeen expected then s.sendLate c r
  else s.setRound (if fresh then { r with lateCounting := r.deadline != 0 } else r)

/-- The station departs the round (R298, R299): what it has goes, if anything; late packets that it holds count
as arriving now. -/
def State.depart (s : State) (c : Collective) (r : RoundState) (expected : Nat) : State :=
  let gone := { r with departed := true, counting := false, onTime := [] }
  if r.onTime.isEmpty then s.judgeLate c gone expected true
  else ((s.setRound r).sendPacket c r false r.onTime).judgeLate c { gone with repeats := 0 } expected true

/-- An arrival of a kept round that is no repeat. -/
def State.takeArrival (s : State) (c : Collective) (r0 : RoundState) (expected : Nat) (late : Bool) (a : Arrival) : State :=
  let r := { r0 with seen := r0.seen ++ [(a.child, a.manifest)] }
  if r.departed then s.judgeLate c { r with lateHeld := insertChild a r.lateHeld } expected r.lateHeld.isEmpty
  else if late then s.setRound { r with lateHeld := insertChild a r.lateHeld }
  else
    let r1 := { r with onTime := insertChild a r.onTime }
    if expected ≤ childrenOf (r1.onTime.map (·.child)) then s.depart c r1 expected else s.setRound r1

/-- An arrival at a station (R298 to R300, R372). -/
def State.stationArrive (s : State) (c : Collective) (st : Nat) (round deadline : Word) (late : Bool) (a : Arrival) : State :=
  match c.station st with
  | none => s
  | some (_, _, expected) =>
    match s.rounds.find? fun r => r.isAt st c.id c.part && r.round == round && r.kept with
    | some r =>
      if r.seen.any fun x => x.1 == a.child && x.2.any a.manifest.contains then s.setRound { r with repeats := r.repeats + 1 }
      else s.takeArrival c r expected late a
    | none =>
      let r := RoundState.new st c.id c.part round deadline
      match s.openRound r with
      | none => s.countOld st c.id c.part
      | some t => t.takeArrival c r expected late a

/-! ## Acceptance of a REGO (R296, R297) -/

structure RegoBlock where
  handle : Dword
  src : Dword
  bytes : Nat
  op : Nat
  contributor : Nat
  deadline : Word
  dst : Dword
  round : Word
  lateSlots : Nat
  lateDst : Dword
  deriving DecidableEq, Repr

def regoBlock (bs : List Byte) : RegoBlock :=
  { handle := addrIn bs 0, src := addrIn bs 8, bytes := wordIn bs 0x10, op := wordIn bs 0x14, contributor := wordIn bs 0x18,
    deadline := BitVec.ofNat 32 (wordIn bs 0x1C), dst := addrIn bs 0x20, round := BitVec.ofNat 32 (wordIn bs 0x28),
    lateSlots := wordIn bs 0x2C, lateDst := addrIn bs 0x30 }

/-- The first faulty field of a block whose handle is good (R296, R390). -/
def State.regoFault (s : State) (w : Who) (c : Collective) (cluster : Nat) (b : RegoBlock) (reserved : Bool) : Option Nat :=
  let root := c.rootContributor == some b.contributor
  let out := fun (a : Dword) => if root then a != 0 && s.fieldOk w blockPaths 64 a else a == 0
  let pass1 := firstFault [
    (0x08, s.fieldOk w blockPaths 16 b.src), (0x10, b.bytes == c.bytes), (0x14, b.op == c.op),
    (0x18, decide (b.contributor < c.n) && (c.contributors.getD b.contributor (0xFFFF, 0)).1 == 1024 * c.module + cluster),
    (0x20, out b.dst), (0x2C, if root then 1 ≤ b.lateSlots && b.lateSlots ≤ 64 else b.lateSlots == 0), (0x30, out b.lateDst),
    (0x38, reserved)]
  pass1.or (firstFault [
    (0x08, s.extentOk w b.src b.bytes), (0x20, !root || s.extentOk w b.dst (c.dataAt + c.bytes)),
    (0x30, !root || s.extentOk w b.lateDst (b.lateSlots * c.slotBytes))])

/-- What the station meets at an entry. -/
inductive RegoGot where
  | ok (c : Collective) (b : RegoBlock) (data : List Word)
  | fault (field contributor : Nat)
  | waits (va : Nat)
  | absent
  deriving DecidableEq, Repr

/-- Read and judge a block, then read the contribution. Where the block's own page refuses the read, no contributor field
is read, and the bits that report it are a free value (R297; log entry 33). -/
def State.regoGot (s : State) (w : Who) (part cluster : Nat) (a : Dword) : RegoGot :=
  match s.readAs w a 64 with
  | .unmapped v => .waits v
  | .refused _ => .fault 0xFFFD ((Config.freeDword s.freeCtr).toNat % 2 ^ 32)
  | .absent => .absent
  | .ok bs =>
    let b := regoBlock bs
    match s.collectives.find? fun c => c.handle == b.handle && c.part == part with
    | none => .fault 0 b.contributor
    | some c => match s.regoFault w c cluster b (zeroIn bs 0x38 8) with
      | some f => .fault f b.contributor
      | none => match s.readAs w b.src b.bytes with
        | .unmapped v => .waits v
        | .refused _ => .fault 0xFFFD b.contributor
        | .absent => .absent
        | .ok d => .ok c b (blockWords d (b.bytes / 4))

/-- The rdc, rds and rdl queues. -/
def rdcQueue : Nat := 8
def rdsQueue : Nat := 9
def rdlQueue : Nat := 10

/-- An rds or rdl entry that carries no record (R297). -/
def regoEntry (unwritten : Bool) (field low : Nat) : Dword :=
  BitVec.ofNat 64 (2 ^ 63 + (if unwritten then 2 ^ 62 else 0) + field % 2 ^ 16 * 2 ^ 32 + low)

/-- The root keeps the addresses of the first REGO of the root contributor accepted for the round (R301). -/
def State.rootInfo (s : State) (c : Collective) (b : RegoBlock) (x : Group) : State :=
  if c.rootContributor ≠ some b.contributor then s
  else match s.roundOf c.root c.id c.part b.round with
    | none => s
    | some r =>
      if r.root.isSome then s
      else s.setRound { r with root := some (b.dst.toNat, b.lateSlots, b.lateDst.toNat, x.launch, x.block, x.grp) }

/-- The station takes the head entry of a group. -/
def State.regoTake (s : State) (c g : Nat) (x : Group) (got : RegoGot) : State :=
  let w := engineWho c x.launch x.block
  let block := s.hasRead w ((x.queue rdcQueue).headD 0) 64
  let read := match got with
    | .ok _ b _ => block.hasRead w b.src b.bytes
    | _ => block
  let s1 := read.setGroup c g (x.setQueue rdcQueue ((x.queue rdcQueue).drop 1))
  let s2 := match got with
    | .fault f low => ({ s1 with freeCtr := s1.freeCtr + 1 } : State).deliver x.launch x.block x.grp rdsQueue (regoEntry false f low)
    | .ok k b data =>
      let (st, child) := k.contributors.getD b.contributor (0xFFFF, 0)
      (s1.stationArrive k st b.round b.deadline false
        { child := child, manifest := [b.contributor], repeats := 0, data := data }).rootInfo k b x
    | _ => s1
  s2.endBlock x.block

/-- STATION_ACCEPT_REGO (R297, R373): the cluster station accepts the head rdc entry of group `g`. -/
def execStationAcceptRego (c g : Nat) (s : State) : Out :=
  match s.group c g with
  | none => .fault .notEnabled
  | some x => match x.queue rdcQueue with
    | [] => .fault .notEnabled
    | a :: _ =>
      match s.regoGot (engineWho c x.launch x.block) (s.partOf x.launch) (hwCluster c) a with
      | .waits v => s.waitPage x.launch v 3
      | .absent => .fault .notEnabled
      | got => .next (s.regoTake c g x got)

/-! ## Packets and countdowns -/

/-- A packet reaches the station it was sent to, if its collective is open here and names both the station and its child
station that sent it, one of this module where the packet comes from `within` (R367). -/
def State.packetArrives (s : State) (p : Packet) (within : Bool) : State :=
  match s.collectiveOf p.id p.part with
  | none => s
  | some c =>
    let sender := c.stations.any fun (st, parent, child, _) =>
      parent == p.toStation && child == p.child && (st / 1024 == c.module) == within
    if p.toStation / 1024 ≠ c.module ∨ !sender then s
    else s.stationArrive c p.toStation p.round p.deadline p.late
      { child := p.child, manifest := p.manifest, repeats := p.repeats, data := p.data.take (c.bytes / 4) }

/-- STATION_PACKET_ARRIVAL (R298, R372): a packet of a child station of this module, one that is lost on its way
(R302), or one that a peer port admits (R367). -/
def execStationPacketArrival (src : PacketSource) (s : State) : Out :=
  match src with
  | .within k => match s.packets[k]? with
    | none => .fault .notEnabled
    | some p => .next (({ s with packets := ldrop s.packets k } : State).packetArrives p true).endCollectives
  | .lost k => match s.packets[k]? with
    | none => .fault .notEnabled
    | some _ => .next ({ s with packets := ldrop s.packets k } : State).endCollectives
  | .peer port p =>
    let admits := s.partitions.any fun (_, q) => q.active && (q.peers[port]?.getD 0).getLsbD p.part
    if !s.ready || port < 2 || 8 ≤ port then .fault .notEnabled
    else if !admits then .next s.drop
    else .next (s.packetArrives p false)

/-- The collective and the expected children of a round's station. -/
def State.roundOwner (s : State) (r : RoundState) : Option (Collective × Nat) :=
  (s.collectiveOf r.id r.part).bind fun c => (c.station r.station).map fun x => (c, x.2.2)

/-- STATION_DEADLINE_EXPIRY (R298): the countdown of round `k` expires. -/
def execStationDeadlineExpiry (k : Nat) (s : State) : Out :=
  match s.rounds[k]? with
  | none => .fault .notEnabled
  | some r => match s.roundOwner r with
    | none => .fault .notEnabled
    | some (c, expected) =>
      if r.departed || !r.counting || !r.kept then .fault .notEnabled else .next (s.depart c r expected).endCollectives

/-- LATE_COUNTDOWN_EXPIRY (R299): the late countdown of round `k` expires. -/
def execLateCountdownExpiry (k : Nat) (s : State) : Out :=
  match s.rounds[k]? with
  | none => .fault .notEnabled
  | some r => match s.roundOwner r with
    | none => .fault .notEnabled
    | some (c, _) =>
      if !r.departed || !r.lateCounting || r.lateHeld.isEmpty || !r.kept then .fault .notEnabled
      else .next (s.sendLate c r).endCollectives

/-! ## The root's records (R301, R374) -/

/-- The bytes of a record. -/
def recordBytes (c : Collective) (r : RootRecord) (complete : Bool) : List Byte :=
  let flags := (if complete then 1 else 0) + (if r.late then 2 else 0) + min 0xFFFF r.repeats * 65536
  let bit := fun (i : Nat) => if r.manifest.contains i then 2 ^ (i % 32) else 0
  let word := fun (w : Nat) => (List.range 32).foldl (fun v j => v + bit (32 * w + j)) 0
  leBytes r.round.toNat 4 ++ leBytes r.manifest.length 4 ++ leBytes flags 4 ++ leBytes c.bytes 4 ++
  (List.range ((c.dataAt - 16) / 4)).flatMap (fun w => leBytes (word w) 4) ++ wordBytes r.data

/-- On whose behalf the root writes: the root contributor's group, but through no core. -/
def rootWho (launch block : Nat) : Who :=
  { core := 320, launch := launch, block := block, thread := 0, supervisor := false, engine := true }

/-- Where a late slot stands. -/
def State.slotPlace (s : State) (launch block : Nat) (a : Dword) : Option Loc :=
  match (s.resolve (rootWho launch block) .store a).2 with
  | .ok l => some l
  | _ => none

/-- Some group's rdl still holds, or will be given, the entry of a record at that place, of whatever round (R301). -/
def State.slotHeld (s : State) (l : Loc) : Bool :=
  let names := fun (launch block : Nat) (e : Dword) => s.slotPlace launch block e == some l
  (s.waitingEntries.any fun w => w.q == rdlQueue && names w.launch w.block w.entry) ||
  (s.cores.any fun (_, k) => k.groups.any fun (_, g) => match g with
    | some x => (x.queue rdlQueue).any (names x.launch x.block)
    | none => false) ||
  s.saved.any fun cl => cl.any fun b => b.groups.any fun x => (x.queue rdlQueue).any (names x.launch x.block)

/-- The late slot at `a` may be written. -/
def State.slotOpen (s : State) (launch block : Nat) (a : Dword) : Bool :=
  match s.slotPlace launch block a with
  | some l => !s.slotHeld l
  | none => true

/-- The block is pre-empted. -/
def State.isSaved (s : State) (block : Nat) : Bool := s.saved.any fun cl => cl.any fun b => b.number == block

/-- Whether a record can be written: the first trouble of its pages. -/
def State.recordTrouble (s : State) (launch block n : Nat) (a : Dword) : Option Got :=
  s.rangeTrouble (rootWho launch block) .store (n / 16 + 2) a n

/-- Deliver record `k` at `a`: it is written, and then its address pushed; or an entry that says it could not be. -/
def State.deliverRecord (s : State) (k : Nat) (c : Collective) (rec : RootRecord) (r : RoundState) (a : Dword) (launch block grp : Nat)
    (refused : Bool) : State :=
  let q := if rec.late then rdlQueue else rdsQueue
  let union := manifestOr c.n [r.delivered, rec.manifest]
  let n := if rec.late then r.lateNumber + 1 else r.lateNumber
  let s1 := { s with rootRecords := ldrop s.rootRecords k }
  if refused then
    ((s1.setRound { r with lateNumber := n }).deliver launch block grp q
      (regoEntry true (if rec.late then 0x30 else 0x20) rec.round.toNat)).dropRounds
  else
    let bytes := recordBytes c rec (decide (union.length = c.n))
    let (s2, _) := (s1.setRound { r with lateNumber := n, delivered := union }).engineWrite (rootWho launch block) (bytes.length / 16 + 2) a bytes
    (s2.deliver launch block grp q a).reread.dropRounds

/-- ROOT_RECORD_DELIVERY (R301, R374): record `k`, the oldest of its round, once the root contributor's REGO is
accepted; a late one waits for its slot, and any for its pages. -/
def execRootRecordDelivery (k : Nat) (s : State) : Out :=
  match s.rootRecords[k]? with
  | none => .fault .notEnabled
  | some rec =>
    let first := (s.rootRecords.take k).all fun x => !(x.station == rec.station && x.id == rec.id && x.part == rec.part && x.round == rec.round)
    match s.collectiveOf rec.id rec.part, s.roundOf rec.station rec.id rec.part rec.round with
    | some c, some r => match r.root with
      | none => .fault .notEnabled
      | some (dst, slots, lateDst, launch, block, grp) =>
        let a := BitVec.ofNat 64 (if rec.late then lateDst + r.lateNumber % slots * c.slotBytes else dst)
        if !first || s.isSaved block || (rec.late && !s.slotOpen launch block a) then .fault .notEnabled
        else match s.recordTrouble launch block (c.dataAt + c.bytes) a with
          | some (.unmapped v) => s.waitPage launch v 3
          | some _ => .next (s.deliverRecord k c rec r a launch block grp true).endCollectives
          | none => .next (s.deliverRecord k c rec r a launch block grp false).endCollectives
    | _, _ => .fault .notEnabled

end Sys2Proof.Machine
end

