-- ==== Sys2Proof/Machine/Junction.lean ====
section
/-! DEFINITION. Junction (R144 to R153, R315, R340 to R346): binding queues, taking and judging launches,
dispatch, the end of a launch, LAUNCH, pre-emption and restart. -/

namespace Sys2Proof.Machine

/-! ## Binding queues (R343) -/

/-- The launch a queue would be, for reaching its ring: the interface's tables and heap triple (R368). Of its
heap registers bits [20:0] count as zero, as R334 has MTSR ignore them (log entry 63). -/
def State.queueLaunch (s : State) (i : Nat) : Launch :=
  let f := s.iface i
  { Launch.reset with part := (s.partOfIface i).getD 0, iface := i, ptroot := f.ptroot, heapBase := heapValue f.heapBase,
                      heapLim := heapValue f.heapLim, heapOfs := heapValue f.heapOfs }

/-- The state with that launch under the next launch's number. -/
def State.asQueue (s : State) (i : Nat) : State := s.setLaunch s.nextLaunch (s.queueLaunch i)

/-- The address of slot `w` of a ring. -/
def Iface.slotAddr (f : Iface) (w : Word) : Dword := f.ringBase + BitVec.ofNat 64 (256 * (w.toNat % f.ringSize))

/-- The words of the record at an address. -/
def State.recordAt (s : State) (w : Who) (a : Dword) : Got := s.readAs w a 256

/-- The priority of the record at a waiting queue's read index. -/
def State.headPriority (s : State) (i : Nat) : Nat :=
  let f := s.iface i
  match (s.asQueue i).readAs (launchWho s.nextLaunch) (f.slotAddr f.rdIdx + 0x34) 4 with
  | .ok bs => leNat bs / 256 % 8
  | _ => 0

/-- Interface `i` would be bound before `j`. -/
def State.boundFirst (s : State) (i j : Nat) : Bool :=
  let p := s.headPriority i
  let q := s.headPriority j
  decide (q < p) || (p == q && (decide ((s.iface i).waitSince < (s.iface j).waitSince) ||
    ((s.iface i).waitSince == (s.iface j).waitSince && decide (i ≤ j))))

/-- QUEUE_BIND (R343): a waiting queue takes a free slot, of those that wait the one of highest priority. -/
def execQueueBind (i : Nat) (s : State) : Out :=
  let f := s.iface i
  let bound := (s.ifaces.filter fun x => x.2.bound).length
  let first := s.ifaces.all fun x => !x.2.waiting || x.2.bound || s.boundFirst i x.1
  if !f.waiting || f.bound || 64 ≤ bound || !first then .fault .notEnabled
  else .next (s.setIface i { f with bound := true })

/-! ## Judging a record (R147, R149) -/

def roleNumbers : List Nat := [0, 1, 2, 3]
def sumNat (xs : List Nat) : Nat := xs.foldl (· + ·) 0
def Launch.gridX (l : Launch) : Nat := (l.word 0x28).toNat
def Launch.gridY (l : Launch) : Nat := (l.word 0x2C).toNat
def Launch.gridZ (l : Launch) : Nat := (l.word 0x30).toNat
/-- Clusters of the grid (R150). -/
def Launch.clusterCount (l : Launch) : Nat := l.gridX * l.gridY * l.gridZ / shapeBlocks l.shape

/-- The needs of one block (R149): group slots, registers, scratchpad bytes, tiles. -/
structure Needs where
  slots : Nat
  regs : Nat
  bytes : Nat
  tiles : Nat
  deriving DecidableEq, Repr

def Launch.needs (l : Launch) : Needs :=
  { slots := l.ngrp, regs := sumNat (roleNumbers.map fun r => l.groupsOf r * 32 * l.classOf r),
    bytes := l.scratchBytes + l.shareBytes + l.sliceBytes * 32 * l.ngrp, tiles := l.accTiles }

/-- What an empty core has. -/
def emptyCore : Needs := { slots := 32, regs := 65536, bytes := 1048576, tiles := 192 }

def Needs.fits (n f : Needs) : Bool :=
  decide (n.slots ≤ f.slots) && decide (n.regs ≤ f.regs) && decide (n.bytes ≤ f.bytes) && decide (n.tiles ≤ f.tiles)

/-- The cores of a cluster of a shape whose first core is `c0`, by rank (R150); none where it does not lie so. -/
def shapeCores (shape c0 : Nat) : Option (List Nat) :=
  let w := shapeWidth shape
  let n := shapeBlocks shape
  let h := n / w
  if decide (320 ≤ c0) || coreCol c0 % 4 % w != 0 || coreRow c0 % 2 % h != 0 || decide (4 < coreCol c0 % 4 + w) || decide (2 < coreRow c0 % 2 + h)
  then none
  else some ((List.range n).map fun r => c0 + r % w + 20 * (r / w))

/-- A partition may use a core: it owns the hardware cluster, and the core has not been removed. -/
def State.mayUse (s : State) (p c : Nat) : Bool :=
  (s.partition p).clusters.getLsbD (hwCluster c) && !s.removedCores.contains c

/-- A chip-scratchpad object of a partition: its place. -/
def State.chipObject (s : State) (p : Nat) (a : Dword) : Option Loc :=
  let q := s.partition p
  let o := abits a 29 0
  if pathOf a == 11 && pathOk a && a.toNat % 16 == 0 && decide (o + 16 ≤ min (q.cspLen * 2 ^ 21) (s.chipBytes - q.cspBase * 2 ^ 21)) then some ⟨.chip, q.cspBase * 2 ^ 21 + o⟩
  else none

/-- A global address with an alignment. -/
def globalOk (a : Dword) (align : Nat) : Bool := pathOf a == 0 && pathOk a && a.toNat % align == 0

/-- The conditions on role `r`'s role_cfg word. -/
def Launch.roleOk (l : Launch) (r : Nat) : Bool :=
  let w := l.roleCfg r
  let before := sumNat ((roleNumbers.filter (· ≤ r)).map l.groupsOf)
  (w &&& 0xFFC0FC00) == 0 && (r != 0 || l.ngrp != 0) && decide (before ≤ 32) &&
  (l.groupsOf r != 0 || w == 0) && decide (l.lastThreads r ≤ 31) && (l.lastThreads r == 0 || r == l.lastRole)

/-- The offset of the first condition that a record breaks (R147, R365, R368). A key handle that a launch still running
names is not free for another (R365). -/
def State.recordFault (s : State) (l : Launch) (sealOnly : Bool) : Option Nat :=
  let g := l.gridX * l.gridY * l.gridZ
  let shapeOk := (l.word 0x34).getLsbD 2 == false
  let obj := fun (o : Nat) => l.dword o == 0 || (s.chipObject l.part (l.dword o)).isSome
  let named := s.launches.any fun (_, x) => match x with
    | some y => !y.ended && y.part == l.part && y.keyHandle == l.keyHandle
    | none => false
  let sealed := !named && s.keys.any fun k => k.handle == l.keyHandle && k.part == l.part && k.bound.isSome
  let share := l.shareBytes
  (firstFault (
    [(0x00, globalOk (l.dword 0) 64)] ++
    (roleNumbers.map fun r => (0x08 + 4 * r, (l.word (0x08 + 4 * r)).toNat % 4 == 0 && (l.groupsOf r != 0 || l.word (0x08 + 4 * r) == 0))) ++
    (roleNumbers.map fun r => (0x18 + 4 * r, l.roleOk r)) ++
    [(0x28, decide (1 ≤ l.gridX) && (!shapeOk || l.gridX % shapeBlocks l.shape == 0)), (0x2C, decide (1 ≤ l.gridY)),
     (0x30, decide (1 ≤ l.gridZ) && decide (g ≤ 2 ^ 32)),
     (0x34, (l.word 0x34 &&& 0xFFFFF8F8) == 0 && shapeOk), (0x38, l.scratchBytes % 256 == 0),
     (0x3C, share == 0 || share == 131072 || share == 262144 || share == 524288), (0x40, decide (l.accTiles ≤ 192)),
     (0x44, l.sliceBytes % 64 == 0 && decide (l.sliceBytes ≤ 16384)), (0x50, l.dword 0x50 == 0 || globalOk (l.dword 0x50) 64),
     (0x58, obj 0x58), (0x68, if l.keyHandle = 0 then !sealOnly else sealed), (0x70, obj 0x70),
     (0x78, (l.word 0x78 &&& 0xFFFFFFFE) == 0), (0x7C, (List.range 33).all fun j => l.word (0x7C + 4 * j) == 0)])).or
  (let room := (List.range 320).any fun c0 => match shapeCores l.shape c0 with
      | some cs => cs.all (s.mayUse l.part)
      | none => false
   if l.needs.fits emptyCore && room then none else some 0xFFFFFFFF)

/-! ## Taking a launch (R144, R148, R344) -/

/-- Junction counts the arrival of a launch at its done_barrier, if it names a good one (R153). -/
def State.countDone (s : State) (n : Nat) (l : Launch) : State :=
  match s.chipObject l.part (l.dword 0x58) with
  | some loc => s.countArrival n loc
  | none => s

/-- A launch is refused (R148). -/
def State.refuseLaunch (s : State) (n : Nat) (l : Launch) (off : Nat) : State :=
  let s1 := s.setLaunch n { l with ended := true }
  let bytes := leBytes 17 4 ++ leBytes off 4 ++ leBytes l.recordAddr 8
  let s2 := if l.dword 0x50 = 0 then s1 else s1.writeRecord (launchWho n) (l.dword 0x50) bytes
  let s3 := s2.interrupt (.refused n)
  if off = 0x58 then s3 else s3.countDone n l

/-- Junction has taken a record, with its words, as launch number `nextLaunch`. -/
def State.takeRecord (s : State) (i : Nat) (words : List Word) : State :=
  let f := s.iface i
  let n := s.nextLaunch
  let l0 := s.queueLaunch i
  let l1 := { l0 with record := words, recordAddr := (f.slotAddr f.rdIdx).toNat, ended := false }
  let l := { l1 with fpThr := l1.word 0x6C }
  let s1 := { s with nextLaunch := n + 1 }
  let g := { f with rdIdx := f.rdIdx + 1, waitSince := s.tick, current := none }
  match s.recordFault l f.sealOnly with
  | some off => ((s1.setIface i g).refuseLaunch n l off).unbindIdle i
  | none => (s1.setIface i { g with current := some n }).setLaunch n l

/-- Every cluster of the launch an interface is dispatching has been dispatched. -/
def State.currentOver (s : State) (i : Nat) : Bool :=
  match (s.iface i).current with
  | none => true
  | some n => match s.launch n with
    | none => true
    | some l => l.ended || l.doubleTrap || decide (l.clusterCount ≤ l.nextBlock)

/-- LAUNCH_TAKE (R344): Junction takes the next record of a bound queue, and judges it. -/
def execLaunchTake (i : Nat) (s : State) : Out :=
  let f := s.iface i
  if !f.bound || !f.waiting || !s.currentOver i then .fault .notEnabled
  else
    let t := s.asQueue i
    match t.recordAt (launchWho s.nextLaunch) (f.slotAddr f.rdIdx) with
    | .ok bs => .next (s.takeRecord i (blockWords bs 64))
    | .unmapped v => t.waitPage s.nextLaunch v 0
    | _ => .next (s.takeRecord i (zeros 64))

/-! ## Waits before dispatch (R344) -/

/-- A range list: pages of 64 KiB by address; none where it is malformed. -/
def rangePages (bs : List Byte) : Nat → Option (List Nat)
  | 0 => some []
  | n + 1 =>
    let base := dwordIn bs 0
    let len := wordIn bs 8
    if base % 65536 = 0 ∧ pathOk (BitVec.ofNat 64 base) ∧ pathOf (BitVec.ofNat 64 base) = 0 ∧ len % 65536 = 0 ∧ len ≠ 0 ∧ wordIn bs 12 = 0 then
      (rangePages (bs.drop 16) n).map fun r => (List.range (len / 65536)).map (fun j => base + 65536 * j) ++ r
    else none

/-- What the range list of a launch asks for. -/
inductive Migration where
  | go
  | malformed
  | pages (missing : List Nat)
  deriving DecidableEq, Repr

/-- The page does not translate to a local leaf with V set. -/
def State.notLocal (s : State) (l : Launch) (va : Nat) : Bool :=
  match s.walk l.ptroot.toNat va with
  | .inr (e, _) => ebits e 6 5 != 0
  | .inl _ => true

/-- Read and judge the range list. -/
def State.migration (s : State) (n : Nat) (l : Launch) : Migration :=
  let a := l.dword 0x60
  let w := launchWho n
  if a = 0 then .go
  else if !globalOk a 1 then .malformed
  else match s.readAs w a 8 with
    | .unmapped v => .pages [v]
    | .ok hd =>
      let k := wordIn hd 0
      if 256 < k || wordIn hd 4 != 0 then .malformed
      else match s.readAs w (a + 8) (16 * k) with
        | .unmapped v => .pages [v]
        | .ok bs => match rangePages bs k with
          | none => .malformed
          | some ps =>
            let missing := ps.filter fun v => s.notLocal l v || s.unitWaits n v
            if missing.isEmpty then .go else .pages missing
        | _ => .malformed
    | _ => .malformed

/-- Junction's waits for a launch's first cluster: the state after them, and whether they are over. -/
def State.clearWaits (s : State) (n : Nat) (l : Launch) : State × Bool :=
  let w := l.dword 0x70
  let (s1, met) := if l.waitMet || w = 0 then (s, true)
    else match s.chipObject l.part w with
      | none => (s, true)
      | some loc =>
        let b := s.barrierAt loc
        if !b.ok then (if (s.interrupts.any fun x => x.1 == .barrier n) then s else s.interrupt (.barrier n), false)
        else (s, b.phase.getLsbD 0 != (l.word 0x78).getLsbD 0)
  if !met then (s1, false)
  else
    let s2 := s1.setLaunch n { l with waitMet := true }
    if l.migrated then (s2, true)
    else match s2.migration n l with
      | .go => (s2.setLaunch n { l with waitMet := true, migrated := true }, true)
      | .malformed => ((s2.refuseLaunch n l 0x60).unbindIdle l.iface, false)
      | .pages ps => (ps.foldl (fun s v => s.noteUnit n v 0) s2, false)

/-! ## Room (R149, R345) -/

/-- What a core has free. -/
def State.freeOn (s : State) (c : Nat) : Needs :=
  let k := s.core c
  let gs := (List.range 32).filterMap k.group
  let bs := s.blocks.filterMap fun (_, x) => match x with
    | some b => if b.core == c && !b.ended then s.launch b.launch else none
    | none => none
  { slots := 32 - gs.length, regs := 65536 - sumNat (gs.map fun g => 32 * g.cls),
    bytes := 1048576 - sumNat (bs.map fun l => l.needs.bytes), tiles := 192 - sumNat (bs.map fun l => l.accTiles) }

/-- The cores on which a cluster of a launch may be placed with its first core at `c0`. -/
def State.place (s : State) (l : Launch) (c0 : Nat) : Option (List Nat) :=
  match shapeCores l.shape c0 with
  | none => none
  | some cs => if cs.all fun c => s.mayUse l.part c && l.needs.fits (s.freeOn c) then some cs else none

/-- A pre-empted cluster may be placed at `c0`: its blocks' pin slots are free there (R223, R342), and the table
banks that it would load are (R115). -/
def State.placeSaved (s : State) (l : Launch) (cl : List SavedBlock) (c0 : Nat) : Option (List Nat) :=
  match s.place l c0 with
  | none => none
  | some cs =>
    let ok := cl.all fun b =>
      let k := s.core (cs.getD b.block.crank 0)
      (b.pins.all fun p => (tget none k.pins p.1).isNone) && b.tables.all fun t => k.bankFree t.1 (!(k.table t.1).active)
    if ok then some cs else none

/-- A cluster that waits for cores: a pre-empted one, or the next of a launch. -/
inductive Waiting where
  | saved (k : Nat)
  | fresh (l : Nat)
  deriving DecidableEq, Repr

/-- The launch of a pre-empted cluster. -/
def launchOfSaved (cl : List SavedBlock) : Nat := ((cl.head?).map fun b => b.block.launch).getD 0

/-- The cluster of an interface that Junction would place next (R344, R345). -/
def State.waitingCluster (s : State) (i : Nat) : Option Waiting :=
  let mine := (List.range s.saved.length).filter fun k => match s.launch (launchOfSaved (s.saved.getD k [])) with
    | some l => l.iface == i
    | none => false
  match mine with
  | k :: ks => some (.saved (ks.foldl (fun m j => if launchOfSaved (s.saved.getD j []) < launchOfSaved (s.saved.getD m []) then j else m) k))
  | [] => match (s.iface i).current with
    | none => none
    | some n => match s.launch n with
      | none => none
      | some l => if l.waitMet && l.migrated && !l.ended && !l.doubleTrap && decide (l.nextBlock < l.clusterCount) then some (.fresh n) else none

def State.waitingLaunch (s : State) (w : Waiting) : Launch :=
  ((match w with
    | .saved k => s.launch (launchOfSaved (s.saved.getD k []))
    | .fresh n => s.launch n)).getD Launch.reset

/-- Some cores would take the waiting cluster now. -/
def State.hasRoom (s : State) (w : Waiting) : Bool :=
  (List.range 320).any fun c0 => match w with
    | .saved k => (s.placeSaved (s.waitingLaunch w) (s.saved.getD k []) c0).isSome
    | .fresh _ => (s.place (s.waitingLaunch w) c0).isSome

/-- The interface's slot is dispatchable (R345). -/
def State.dispatchable (s : State) (i : Nat) : Bool :=
  match s.waitingCluster i with
  | none => false
  | some w => !s.hasRoom w

/-- Bound interfaces of a partition with a launch of a priority that has not ended. -/
def State.slotsAt (s : State) (p prio : Nat) : List Nat :=
  (s.ifaces.filter fun x => x.2.bound && s.launches.any fun (_, l) => match l with
    | some y => y.iface == x.1 && y.part == p && y.priority == prio && !y.ended
    | none => false).map (·.1)

/-- The interface that holds the slice of a priority; the lowest where the holder has no launch left (R345). -/
def State.holder (s : State) (p prio : Nat) : Option Nat :=
  let all := s.slotsAt p prio
  match s.sliceOwner.find? fun x => x.1 == p * 8 + prio with
  | some (_, h, _) => if all.contains h then some h else all.head?
  | none => all.head?

/-- The interface whose slice ended last. -/
def State.endedSlot (s : State) (p prio : Nat) : Option Nat :=
  (s.sliceOwner.find? fun x => x.1 == p * 8 + prio).map fun x => x.2.2

/-- Another slot of the partition comes before interface `i` with a cluster of priority `prio` (R345). -/
def State.outranked (s : State) (p i prio : Nat) : Bool :=
  s.ifaces.any fun (j, f) => f.bound && j != i && match s.waitingCluster j with
    | none => false
    | some w =>
      let l := s.waitingLaunch w
      l.part == p && (decide (prio < l.priority) || (l.priority == prio && s.holder p prio == some j))

/-! ## Dispatch (R24, R134, R149, R150) -/

/-- A thread at its entry point (R24). -/
def Thread.start (kind : LaneKind) (entry : Word) (base : Dword) : Thread :=
  { Thread.reset with kind := kind, pc := entry, regionStart := entry, codeBase := base,
                      standing := if kind = .absent then .exited else .ready }

/-- The kind of lane `l` in a group with `n` real threads (R134). -/
def laneKindOf (n l : Nat) : LaneKind := if l < n then .real else if l < (n + 3) / 4 * 4 then .helper else .absent

/-- A group at its start. -/
def Launch.startGroup (l : Launch) (launch block role grp now : Nat) : Group :=
  let n := if grp + 1 = l.ngrp ∧ l.lastThreads role ≠ 0 then l.lastThreads role else 32
  let ths := Vector.ofFn fun i : Fin 32 => Thread.start (laneKindOf n i.val) (l.word (0x08 + 4 * role)) (l.dword 0)
  let g := { Group.reset with launch := launch, block := block, role := role, grp := grp, cls := l.classOf role, threads := ths, since := now }
  let h := (g.setSreg 0 (l.word 0x48)).setSreg 1 (l.word 0x4C)
  h.addPaths (h.placesOf h.readyMask)

/-- Role of each group of a block, in order of grp (R26). -/
def Launch.roleList (l : Launch) : List Nat := roleNumbers.flatMap fun r => List.replicate (l.groupsOf r) r

/-- The lowest free group slot of a core. -/
def Core.freeGroupSlot (k : Core) : Option Nat := (List.range 32).find? fun g => (k.group g).isNone

/-- Put a group into a free slot of a core. -/
def State.seatGroup (s : State) (c : Nat) (g : Group) : State :=
  match (s.core c).freeGroupSlot with
  | none => s
  | some i => s.setGroup c i g

/-- Start the block of rank `r` of a cluster on core `c`. -/
def State.startBlock (s : State) (n : Nat) (l : Launch) (cluster first r c : Nat) : State :=
  let b := s.nextBlock
  let lin := first + r
  let blk : Block :=
    { launch := n, core := c, bx := lin % l.gridX, by_ := lin / l.gridX % l.gridY, bz := lin / l.gridX / l.gridY, crank := r,
      cluster := cluster, scratch := [], share := [], slices := [], tiles := [], absentScratch := [], absentShare := [],
      started := s.tick, stopping := false, ended := false }
  let s1 := ({ s with nextBlock := b + 1 } : State).setBlock b blk
  let s2 := (l.roleList.zip (List.range 32)).foldl (fun s (role, grp) => s.seatGroup c (l.startGroup n b role grp s.tick)) (s1.acquire c)
  match s2.launch n with
  | none => s2
  | some x => (s2.setLaunch n { x with liveBlocks := x.liveBlocks ++ [b] }).restop c

/-- Start the next cluster of a launch on the cores `cs`. -/
def State.startCluster (s : State) (n : Nat) (l : Launch) (cs : List Nat) : State :=
  let k := s.nextCluster
  let first := l.nextBlock * shapeBlocks l.shape
  let s1 := ({ s with nextCluster := k + 1 } : State).setLaunch n { l with nextBlock := l.nextBlock + 1 }
  (cs.zip (List.range 8)).foldl (fun s (c, r) => s.startBlock n l k first r c) s1

/-- CLUSTER_DISPATCH (R150, R344): the launch's waits first; then its next cluster goes to the cores from `c0`
on, if it is that cluster's turn. A launch whose waits go on but have changed something takes a step too. -/
def execClusterDispatch (n c0 : Nat) (s : State) : Out :=
  match s.launch n with
  | none => .fault .notEnabled
  | some l0 =>
    if (s.iface l0.iface).current ≠ some n ∨ l0.ended ∨ l0.doubleTrap ∨ l0.clusterCount ≤ l0.nextBlock then .fault .notEnabled
    else
      let (s1, clear) := s.clearWaits n l0
      let waits : Out := if s1 = s then .fault .notEnabled else .next s1
      match s1.launch n with
      | none => waits
      | some l =>
        if !clear || s1.waitingCluster l.iface != some (.fresh n) || s1.outranked l.part l.iface l.priority then waits
        else match s1.place l c0 with
          | none => waits
          | some cs => .next (s1.startCluster n l cs)

/-! ## The end of a launch (R153, R187) -/

/-- Nothing that the launch issued is outstanding. -/
def State.launchQuiet (s : State) (n : Nat) : Bool :=
  (s.cores.all fun (_, k) =>
    k.stores.all (fun t => t.launch != n) && k.atoms.all (fun a => a.launch != n) && k.sideLog.all (fun e => e.launch != n) &&
    k.mx.all (fun m => m.launch != n) && k.ae.all (fun a => a.launch != n) &&
    (match k.ceA with | some m => m.launch != n | none => true) && (match k.ceB with | some m => m.launch != n | none => true)) &&
  s.drains.all (fun d => d.launch != n) && s.owed.all (fun o => o.launch != n) && s.consistReqs.all (fun r => r.launch != n) &&
   s.launchReqs.all (fun r => r.launch != n)

/-- A launch's sealed sub-range is zeroed and unbound (R187, R365). -/
def State.unseal (s : State) (l : Launch) : State :=
  match s.keys.find? fun k => k.handle == l.keyHandle && k.part == l.part with
  | none => s
  | some k => match k.bound with
    | none => s
    | some (b, n) =>
      { s with mem := s.mem.filter (fun x => !(decide (b ≤ x.1) && decide (x.1 < b + n))),
               keys := s.keys.map fun x => if x.handle == k.handle then { x with bound := none } else x }

/-- LAUNCH_END (R153): every block has ended and everything issued is complete. -/
def execLaunchEnd (n : Nat) (s : State) : Out :=
  match s.launch n with
  | none => .fault .notEnabled
  | some l =>
    if l.ended || !l.liveBlocks.isEmpty || !(l.doubleTrap || decide (l.clusterCount ≤ l.nextBlock)) || !s.launchQuiet n then .fault .notEnabled
    else
      let s1 := (s.setLaunch n { l with ended := true }).unseal l
      .next ((s1.countDone n l).unbindIdle l.iface)

/-! ## LAUNCH (R315) -/

/-- LAUNCH (R315). -/
def execLaunch (n : Bool) (d ca cb : Code) (s : State) : Out :=
  s.ucommit (.launch n d ca cb) [.pair ca, .src cb, .dst d n]
    (fun x => (s.blockTrap x [0] 256 256 (s.usrc64 x ca)).or (if 4096 ≤ (s.usrc x cb).toNat then some (17, 0) else none)) fun x =>
    let part := s.partOf x.grp.launch
    let core := s.core x.c
    let q := s.nextReq
    let r : LaunchReq :=
      { id := q, core := x.c, slot := x.g, launch := x.grp.launch, addr := (s.usrc64 x ca).toNat, queue := (s.usrc x cb).toNat,
        ready := core.releaseMet part core.nextId 2 (.launch q), d := d, n := n }
    let s1 := s.finishCommit x (x.awaits d n)
    .next (({ s1 with nextReq := q + 1, launchReqs := s1.launchReqs ++ [r] } : State).startRelease x.c part 2 (.launch q))

/-- The answer of request `k` waits to be written; the group may be gone. -/
def State.answerLaunch (s : State) (k : Nat) (r : LaunchReq) (v : Word) : State :=
  let s1 := { s with launchReqs := ldrop s.launchReqs k }
  match s1.group r.core r.slot with
  | none => s1
  | some g =>
    if r.n || g.launch != r.launch then s1
    else
      let core := s1.core r.core
      s1.setCore r.core { core with rets := core.rets ++ [{ slot := r.slot, vals := [], svals := [(r.d.toNat - 64, v)] }] }

/-- The record goes into the slot at WRIDX of the queue. -/
def State.appendRecord (s : State) (i : Nat) (bytes : List Byte) : State :=
  let f := s.iface i
  let t := (s.asQueue i).writeAs (launchWho s.nextLaunch) (f.slotAddr f.wrIdx) bytes
  ({ t with launches := s.launches } : State).setIface i (f.doDoorbell 1 s.tick)

/-- LAUNCH_APPEND (R315): Junction reads the record of request `k` and answers it. A refused page of the record
or of the ring leaves the answer open, and nothing is appended. -/
def execLaunchAppend (k : Nat) (s : State) : Out :=
  match s.launchReqs[k]? with
  | none => .fault .notEnabled
  | some r =>
    let f := s.iface r.queue
    let draw := { s with freeCtr := s.freeCtr + 1 }
    let open_ : Out := .next (draw.answerLaunch k r ((Config.freeDword s.freeCtr).setWidth 32))
    let w : Who := { core := r.core, launch := r.launch, block := 0, thread := 0, supervisor := true, engine := true }
    if !r.ready then .fault .notEnabled
    else match s.readAs w (BitVec.ofNat 64 r.addr) 256 with
      | .unmapped v => s.waitPage r.launch v 0
      | .absent => .fault .notEnabled
      | .ok bytes =>
        if s.partOfIface r.queue ≠ some (s.partOf r.launch) ∨ f.state ≠ 2 then .next (s.answerLaunch k r 0x80000002)
        else if f.ringSize < (f.wrIdx + 1 - f.rdIdx).toNat then .next (s.answerLaunch k r 0x80000001)
        else
          let t := s.asQueue r.queue
          match t.rangeTrouble (launchWho s.nextLaunch) .store 32 (f.slotAddr f.wrIdx) 256 with
          | some (.unmapped v) => t.waitPage s.nextLaunch v 1
          | some _ => open_
          | none => .next ((s.appendRecord r.queue bytes).answerLaunch k r (BitVec.ofNat 32 (f.wrIdx.toNat % f.ringSize)))
      | .refused _ => open_

/-! ## Pre-emption (R340, R345) -/

/-- A hold that pre-emption abandons (R305). -/
def Hold.abandoned : Hold → Bool
  | .push _ _ _ => true
  | .rego _ _ _ => true
  | .cego _ _ queued _ _ => !queued
  | .pop _ _ _ => true
  | .bwait _ _ => true
  | .drain _ _ _ => true
  | _ => false

/-- The group's own state lets Junction save it (R340, steps 1 to 4 and 6). -/
def Group.savable (g : Group) : Bool :=
  g.run.isNone && g.handlerSet == 0 && g.heldTraps.isEmpty &&
  (match g.hold with | some (_, h) => h.abandoned | none => true) && [0, 2, 4, 6].all (fun q => g.unans q == 0)

/-- What the core and the units hold lets Junction save group `i` of a core. -/
def State.slotSavable (s : State) (c i : Nat) (g : Group) : Bool :=
  let k := s.core c
  g.savable && k.atoms.all (fun a => a.slot != i) && k.rets.all (fun r => r.slot != i) &&
  k.sideLog.all (fun e => e.launch != g.launch) && k.releases.all (fun r => r.why != .bar g.block && r.why != .barc g.block) &&
  s.consistReqs.all (fun r => r.core != c || r.slot != i) && s.launchReqs.all (fun r => r.core != c || r.slot != i) &&
  s.drains.all (fun d => d.block != g.block || d.grp != g.grp)

/-- Bytes filled up with zeros to a length. -/
def padTo (n : Nat) (bs : List Byte) : List Byte := bs.take n ++ List.replicate (n - bs.length) 0

/-- A group as it is saved: its paths go back to their region starts, and nothing is pending (R340, R342). -/
def Group.saved (g : Group) : Group :=
  let h := g.mapLanes 0xFFFFFFFF fun _ t =>
    { t with vPend := 0, pc := if t.standing = .ready then t.regionStart else t.pc }
  { h with sPend := 0, run := none, hold := none, fetchWait := [], jumps := [], countWait := [], stopped := false, paths := [], handler := [], handlerNext := false }

/-- What a queue's record of 80 bytes holds (R341). -/
def queueBytes (q : List Dword) : List Byte :=
  padTo 80 (leBytes q.length 8 ++ (q.take 8).flatMap fun e => leBytes e.toNat 8)

/-- The record of a saved group, as the supervisor reads it (R341; log entry 14). -/
def Group.recordBytes (g : Group) : List Byte :=
  let word := fun (n : Nat) => leBytes n 4
  let seqs := [g.seqs.mx, g.seqs.ae, g.seqs.cea, g.seqs.ceb, g.seqs.rego, g.seqs.drain]
  let paths := g.placesOf g.readyMask
  let formats := fun (f : List Word) => padTo 32 ((f.take 8).flatMap fun w => word w.toNat)
  padTo 0x40 ([g.grp, g.role, g.cls, (g.lanesWith fun t => t.kind != .absent && t.standing == .exited).toNat,
    (g.lanesWith fun t => t.standing == .bar).toNat, (g.lanesWith fun t => t.standing == .barc).toNat, paths.length].flatMap word) ++
  g.s.toList.flatMap (fun w => word w.toNat) ++ g.m.toList.flatMap (fun w => word w.toNat) ++
  g.arrived.toList.flatMap (fun w => word w.toNat) ++ g.threads.toList.flatMap (fun t => leBytes t.k.toNat 16) ++
  padTo 0x100 (paths.flatMap fun m => word m.toNat ++ word (g.th (lowestLane m)).pc.toNat) ++
  g.queues.toList.flatMap queueBytes ++ padTo 80 (seqs.flatMap fun w => word w.toNat) ++
  formats g.mxFmt ++ formats g.aeFmt ++
  g.threads.toList.flatMap fun t => (t.v.toList.take g.cls).flatMap fun w => word w.toNat

/-- The images in the active banks of a core's 15 slots. -/
def Core.images (k : Core) : List (Nat × Mem) :=
  (List.range 15).map fun j => (j + 1, (let t := k.table (j + 1); if t.active then t.bank1 else t.bank0))

/-- Save a block and free what it holds of its core. -/
def State.saveBlock (s : State) (b : Nat) : State × Option SavedBlock :=
  match s.block b with
  | none => (s, none)
  | some blk =>
    let c := blk.core
    let k := s.core c
    let slots := k.slotsOf b
    let groups := slots.filterMap fun g => (k.group g).map Group.saved
    let pins := (List.range 256).filterMap fun i => match tget none k.pins i with
      | some p => if p.block == b then some (i, p) else none
      | none => none
    let k1 := slots.foldl Core.freeSlot k
    let k2 := { k1 with pins := pins.foldl (fun t p => tput t p.1 none) k1.pins }
    (({ s.setCore c k2 with blocks := tput s.blocks b none } : State),
     some { number := b, block := blk, groups := groups, pins := pins, tables := k.images })

/-- Save blocks one after the other. -/
def State.saveBlocks (s : State) : List Nat → State × List SavedBlock
  | [] => (s, [])
  | b :: bs =>
    let (s1, x) := s.saveBlock b
    let (s2, xs) := s1.saveBlocks bs
    (s2, match x with | some y => y :: xs | none => xs)

/-- The resident clusters of a partition: launch, cluster, when dispatched or restarted. -/
def State.residents (s : State) (p : Nat) : List (Nat × Nat × Nat) :=
  s.blocks.filterMap fun (_, x) => match x with
    | some b => if !b.ended && s.partOf b.launch == p then some (b.launch, b.cluster, b.started) else none
    | none => none

def State.priorityOf (s : State) (n : Nat) : Nat := match s.launch n with | some l => l.priority | none => 0
def State.ifaceOf (s : State) (n : Nat) : Nat := match s.launch n with | some l => l.iface | none => 0

/-- No other cluster of the same interface was dispatched later. -/
def State.latest (s : State) (all : List (Nat × Nat × Nat)) (n started : Nat) : Bool :=
  all.all fun (m, _, t) => s.ifaceOf m != s.ifaceOf n || decide (t ≤ started)

/-- R345 calls for the pre-emption of a resident cluster of launch `n`: a dispatchable slot of higher priority
takes from the lowest, the slot that has the slice from the one whose slice ended. -/
def State.isVictim (s : State) (n started : Nat) : Bool :=
  let p := s.partOf n
  let all := s.residents p
  let prio := s.priorityOf n
  let lowest := all.all fun (m, _, _) => decide (prio ≤ s.priorityOf m)
  let above := s.ifaces.any fun (j, f) => f.bound && s.dispatchable j && (match s.waitingCluster j with
    | some w => (s.waitingLaunch w).part == p && decide (prio < (s.waitingLaunch w).priority)
    | none => false)
  let sliced := match s.holder p prio, s.endedSlot p prio with
    | some h, some e => e == s.ifaceOf n && h != e && s.dispatchable h && (match s.waitingCluster h with
      | some w => (s.waitingLaunch w).priority == prio
      | none => false)
    | _, _ => false
  s.latest all n started && ((lowest && above) || sliced)

/-- A place belongs to block `b`. -/
def Place.ofBlock (p : Place) (b : Nat) : Bool :=
  match p with
  | .scratch x => x == b
  | .share x => x == b
  | .slice x _ => x == b
  | .tiles x => x == b
  | _ => false

/-- No store is still on its way to the memory of block `b`, and none of its launch on its core is still unperformed: the
restarted block sees its own stores wherever it runs (R339, R342). -/
def State.landed (s : State) (n b c : Nat) : Bool :=
  (s.cores.all fun (_, k) => k.stores.all fun t => t.level != 0 || !t.loc.place.ofBlock b) &&
  (s.core c).stores.all fun t => t.level != 0 || t.launch != n

/-- Junction begins to pre-empt a cluster: the launch's groups on its cores are stopped (R340, step 1). -/
def State.stopCluster (s : State) (bs : List (Nat × Nat)) : State :=
  bs.foldl (fun s (b, c) => match s.block b with
    | some x => (s.setBlock b { x with stopping := true }).restop c
    | none => s) s

/-- PREEMPT (R340): the first for cluster `k` of launch `n` begins its pre-emption, if R345 calls for it; the second saves it
and frees its cores, once every group can be saved. A saved cluster goes to the front of its launch's order (R345). -/
def execPreempt (n k : Nat) (s : State) : Out :=
  match s.clusterBlocks k with
  | [] => .fault .notEnabled
  | (b0, c0) :: more =>
    let bs := (b0, c0) :: more
    match s.block b0 with
    | none => .fault .notEnabled
    | some blk =>
      let calm := bs.all fun (b, c) => s.landed n b c && ((s.core c).slotsOf b).all fun g => match s.group c g with
        | some x => s.slotSavable c g x
        | none => true
      if blk.launch ≠ n then .fault .notEnabled
      else if !blk.stopping then (if s.isVictim n blk.started then .next (s.stopCluster bs) else .fault .notEnabled)
      else if !calm then .fault .notEnabled
      else
        let (s1, cl) := s.saveBlocks (bs.map (·.1))
        .next (bs.foldl (fun s b => s.restop b.2) { s1 with saved := cl :: s1.saved })

/-! ## Restart (R342) -/

/-- A group as it restarts: its paths are listed by lowest lane. -/
def Group.restart (g : Group) (now : Nat) : Group :=
  let h := { g with restarted := true, since := now }
  h.addPaths (h.placesOf h.readyMask)

/-- Restore a block on core `c`. -/
def State.restoreBlock (s : State) (x : SavedBlock) (c : Nat) : State :=
  let s1 := s.setBlock x.number { x.block with core := c, started := s.tick, stopping := false }
  let k := s1.core c
  let k1 := { k with
    cycSlots := [0, 1, 2, 3]                       -- its groups issue in a later cycle than any so far (R112)
    pins := x.pins.foldl (fun t p => tput t p.1 (some p.2)) k.pins
    tables := x.tables.foldl (fun t e => tput t e.1 ((tget TableSlot.reset t e.1).load e.2)) k.tables }
  (x.groups.foldl (fun s g => s.seatGroup c (g.restart s.tick)) ((s1.setCore c k1).acquire c)).restop c

/-- RESTART (R342): pre-empted cluster `k` goes to the cores from `c0` on, when it is its turn. -/
def execRestart (k c0 : Nat) (s : State) : Out :=
  match s.saved[k]? with
  | none => .fault .notEnabled
  | some cl => match s.launch (launchOfSaved cl) with
    | none => .fault .notEnabled
    | some l =>
      if s.waitingCluster l.iface ≠ some (.saved k) ∨ s.outranked l.part l.iface l.priority then .fault .notEnabled
      else match s.placeSaved l cl c0 with
        | none => .fault .notEnabled
        | some cs =>
          .next (cl.foldl (fun s b => s.restoreBlock b (cs.getD b.block.crank 0)) { s with saved := ldrop s.saved k })

/-- The first dispatchable slot of the rotation after the holder. -/
def State.nextSlice (s : State) (p prio h : Nat) : Option Nat :=
  let all := s.slotsAt p prio
  ((all.filter (h < ·)) ++ (all.filter (· < h))).find? fun j => s.dispatchable j && (match s.waitingCluster j with
    | some w => (s.waitingLaunch w).priority == prio
    | none => false)

/-- TIME_SLICE_EXPIRY (R345): the slice of a priority passes to the next dispatchable slot of the rotation. -/
def execTimeSliceExpiry (p prio : Nat) (s : State) : Out :=
  match s.holder p prio with
  | none => .fault .notEnabled
  | some h => match s.nextSlice p prio h with
    | none => .fault .notEnabled
    | some j => .next { s with sliceOwner := (p * 8 + prio, j, h) :: s.sliceOwner.filter fun x => x.1 != p * 8 + prio }

end Sys2Proof.Machine
end

