-- ==== Sys2Proof/Machine/Uniform.lean ====
section
/-! DEFINITION. Integer instructions of the U-set, opcodes 0x00 to 0x1B (chapter 05, R80 to R94). -/

namespace Sys2Proof.Machine

/-- A uniform two-source form (R80, R81). -/
def State.uni2 (s : State) (i : Instr) (e n : Bool) (d ca cb : Code) (f : Word → Word → Word) : Out :=
  s.uniOp i e n d [.src ca, .src cb] fun x => f (s.usrc x ca) (s.usrc x cb)
/-- A uniform unary form (R85). -/
def State.uni1 (s : State) (i : Instr) (e n : Bool) (d ca : Code) (f : Word → Word) : Out :=
  s.uniOp i e n d [.src ca] fun x => f (s.usrc x ca)
/-- The word of a truth value (R90). -/
def word01 (b : Bool) : Word := if b then 1 else 0

/-- UADD (R81). -/
def execUadd (e n : Bool) (d ca cb : Code) (s : State) : Out :=
  s.uni2 (.uadd e n d ca cb) e n d ca cb fun a b => a + b
/-- USUB (R81). -/
def execUsub (e n : Bool) (d ca cb : Code) (s : State) : Out :=
  s.uni2 (.usub e n d ca cb) e n d ca cb fun a b => a - b
/-- UMUL (R81). -/
def execUmul (e n : Bool) (d ca cb : Code) (s : State) : Out :=
  s.uni2 (.umul e n d ca cb) e n d ca cb fun a b => a * b
/-- UAND (R81). -/
def execUand (e n : Bool) (d ca cb : Code) (s : State) : Out :=
  s.uni2 (.uand e n d ca cb) e n d ca cb fun a b => a &&& b
/-- UOR (R81). -/
def execUor (e n : Bool) (d ca cb : Code) (s : State) : Out :=
  s.uni2 (.uor e n d ca cb) e n d ca cb fun a b => a ||| b
/-- UXOR (R81). -/
def execUxor (e n : Bool) (d ca cb : Code) (s : State) : Out :=
  s.uni2 (.uxor e n d ca cb) e n d ca cb fun a b => a ^^^ b
/-- USHL (R82). -/
def execUshl (e n : Bool) (d ca cb : Code) (s : State) : Out :=
  s.uni2 (.ushl e n d ca cb) e n d ca cb fun a b => shl32 a b
/-- USHR (R82). -/
def execUshr (e n : Bool) (d ca cb : Code) (s : State) : Out :=
  s.uni2 (.ushr e n d ca cb) e n d ca cb fun a b => shr32 a b
/-- USAR (R82). -/
def execUsar (e n : Bool) (d ca cb : Code) (s : State) : Out :=
  s.uni2 (.usar e n d ca cb) e n d ca cb fun a b => sar32 a b
/-- UMIN (R81). -/
def execUmin (e n : Bool) (d ca cb : Code) (s : State) : Out :=
  s.uni2 (.umin e n d ca cb) e n d ca cb fun a b => min32 a b
/-- UMAX (R81). -/
def execUmax (e n : Bool) (d ca cb : Code) (s : State) : Out :=
  s.uni2 (.umax e n d ca cb) e n d ca cb fun a b => max32 a b
/-- UCMPEQ (R90). -/
def execUcmpeq (e n : Bool) (d ca cb : Code) (s : State) : Out :=
  s.uni2 (.ucmpeq e n d ca cb) e n d ca cb fun a b => word01 (a == b)
/-- UCMPNE (R90). -/
def execUcmpne (e n : Bool) (d ca cb : Code) (s : State) : Out :=
  s.uni2 (.ucmpne e n d ca cb) e n d ca cb fun a b => word01 (a != b)
/-- UCMPLT (R90). -/
def execUcmplt (e n : Bool) (d ca cb : Code) (s : State) : Out :=
  s.uni2 (.ucmplt e n d ca cb) e n d ca cb fun a b => word01 (a.slt b)
/-- UCMPLTN (R90). -/
def execUcmpltn (e n : Bool) (d ca cb : Code) (s : State) : Out :=
  s.uni2 (.ucmpltn e n d ca cb) e n d ca cb fun a b => word01 (a.ult b)
/-- UMOV (R85). -/
def execUmov (e n : Bool) (d ca : Code) (s : State) : Out :=
  s.uni1 (.umov e n d ca) e n d ca fun a => a
/-- UNOT (R85). -/
def execUnot (e n : Bool) (d ca : Code) (s : State) : Out :=
  s.uni1 (.unot e n d ca) e n d ca fun a => ~~~a
/-- UNEG (R85). -/
def execUneg (e n : Bool) (d ca : Code) (s : State) : Out :=
  s.uni1 (.uneg e n d ca) e n d ca fun a => 0 - a
/-- UCLZ (R85). -/
def execUclz (e n : Bool) (d ca : Code) (s : State) : Out :=
  s.uni1 (.uclz e n d ca) e n d ca fun a => clz32 a
/-- UPOPC (R85). -/
def execUpopc (e n : Bool) (d ca : Code) (s : State) : Out :=
  s.uni1 (.upopc e n d ca) e n d ca fun a => popc32 a
/-- UADDI (R87). -/
def execUaddi (e n : Bool) (d ca : Code) (i : BitVec 8) (s : State) : Out :=
  s.uni1 (.uaddi e n d ca i) e n d ca fun a => a + i.signExtend 32
/-- UANDI (R87). -/
def execUandi (e n : Bool) (d ca : Code) (i : BitVec 8) (s : State) : Out :=
  s.uni1 (.uandi e n d ca i) e n d ca fun a => a &&& i.setWidth 32
/-- UORI (R87). -/
def execUori (e n : Bool) (d ca : Code) (i : BitVec 8) (s : State) : Out :=
  s.uni1 (.uori e n d ca i) e n d ca fun a => a ||| i.setWidth 32
/-- USHLI (R87). -/
def execUshli (e n : Bool) (d ca : Code) (i : BitVec 8) (s : State) : Out :=
  s.uni1 (.ushli e n d ca i) e n d ca fun a => shl32 a (i.setWidth 32)
/-- USHRI (R87). -/
def execUshri (e n : Bool) (d ca : Code) (i : BitVec 8) (s : State) : Out :=
  s.uni1 (.ushri e n d ca i) e n d ca fun a => shr32 a (i.setWidth 32)
/-- UADDX (R86). -/
def execUaddx (e n : Bool) (d ca cb : Code) (s : State) : Out :=
  s.uniOp64 (.uaddx e n d ca cb) e n d [.pair ca, .pair cb] fun x => s.usrc64 x ca + s.usrc64 x cb
/-- UMULWX (R86). -/
def execUmulwx (e n : Bool) (d ca cb : Code) (s : State) : Out :=
  s.uniOp64 (.umulwx e n d ca cb) e n d [.src ca, .src cb] fun x => mulw64 (s.usrc x ca) (s.usrc x cb)
/-- UADDXI (R86). -/
def execUaddxi (e n : Bool) (d ca : Code) (i : BitVec 8) (s : State) : Out :=
  s.uniOp64 (.uaddxi e n d ca i) e n d [.pair ca] fun x => s.usrc64 x ca + i.signExtend 64
/-- UCMPLTX (R90). -/
def execUcmpltx (e n : Bool) (d ca cb : Code) (s : State) : Out :=
  s.uniOp (.ucmpltx e n d ca cb) e n d [.pair ca, .pair cb] fun x => word01 ((s.usrc64 x ca).slt (s.usrc64 x cb))
/-- ULDI (R88). -/
def execUldi (e : Bool) (d : Code) (i : BitVec 16) (s : State) : Out :=
  s.uniOp (.uldi e d i) e false d [] fun _ => i.signExtend 32
/-- ULDH (R88): D is read. -/
def execUldh (e : Bool) (d : Code) (i : BitVec 16) (s : State) : Out :=
  s.uniOp (.uldh e d i) e false d [.src d] fun x => ldh32 i (s.usrc x d)
/-- RDL (R94): A in the lowest-numbered thread of the path, helper lanes included. -/
def execRdl (e n : Bool) (d ca : Code) (s : State) : Out :=
  s.uniOp (.rdl e n d ca) e n d [.anyLane ca] fun x => s.usrc x ca

end Sys2Proof.Machine
end

