-- ==== Sys2Proof/Machine/Dispatch.lean ====
section
/-! DEFINITION. The dispatch: one arm for each constructor of Instr. -/

namespace Sys2Proof.Machine

/-- Execute an instruction or an event. -/
def exec (i : Instr) (s : State) : Host.Outcome State Fault Refusal :=
  match i with
  | .add e n d a b => Sys2Proof.Machine.execAdd e n d a b s
  | .sub e n d a b => Sys2Proof.Machine.execSub e n d a b s
  | .mul e n d a b => Sys2Proof.Machine.execMul e n d a b s
  | .mulh e n d a b => Sys2Proof.Machine.execMulh e n d a b s
  | .mulhn e n d a b => Sys2Proof.Machine.execMulhn e n d a b s
  | .and e n d a b => Sys2Proof.Machine.execAnd e n d a b s
  | .or e n d a b => Sys2Proof.Machine.execOr e n d a b s
  | .xor e n d a b => Sys2Proof.Machine.execXor e n d a b s
  | .andn e n d a b => Sys2Proof.Machine.execAndn e n d a b s
  | .shl e n d a b => Sys2Proof.Machine.execShl e n d a b s
  | .shr e n d a b => Sys2Proof.Machine.execShr e n d a b s
  | .sar e n d a b => Sys2Proof.Machine.execSar e n d a b s
  | .min e n d a b => Sys2Proof.Machine.execMin e n d a b s
  | .max e n d a b => Sys2Proof.Machine.execMax e n d a b s
  | .minn e n d a b => Sys2Proof.Machine.execMinn e n d a b s
  | .maxn e n d a b => Sys2Proof.Machine.execMaxn e n d a b s
  | .addsat e n d a b => Sys2Proof.Machine.execAddsat e n d a b s
  | .subsat e n d a b => Sys2Proof.Machine.execSubsat e n d a b s
  | .addsatn e n d a b => Sys2Proof.Machine.execAddsatn e n d a b s
  | .subsatn e n d a b => Sys2Proof.Machine.execSubsatn e n d a b s
  | .absd e n d a b => Sys2Proof.Machine.execAbsd e n d a b s
  | .bfx e n d a b => Sys2Proof.Machine.execBfx e n d a b s
  | .bfxn e n d a b => Sys2Proof.Machine.execBfxn e n d a b s
  | .bfi e n d a b => Sys2Proof.Machine.execBfi e n d a b s
  | .sel e n d a p => Sys2Proof.Machine.execSel e n d a p s
  | .mov e n d a => Sys2Proof.Machine.execMov e n d a s
  | .not e n d a => Sys2Proof.Machine.execNot e n d a s
  | .neg e n d a => Sys2Proof.Machine.execNeg e n d a s
  | .abs e n d a => Sys2Proof.Machine.execAbs e n d a s
  | .clz e n d a => Sys2Proof.Machine.execClz e n d a s
  | .popc e n d a => Sys2Proof.Machine.execPopc e n d a s
  | .brev e n d a => Sys2Proof.Machine.execBrev e n d a s
  | .sextb e n d a => Sys2Proof.Machine.execSextb e n d a s
  | .sexth e n d a => Sys2Proof.Machine.execSexth e n d a s
  | .zextb e n d a => Sys2Proof.Machine.execZextb e n d a s
  | .zexth e n d a => Sys2Proof.Machine.execZexth e n d a s
  | .addx e n d a b => Sys2Proof.Machine.execAddx e n d a b s
  | .subx e n d a b => Sys2Proof.Machine.execSubx e n d a b s
  | .mulwx e n d a b => Sys2Proof.Machine.execMulwx e n d a b s
  | .mulwxn e n d a b => Sys2Proof.Machine.execMulwxn e n d a b s
  | .leax e n d a b => Sys2Proof.Machine.execLeax e n d a b s
  | .addxi e n d a im => Sys2Proof.Machine.execAddxi e n d a im s
  | .addi e n d a im => Sys2Proof.Machine.execAddi e n d a im s
  | .andi e n d a im => Sys2Proof.Machine.execAndi e n d a im s
  | .ori e n d a im => Sys2Proof.Machine.execOri e n d a im s
  | .xori e n d a im => Sys2Proof.Machine.execXori e n d a im s
  | .shli e n d a im => Sys2Proof.Machine.execShli e n d a im s
  | .shri e n d a im => Sys2Proof.Machine.execShri e n d a im s
  | .sari e n d a im => Sys2Proof.Machine.execSari e n d a im s
  | .muli e n d a im => Sys2Proof.Machine.execMuli e n d a im s
  | .ldi e d im => Sys2Proof.Machine.execLdi e d im s
  | .ldh e d im => Sys2Proof.Machine.execLdh e d im s
  | .cmpeq e k a b => Sys2Proof.Machine.execCmpeq e k a b s
  | .cmpne e k a b => Sys2Proof.Machine.execCmpne e k a b s
  | .cmplt e k a b => Sys2Proof.Machine.execCmplt e k a b s
  | .cmple e k a b => Sys2Proof.Machine.execCmple e k a b s
  | .cmpltn e k a b => Sys2Proof.Machine.execCmpltn e k a b s
  | .cmplen e k a b => Sys2Proof.Machine.execCmplen e k a b s
  | .cmpeqi e k a im => Sys2Proof.Machine.execCmpeqi e k a im s
  | .cmplti e k a im => Sys2Proof.Machine.execCmplti e k a im s
  | .cmpltni e k a im => Sys2Proof.Machine.execCmpltni e k a im s
  | .cmpltx e k a b => Sys2Proof.Machine.execCmpltx e k a b s
  | .cmpeqx e k a b => Sys2Proof.Machine.execCmpeqx e k a b s
  | .kand e k a b => Sys2Proof.Machine.execKand e k a b s
  | .kor e k a b => Sys2Proof.Machine.execKor e k a b s
  | .kxor e k a b => Sys2Proof.Machine.execKxor e k a b s
  | .kandn e k a b => Sys2Proof.Machine.execKandn e k a b s
  | .kset e k a im => Sys2Proof.Machine.execKset e k a im s
  | .kget e n d k => Sys2Proof.Machine.execKget e n d k s
  | .fadd e n d a b => Sys2Proof.Machine.execFadd e n d a b s
  | .fsub e n d a b => Sys2Proof.Machine.execFsub e n d a b s
  | .fmul e n d a b => Sys2Proof.Machine.execFmul e n d a b s
  | .ffma e n d a b => Sys2Proof.Machine.execFfma e n d a b s
  | .fmin e n d a b => Sys2Proof.Machine.execFmin e n d a b s
  | .fmax e n d a b => Sys2Proof.Machine.execFmax e n d a b s
  | .faddz e n d a b => Sys2Proof.Machine.execFaddz e n d a b s
  | .fmulz e n d a b => Sys2Proof.Machine.execFmulz e n d a b s
  | .ffmaz e n d a b => Sys2Proof.Machine.execFfmaz e n d a b s
  | .fcmpeq e k a b => Sys2Proof.Machine.execFcmpeq e k a b s
  | .fcmplt e k a b => Sys2Proof.Machine.execFcmplt e k a b s
  | .fcmple e k a b => Sys2Proof.Machine.execFcmple e k a b s
  | .fcmpun e k a b => Sys2Proof.Machine.execFcmpun e k a b s
  | .fabs e n d a => Sys2Proof.Machine.execFabs e n d a s
  | .fneg e n d a => Sys2Proof.Machine.execFneg e n d a s
  | .ffloor e n d a => Sys2Proof.Machine.execFfloor e n d a s
  | .fceil e n d a => Sys2Proof.Machine.execFceil e n d a s
  | .frint e n d a => Sys2Proof.Machine.execFrint e n d a s
  | .ftrunc e n d a => Sys2Proof.Machine.execFtrunc e n d a s
  | .fexp2 e n d a => Sys2Proof.Machine.execFexp2 e n d a s
  | .flog2 e n d a => Sys2Proof.Machine.execFlog2 e n d a s
  | .frcp e n d a => Sys2Proof.Machine.execFrcp e n d a s
  | .frsq e n d a => Sys2Proof.Machine.execFrsq e n d a s
  | .fsqrt e n d a => Sys2Proof.Machine.execFsqrt e n d a s
  | .fsinp e n d a => Sys2Proof.Machine.execFsinp e n d a s
  | .fcosp e n d a => Sys2Proof.Machine.execFcosp e n d a s
  | .ftanh e n d a => Sys2Proof.Machine.execFtanh e n d a s
  | .fsig e n d a => Sys2Proof.Machine.execFsig e n d a s
  | .cvtfi e n d a => Sys2Proof.Machine.execCvtfi e n d a s
  | .cvtfiz e n d a => Sys2Proof.Machine.execCvtfiz e n d a s
  | .cvtfn e n d a => Sys2Proof.Machine.execCvtfn e n d a s
  | .cvtif e n d a => Sys2Proof.Machine.execCvtif e n d a s
  | .cvtnf e n d a => Sys2Proof.Machine.execCvtnf e n d a s
  | .cvtbf e n d a => Sys2Proof.Machine.execCvtbf e n d a s
  | .cvtbfh e n d a => Sys2Proof.Machine.execCvtbfh e n d a s
  | .cvthf e n d a => Sys2Proof.Machine.execCvthf e n d a s
  | .cvthfh e n d a => Sys2Proof.Machine.execCvthfh e n d a s
  | .cvtfb e n d a b => Sys2Proof.Machine.execCvtfb e n d a b s
  | .cvtfbs e n d a b => Sys2Proof.Machine.execCvtfbs e n d a b s
  | .cvtfh e n d a b => Sys2Proof.Machine.execCvtfh e n d a b s
  | .badd2 e n d a b => Sys2Proof.Machine.execBadd2 e n d a b s
  | .bmul2 e n d a b => Sys2Proof.Machine.execBmul2 e n d a b s
  | .bfma2 e n d a b => Sys2Proof.Machine.execBfma2 e n d a b s
  | .bmax2 e n d a b => Sys2Proof.Machine.execBmax2 e n d a b s
  | .bmin2 e n d a b => Sys2Proof.Machine.execBmin2 e n d a b s
  | .qntf8 e n d a b => Sys2Proof.Machine.execQntf8 e n d a b s
  | .qntf6 e n d a b => Sys2Proof.Machine.execQntf6 e n d a b s
  | .qntf4 e n d a b => Sys2Proof.Machine.execQntf4 e n d a b s
  | .qnti8 e n d a b => Sys2Proof.Machine.execQnti8 e n d a b s
  | .dqn e n d a im => Sys2Proof.Machine.execDqn e n d a im s
  | .rnd e n d a b => Sys2Proof.Machine.execRnd e n d a b s
  | .shfl e n d a b => Sys2Proof.Machine.execShfl e n d a b s
  | .shflu e n d a im => Sys2Proof.Machine.execShflu e n d a im s
  | .shfld e n d a im => Sys2Proof.Machine.execShfld e n d a im s
  | .shflx e n d a im => Sys2Proof.Machine.execShflx e n d a im s
  | .qex e n d a im => Sys2Proof.Machine.execQex e n d a im s
  | .voteb e n d a => Sys2Proof.Machine.execVoteb e n d a s
  | .votean e k a => Sys2Proof.Machine.execVotean e k a s
  | .voteal e k a => Sys2Proof.Machine.execVoteal e k a s
  | .gred e n d a im => Sys2Proof.Machine.execGred e n d a im s
  | .gscan e n d a im => Sys2Proof.Machine.execGscan e n d a im s
  | .brk k t d => Sys2Proof.Machine.execBrk k t d s
  | .jmpi a => Sys2Proof.Machine.execJmpi a s
  | .jmpt d a im => Sys2Proof.Machine.execJmpt d a im s
  | .calli n d a => Sys2Proof.Machine.execCalli n d a s
  | .wait im => Sys2Proof.Machine.execWait im s
  | .exit => Sys2Proof.Machine.execExit s
  | .ld8 e n d a o => Sys2Proof.Machine.execLd8 e n d a o s
  | .ld8s e n d a o => Sys2Proof.Machine.execLd8s e n d a o s
  | .ld16 e n d a o => Sys2Proof.Machine.execLd16 e n d a o s
  | .ld16s e n d a o => Sys2Proof.Machine.execLd16s e n d a o s
  | .ld32 e n d a o => Sys2Proof.Machine.execLd32 e n d a o s
  | .ld64 e n d a o => Sys2Proof.Machine.execLd64 e n d a o s
  | .ld128 e n d a o => Sys2Proof.Machine.execLd128 e n d a o s
  | .st8 e d a o => Sys2Proof.Machine.execSt8 e d a o s
  | .st16 e d a o => Sys2Proof.Machine.execSt16 e d a o s
  | .st32 e d a o => Sys2Proof.Machine.execSt32 e d a o s
  | .st64 e d a o => Sys2Proof.Machine.execSt64 e d a o s
  | .st128 e d a o => Sys2Proof.Machine.execSt128 e d a o s
  | .aadd n d a sc r => Sys2Proof.Machine.execAadd n d a sc r s
  | .aaddf n d a sc r => Sys2Proof.Machine.execAaddf n d a sc r s
  | .aaddb2 n d a sc r => Sys2Proof.Machine.execAaddb2 n d a sc r s
  | .amin n d a sc r => Sys2Proof.Machine.execAmin n d a sc r s
  | .amax n d a sc r => Sys2Proof.Machine.execAmax n d a sc r s
  | .aminn n d a sc r => Sys2Proof.Machine.execAminn n d a sc r s
  | .amaxn n d a sc r => Sys2Proof.Machine.execAmaxn n d a sc r s
  | .aand n d a sc r => Sys2Proof.Machine.execAand n d a sc r s
  | .aor n d a sc r => Sys2Proof.Machine.execAor n d a sc r s
  | .axor n d a sc r => Sys2Proof.Machine.execAxor n d a sc r s
  | .axch n d a sc r => Sys2Proof.Machine.execAxch n d a sc r s
  | .acas n d a sc r => Sys2Proof.Machine.execAcas n d a sc r s
  | .aaddx n d a sc r => Sys2Proof.Machine.execAaddx n d a sc r s
  | .axchx n d a sc r => Sys2Proof.Machine.execAxchx n d a sc r s
  | .acasx n d a sc r => Sys2Proof.Machine.execAcasx n d a sc r s
  | .pfNormal e a o => Sys2Proof.Machine.execPfNormal e a o s
  | .pfEvictFirst e a o => Sys2Proof.Machine.execPfEvictFirst e a o s
  | .pfEvictLast e a o => Sys2Proof.Machine.execPfEvictLast e a o s
  | .pfLlcOnly e a o => Sys2Proof.Machine.execPfLlcOnly e a o s
  | .stad e n d a b => Sys2Proof.Machine.execStad e n d a b s
  | .mxgo a b => Sys2Proof.Machine.execMxgo a b s
  | .aego a b => Sys2Proof.Machine.execAego a b s
  | .uadd e n d a b => Sys2Proof.Machine.execUadd e n d a b s
  | .usub e n d a b => Sys2Proof.Machine.execUsub e n d a b s
  | .umul e n d a b => Sys2Proof.Machine.execUmul e n d a b s
  | .uand e n d a b => Sys2Proof.Machine.execUand e n d a b s
  | .uor e n d a b => Sys2Proof.Machine.execUor e n d a b s
  | .uxor e n d a b => Sys2Proof.Machine.execUxor e n d a b s
  | .ushl e n d a b => Sys2Proof.Machine.execUshl e n d a b s
  | .ushr e n d a b => Sys2Proof.Machine.execUshr e n d a b s
  | .usar e n d a b => Sys2Proof.Machine.execUsar e n d a b s
  | .umin e n d a b => Sys2Proof.Machine.execUmin e n d a b s
  | .umax e n d a b => Sys2Proof.Machine.execUmax e n d a b s
  | .umov e n d a => Sys2Proof.Machine.execUmov e n d a s
  | .unot e n d a => Sys2Proof.Machine.execUnot e n d a s
  | .uneg e n d a => Sys2Proof.Machine.execUneg e n d a s
  | .uclz e n d a => Sys2Proof.Machine.execUclz e n d a s
  | .upopc e n d a => Sys2Proof.Machine.execUpopc e n d a s
  | .uaddx e n d a b => Sys2Proof.Machine.execUaddx e n d a b s
  | .umulwx e n d a b => Sys2Proof.Machine.execUmulwx e n d a b s
  | .uaddi e n d a im => Sys2Proof.Machine.execUaddi e n d a im s
  | .uandi e n d a im => Sys2Proof.Machine.execUandi e n d a im s
  | .uori e n d a im => Sys2Proof.Machine.execUori e n d a im s
  | .ushli e n d a im => Sys2Proof.Machine.execUshli e n d a im s
  | .ushri e n d a im => Sys2Proof.Machine.execUshri e n d a im s
  | .uaddxi e n d a im => Sys2Proof.Machine.execUaddxi e n d a im s
  | .uldi e d im => Sys2Proof.Machine.execUldi e d im s
  | .uldh e d im => Sys2Proof.Machine.execUldh e d im s
  | .ucmpeq e n d a b => Sys2Proof.Machine.execUcmpeq e n d a b s
  | .ucmpne e n d a b => Sys2Proof.Machine.execUcmpne e n d a b s
  | .ucmplt e n d a b => Sys2Proof.Machine.execUcmplt e n d a b s
  | .ucmpltn e n d a b => Sys2Proof.Machine.execUcmpltn e n d a b s
  | .ucmpltx e n d a b => Sys2Proof.Machine.execUcmpltx e n d a b s
  | .rdl e n d a => Sys2Proof.Machine.execRdl e n d a s
  | .ubra d => Sys2Proof.Machine.execUbra d s
  | .ubz a d => Sys2Proof.Machine.execUbz a d s
  | .ubnz a d => Sys2Proof.Machine.execUbnz a d s
  | .ucall d => Sys2Proof.Machine.execUcall d s
  | .uret a => Sys2Proof.Machine.execUret a s
  | .region => Sys2Proof.Machine.execRegion s
  | .mset e im => Sys2Proof.Machine.execMset e im s
  | .mclr e im => Sys2Proof.Machine.execMclr e im s
  | .uexit => Sys2Proof.Machine.execUexit s
  | .bar => Sys2Proof.Machine.execBar s
  | .barc => Sys2Proof.Machine.execBarc s
  | .phase sc k => Sys2Proof.Machine.execPhase sc k s
  | .ifence => Sys2Proof.Machine.execIfence s
  | .unop e => Sys2Proof.Machine.execUnop e s
  | .push a q => Sys2Proof.Machine.execPush a q s
  | .pop n d q => Sys2Proof.Machine.execPop n d q s
  | .qtry n d q => Sys2Proof.Machine.execQtry n d q s
  | .qstat e n d q => Sys2Proof.Machine.execQstat e n d q s
  | .bwait a im => Sys2Proof.Machine.execBwait a im s
  | .bexp n d a b => Sys2Proof.Machine.execBexp n d a b s
  | .barv n d a => Sys2Proof.Machine.execBarv n d a s
  | .cego n d a im => Sys2Proof.Machine.execCego n d a im s
  | .rego n d a => Sys2Proof.Machine.execRego n d a s
  | .splice n d a b => Sys2Proof.Machine.execSplice n d a b s
  | .pin n d a => Sys2Proof.Machine.execPin n d a s
  | .unpin n d a => Sys2Proof.Machine.execUnpin n d a s
  | .drain n d a => Sys2Proof.Machine.execDrain n d a s
  | .launch n d a b => Sys2Proof.Machine.execLaunch n d a b s
  | .trap im => Sys2Proof.Machine.execTrap im s
  | .eret => Sys2Proof.Machine.execEret s
  | .mfsr e n d im => Sys2Proof.Machine.execMfsr e n d im s
  | .mtsr a im => Sys2Proof.Machine.execMtsr a im s
  | .fpev e n d im => Sys2Proof.Machine.execFpev e n d im s
  | .errc e n d im => Sys2Proof.Machine.execErrc e n d im s
  | .cyc e d => Sys2Proof.Machine.execCyc e d s
  | .bkpt im => Sys2Proof.Machine.execBkpt im s
  | .apgo n d a => Sys2Proof.Machine.execApgo n d a s
  | .tbld n d a b => Sys2Proof.Machine.execTbld n d a b s
  | .runIssue c slot => Sys2Proof.Machine.execRunIssue c slot s
  | .loadReturn c ret k stale => Sys2Proof.Machine.execLoadReturn c ret k stale s
  | .atomicPerform c k => Sys2Proof.Machine.execAtomicPerform c k s
  | .storePerform c k scope => Sys2Proof.Machine.execStorePerform c k scope s
  | .sideLogReplay c k => Sys2Proof.Machine.execSideLogReplay c k s
  | .releaseComplete c k => Sys2Proof.Machine.execReleaseComplete c k s
  | .queueEntryAppend c g => Sys2Proof.Machine.execQueueEntryAppend c g s
  | .queueEntryTake c g => Sys2Proof.Machine.execQueueEntryTake c g s
  | .trapEntry c g => Sys2Proof.Machine.execTrapEntry c g s
  | .faultRecordPost p => Sys2Proof.Machine.execFaultRecordPost p s
  | .tbldBankSwap c g => Sys2Proof.Machine.execTbldBankSwap c g s
  | .mxAccept c => Sys2Proof.Machine.execMxAccept c s
  | .mxStart c k => Sys2Proof.Machine.execMxStart c k s
  | .mxCommandComplete c k => Sys2Proof.Machine.execMxCommandComplete c k s
  | .aeAccept c => Sys2Proof.Machine.execAeAccept c s
  | .arrayOperationStart die => Sys2Proof.Machine.execArrayOperationStart die s
  | .arrayOperationComplete die k => Sys2Proof.Machine.execArrayOperationComplete die k s
  | .aeDigitalPartStart c k => Sys2Proof.Machine.execAeDigitalPartStart c k s
  | .aeDigitalPartComplete c k => Sys2Proof.Machine.execAeDigitalPartComplete c k s
  | .ceAccept c eng => Sys2Proof.Machine.execCeAccept c eng s
  | .ceChunkWrite c eng k => Sys2Proof.Machine.execCeChunkWrite c eng k s
  | .drainDeferredAccept c g => Sys2Proof.Machine.execDrainDeferredAccept c g s
  | .drainTileTake k => Sys2Proof.Machine.execDrainTileTake k s
  | .nmuLineUpdate k line => Sys2Proof.Machine.execNmuLineUpdate k line s
  | .splicePerform k => Sys2Proof.Machine.execSplicePerform k s
  | .pinPerform k => Sys2Proof.Machine.execPinPerform k s
  | .unpinPerform k => Sys2Proof.Machine.execUnpinPerform k s
  | .reclaimRecordDelivery k => Sys2Proof.Machine.execReclaimRecordDelivery k s
  | .statusEntryDelivery k => Sys2Proof.Machine.execStatusEntryDelivery k s
  | .stationAcceptRego c g => Sys2Proof.Machine.execStationAcceptRego c g s
  | .stationPacketArrival src => Sys2Proof.Machine.execStationPacketArrival src s
  | .stationDeadlineExpiry k => Sys2Proof.Machine.execStationDeadlineExpiry k s
  | .lateCountdownExpiry k => Sys2Proof.Machine.execLateCountdownExpiry k s
  | .rootRecordDelivery k => Sys2Proof.Machine.execRootRecordDelivery k s
  | .oboeGroupFit die a transpose => Sys2Proof.Machine.execOboeGroupFit die a transpose s
  | .oboePublish die => Sys2Proof.Machine.execOboePublish die s
  | .oboeStarvationTimeout die => Sys2Proof.Machine.execOboeStarvationTimeout die s
  | .queueBind im => Sys2Proof.Machine.execQueueBind im s
  | .launchTake im => Sys2Proof.Machine.execLaunchTake im s
  | .clusterDispatch l c0 => Sys2Proof.Machine.execClusterDispatch l c0 s
  | .launchEnd l => Sys2Proof.Machine.execLaunchEnd l s
  | .launchAppend k => Sys2Proof.Machine.execLaunchAppend k s
  | .preempt l k => Sys2Proof.Machine.execPreempt l k s
  | .restart k c0 => Sys2Proof.Machine.execRestart k c0 s
  | .timeSliceExpiry p prio => Sys2Proof.Machine.execTimeSliceExpiry p prio s
  | .apgoAnswer c g => Sys2Proof.Machine.execApgoAnswer c g s
  | .rowStage die a row => Sys2Proof.Machine.execRowStage die a row s
  | .rowWriteComplete die a row ok => Sys2Proof.Machine.execRowWriteComplete die a row ok s
  | .dieReset die => Sys2Proof.Machine.execDieReset die s
  | .dieWatchdogExpiry die => Sys2Proof.Machine.execDieWatchdogExpiry die s
  | .linkFailure die => Sys2Proof.Machine.execLinkFailure die s
  | .linkRateChangeRequest die rate => Sys2Proof.Machine.execLinkRateChangeRequest die rate s
  | .linkWidthChangeRequest die narrow => Sys2Proof.Machine.execLinkWidthChangeRequest die narrow s
  | .retrainComplete die ok => Sys2Proof.Machine.execRetrainComplete die ok s
  | .powerGood r => Sys2Proof.Machine.execPowerGood r s
  | .powerLoss => Sys2Proof.Machine.execPowerLoss s
  | .thermalStep sensor t => Sys2Proof.Machine.execThermalStep sensor t s
  | .scrubError loc lost => Sys2Proof.Machine.execScrubError loc lost s
  | .hostMemoryAccess acc => Sys2Proof.Machine.execHostMemoryAccess acc s
  | .peerAccess acc => Sys2Proof.Machine.execPeerAccess acc s
  | .hostLinkDown port => Sys2Proof.Machine.execHostLinkDown port s
  | .privsemTake port => Sys2Proof.Machine.execPrivsemTake port s
  | .privsemGive port => Sys2Proof.Machine.execPrivsemGive port s
  | .ifcmdLock w im => Sys2Proof.Machine.execIfcmdLock w im s
  | .ifcmdStart w im => Sys2Proof.Machine.execIfcmdStart w im s
  | .ifcmdStop w im => Sys2Proof.Machine.execIfcmdStop w im s
  | .ifcmdNone w im => Sys2Proof.Machine.execIfcmdNone w im s
  | .doorbell w im n => Sys2Proof.Machine.execDoorbell w im n s
  | .resolve w p => Sys2Proof.Machine.execResolve w p s
  | .shoot w p va => Sys2Proof.Machine.execShoot w p va s
  | .shootdownComplete p => Sys2Proof.Machine.execShootdownComplete p s
  | .pcmdCreateKeyHandle w p desc => Sys2Proof.Machine.execPcmdCreateKeyHandle w p desc s
  | .pcmdBindKeyHandle w p desc => Sys2Proof.Machine.execPcmdBindKeyHandle w p desc s
  | .pcmdDestroyKeyHandle w p desc => Sys2Proof.Machine.execPcmdDestroyKeyHandle w p desc s
  | .pcmdCreateCollective w p desc => Sys2Proof.Machine.execPcmdCreateCollective w p desc s
  | .pcmdDestroyCollective w p desc => Sys2Proof.Machine.execPcmdDestroyCollective w p desc s
  | .pcmdDefineLayer w p desc => Sys2Proof.Machine.execPcmdDefineLayer w p desc s
  | .pcmdRetireLayer w p desc => Sys2Proof.Machine.execPcmdRetireLayer w p desc s
  | .pcmdSpdm w p desc => Sys2Proof.Machine.execPcmdSpdm w p desc s
  | .mboxinDeliver w p => Sys2Proof.Machine.execMboxinDeliver w p s
  | .mailboxOutRecord c g => Sys2Proof.Machine.execMailboxOutRecord c g s
  | .partitionCreate port p => Sys2Proof.Machine.execPartitionCreate port p s
  | .partitionDissolve port p => Sys2Proof.Machine.execPartitionDissolve port p s
  | .controlRegisterWrite w off width value => Sys2Proof.Machine.execControlRegisterWrite w off width value s
  | .writeImage port desc => Sys2Proof.Machine.execWriteImage port desc s
  | .activate port desc => Sys2Proof.Machine.execActivate port desc s
  | .confirm port desc => Sys2Proof.Machine.execConfirm port desc s
  | .readLog port desc => Sys2Proof.Machine.execReadLog port desc s
  | .spdm port desc => Sys2Proof.Machine.execSpdm port desc s
  | .setCert port desc => Sys2Proof.Machine.execSetCert port desc s
  | .readSensors port desc => Sys2Proof.Machine.execReadSensors port desc s
  | .setCarveout port desc => Sys2Proof.Machine.execSetCarveout port desc s
  | .getVersion r => Sys2Proof.Machine.execGetVersion r s
  | .getCapabilities r => Sys2Proof.Machine.execGetCapabilities r s
  | .negotiateAlgorithms r => Sys2Proof.Machine.execNegotiateAlgorithms r s
  | .getDigests r => Sys2Proof.Machine.execGetDigests r s
  | .getCertificate r => Sys2Proof.Machine.execGetCertificate r s
  | .challenge r => Sys2Proof.Machine.execChallenge r s
  | .getMeasurements r => Sys2Proof.Machine.execGetMeasurements r s
  | .keyExchange r => Sys2Proof.Machine.execKeyExchange r s
  | .finish r => Sys2Proof.Machine.execFinish r s
  | .keyUpdate r => Sys2Proof.Machine.execKeyUpdate r s
  | .heartbeat r => Sys2Proof.Machine.execHeartbeat r s
  | .endSession r => Sys2Proof.Machine.execEndSession r s
  | .challengeTimeout => Sys2Proof.Machine.execChallengeTimeout s
  | .carveoutChangeComplete => Sys2Proof.Machine.execCarveoutChangeComplete s
  | .mtsrComplete c g => Sys2Proof.Machine.execMtsrComplete c g s

end Sys2Proof.Machine
end

