-- ==== Sys2Proof/Machine/Events.lean ====
section
/-! DEFINITION. The default order in which the part's own events come, where the agenda names none (log
entry 3): what may be due, and the first of it that is. What the outside world does is never among them. -/

namespace Sys2Proof.Machine

/-- Each number below `n` put through `f`. -/
def eachUpTo {α : Type} (n : Nat) (f : Nat → α) : List α := (List.range n).map f

/-- Events of each group slot of core `c`. -/
def groupEvents (c : Nat) : List (State → Out) :=
  (List.range 32).flatMap fun g =>
    [execTrapEntry c g, execQueueEntryAppend c g, execQueueEntryTake c g, execMtsrComplete c g, execTbldBankSwap c g,
     execApgoAnswer c g, execDrainDeferredAccept c g, execMailboxOutRecord c g, execStationAcceptRego c g]

/-- The events of one core, its runs last. -/
def Core.events (k : Core) (c : Nat) : List (State → Out) :=
  groupEvents c ++
  eachUpTo k.rets.length (execLoadReturn c true · false) ++ eachUpTo k.loads.length (execLoadReturn c false · false) ++
  eachUpTo k.stores.length (execStorePerform c · 4) ++ eachUpTo k.atoms.length (execAtomicPerform c ·) ++
  eachUpTo k.sideLog.length (execSideLogReplay c ·) ++ eachUpTo k.releases.length (execReleaseComplete c ·) ++
  [execMxAccept c] ++ eachUpTo k.mx.length (execMxStart c ·) ++ eachUpTo k.mx.length (execMxCommandComplete c ·) ++
  [execAeAccept c] ++ eachUpTo k.ae.length (execAeDigitalPartStart c ·) ++ eachUpTo k.ae.length (execAeDigitalPartComplete c ·) ++
  [execCeAccept c false, execCeAccept c true, execCeChunkWrite c false 0, execCeChunkWrite c true 0] ++
  eachUpTo 4 (execRunIssue c ·)

/-- The events of the units beside the cores. -/
def State.unitEvents (s : State) : List (State → Out) :=
  eachUpTo s.consistReqs.length (execSplicePerform ·) ++ eachUpTo s.consistReqs.length (execPinPerform ·) ++
  eachUpTo s.consistReqs.length (execUnpinPerform ·) ++ eachUpTo s.consists.length (execReclaimRecordDelivery ·) ++
  eachUpTo s.waitingEntries.length (execStatusEntryDelivery ·) ++ eachUpTo s.drains.length (execDrainTileTake ·) ++
  ((List.range s.drains.length).flatMap fun k => match s.drains[k]? with
    | some d => d.linesLeft.map fun line => execNmuLineUpdate k line
    | none => []) ++
  eachUpTo s.packets.length (fun k => execStationPacketArrival (.within k)) ++
  eachUpTo s.rootRecords.length (execRootRecordDelivery ·) ++ [execCarveoutChangeComplete] ++
  eachUpTo s.outbox.length (fun k => execMailboxOutRecord 0 (32 + k)) ++ (if s.mgr.raising.isSome then [execConfirm 0 0] else []) ++
  (s.partitions.flatMap fun (p, _) => [execFaultRecordPost p, execShootdownComplete p])

/-- The events of the array dies. -/
def State.dieEvents (s : State) : List (State → Out) :=
  s.dies.flatMap fun (i, d) =>
    [execArrayOperationStart i, execArrayOperationComplete i 0, execOboePublish i, execRetrainComplete i true] ++
    (d.jobs.filterMap d.toStage).map (fun x => execRowStage i x.2.1 x.2.2) ++
    d.arrays.filterMap fun (a, x) => x.nextRow.map fun r => execRowWriteComplete i a r true

/-- Junction's events. -/
def State.junctionEvents (s : State) : List (State → Out) :=
  eachUpTo s.launchReqs.length (execLaunchAppend ·) ++ (s.launches.map fun x => execLaunchEnd x.1) ++
  (s.ifaces.flatMap fun x => [execQueueBind x.1, execLaunchTake x.1]) ++
  ((List.range s.saved.length).flatMap fun k => eachUpTo 320 (execRestart k ·)) ++
  ((s.ifaces.filterMap fun x => x.2.current).flatMap fun n => eachUpTo 320 (execClusterDispatch n ·)) ++
  s.blocks.filterMap fun (_, x) => x.map fun b => execPreempt b.launch b.cluster

/-- Countdowns and slices: these run out only when nothing else is due. -/
def State.timerEvents (s : State) : List (State → Out) :=
  eachUpTo s.rounds.length (execStationDeadlineExpiry ·) ++ eachUpTo s.rounds.length (execLateCountdownExpiry ·) ++
  (s.partitions.flatMap fun (p, _) => eachUpTo 8 (execTimeSliceExpiry p ·)) ++
  s.dies.flatMap fun (i, d) => d.arrays.flatMap fun (a, _) => [execOboeGroupFit i a false, execOboeGroupFit i a true]

/-- The first event of a list that is due. -/
def State.firstDue (s : State) : List (State → Out) → Option State
  | [] => none
  | f :: fs => match f s with
    | .next t => some t
    | _ => s.firstDue fs

/-- The first group whose run is in progress. -/
def State.inRun (s : State) : Option (Nat × Nat) :=
  s.cores.findSome? fun (c, _) => ((List.range 4).findSome? (s.running c)).map fun g => (c, g)

/-- What the part does of itself; with nothing due, a run that waited goes on, or only time passes. -/
def State.auto (s : State) : State :=
  match s.sendChallengeAuth with
  | some t => t
  | none =>
    ((s.firstDue (s.unitEvents ++ s.dieEvents)).or ((s.firstDue (s.cores.flatMap fun (c, k) => k.events c)).or
      ((s.firstDue s.junctionEvents).or (s.firstDue s.timerEvents)))).getD { s with focus := s.inRun }

end Sys2Proof.Machine
end

