-- ==== Sys2Proof/Machine/Step.lean ====
section
/-! DEFINITION. One step of the module: what the agenda names, else the run in focus, else what the part
does of itself (log entry 3); and how a program is placed for the next step to run (log entry 4). -/

namespace Sys2Proof.Machine

/-- One instruction of the run in focus (R28). -/
def State.advance (s : State) (x : Ctx) : Host.Outcome State Fault Refusal :=
  match s.fetchInstr x with
  | .inl t => .next t
  | .inr (t, i) => exec i t

/-- One step. -/
def step (s0 : State) : Host.Outcome State Fault Refusal :=
  let s := s0.passTime
  match s.agenda with
  | .event i :: rest =>
    if isEvent i then exec i { s with agenda := rest } else .fault .agendaNotEvent
  | .issue c i :: rest => ({ s with agenda := rest } : State).withIssue c i State.advance
  | .memError launch loc level lost :: rest => .next (({ s with agenda := rest } : State).meetMemError launch loc level lost)
  | .regError c g place lost :: rest => .next (({ s with agenda := rest } : State).meetRegError c g place lost)
  | .writeBack sector :: rest => .next (({ s with agenda := rest } : State).writeBack sector)
  | .journalError die a row kind :: rest => .next (({ s with agenda := rest } : State).decay die a row kind)
  | .cacheError c cache loc :: rest => .next (({ s with agenda := rest } : State).cacheError c cache loc)
  | .pageCopy src dst n :: rest => ({ s with agenda := rest } : State).pageCopy src dst n
  | [] =>
    match s.ctx with
    | some x => s.advance x
    | none => .next s.auto

/-- The state with an instruction placed where the next step fetches (log entry 4). -/
def State.withFetchWord (s : State) (nbits w : Nat) : State := s.placeWord (w % 2 ^ nbits)

end Sys2Proof.Machine
end

