-- ==== Sys2Proof/Safety.lean ====
section
/-! DEFINITION. What counts as a safe run: every step answers a next state. And the terms in which the claims say
what an instruction changes and what it leaves. -/

namespace Sys2Proof.Machine

/-- The first `n` steps from `s` all answer a next state. -/
def SafeFor (s : State) : Nat → Prop
  | 0 => True
  | n + 1 => ∃ t, step s = .next t ∧ SafeFor t n

/-- No step of a run from `s` stops. -/
def Safe (s : State) : Prop := ∀ n, SafeFor s n

/-- Four memories are in canonical form: local and host memory, the chip scratchpad, the memories behind the
peer ports. -/
def memsWf (m h c : Mem) (ps : Tbl Mem) : Prop :=
  Memory.wf m = true ∧ Memory.wf h = true ∧ Memory.wf c = true ∧ ∀ p, Memory.wf (tget [] ps p) = true

/-- Every memory of a state outside its blocks is in canonical form. -/
abbrev State.memoriesWf (s : State) : Prop := memsWf s.mem s.hostMem s.chip s.peerMem

/-! ## The terms of the claims -/

/-- A thread that waits at a mask or a barrier. -/
def Standing.waiting : Standing → Bool
  | .waits _ => true
  | .bar => true
  | .barc => true
  | _ => false

/-- Everything of the machine but its cores and the run in focus is as it was, every byte of memory too. -/
structure SameMachine (s t : State) : Prop where
  rest : { t with cores := [], focus := none } = { s with cores := [], focus := none }
  bytes : ∀ l, t.byteAt l = s.byteAt l

/-- Every group but `g` of core `c` is as it was, and so is all that the cores hold besides their groups. -/
structure SameCores (s t : State) (c g : Nat) : Prop where
  groups : ∀ c' g', (c', g') ≠ (c, g) → t.group c' g' = s.group c' g'
  rest : ∀ c', { t.core c' with groups := [] } = { s.core c' with groups := [] }

/-- What one instruction of a run may change in its group: threads, s registers, the run, the service order. -/
def SameGroup (x y : Group) : Prop :=
  { y with threads := x.threads, s := x.s, run := x.run, paths := x.paths, handler := x.handler,
           handlerNext := x.handlerNext, since := x.since } = x

/-- The run goes on: b0 is filled, the older latch entries move down, and the service order stands (R31). -/
structure Continues (s t : State) (x : Ctx) (y : Group) (b : Latch) : Prop where
  focus : t.focus = s.focus
  run : y.run = some { x.run with latches := (b :: x.run.latches).take 4, count := x.run.count + 1 }
  paths : y.paths = x.grp.paths
  handler : y.handler = x.grp.handler
  turn : y.handlerNext = x.grp.handlerNext
  since : y.since = x.grp.since

/-- The run is over, and its paths go to the back of the service order as `back` lists them (R28, R138, R139). -/
structure Closes (s t : State) (x : Ctx) (y : Group) (back : List LaneMask) : Prop where
  focus : t.focus = none
  run : y.run = none
  since : y.since = s.tick
  paths : y.paths = (({ x.grp with threads := y.threads, s := y.s } : Group).closeRun x.run.mask back).paths
  handler : y.handler = (({ x.grp with threads := y.threads, s := y.s } : Group).closeRun x.run.mask back).handler
  turn : y.handlerNext = !x.inHandler

/-- The threads and s registers after an instruction: the lanes of the run's path as `thr` says, all others as
they were. -/
def Lanes (x : Ctx) (y : Group) (thr : Nat → Thread → Thread) (sv : Vector Word 32) : Prop :=
  y.s = sv ∧ ∀ l, l < 32 → y.th l = if x.run.mask.getLsbD l then thr l (x.grp.th l) else x.grp.th l

/-- One instruction that goes on at the next, or ends the run where its E bit is set: only its group changes, and
of it the threads of the path as `thr` says, the s registers, the latches. -/
def Ran (s t : State) (x : Ctx) (e : Bool) (b : Latch) (thr : Nat → Thread → Thread) (sv : Vector Word 32) : Prop :=
  SameMachine s t ∧ SameCores s t x.c x.g ∧ ∃ y, t.group x.c x.g = some y ∧ SameGroup x.grp y ∧ Lanes x y thr sv ∧
    if e then Closes s t x y [x.run.mask] else Continues s t x y b

/-- PC + 4. -/
def Thread.next (t : Thread) : Thread := { t with pc := t.pc + 4 }

/-- The latch entry of a value for each lane of the run's path. -/
def laneEntry (x : Ctx) (v : Nat → Dword) : Latch :=
  .lanes (Vector.ofFn fun i : Fin 32 => if x.run.mask.getLsbD i.val then v i.val else 0)

/-- A 32-bit result in every lane of the path: the destination register, unless N is set; the latch. -/
def Writes32 (s t : State) (x : Ctx) (e n : Bool) (d : Code) (v : Nat → Word) : Prop :=
  Ran s t x e (laneEntry x fun l => (v l).setWidth 64)
    (fun l th => { th.next with v := if n then th.v else th.v.setIfInBounds d.toNat (v l) }) x.grp.s

/-- A 64-bit result in every lane: low word to the destination, high word to the register after it. -/
def Writes64 (s t : State) (x : Ctx) (e n : Bool) (d : Code) (v : Nat → Dword) : Prop :=
  Ran s t x e (laneEntry x v)
    (fun l th => { th.next with v := if n then th.v else
      (th.v.setIfInBounds d.toNat ((v l).setWidth 32)).setIfInBounds (d.toNat + 1) ((v l).extractLsb' 32 32) }) x.grp.s

/-- A predicate in every lane: the other 127 predicates stand. -/
def WritesPred (s t : State) (x : Ctx) (e : Bool) (kd : Code) (v : Nat → Bool) : Prop :=
  Ran s t x e (laneEntry x fun l => if v l then 1 else 0)
    (fun l th => { th.next with k := setBit th.k kd.toNat (v l) }) x.grp.s

/-- A uniform 32-bit result: an s register, unless N is set. -/
def WritesS (s t : State) (x : Ctx) (e n : Bool) (d : Code) (v : Word) : Prop :=
  Ran s t x e (.uniform (v.setWidth 64)) (fun _ th => th.next)
    (if n then x.grp.s else x.grp.s.setIfInBounds (d.toNat - 64) v)

/-- A uniform 64-bit result: an s pair, unless N is set. -/
def WritesS64 (s t : State) (x : Ctx) (e n : Bool) (d : Code) (v : Dword) : Prop :=
  Ran s t x e (.uniform v) (fun _ th => th.next)
    (if n then x.grp.s else
      (x.grp.s.setIfInBounds (d.toNat - 64) (v.setWidth 32)).setIfInBounds (d.toNat - 63) (v.extractLsb' 32 32))

/-- The run ends and the threads of its path move as `thr` says; nothing but the group changes (R96, R139). -/
def Moves (s t : State) (x : Ctx) (thr : Nat → Thread → Thread) (sv : Vector Word 32) (back : Group → List LaneMask) : Prop :=
  SameMachine s t ∧ SameCores s t x.c x.g ∧ ∃ y, t.group x.c x.g = some y ∧ SameGroup x.grp y ∧ Lanes x y thr sv ∧
    Closes s t x y (back { x.grp with threads := y.threads })

/-- Every thread of the path moves to one target. -/
def MovesTo (s t : State) (x : Ctx) (target : Word) (sv : Vector Word 32) : Prop :=
  Moves s t x (fun _ th => { th with pc := target }) sv fun _ => [x.run.mask]

/-- A trap of the path is delivered to a handler: the trap registers are free, the path is at user level, the
partition's handler is the program's own (R105, R327, R329; log entry 9). -/
def TrapFree (s : State) (x : Ctx) : Prop :=
  x.grp.handlerSet = 0 ∧ x.grp.heldTraps = [] ∧ (∀ l, l < 32 → x.run.mask.getLsbD l → (x.grp.th l).lvl = false) ∧
  ∃ la, s.launch x.grp.launch = some la ∧ (s.partition la.part).trapPolicy = false

/-- The threads of `m`, of the running path, enter the handler with a cause and a value: the trap registers are written,
they stand at offset 0 of the handler code at supervisor level; the path's other threads are as `thr` says, further
trapping sets held behind; no other register, predicate or byte of memory changes (R36, R165, R327). -/
def EntersSet (s t : State) (x : Ctx) (m : LaneMask) (cause : Nat) (value : Word) (held : List HeldTrap)
    (thr : Nat → Thread → Thread) : Prop :=
  SameMachine s t ∧ SameCores s t x.c x.g ∧ t.focus = none ∧ ∃ y la, s.launch x.grp.launch = some la ∧
    t.group x.c x.g = some y ∧
    y = { x.grp with
          threads := y.threads, paths := y.paths, run := none, since := s.tick, handlerNext := true, heldTraps := held,
          trapCause := BitVec.ofNat 32 cause, trapPc := (x.grp.th (lowestLane m)).pc &&& ~~~3, trapMask := m, trapVal := value,
          savedBase := (x.grp.th (lowestLane m)).codeBase, handlerSet := m, handler := x.grp.handler ++ [m] } ∧
    ∀ l, l < 32 → y.th l =
      if m.getLsbD l then
        { x.grp.th l with plvl := false, lvl := true, pc := 0, codeBase := (s.partition la.part).trapVec, standing := .ready }
      else if x.run.mask.getLsbD l then thr l (x.grp.th l) else x.grp.th l

/-- The whole path traps with a cause and a value. -/
def EntersTrap (s t : State) (x : Ctx) (cause : Nat) (value : Word) : Prop :=
  EntersSet s t x x.run.mask cause value [] fun _ th => th

/-- The unit that holds a place is there: the block, for a place of a block. -/
def State.Exists (s : State) (l : Loc) : Prop :=
  match l.place with
  | .scratch b => (s.block b).isSome
  | .share b => (s.block b).isSome
  | .slice b _ => (s.block b).isSome
  | .tiles b => (s.block b).isSome
  | _ => True

/-- No group waits at a barrier object (R319). -/
def State.NoWaiters (s : State) : Prop := ∀ c g y m a p, s.group c g = some y → y.hold ≠ some (m, .bwait a p)

/-- The group of a run after one of its instructions: as in `Ran`, whatever else the machine does. -/
def GroupRan (s t : State) (x : Ctx) (e : Bool) (b : Latch) (thr : Nat → Thread → Thread) : Prop :=
  ∃ y, t.group x.c x.g = some y ∧ SameGroup x.grp y ∧ Lanes x y thr x.grp.s ∧
    if e then Closes s t x y [x.run.mask] else Continues s t x y b

/-- A V-form runs: its run is in focus, the path has a real thread, its operand uses raise no trap (R73, R137). -/
def LaneReady (s : State) (x : Ctx) (uses : List Use) : Prop :=
  s.ctx = some x ∧ x.real ≠ 0 ∧ judgeUses false x uses = none

/-- A U-form runs (R73, R74). -/
def UniformReady (s : State) (x : Ctx) (uses : List Use) : Prop :=
  s.ctx = some x ∧ judgeUses true x uses = none

end Sys2Proof.Machine
end

