-- ==== Sys2Proof/Certificates/Slice0/Obligations.lean ====
section
/-! DEFINITION. The statements for the provers. Each is written from the rules it names; where it rests on a choice
of the model, its docstring names the log entry. -/

open Sys2Proof Sys2Proof.Machine

namespace Sys2Proof.Claims

/-- The state in which an instruction executes: its core may have noted that a later CYC counts a later cycle (R112). -/
def Noted (s t : State) (x : Ctx) : Prop := t = s ∨ t = s.setCore x.c { s.core x.c with cycSlots := [0, 1, 2, 3] }

/-- One instruction that takes no effect, on latches neither: the path goes on at PC + 4 (R137). -/
def PassesOver (s t : State) (x : Ctx) (e : Bool) : Prop :=
  SameMachine s t ∧ SameCores s t x.c x.g ∧ ∃ y, t.group x.c x.g = some y ∧ SameGroup x.grp y ∧
    Lanes x y (fun _ th => th.next) x.grp.s ∧
    if e then Closes s t x y [x.run.mask]
    else t.focus = s.focus ∧ y = { x.grp with
      threads := y.threads
      run := some { x.run with count := x.run.count + 1 } }

/-- What the operand positions accept: the tables of R78 and R227, with R27, R32, R94, R164 and R311. -/
def accepts (u : Bool) (cls : Nat) (r : Run) (use : Use) : Prop :=
  let v := fun (c : Code) (k : Nat) => c.toNat < 64 ∧ c.toNat % k = 0 ∧ c.toNat + k ≤ cls
  let s := fun (c : Code) (k : Nat) => 64 ≤ c.toNat ∧ c.toNat < 96 ∧ c.toNat % k = 0
  let laneEntry := fun (j : Nat) => ∃ b, r.latches[j]? = some b ∧ ∀ w, b ≠ .uniform w
  let latch := fun (c : Code) => 96 ≤ c.toNat ∧ c.toNat < 100 ∧ (u = true → ¬laneEntry (c.toNat - 96))
  let special := fun (c : Code) => 100 ≤ c.toNat ∧ c.toNat < 120
  let ofLane := fun (c : Code) => c = 101 ∨ c = 102 ∨ c = 103
  match use with
  | .src c => (u = false ∧ v c 1) ∨ s c 1 ∨ latch c ∨ (special c ∧ (u = true → ¬ofLane c))
  | .pair c => (u = false ∧ v c 2) ∨ s c 2 ∨ latch c ∨ c = 100 ∨ c = 118 ∨ c = 119
  | .quad c => v c 4 ∨ s c 4 ∨ c = 100
  | .sPair c => s c 2
  | .anyLane c => v c 1 ∨ s c 1 ∨ (96 ≤ c.toNat ∧ c.toNat < 100) ∨ (special c ∧ ¬ofLane c)
  | .dst c _ => if u then s c 1 else v c 1
  | .dstPair c _ => if u then s c 2 else v c 2
  | .vregs c k => v c k
  | .dstVregs c k _ => v c k
  | .quadDst c => s c 2 ∧ c.toNat ≤ 92

/-- The operand code a use reads. -/
def sourceOf (use : Use) : Option Code :=
  match use with
  | .src c => some c
  | .pair c => some c
  | .quad c => some c
  | .sPair c => some c
  | .anyLane c => some c
  | .vregs c _ => some c
  | _ => none

/-- The V-forms that judge operands, each with its uses; the Bool is its E bit. -/
def laneForms (e n : Bool) (d a b : Code) (i8 : BitVec 8) (i7 : BitVec 7) (i16 : BitVec 16) :
    List (Instr × Bool × List Use) := List.flatten [
  (([.add e n d a b, .sub e n d a b, .mul e n d a b, .mulh e n d a b, .mulhn e n d a b, .and e n d a b, .or e n d a b,
    .xor e n d a b, .andn e n d a b, .shl e n d a b, .shr e n d a b, .sar e n d a b, .min e n d a b, .max e n d a b,
    .minn e n d a b, .maxn e n d a b, .addsat e n d a b, .subsat e n d a b, .addsatn e n d a b, .subsatn e n d a b,
    .absd e n d a b, .bfx e n d a b, .bfxn e n d a b, .fadd e n d a b, .fsub e n d a b, .fmul e n d a b, .fmin e n d a b,
    .fmax e n d a b, .faddz e n d a b, .fmulz e n d a b, .cvtfb e n d a b, .cvtfbs e n d a b, .cvtfh e n d a b,
    .badd2 e n d a b, .bmul2 e n d a b, .bmax2 e n d a b, .bmin2 e n d a b, .qntf8 e n d a b, .qntf6 e n d a b,
    .qntf4 e n d a b, .qnti8 e n d a b, .rnd e n d a b, .shfl e n d a b] : List Instr).map fun i => (i, e, [.src a, .src b, .dst d n])),
  (([.bfi e n d a b, .ffma e n d a b, .ffmaz e n d a b, .bfma2 e n d a b] : List Instr).map fun i =>
    (i, e, [.src a, .src b, .src d, .dst d n])),
  (([.mov e n d a, .not e n d a, .neg e n d a, .abs e n d a, .clz e n d a, .popc e n d a, .brev e n d a, .sextb e n d a,
    .sexth e n d a, .zextb e n d a, .zexth e n d a, .addi e n d a i8, .andi e n d a i8, .ori e n d a i8, .xori e n d a i8,
    .shli e n d a i8, .shri e n d a i8, .sari e n d a i8, .muli e n d a i8, .fabs e n d a, .fneg e n d a, .ffloor e n d a,
    .fceil e n d a, .frint e n d a, .ftrunc e n d a, .fexp2 e n d a, .flog2 e n d a, .frcp e n d a, .frsq e n d a,
    .fsqrt e n d a, .fsinp e n d a, .fcosp e n d a, .ftanh e n d a, .fsig e n d a, .cvtfi e n d a, .cvtfiz e n d a,
    .cvtfn e n d a, .cvtif e n d a, .cvtnf e n d a, .cvtbf e n d a, .cvtbfh e n d a, .cvthf e n d a, .cvthfh e n d a,
    .dqn e n d a i8, .shflu e n d a i8, .shfld e n d a i8, .shflx e n d a i8, .qex e n d a i8, .voteb e n d a,
    .gred e n d a i8, .gscan e n d a i8] : List Instr).map fun i => (i, e, [.src a, .dst d n])),
  (([.cmpeq e d a b, .cmpne e d a b, .cmplt e d a b, .cmple e d a b, .cmpltn e d a b, .cmplen e d a b, .fcmpeq e d a b,
    .fcmplt e d a b, .fcmple e d a b, .fcmpun e d a b] : List Instr).map fun i => (i, e, [.src a, .src b])),
  (([.kand e d a b, .kor e d a b, .kxor e d a b, .kandn e d a b] : List Instr).map fun i => (i, e, [])),
  (([.cmpeqi e d a i7, .cmplti e d a i7, .cmpltni e d a i7, .kset e d a (i7.setWidth 5), .votean e d a, .voteal e d a] : List Instr).map fun i =>
    (i, e, [.src a])),
  [(.sel e n d a b, e, [.src a, .src d, .dst d n]), (.addx e n d a b, e, [.pair a, .pair b, .dstPair d n]),
   (.subx e n d a b, e, [.pair a, .pair b, .dstPair d n]), (.mulwx e n d a b, e, [.src a, .src b, .dstPair d n]),
   (.mulwxn e n d a b, e, [.src a, .src b, .dstPair d n]), (.leax e n d a b, e, [.pair a, .src b, .dstPair d n]),
   (.addxi e n d a i8, e, [.pair a, .dstPair d n]), (.ldi e d i16, e, [.dst d false]), (.ldh e d i16, e, [.src d, .dst d false]),
   (.cmpltx e d a b, e, [.pair a, .pair b]), (.cmpeqx e d a b, e, [.pair a, .pair b]), (.kget e n d a, e, [.dst d n]),
   (.calli n d a, true, [.src a, .dst d n]), (.stad e n d a b, e, [.src a, .src b, .dstPair d n])],
  (([.ld8 e n d a i8, .ld8s e n d a i8, .ld16 e n d a i8, .ld16s e n d a i8, .ld32 e n d a i8] : List Instr).map fun i =>
    (i, e, [.pair a, .dstVregs d 1 n])),
  [(.ld64 e n d a i8, e, [.pair a, .dstVregs d 2 n]), (.ld128 e n d a i8, e, [.pair a, .dstVregs d 4 n]),
   (.st8 e d a i8, e, [.src d, .pair a]), (.st16 e d a i8, e, [.src d, .pair a]), (.st32 e d a i8, e, [.src d, .pair a]),
   (.st64 e d a i8, e, [.pair d, .pair a]), (.st128 e d a i8, e, [.quad d, .pair a]),
   (.pfNormal e a i8, e, [.pair a]), (.pfEvictFirst e a i8, e, [.pair a]), (.pfEvictLast e a i8, e, [.pair a]),
   (.pfLlcOnly e a i8, e, [.pair a])]]

/-- The atomics with a 32-bit data operand, and those with a wider one (R235). -/
def atomForms (n : Bool) (d a : Code) (sc r : BitVec 2) : List (Instr × Nat) :=
  (([.aadd n d a sc r, .aaddf n d a sc r, .aaddb2 n d a sc r, .amin n d a sc r, .amax n d a sc r, .aminn n d a sc r,
    .amaxn n d a sc r, .aand n d a sc r, .aor n d a sc r, .axor n d a sc r, .axch n d a sc r] : List Instr).map fun i => (i, 1)) ++
  [(.acas n d a sc r, 2), (.aaddx n d a sc r, 2), (.axchx n d a sc r, 2), (.acasx n d a sc r, 4)]

/-- What an atomic uses D as (R234): its own data registers, or with N set any source of the width. -/
def dataUse (n : Bool) (d : Code) (k : Nat) : Use :=
  if n then (if k = 1 then .src d else if k = 2 then .pair d else .quad d) else .vregs d k

/-- The U-forms that judge operands, each with its uses. -/
def uniformForms (e n : Bool) (d a b : Code) (i8 : BitVec 8) (i16 : BitVec 16) (d16 : BitVec 16) (q : BitVec 5) :
    List (Instr × List Use) := List.flatten [
  (([.uadd e n d a b, .usub e n d a b, .umul e n d a b, .uand e n d a b, .uor e n d a b, .uxor e n d a b, .ushl e n d a b,
    .ushr e n d a b, .usar e n d a b, .umin e n d a b, .umax e n d a b, .ucmpeq e n d a b, .ucmpne e n d a b,
    .ucmplt e n d a b, .ucmpltn e n d a b] : List Instr).map fun i => (i, [.src a, .src b, .dst d n])),
  (([.umov e n d a, .unot e n d a, .uneg e n d a, .uclz e n d a, .upopc e n d a, .uaddi e n d a i8, .uandi e n d a i8,
    .uori e n d a i8, .ushli e n d a i8, .ushri e n d a i8, .unpin n d a] : List Instr).map fun i => (i, [.src a, .dst d n])),
  [(.uaddx e n d a b, [.pair a, .pair b, .dstPair d n]), (.umulwx e n d a b, [.src a, .src b, .dstPair d n]),
   (.uaddxi e n d a i8, [.pair a, .dstPair d n]), (.ucmpltx e n d a b, [.pair a, .pair b, .dst d n]),
   (.uldi e d i16, [.dst d false]), (.uldh e d i16, [.src d, .dst d false]), (.rdl e n d a, [.anyLane a, .dst d n]),
   (.ubz a d16, [.src a]), (.ubnz a d16, [.src a]), (.uret a, [.src a]), (.fpev e n d i8, [.dst d n]),
   (.errc e n d i8, [.dst d n]), (.cyc e d, [.dstPair d false]), (.qstat e n d q, [.dst d n]), (.pop n d q, [.dstPair d n]),
   (.qtry n d q, [.quadDst d]), (.push a q, [.pair a]), (.bwait a i8, [.pair a]), (.bexp n d a b, [.pair a, .src b, .dst d n]),
   (.barv n d a, [.pair a, .dst d n]), (.cego n d a i8, [.pair a, .dst d n]), (.rego n d a, [.pair a, .dst d n]),
   (.tbld n d a b, [.pair a, .src b, .dst d n]), (.launch n d a b, [.pair a, .src b, .dst d n]),
   (.splice n d a b, [.pair a, .pair b, .dst d n]), (.pin n d a, [.pair a, .dst d n]), (.drain n d a, [.pair a, .dst d n])]]

/-- A V-form of two 32-bit sources answers a next state with `f` of them in every lane of the path. -/
def Lane2 (c : Bool → Bool → Code → Code → Code → Instr) (f : Word → Word → Word) : Prop :=
  ∀ s x e n d a b, LaneReady s x [.src a, .src b, .dst d n] →
    ∃ t, exec (c e n d a b) s = .next t ∧ Writes32 s t x e n d fun l => f (s.src x l a) (s.src x l b)
/-- A V-form of one 32-bit source. -/
def Lane1 (c : Bool → Bool → Code → Code → Instr) (f : Word → Word) : Prop :=
  ∀ s x e n d a, LaneReady s x [.src a, .dst d n] →
    ∃ t, exec (c e n d a) s = .next t ∧ Writes32 s t x e n d fun l => f (s.src x l a)
/-- A V-form of one 32-bit source and an immediate. -/
def Lane1i (c : Bool → Bool → Code → Code → BitVec 8 → Instr) (f : Word → BitVec 8 → Word) : Prop :=
  ∀ s x e n d a i, LaneReady s x [.src a, .dst d n] →
    ∃ t, exec (c e n d a i) s = .next t ∧ Writes32 s t x e n d fun l => f (s.src x l a) i
/-- A U-form of two 32-bit sources. -/
def Uniform2 (c : Bool → Bool → Code → Code → Code → Instr) (f : Word → Word → Word) : Prop :=
  ∀ s x e n d a b, UniformReady s x [.src a, .src b, .dst d n] →
    ∃ t, exec (c e n d a b) s = .next t ∧ WritesS s t x e n d (f (s.usrc x a) (s.usrc x b))
/-- A U-form of one 32-bit source. -/
def Uniform1 (c : Bool → Bool → Code → Code → Instr) (f : Word → Word) : Prop :=
  ∀ s x e n d a, UniformReady s x [.src a, .dst d n] →
    ∃ t, exec (c e n d a) s = .next t ∧ WritesS s t x e n d (f (s.usrc x a))
/-- A U-form of one 32-bit source and an immediate. -/
def Uniform1i (c : Bool → Bool → Code → Code → BitVec 8 → Instr) (f : Word → BitVec 8 → Word) : Prop :=
  ∀ s x e n d a i, UniformReady s x [.src a, .dst d n] →
    ∃ t, exec (c e n d a i) s = .next t ∧ WritesS s t x e n d (f (s.usrc x a) i)
/-- A compare of two 32-bit sources. -/
def Pred2 (c : Bool → Code → Code → Code → Instr) (f : Word → Word → Bool) : Prop :=
  ∀ s x e k a b, LaneReady s x [.src a, .src b] →
    ∃ t, exec (c e k a b) s = .next t ∧ WritesPred s t x e k fun l => f (s.src x l a) (s.src x l b)
/-- A compare with an immediate. -/
def Pred1i (c : Bool → Code → Code → BitVec 7 → Instr) (f : Word → BitVec 7 → Bool) : Prop :=
  ∀ s x e k a i, LaneReady s x [.src a] →
    ∃ t, exec (c e k a i) s = .next t ∧ WritesPred s t x e k fun l => f (s.src x l a) i
/-- A compare of pairs. -/
def Pred2x (c : Bool → Code → Code → Code → Instr) (f : Dword → Dword → Bool) : Prop :=
  ∀ s x e k a b, LaneReady s x [.pair a, .pair b] →
    ∃ t, exec (c e k a b) s = .next t ∧ WritesPred s t x e k fun l => f (s.src64 x l a) (s.src64 x l b)
/-- A form of two predicates. -/
def PredK (c : Bool → Code → Code → Code → Instr) (f : Bool → Bool → Bool) : Prop :=
  ∀ s x e k a b, LaneReady s x [] →
    ∃ t, exec (c e k a b) s = .next t ∧
      WritesPred s t x e k fun l => f ((x.grp.th l).k.getLsbD a.toNat) ((x.grp.th l).k.getLsbD b.toNat)

/-- R82: the count is all 32 bits of B. -/
def left (a : Word) (n : Nat) : Word := if n < 32 then BitVec.ofNat 32 (a.toNat * 2 ^ n) else 0
def right (a : Word) (n : Nat) : Word := if n < 32 then BitVec.ofNat 32 (a.toNat / 2 ^ n) else 0
def arith (a : Word) (n : Nat) : Word :=
  if n < 32 then BitVec.ofInt 32 (a.toInt / 2 ^ n) else if a.msb then 0xFFFFFFFF else 0
/-- Clamped between two bounds. -/
def clamped (lo hi i : Int) : Word := BitVec.ofInt 32 (if i < lo then lo else if hi < i then hi else i)
/-- R83: position, effective width, mask and field of a descriptor. -/
def pos (b : Word) : Nat := b.toNat % 32
def width (b : Word) : Nat := min (b.toNat / 256 % 64) (32 - pos b)
def maskAt (b : Word) : Word := BitVec.ofNat 32 ((2 ^ width b - 1) * 2 ^ pos b)
def field (a b : Word) : Nat := (a &&& maskAt b).toNat / 2 ^ pos b
def signedField (a b : Word) : Word :=
  if 1 ≤ width b ∧ (field a b).testBit (width b - 1) then BitVec.ofInt 32 ((field a b : Int) - 2 ^ width b)
  else BitVec.ofNat 32 (field a b)
def inserted (d a b : Word) : Word := (d &&& ~~~maskAt b) ||| (BitVec.ofNat 32 (a.toNat * 2 ^ pos b) &&& maskAt b)

/-- The events of the real lanes of a path, lane by lane. -/
def eventsOf (x : Ctx) (ev : Nat → Events) : Events := (lanesOf x.real).flatMap ev

/-- An instruction answers a next state with a 32-bit result in every lane of the path, and the events of its real
lanes are then counted in one format (R57, R58, R116). -/
def Counted (s : State) (x : Ctx) (i : Instr) (e n : Bool) (d : Code) (fmt : Nat) (r : Nat → Word × Events) : Prop :=
  ∃ t, exec i s = .next (t.countEvents x.grp.launch fmt (eventsOf x fun l => (r l).2)) ∧
    Writes32 s t x e n d fun l => (r l).1

/-- A form of two FP32 sources, or of two packed ones. -/
def Float2 (c : Bool → Bool → Code → Code → Code → Instr) (fmt : Nat) (f : Word → Word → Word × Events) : Prop :=
  ∀ s x e n d a b, LaneReady s x [.src a, .src b, .dst d n] →
    Counted s x (c e n d a b) e n d fmt fun l => f (s.src x l a) (s.src x l b)
/-- A form of two sources and D. -/
def Float3 (c : Bool → Bool → Code → Code → Code → Instr) (fmt : Nat) (f : Word → Word → Word → Word × Events) : Prop :=
  ∀ s x e n d a b, LaneReady s x [.src a, .src b, .src d, .dst d n] →
    Counted s x (c e n d a b) e n d fmt fun l => f (s.src x l a) (s.src x l b) (s.src x l d)
/-- A form of one FP32 source. -/
def Float1 (c : Bool → Bool → Code → Code → Instr) (f : Word → Word × Events) : Prop :=
  ∀ s x e n d a, LaneReady s x [.src a, .dst d n] →
    Counted s x (c e n d a) e n d 0 fun l => f (s.src x l a)

/-- The two halves of a word under a function of two BF16 codes, and their events. -/
def halves (f : Nat → Nat → Nat × Events) (a b : Word) : Word × Events :=
  let lo := f (a.toNat % 65536) (b.toNat % 65536)
  let hi := f (a.toNat / 65536) (b.toNat / 65536)
  (BitVec.ofNat 32 (hi.1 * 65536 + lo.1), lo.2 ++ hi.2)

/-- A quantizer into narrow format `k` (R52, R129): lanes that take no part are not written. -/
def Quantizes (c : Bool → Bool → Code → Code → Code → Instr) (k : Nat) : Prop :=
  ∀ s x e n d a b, LaneReady s x [.src a, .src b, .dst d n] →
    let scale := fun l => if b = 100 then chooseScale k (s.taking x a) else (s.src x l b).toNat % 65536
    let r := fun l => quantizeOne k (scale l) (s.src x l a)
    let v := fun l => if x.real.getLsbD l then BitVec.ofNat 32 (scale l * 65536 + (r l).1) else 0
    ∃ t, exec (c e n d a b) s = .next (t.countEvents x.grp.launch (narrowIndex k) (eventsOf x fun l => (r l).2)) ∧
      Ran s t x e (laneEntry x fun l => (v l).setWidth 64)
        (fun l th => { th.next with v := if n || !x.real.getLsbD l then th.v else th.v.setIfInBounds d.toNat (v l) }) x.grp.s

/-- The values of the lanes that take part, by lane number (R155). -/
def takers (s : State) (x : Ctx) (a : Code) : List Word := (lanesOf x.real).map fun l => s.src x l a
/-- `r` is a value among `vs` that no other exceeds in the order `le`. -/
def Extreme (le : Word → Word → Prop) (vs : List Word) (r : Word) : Prop := r ∈ vs ∧ ∀ v ∈ vs, le v r

/-- A target is a multiple of 4. -/
def Aligned (w : Word) : Prop := w.toNat % 4 = 0
/-- The threads that stand exited or finished; an absent lane is none (R134). -/
def goneOf (thr : Nat → Thread) : LaneMask :=
  maskOf fun l => (thr l).kind != .absent && ((thr l).standing == .exited || (thr l).standing == .finished)

/-- The threads after mask `m` is judged with mask bits `v` and arrivals `arr`: released at PC + 4 where every thread
of the mask has arrived or exited (R167). -/
def judged (m : Nat) (v arr : LaneMask) (thr : Nat → Thread) (l : Nat) : Thread :=
  if v &&& ~~~(arr ||| goneOf thr) = 0 ∧ arr.getLsbD l ∧ (thr l).standing = .waits m
  then { thr l with standing := .ready, pc := (thr l).pc + 4, regionStart := (thr l).pc + 4 } else thr l

/-- The threads of the rest of the group after some exit: a thread that stands ready and does not exit is as it was. -/
def ExitsPath (t : State) (x : Ctx) : Prop :=
  t.focus = none ∧ ∃ y, t.group x.c x.g = some y ∧ y.s = x.grp.s ∧ ∀ l, l < 32 →
    (x.run.mask.getLsbD l → (x.grp.th l).kind = .real → y.th l = { x.grp.th l with standing := .exited, vPend := 0 }) ∧
    (x.run.mask.getLsbD l = false → (x.grp.th l).kind = .real → (x.grp.th l).standing = .ready → y.th l = x.grp.th l)

/-- The other groups of the machine: only threads that wait may go on (R167, R170). -/
def OthersKeep (s t : State) (c g : Nat) : Prop :=
  ∀ c' g' z, (c', g') ≠ (c, g) → s.group c' g' = some z → ∃ z', t.group c' g' = some z' ∧
    z' = { z with threads := z'.threads, paths := z'.paths, handler := z'.handler, arrived := z'.arrived, since := z'.since } ∧
    ∀ l, l < 32 → (z.th l).standing.waiting = false → z'.th l = z.th l

/-- The groups of the block of `x` on its core, but `x`'s own. -/
def Mate (s : State) (x : Ctx) (g : Nat) (z : Group) : Prop :=
  g < 32 ∧ g ≠ x.g ∧ s.group x.c g = some z ∧ z.block = x.grp.block

/-- A thread that its barrier releases (R170). -/
def released (th : Thread) : Thread := { th with standing := .ready, pc := th.pc + 4, regionStart := th.pc + 4 }

/-- A lane for which no barrier waits: no thread, or one that has exited or is finished (R136, R170). -/
def Out (th : Thread) : Prop := th.kind = .absent ∨ th.standing = .exited ∨ th.standing = .finished

/-- Every thread of a group waits at the barrier, or is none it waits for; of the running group, the path aside. -/
def Arrived (x : Ctx) (st : Standing) (c g : Nat) (y : Group) : Prop :=
  ∀ l, l < 32 → ((c, g) = (x.c, x.g) ∧ x.run.mask.getLsbD l) ∨ Out (y.th l) ∨ (y.th l).standing = st

/-- A group after its barrier has released: each thread that waited there goes on, the path's among them. -/
def GoesOn (x : Ctx) (st : Standing) (c g : Nat) (y z : Group) : Prop :=
  ∀ l, l < 32 → z.th l =
    if ((c, g) = (x.c, x.g) ∧ x.run.mask.getLsbD l) ∨ (y.th l).standing = st then released (y.th l) else y.th l

/-- The release at an arrival is complete at once, and no earlier arrival's is owed (R194). -/
def NothingOwed (s : State) (x : Ctx) (scope : Nat) (why : ReleaseFor) : Prop :=
  (s.core x.c).releaseMet (s.partOf x.grp.launch) (s.core x.c).nextId scope why = true ∧
    ∀ r ∈ (s.core x.c).releases, r.why ≠ why

/-- Only what the copies hold may have changed, the core's own and its cluster's constant cache, with what they once
held and their hints; older loads of the group have taken theirs; and one free choice was made. -/
def ReadTable (s u : State) (x : Ctx) : Prop :=
  ∃ sn od ld rt cs co hs, u = { s.setCore x.c { s.core x.c with snap := sn, old := od, loads := ld, rets := rt } with
    constants := cs
    constantsOld := co
    hints := hs
    freeCtr := s.freeCtr + 1 }

/-- A load of four bytes at `a` would return `w` at this moment, whichever copy serves it (R164, R193, R198). -/
def EntryReads (s : State) (x : Ctx) (l : Nat) (a : Dword) (w : Word) : Prop :=
  ∃ v cst p, s.judge (x.who l) .load 4 a = .va v cst ∧ s.translate x.c x.grp.launch .load v = .ok p ∧
    let k := s.core x.c
    if cst then snapGets (tget [] s.constants (hwCluster x.c)) p 4 = none ∧ w = s.wordAt p
    else k.logHolds k.nextId (s.partOf x.grp.launch) v 4 = false ∧ k.ownClear k.nextId p 4 = true ∧ s.atomBefore x.c k.nextId p 4 = false ∧
      snapGets k.snap p 4 = none ∧ w = BitVec.ofNat 32 (leNat (s.bytesBefore x.c k.nextId p 4))

/-- The read of a table entry is refused (R164, R336). -/
def EntryRefused (s : State) (x : Ctx) (l : Nat) (a : Dword) : Prop :=
  match s.judge (x.who l) .load 4 a with
  | .va v _ => ∃ k, s.translate x.c x.grp.launch .load v = .bad k
  | _ => True

/-- An access fails one of its checks. -/
def fails (a : Access) : Bool := match a with | .fails _ => true | _ => false

/-- The trap of check `f`: those of R228 in their order, then a malformed walk, a page that does not allow the access, a
physical address outside the partition, a sealed page without its key, an atomic on a host page, and a control
register of the operator's (R228, R237, R336). -/
def causeOf (f : Nat) : Nat :=
  if f = 2 ∨ f = 12 then 10 else if f = 4 then 6 else if f = 5 then 8 else if f = 7 ∨ f = 8 then 9 else 7

/-- An access of a run is issued: no byte changes, nor anything but the run's group, what its core holds outstanding or
cached, and the fault records its partition has noted. -/
structure Issued (s t : State) (x : Ctx) : Prop where
  rest : { t with cores := [], focus := none, partitions := [] } = { s with cores := [], focus := none, partitions := [] }
  bytes : ∀ l, t.byteAt l = s.byteAt l
  cores : ∀ c, c ≠ x.c → t.core c = s.core c
  groups : ∀ g, g ≠ x.g → t.group x.c g = s.group x.c g
  partitions : ∀ p, { t.partition p with faultsPosted := [], faultsWaiting := [] } =
    { s.partition p with faultsPosted := [], faultsWaiting := [] }

/-- The marks of `k` registers from `d`. -/
def marks (d k : Nat) : BitVec 64 := BitVec.ofNat 64 ((2 ^ k - 1) * 2 ^ d)
/-- The register words with `k` of them, from `d` on, made 0. -/
def cleared (v : Vector Word 64) (d k : Nat) : Vector Word 64 := (List.range k).foldl (fun v j => v.setIfInBounds (d + j) 0) v

/-- A thread whose registers await a value; a helper lane that fails a check receives 0 at once (R228, R229). -/
def awaits (n bad : Bool) (d k : Nat) (th : Thread) : Thread :=
  if n then th
  else if bad then { th with v := cleared th.v d k, vPend := th.vPend &&& ~~~marks d k }
  else { th with vPend := th.vPend ||| marks d k }

/-- Word `j` of a load of `size` bytes (R6, R229). -/
def loaded (size : Nat) (sg : Bool) (b : Nat → Byte) (j : Nat) : Word :=
  if size = 1 then (if sg then (b 0).signExtend 32 else (b 0).setWidth 32)
  else if size = 2 then (if sg then (b 1 ++ b 0).signExtend 32 else (b 1 ++ b 0).setWidth 32)
  else b (4 * j + 3) ++ b (4 * j + 2) ++ b (4 * j + 1) ++ b (4 * j)

/-- The part of a load's bytes that lane `l` receives: where it begins and how long it is (R182). -/
def partOf (r : LoadRec) (l : Nat) : Nat × Nat := ((r.parts.find? fun p => p.1 == l).map (·.2)).getD (0, r.size)

/-- A load of `size` bytes into `k` registers is issued for every lane of the path; lanes that read a common constant word
read it once (R34, R135, R182, R229 to R231). -/
def LoadIssues (c : Bool → Bool → Code → Code → BitVec 8 → Instr) (size k : Nat) (sg : Bool) : Prop :=
  ∀ s x e n d a o, LaneReady s x [.pair a, .dstVregs d k n] →
    let ea := fun l => s.src64 x l a + o.signExtend 64 * BitVec.ofNat 64 size
    let acc := fun l => s.access (x.who l) .load size (ea l)
    let old := s.core x.c
    (∀ l, l < 32 → x.real.getLsbD l → fails (acc l) = false) →
    ∃ t recs rets, exec (c e n d a o) s = .next t ∧ Issued s t x ∧
      GroupRan s t x e .pending (fun l th => awaits n (fails (acc l)) d.toNat k th.next) ∧
      t.core x.c = { old with groups := (t.core x.c).groups, tlb := (t.core x.c).tlb, loads := old.loads ++ recs,
                              nextId := old.nextId + 1, rets := old.rets ++ rets } ∧
      (∀ l, l < 32 → x.run.mask.getLsbD l → ((∃ v, acc l = .unmapped v) ∨ ∃ p q, acc l = .loc p q ∧ p.place.shared) →
        ∃ r ∈ recs, r.lanes.getLsbD l ∧ r.signed = sg ∧ r.d = d.toNat ∧ r.n = n ∧ r.slot = x.g ∧ r.id = old.nextId ∧
          r.roots = none ∧ partOf r l = (if pathOf (ea l) = 13 ∧ size < 4 then ((ea l).toNat % 4, size) else (0, size))) ∧
      (∀ r ∈ recs, ∀ l, l < 32 → r.lanes.getLsbD l → x.run.mask.getLsbD l ∧
        (if pathOf (ea l) = 13 ∧ size < 4 then r.ea = ea l &&& ~~~3 ∧ r.size = 4 else r.ea = ea l ∧ r.size = size)) ∧
      (n = false → ∀ l p q, l < 32 → x.run.mask.getLsbD l → acc l = .loc p q → p.place.shared = false →
        ∃ r ∈ rets, r.slot = x.g ∧ ∀ j, j < k → (l, d.toNat + j, loaded size sg (fun i => s.byteAt (p.add i)) j) ∈ r.vals)

/-- The `n` bytes of a value, the lowest first (R6). -/
def bytesOf {w : Nat} (v : BitVec w) (n : Nat) : List Byte := (List.range n).map fun i => v.extractLsb' (8 * i) 8

/-- The byte that the last of some stores leaves at a place, if one of them covers it. -/
def lastStore (ts : List (Loc × List Byte)) (l : Loc) : Option Byte :=
  ts.foldl (fun r t => if t.1.place = l.place ∧ t.1.off ≤ l.off ∧ l.off < t.1.off + t.2.length
    then some (t.2.getD (l.off - t.1.off) 0) else r) none

/-- The places and bytes that the lanes of a store write, ascending; those that retire into the side log write nothing
yet. -/
def storesOf (s : State) (x : Ctx) (size : Nat) (data : Nat → List Byte) (as : List LaneAcc) : List (Loc × List Byte) :=
  as.filterMap fun a => match a.acc with
    | .loc p _ => if s.retires x size a then none else some (p, data a.lane)
    | _ => none

/-- A store of `size` bytes is issued for every real lane of the path; its own core sees it from then on, a private place
holds it at once, and the lanes that retire take entries of the side log, one for each page (R186, R192, R232, R233). -/
def StoreIssues (c : Bool → Code → Code → BitVec 8 → Instr) (use : Code → Use) (size : Nat)
    (data : State → Ctx → Nat → Code → List Byte) : Prop :=
  ∀ s x e d a o, LaneReady s x [use d, .pair a] →
    let as := s.accesses x .store size x.real fun l => s.src64 x l a + o.signExtend 64 * BitVec.ofNat 64 size
    let logged := as.filter (s.retires x size)
    let ts := storesOf s x size (fun l => data s x l d) as
    (∀ b ∈ as, fails b.acc = false ∧ ∀ w, b.acc ≠ .window w) → (pagesOf logged).length ≤ x.run.logRoom →
    ∃ t entries, exec (c e d a o) s = .next t ∧
      { t with cores := [], focus := none, partitions := [], blocks := [], consists := [], emitted := 0 } =
        { s with cores := [], focus := none, partitions := [], blocks := [], consists := [], emitted := 0 } ∧
      ((∀ k ∈ s.consists, ∀ r ∈ k.2.ranges, r.2.1.place.shared) → t.consists = s.consists ∧ t.emitted = s.emitted) ∧
      (∀ c', c' ≠ x.c → t.core c' = s.core c') ∧ (∀ g, g ≠ x.g → t.group x.c g = s.group x.c g) ∧
      GroupRan s t (x.draw logged) e latchZero (fun _ th => th.next) ∧
      (∀ l, if l.place.shared then t.byteAt l = s.byteAt l ∧ t.coreByte x.c l = (lastStore ts l).getD (s.coreByte x.c l)
        else t.byteAt l = (lastStore ts l).getD (s.byteAt l)) ∧
      (t.core x.c).sideLog = (s.core x.c).sideLog ++ entries ∧ entries.length = (pagesOf logged).length ∧
      (∀ b ∈ logged, ∃ en ∈ entries, en.page = pageOf (vaOf b.ea) ∧ en.launch = x.grp.launch ∧ en.part = s.partOf x.grp.launch ∧
        (vaOf b.ea, data s x b.lane d) ∈ en.writes) ∧
      (t.core x.c).loads = (s.core x.c).loads ∧ (t.core x.c).atoms = (s.core x.c).atoms

/-- A store of real lanes to one control register is a write of that register by the partition's supervisor, with the bytes
of the highest lane (R186, R359). -/
def WindowStore (c : Bool → Code → Code → BitVec 8 → Instr) (use : Code → Use) (size : Nat)
    (data : State → Ctx → Nat → Code → Nat) : Prop :=
  ∀ s x e d a o off l, LaneReady s x [use d, .pair a] → s.partOf x.grp.launch < 32 →
    (∀ b ∈ s.accesses x .store size x.real (fun l => s.src64 x l a + o.signExtend 64 * BitVec.ofNat 64 size), b.acc = .window off) →
    l < 32 → x.real.getLsbD l → (∀ j, j < 32 → x.real.getLsbD j → j ≤ l) →
    ∃ u t, exec (c e d a o) s = .next t ∧ GroupRan s u x e latchZero (fun _ th => th.next) ∧ (∀ m, u.byteAt m = s.byteAt m) ∧
      { u with cores := [], focus := none } = { s with cores := [], focus := none } ∧
      exec (.controlRegisterWrite (.core (s.partOf x.grp.launch)) off size (data s x l d)) u = .next t

/-- The forms that access memory lane by lane, with their kind, size and uses. -/
def accessForms (e n : Bool) (d a : Code) (o : BitVec 8) : List (Instr × Kind × Nat × List Use) :=
  [(.ld8 e n d a o, .load, 1, [.pair a, .dstVregs d 1 n]), (.ld8s e n d a o, .load, 1, [.pair a, .dstVregs d 1 n]),
   (.ld16 e n d a o, .load, 2, [.pair a, .dstVregs d 1 n]), (.ld16s e n d a o, .load, 2, [.pair a, .dstVregs d 1 n]),
   (.ld32 e n d a o, .load, 4, [.pair a, .dstVregs d 1 n]), (.ld64 e n d a o, .load, 8, [.pair a, .dstVregs d 2 n]),
   (.ld128 e n d a o, .load, 16, [.pair a, .dstVregs d 4 n]),
   (.st8 e d a o, .store, 1, [.src d, .pair a]), (.st16 e d a o, .store, 2, [.src d, .pair a]),
   (.st32 e d a o, .store, 4, [.src d, .pair a]), (.st64 e d a o, .store, 8, [.pair d, .pair a]),
   (.st128 e d a o, .store, 16, [.quad d, .pair a])]

/-- The lowest check that a real lane fails, and the lowest real lane that fails it (R228). -/
def FirstFailure (x : Ctx) (acc : Nat → Access) (f l : Nat) : Prop :=
  l < 32 ∧ x.real.getLsbD l ∧ acc l = .fails f ∧
    ∀ j i, j < 32 → x.real.getLsbD j → acc j = .fails i → f < i ∨ (f = i ∧ l ≤ j)

/-- The number an atomic has in the encoding and the bytes it updates (R66, R235). -/
def atomKinds : List (Nat × Nat) :=
  [(0, 4), (1, 4), (2, 4), (3, 4), (4, 4), (5, 4), (6, 4), (7, 4), (8, 4), (9, 4), (10, 4), (11, 4), (12, 8), (13, 8), (14, 8)]

/-- A lane's data in an atomic of `k` data registers (R235). -/
def atomLane (s : State) (x : Ctx) (k : Nat) (d : Code) (l : Nat) : AtomLane :=
  if k = 1 then ⟨l, (s.src x l d).setWidth 64, 0⟩
  else if k = 2 then ⟨l, s.src64 x l d, 0⟩
  else if d = 100 then ⟨l, 0, 0⟩ else ⟨l, s.src64 x l d, s.src64 x l (d + 2)⟩

/-- The value an atomic leaves (R235); a 32-bit form acts on the low half. -/
def updated (aop : Nat) (old x y : Dword) : Dword :=
  let o : Word := old.setWidth 32
  let d : Word := x.setWidth 32
  let w : Word → Dword := fun v => v.setWidth 64
  match aop with
  | 0 => w (o + d)
  | 1 => w (fadd o d).1
  | 2 => w (halves bsum o d).1
  | 3 => w (if o.toInt < d.toInt then o else d)
  | 4 => w (if o.toInt < d.toInt then d else o)
  | 5 => w (if o.toNat < d.toNat then o else d)
  | 6 => w (if o.toNat < d.toNat then d else o)
  | 7 => w (o &&& d)
  | 8 => w (o ||| d)
  | 9 => w (o ^^^ d)
  | 10 => w d
  | 11 => w (if o = d then x.extractLsb' 32 32 else o)
  | 12 => old + x
  | 13 => x
  | _ => if old = x then y else old
/-- The values the lanes of a merged atomic meet, and the one the last of them leaves (R236). -/
def meets (aop : Nat) : List AtomLane → Dword → List (Nat × Dword) × Dword
  | [], old => ([], old)
  | a :: as, old =>
    let (vs, last) := meets aop as (updated aop old a.x a.y)
    ((a.lane, old) :: vs, last)

/-- The little-endian value of `n` bytes from a place. -/
def valueAt (s : State) (l : Loc) : Nat → Nat
  | 0 => 0
  | n + 1 => (s.byteAt l).toNat + 256 * valueAt s (l.add 1) n

/-- A commit-class instruction has been performed: the run is over, and the threads of its path stand at PC + 4 in a new
region; of the group's other state, `grp` says what it is (R72, R100). -/
def Committed (s t : State) (x : Ctx) (grp : Group) : Prop :=
  t.focus = none ∧ ∃ y, t.group x.c x.g = some y ∧
    y = { grp with threads := y.threads, run := none, paths := y.paths, handler := y.handler,
                   handlerNext := !x.inHandler, since := s.tick } ∧
    ∀ l, l < 32 → y.th l = if x.run.mask.getLsbD l
      then { x.grp.th l with pc := (x.grp.th l).pc + 4, regionStart := (x.grp.th l).pc + 4 } else x.grp.th l

/-- An instruction holds its group: the run is over, and the path stays at it (R30, R305). -/
def Held (s t : State) (x : Ctx) (grp : Group) (h : Hold) : Prop :=
  t.focus = none ∧ ∃ y, t.group x.c x.g = some y ∧
    y = { grp with threads := y.threads, run := none, hold := some (x.run.mask, h), paths := y.paths, handler := y.handler,
                   handlerNext := !x.inHandler, since := s.tick } ∧
    ∀ l, l < 32 → y.th l = x.grp.th l

/-- The instruction that held a group is complete: the threads of its path stand at PC + 4, in a new region after a
commit-class one; of the group's other state, `f` of what it was. -/
def Completed (s t : State) (c g : Nat) (grp : Group) (m : LaneMask) (commit : Bool) (f : Group → Group) : Prop :=
  ∃ y, t.group c g = some y ∧ s.group c g = some grp ∧
    y = { f grp with threads := y.threads, hold := none, paths := y.paths, since := y.since } ∧
    ∀ l, l < 32 → y.th l = if m.getLsbD l
      then { grp.th l with pc := (grp.th l).pc + 4,
                           regionStart := if commit then (grp.th l).pc + 4 else (grp.th l).regionStart }
      else grp.th l

/-- A queue with one more entry; a matrix or array command takes its format word with it (R245). -/
def withEntry (g : Group) (q : Nat) (e : Dword) (fmt : Word) : Group :=
  { g with queues := g.queues.setIfInBounds q (g.queue q ++ [e]), mxFmt := if q = 0 then g.mxFmt ++ [fmt] else g.mxFmt,
           aeFmt := if q = 2 then g.aeFmt ++ [fmt] else g.aeFmt }

/-- A group after its REGO has entered rdc (R313). -/
def withRego (g : Group) (e : Dword) (d : Code) (n : Bool) : Group :=
  { withEntry g 8 e 0 with seqs := { g.seqs with rego := g.seqs.rego + 1 },
                           s := if n then g.s else g.s.setIfInBounds (d.toNat - 64) (g.seqs.rego + 1) }

/-- A command queue (R246). -/
def commandQueue (q : Nat) : Prop := q = 0 ∨ q = 2 ∨ q = 4 ∨ q = 6 ∨ q = 8

/-- Everything of the machine but its cores, its constant caches and the run in focus is as it was. -/
def SameButCaches (s t : State) : Prop :=
  { t with cores := [], constants := [], constantsOld := [], focus := none } =
    { s with cores := [], constants := [], constantsOld := [], focus := none } ∧ ∀ l, t.byteAt l = s.byteAt l

/-- With `acq`, the core has acquired at system scope: its snapshot and its cluster's constant cache are empty (R195, R203). -/
def Acquired (s t : State) (c : Nat) (acq : Bool) : Prop :=
  (t.core c).snap = (if acq then [] else (s.core c).snap) ∧
    ∀ h, tget [] t.constants h = if acq = true ∧ h = hwCluster c then [] else tget [] s.constants h

/-- An entry is taken, or QTRY reports that there is none: values on their way to s registers, which are pending until
then; with `acq` the core has acquired (R34, R310, R311). -/
def Takes (s t : State) (x : Ctx) (q : Nat) (rest : List Dword) (vals : List (Nat × Word)) (acq : Bool) : Prop :=
  SameButCaches s t ∧ (∀ c, c ≠ x.c → t.core c = s.core c) ∧ (∀ g, g ≠ x.g → t.group x.c g = s.group x.c g) ∧
  Committed s t x { x.grp with queues := x.grp.queues.setIfInBounds q rest,
                               sPend := vals.foldl (fun m v => m ||| ((1 : BitVec 32) <<< v.1)) x.grp.sPend } ∧
  (t.core x.c).rets = (s.core x.c).rets ++ (if vals = [] then [] else [{ slot := x.g, vals := [], svals := vals }]) ∧
  Acquired s t x.c acq ∧ (t.core x.c).stores = (s.core x.c).stores

/-- The two words of an entry for the pair at `d`, none with N set. -/
def pairOf (d : Code) (n : Bool) (e : Dword) : List (Nat × Word) :=
  if n then [] else [(d.toNat - 64, e.setWidth 32), (d.toNat - 63, e.extractLsb' 32 32)]

/-- The queues whose entries acquire (R310). -/
def acquires (q : Nat) : Bool := q == 1 || q == 3 || q == 9 || q == 10 || q == 12 || q == 13

/-- No store of the core waits to reach its place. -/
def Settled (s : State) (c : Nat) : Prop := ∀ st ∈ (s.core c).stores, st.level ≠ 0

/-- An object after an update: bytes added, one arrival counted, and the phase turned where both are 0 (R249, R250). -/
def counted (w : BarrierWords) (bytes : Word) : BarrierWords :=
  if w.bytes + bytes = 0 ∧ w.arrivals - 1 = 0 then { w with bytes := 0, arrivals := w.init, phase := w.phase ^^^ 1 }
  else { w with bytes := w.bytes + bytes, arrivals := w.arrivals - 1 }

/-- A well formed object (R249, R250). -/
def wellFormedObject (w : BarrierWords) : Prop := w.phase.toNat ≤ 1 ∧ w.init ≠ 0 ∧ w.init.toNat < 2 ^ 31

/-- A global address with its zero bits clear, aligned (R241). -/
def globalAt (a : Dword) (align : Nat) : Prop := a.extractLsb' 57 7 = 0 ∧ a.toNat % align = 0

/-- A request to a consist manager from the running group (R242). -/
def request (s : State) (x : Ctx) (d : Code) (n : Bool) (r : ConsistReq) : Prop :=
  r.id = s.nextReq ∧ r.core = x.c ∧ r.slot = x.g ∧ r.launch = x.grp.launch ∧ r.block = x.grp.block ∧ r.d = d ∧ r.n = n

/-- D awaits an answer (R242). -/
def awaiting (g : Group) (d : Code) (n : Bool) : Group :=
  if n then g else { g with sPend := g.sPend ||| ((1 : BitVec 32) <<< (d.toNat - 64)) }

/-- An answer is on its way to D of a group that is still there. -/
def Answered (s t : State) (c slot launch : Nat) (d : Code) (n : Bool) (v : Word) : Prop :=
  ∀ g, s.group c slot = some g → g.launch = launch → n = false →
    (t.core c).rets = (s.core c).rets ++ [{ slot := slot, vals := [], svals := [(d.toNat - 64, v)] }]

/-- What is left of cached bytes once the bytes subtracted from an object before its flip are acquired (R21, R206). -/
def creditsTaken (s : State) (l : Loc) (m : List (Loc × List Byte)) : List (Loc × List Byte) :=
  (s.credits.filter fun r => r.object == l && r.flipped).foldl (fun m r => snapCut m r.loc r.size) m

/-- An answer of a consist manager to request `k`, which is over. -/
def Replied (s t : State) (k : Nat) (r : ConsistReq) (v : Word) : Prop :=
  t.consistReqs = ldrop s.consistReqs k ∧
    Answered s t r.core r.slot r.launch r.d (r.n || (s.group r.core r.slot).any (·.block != r.block)) v

/-- What a manager works with: its record of the consist as it takes it up, the table area standing at `area`, or, on
first use, generation 0 without a piece (R213; log entry 17). -/
def foundConsist (s : State) (h : Nat) (area : List (Nat × Loc × Nat)) : Consist :=
  if (s.header h).live = 0 then
    { Consist.reset with gens := [(0, [])], ranges := area, rowBytes := (s.header h).rowBytes, area := (s.header h).area }
  else (s.consistTake h area).consist h

/-- The header's live generations, after a first use (R213). -/
def foundLive (s : State) (h : Nat) : Nat := if (s.header h).live = 0 then 1 else (s.header h).live

/-- The entries of the current generation, as many as the header says: those the manager has not written are free (R213;
log entry 17). -/
def entriesOf (s : State) (h : Nat) (area : List (Nat × Loc × Nat)) : List (Nat × Nat) :=
  let ps := ((foundConsist s h area).piecesOf (s.header h).gen).getD []
  ps.take (s.header h).pieces ++ (List.range ((s.header h).pieces - ps.length)).map (Config.tableEntry s.tick h)

/-- The generation that a SPLICE makes of the current one, where both boundaries are found (R217). -/
def editOf (s : State) (h : Nat) (area : List (Nat × Loc × Nat)) (d : SpliceDesc) (list : List (Nat × Nat)) :
    Option (List (Nat × Nat)) :=
  match splitAtRow (entriesOf s h area) d.row, splitAtRow (entriesOf s h area) (d.row + d.remove) with
  | some (x, _), some (_, y) => some (x ++ list ++ y)
  | _, _ => none

/-- The answer of a SPLICE past its descriptor: R219's checks 2 to 9 in order, or the new generation (R217). -/
def spliceAnswer (s : State) (h : Nat) (area : List (Nat × Loc × Nat)) (d : SpliceDesc) (list : List (Nat × Nat)) (ok : Bool) :
    Word :=
  let hd := s.header h
  let c := foundConsist s h area
  let pinned := c.pins hd.gen != 0
  let others := ((c.gens.filter fun g => g.1 != hd.gen).map fun g => g.2.length).sum
  let alive := others + if pinned then (entriesOf s h area).length else 0
  if hd.ok = false then 0x80000002
  else if d.expect ≠ 0xFFFFFFFF ∧ d.expect ≠ hd.gen then 0x80000003
  else if ok = false then 0x80000004
  else match editOf s h area d list with
    | none => 0x80000005
    | some new =>
      if hd.rows < d.row + d.remove then 0x80000005
      else if 4096 < new.length then 0x80000006
      else if hd.gen = 0x7FFFFFFF then 0x80000007
      else if foundLive s h = 64 ∧ pinned = true then 0x80000008
      else if hd.areaBytes < 2048 + 16 * (alive + new.length + hd.pending) then 0x80000009
      else BitVec.ofNat 32 (hd.gen + 1)

/-- A SPLICE has made its generation: the header, the generations alive, the records of what was lost, the removers of what
was removed (R217, R224 to R226). -/
def Spliced (s t : State) (h : Nat) (area : List (Nat × Loc × Nat)) (r : ConsistReq) (d : SpliceDesc)
    (list new : List (Nat × Nat)) : Prop :=
  let hd := s.header h
  let c := foundConsist s h area
  let pinned := c.pins hd.gen != 0
  let lost := ({ c with gens := c.gens ++ [(hd.gen + 1, new)] } : Consist).lost hd.gen
  t.header h = { hd with
    gen := hd.gen + 1, rows := (hd.rows - d.remove + rowsOf list) % 2 ^ 32, pieces := new.length
    live := foundLive s h + (if pinned then 1 else 0), pending := (hd.pending + if pinned then 0 else lost.length) % 2 ^ 32 } ∧
  (∀ g, g ∈ (t.consist h).gens ↔ g = (hd.gen + 1, new) ∨ g ∈ c.gens ∧ (g.1 = hd.gen → pinned = true)) ∧
  (t.consist h).waiting.map (·.base) = c.waiting.map (·.base) ++ (if pinned then [] else lost) ∧
  ∀ b ∈ distinctBases (entriesOf s h area), (new.any fun p => p.1 == b) = false →
    (t.consist h).remover b = (r.launch, r.block, r.grp)

/-- An UNPIN of a block's end whose turn has come: the requests before it of the same end are done (R223). -/
def TurnOf (s : State) (r : ConsistReq) : Prop :=
  ∀ q ∈ s.consistReqs, ¬(r.slot = 32 ∧ q.slot = 32 ∧ q.kind = 2 ∧ q.block = r.block ∧ q.id < r.id)

/-- A group of core `c` that is not over keeps its block from ending. -/
def Stays (s : State) (c : Nat) (x : Group) : Prop := x.over = false ∧ ∀ b, s.block x.block = some b → b.core = c

/-- Only the cores change, the count of acceptances and the hints of lines that were read: no byte of memory. -/
def OnlyCores (s t : State) : Prop :=
  { t with cores := [], order := 0, hints := [] } = { s with cores := [], order := 0, hints := [] } ∧ ∀ l, t.byteAt l = s.byteAt l

/-- The head entry of command queue `q` is taken, and so is its format word; entries `es` enter the status queue. -/
def headTaken (x y : Group) (q : Nat) (es : List Dword) : Prop :=
  y.queue q = (x.queue q).drop 1 ∧ y.queue (q + 1) = x.queue (q + 1) ++ es ∧
  (∀ j, j ≠ q → j ≠ q + 1 → y.queue j = x.queue j) ∧ y.mxFmt = (if q = 0 then x.mxFmt.drop 1 else x.mxFmt) ∧
  y.aeFmt = (if q = 2 then x.aeFmt.drop 1 else x.aeFmt)

/-- A number at bit 48, a result at bit 32, a sequence number (R256, R266, R285). -/
def entryOf (field result : Nat) (seq : Word) : Dword :=
  BitVec.ofNat 16 field ++ BitVec.ofNat 16 result ++ seq

/-- A run of bytes from a place. -/
def within (l : Loc) (n : Nat) (q : Loc) : Prop := q.place = l.place ∧ l.off ≤ q.off ∧ q.off < l.off + n

/-- The address of element (i, j) of a matrix command's output (R258). -/
def outAt (m : MxBlock) (i j : Nat) : Dword := m.out + BitVec.ofNat 64 (i * m.outStride + j * m.outSize)

/-- Byte `b` of an output element: the accumulator through the table and the narrowing (R258). -/
def outByte (m : MxBlock) (img : Option Mem) (acc : Word) (b : Nat) : Byte :=
  ((outBytes m.outFmt (epilogueValue img acc).1).1).getD b 0

/-- Every byte of the output lies in a window of the cluster or the chip, where a store goes through (R176 to R179). -/
def OutHere (s : State) (w : Who) (m : MxBlock) : Prop :=
  ∀ i j b, i < 64 → j < 64 → b < m.outSize → ∃ q, (s.resolve w .store (outAt m i j + BitVec.ofNat 64 b)).2 = .ok q ∧
    s.Exists q ∧ ((∃ k, q.place = .scratch k ∨ q.place = .share k) ∨ q.place = .chip)

/-- The covered elements of a line of weights, with their gradients (R292). -/
def covered (d : DrainCmd) (line : Nat) : List (Nat × Word) :=
  (List.range 256).filterMap fun i => (d.grads.find? fun p => p.1 == 256 * line + i).map fun p => (i, p.2)

/-- The tensors a DRAIN updates (R56). -/
def tensorsOf (t : TensorBlock) : List Dword :=
  [t.weights] ++ (if t.opt = 0 then [] else [t.m]) ++ (if t.opt = 2 then [t.v] else [])

/-- The low-rank vectors of a token (R55, R273). -/
def lowRanks (m : AeBlock) (l : Layer) (d : AeData) (t : Nat) : List Machine.Num × List Machine.Num :=
  (if m.residual then (lowRank d.q d.xb t m.rc (m.nI l) none).1 else [],
   if m.adapter then (lowRank d.a d.xb t m.r (m.nI l) (some m.alpha)).1 else [])

/-- A die as a reset leaves it, whatever becomes of its arrays; no completion record of its jobs will be written (R278, R349,
R350, R355). -/
def DieReset (s t : State) (die : Nat) : Prop :=
  let d := s.die die
  let u := t.die die
  u.incarnation = d.incarnation + 1 ∧ u.gen = 0 ∧ u.bank0 = [] ∧ u.bank1 = [] ∧ u.fits = [] ∧ (∀ j ∈ u.jobs, j.silent = true) ∧ u.order = [] ∧
  u.linkUp = true ∧ u.rate = 0 ∧ u.narrow = 0 ∧ u.applying = none ∧ u.pendRate = none ∧ u.pendNarrow = none ∧
  u.lateAnswers = d.lateAnswers + s.runningOps die ∧ (∀ k, k ≠ die → t.die k = s.die k) ∧
  (s.mgr.bringing = none → ∀ l, t.byteAt l = s.byteAt l)

/-- The records of a row after some more, numbered on from the die's last (R353). -/
def recorded (d : Die) (j : RowJournal) (kinds : List Nat) : List (Nat × Nat) :=
  (kinds.zipIdx.map fun (k, i) => (k, d.nextRecord + i)).reverse ++ j.records

/-- One row of an array's journal changes, and nothing else of the machine but the number of the next record and how far
its job has come. -/
def Journals (s t : State) (die a row : Nat) (kinds : List Nat) (jobs : List ApgoJob) (x : ArrayRec) (j : RowJournal) : Prop :=
  (∀ k, k ≠ die → t.die k = s.die k) ∧ { t with dies := [] } = { s with dies := [] } ∧
  (t.die die).nextRecord = (s.die die).nextRecord + kinds.length ∧ (t.die die).jobs = jobs ∧
  (∀ b, b ≠ a → (t.die die).array b = (s.die die).array b) ∧
  (∀ r, r ≠ row → ((t.die die).array a).row r = x.row r) ∧
  ((t.die die).array a).row row = { j with records := recorded (s.die die) (x.row row) kinds } ∧
  { (t.die die).array a with rows := [] } = { x with rows := [] }

/-- Issue order among eligible groups: the longest wait, the higher priority, a restarted group, the lower slot (R141). -/
def servedFirst (s : State) (a b : Nat × Group) : Prop :=
  let prio := fun (g : Group) => match s.launch g.launch with | some l => l.priority | none => 0
  a.2.since < b.2.since ∨ (a.2.since = b.2.since ∧ (prio b.2 < prio a.2 ∨ (prio a.2 = prio b.2 ∧
    ((a.2.restarted = true ∧ b.2.restarted = false) ∨ (a.2.restarted = b.2.restarted ∧ a.1 < b.1)))))

/-- A launch as its record and its interface make it (R105, R144, R368). -/
def launchOf (s : State) (i : Nat) (words : List Word) : Launch :=
  { s.queueLaunch i with
    record := words
    recordAddr := ((s.iface i).slotAddr (s.iface i).rdIdx).toNat
    ended := false
    fpThr := words.getD 27 0 }

/-- No collective is being destroyed. -/
def NoneEnding (s : State) : Prop := ∀ c ∈ s.collectives, c.destroying = false

/-- What a station sends upward for arrivals `as` of a round: to its parent, or to be written as a record at the root
(R298, R299, R301). -/
def Leaves (s t : State) (c : Collective) (r : RoundState) (parent child : Nat) (late : Bool) (as : List Arrival) : Prop :=
  let data := combineAll c.op as
  let manifest := (List.range c.n).filter fun i => as.any (·.manifest.contains i)
  let repeats := r.repeats + (as.map (·.repeats)).sum
  let p : Packet := { id := r.id, part := r.part, toStation := parent, child := child, round := r.round, deadline := r.deadline,
                      late := late, manifest := manifest, repeats := repeats, data := data }
  let k : RootRecord := { station := r.station, id := r.id, part := r.part, round := r.round, late := late, manifest := manifest,
                          repeats := repeats, data := data }
  if parent = 0xFFFF then t.rootRecords = s.rootRecords ++ [k] ∧ t.packets = s.packets ∧ t.sent = s.sent
  else if parent / 1024 = c.module then t.packets = s.packets ++ [p] ∧ t.rootRecords = s.rootRecords ∧ t.sent = s.sent
  else t.sent = s.sent ++ [p] ∧ t.rootRecords = s.rootRecords ∧ t.packets = s.packets

/-- The round an arrival belongs to: one the station keeps, or a new one where it keeps fewer than two (R300). -/
def roundFor (s : State) (c : Collective) (st : Nat) (round deadline : Word) (s' : State) (r : RoundState) : Prop :=
  let found := s.rounds.find? fun q => q.isAt st c.id c.part && q.round == round && q.kept
  (found = some r ∧ s' = s) ∨
  (found = none ∧ (s.rounds.filter fun q => q.isAt st c.id c.part && q.kept).length < 2 ∧
    r = RoundState.new st c.id c.part round deadline ∧ s' = { s with rounds := s.rounds ++ [r] })

/-- An arrival at a station: a repeat, on time and some child still missing, on time and the last, late before the
departure, late after it with a child missing, late and the last (R298 to R300). -/
def Arrives (s t : State) (c : Collective) (r : RoundState) (parent child expected : Nat) (late : Bool) (a : Arrival) : Prop :=
  let seen := r.seen ++ [(a.child, a.manifest)]
  let here := insertChild a r.onTime
  let held := insertChild a r.lateHeld
  if r.seen.any (fun x => x.1 == a.child && x.2.any a.manifest.contains) then t = s.setRound { r with repeats := r.repeats + 1 }
  else if r.departed = false then
    if late then t = s.setRound { r with
      seen := seen
      lateHeld := held }
    else if (here.map (·.child)).eraseDups.length < expected then t = s.setRound { r with
      seen := seen
      onTime := here }
    else r.lateHeld = [] → Leaves s t c r parent child false here ∧ t.rounds = (s.setRound { r with
      seen := seen
      onTime := []
      departed := true
      counting := false
      repeats := 0 }).rounds
  else if (seen.map (·.1)).eraseDups.length < expected then t = s.setRound { r with
    seen := seen
    lateHeld := held
    lateCounting := if r.lateHeld = [] then r.deadline != 0 else r.lateCounting }
  else Leaves s t c r parent child true held ∧ t.rounds = (s.setRound { r with
    seen := seen
    lateHeld := []
    lateCounting := false
    repeats := 0 }).rounds

/-- Collective `c` names, as the child `child` of station `to`, a station of its module (`own`) or of another one (R299,
R367). -/
def NamesSender (c : Collective) (dst child : Nat) (own : Bool) : Prop :=
  ∃ x ∈ c.stations, x.2.1 = dst ∧ x.2.2.1 = child ∧ decide (x.1 / 1024 = c.module) = own

/-- An entry enters a queue of a group, where the queue has room and none waits for it. -/
def Posted (s t : State) (launch block grp q : Nat) (e : Dword) : Prop :=
  ∀ c g x, s.findGroup launch block grp = some (c, g) → s.group c g = some x → x.over = false → (x.queue q).length < 8 →
    s.waitingEntries.any (·.isFor launch block grp q) = false → ∃ y, t.group c g = some y ∧ y.queue q = x.queue q ++ [e]

/-- A write to the control window takes effect: a port's once the module is ready, a core's where the partition may write
(R359, R363, R383). -/
def mayWrite (s : State) (w : Writer) (off : Nat) : Prop :=
  match w with
  | .port n => n < 2 ∧ s.ready = true
  | .core p => p < 32 ∧ s.windowCause p off true = none

/-- The registers of a partition block from +0x100 up that read as they were written, and whose writing does nothing else
(R364). -/
def plainPart : List Nat := [0x108, 0x10C, 0x110, 0x118, 0x140, 0x144, 0x148, 0x150, 0x180, 0x184]

/-- The privileged registers that take a write while active is 0 only: CLUSTERS, RANGEk, RANGELENk, WAYS, CSPBASE, CSPLEN
(R364). -/
def whileInactive (o : Nat) : Prop := o = 8 ∨ o = 0xC ∨ (0x10 ≤ o ∧ o < 0x90 ∧ o % 4 = 0 ∧ o % 16 ≠ 0xC) ∨ o = 0x90 ∨ o = 0x94 ∨ o = 0x98

/-- IMAGES, QIF and PEERk (R364). -/
def atAnyTime (o : Nat) : Prop := (0xA0 ≤ o ∧ o < 0xC4 ∨ 0xC8 ≤ o ∧ o < 0xE0) ∧ o % 4 = 0

/-- What a privileged register keeps of a word: its reserved bits none (R364). -/
def keptBits (o : Nat) (v : Word) : Word :=
  if o = 0xC then v &&& 0xFF
  else if 0x10 ≤ o ∧ o < 0x90 then (if o % 16 = 0 then v &&& 0xFFE00000 else if o % 16 = 4 then v &&& 0xFFFFF else v)
  else if o = 0x90 then v &&& 0x1F
  else if o = 0xC0 then v &&& 0x1FFFFFF
  else v

/-- The configuration registers of an interface, and what each keeps of a word (R368). -/
def configBits (o : Nat) (v : Word) : Option Word :=
  if o = 8 then some (v &&& 0xFFFFF)
  else if o = 0x18 then some (v &&& 0x1FFF)
  else if o = 0x1C then some (v &&& 1)
  else if o = 0x38 then some (v &&& 0xFFFF)
  else if o ∈ [0x10, 0x14, 0x20, 0x24, 0x40, 0x44, 0x48, 0x4C, 0x50, 0x54] then some v
  else none

/-- The register at `o` is locked: class 1 in CONFIG_LOCKED and RUN, class 2 from the first LOCK since reset (R368). -/
def isLocked (s : State) (f : Iface) (o : Nat) : Prop :=
  (s.mgr.lockClass o = 1 ∧ (f.state = 1 ∨ f.state = 2)) ∨ (s.mgr.lockClass o = 2 ∧ f.everLocked = true)

/-- Only partition block `q` changes, and of what it reads only the word at `o`, which is `v` now. -/
def PartReads (s t : State) (q o : Nat) (v : Word) : Prop :=
  { t with partitions := [] } = { s with partitions := [] } ∧ (∀ p, p ≠ q → t.partition p = s.partition p) ∧
  (t.partition q).readReg o = v ∧ ∀ o', o' % 4 = 0 → o' ≠ o → (t.partition q).readReg o' = (s.partition q).readReg o'

/-- An interface but for its hardware slot (R343). -/
def slotless (f : Iface) : Iface := { f with bound := false }

/-- ERROR with a cause; an interface in ERROR stays as it is (R369). -/
def toError (f : Iface) (cause : Nat) : Iface := if f.state = 3 then f else { f with
  state := 3
  errCause := cause }

/-- Only interface `i` changes, to `f` but for its slot. -/
def IfaceIs (s t : State) (i : Nat) (f : Iface) : Prop :=
  slotless (t.iface i) = slotless f ∧ (∀ j, j ≠ i → t.iface j = s.iface j) ∧ { t with ifaces := [] } = { s with ifaces := [] }

/-- Where a mailbox record goes and what it holds (R366). -/
def mailOf (q : Partition) (launch index grp : Nat) (e : Dword) : Loc × List Byte :=
  (⟨.host, q.mboxOut.toNat + 32 * (q.mboxTail.toNat % q.mboxN.toNat)⟩,
   bytesOf (BitVec.ofNat 32 launch) 4 ++ bytesOf (BitVec.ofNat 32 index) 4 ++ bytesOf (BitVec.ofNat 32 grp) 4 ++
   List.replicate 4 0 ++ bytesOf e 8 ++ List.replicate 8 0)

/-- A response of the Stationmaster is written to the requester's buffer and its command is over (R371, R384, R388). -/
def Responded (s t : State) (r : SpdmRequest) (resp : List Byte) : Prop :=
  match r.route with
  | .host _ => (∀ l, t.byteAt l = (lastStore [(⟨.host, r.buffer⟩, resp.take 4096)] l).getD (s.byteAt l)) ∧
      t.mgr.smAns = 0 ∧ t.mgr.smBusy = false
  | .partition p => (t.partition p).pcmdAns = BitVec.ofNat 32 (min resp.length 4096) ∧ (t.partition p).pcmdBusy = false

/-- The secret of a request's route: the host's or the partition's (R365, R388). -/
def routeSecret (s : State) (r : SpdmRequest) : List Byte :=
  match r.route with
  | .host _ => s.mgr.hostSecret
  | .partition p => (s.partition p).sessionSecret

/-- The message that a request carries under its route's session; none where it does not come secured (R388). -/
def opened (s : State) (r : SpdmRequest) : Option (List Byte) :=
  if routeSecret s r = [] then none else Config.openSecured (routeSecret s r) r.request

/-- The message of a request. -/
def messageOf (s : State) (r : SpdmRequest) : List Byte := (opened s r).getD r.request

/-- A response as it is sent: secured where its request came secured (R388). -/
def sealedReply (s : State) (r : SpdmRequest) (resp : List Byte) : List Byte :=
  if (opened s r).isSome then Config.secure (routeSecret s r) resp else resp

/-- A response whose body rests on a digest of the module (R388; log entries 13 and 18). -/
def respOf (s : State) (r : SpdmRequest) (material : List Byte) : List Byte :=
  sealedReply s r ([0x13, BitVec.ofNat 8 (codeOf (messageOf s r) % 128), 0, 0] ++ Config.spdmBody (messageOf s r) material)

/-- A measurement block as log entry 18 lays it out. -/
def blockOf (index type : Nat) (value : List Byte) : List Byte :=
  [BitVec.ofNat 8 index, 1] ++ bytesOf (BitVec.ofNat 16 (value.length + 3)) 2 ++ [BitVec.ofNat 8 type] ++
  bytesOf (BitVec.ofNat 16 value.length) 2 ++ value

/-- Measurement blocks 1 to 4: the ROM digest, the running slot's digest and SVN, V, the digest of the lock-class table
(R388). -/
def measurements (m : Manager) : List (List Byte) :=
  [blockOf 1 0 Config.romDigest,
   blockOf 2 1 (Config.sha384 (m.slot m.runningB).image ++ bytesOf (BitVec.ofNat 32 (m.slot m.runningB).svn) 4),
   blockOf 3 0x87 (bytesOf (BitVec.ofNat 32 (m.rollback.getD 0)) 4),
   blockOf 4 3 (Config.sha384 (m.lockTable.flatMap fun x => bytesOf (BitVec.ofNat 32 x.1) 4 ++ bytesOf (BitVec.ofNat 32 x.2) 4))]

/-- Of what `n` bytes of a request at `i` support, what is offered. -/
def offeredOf (m : List Byte) (i n offer : Nat) : List Byte :=
  bytesOf (BitVec.ofNat 32 (leNat ((m.drop i).take n) &&& offer)) n

/-- ALGORITHMS: of what the request supports, ECDSA P-384 and SHA-384, and whatever its structures select (R388; log
entry 18). -/
def algorithms (m tables : List Byte) : List Byte :=
  [0x13, 0x63, m.getD 2 0, 0] ++ bytesOf (BitVec.ofNat 16 (36 + tables.length)) 2 ++ [m.getD 6 0 &&& 1, m.getD 7 0 &&& 2] ++
  [4, 0, 0, 0] ++ offeredOf m 8 4 0x80 ++ offeredOf m 12 4 2 ++ List.replicate 16 0 ++ tables

/-- An ERROR response (log entry 18). -/
def spdmErrorOf (s : State) (r : SpdmRequest) (code data : Nat) : List Byte :=
  sealedReply s r [0x13, 0x7F, BitVec.ofNat 8 code, BitVec.ofNat 8 data]

/-- The module is ready and a request's route takes a command: the port holds PRIVSEM, and none is in progress (R371, R383,
R384). -/
def routeFree (s : State) (r : SpdmRequest) : Prop :=
  s.ready = true ∧ match r.route with
    | .host port => s.semHeld = true ∧ s.semOwner = port ∧ s.mgr.smBusy = false
    | .partition p => p < 32 ∧ (s.partition p).pcmdBusy = false

/-- The session of a request's route. -/
def SessionIs (t : State) (r : SpdmRequest) (isOpen : Bool) (secret : List Byte) : Prop :=
  match r.route with
  | .host _ => t.mgr.hostSession = isOpen ∧ t.mgr.hostSecret = secret
  | .partition p => (t.partition p).sessionOpen = isOpen ∧ (t.partition p).sessionSecret = secret

/-- The SPDM requests by code (log entry 18). -/
def isSpdm (r : SpdmRequest) (code : Nat) (i : Instr) : Prop := (code, i) ∈
  [(0x84, .getVersion r), (0xE1, .getCapabilities r), (0xE3, .negotiateAlgorithms r), (0x81, .getDigests r),
   (0x82, .getCertificate r), (0x83, .challenge r), (0xE0, .getMeasurements r), (0xE4, .keyExchange r), (0xE5, .finish r),
   (0xE9, .keyUpdate r), (0xE8, .heartbeat r), (0xEC, .endSession r)]

/-- A command of SMCMD is answered (R384). -/
def smAnswered (s : State) (a : Word) : State := { s with mgr := { s.mgr with
  smAns := a
  smBusy := false } }

/-- A command of PCMD is answered (R371). -/
def pcmdAnswered (s : State) (p : Nat) (a : Word) : State := s.setPartition p { s.partition p with
  pcmdAns := a
  pcmdBusy := false }

/-- A byte of a partition's chip-scratchpad grant (R364). -/
def inGrant (q : Partition) (a : Nat) : Prop := q.cspBase * 2 ^ 21 ≤ a ∧ a < (q.cspBase + q.cspLen) * 2 ^ 21

/-- A byte of local memory in one of a partition's ranges (R364). -/
def inRanges (q : Partition) (a n : Nat) : Prop := ∃ r ∈ q.ranges.toList, r.1 * 2 ^ 21 ≤ a ∧ a + n ≤ (r.1 + r.2) * 2 ^ 21

/-- `n` bytes from `a` lie within a partition's ranges, one or several, and in the module's 1 TiB (R2, R364). -/
def holdsAll (q : Partition) (a n : Nat) : Prop := a + n ≤ 2 ^ 40 ∧ ∀ j, j < n → inRanges q (a + j) 1

/-- Who may write PCMD of a partition: a host port, or the partition's own supervisor (R371). -/
def commander (w : Writer) (p : Nat) : Prop :=
  p < 32 ∧ match w with
    | .port n => n < 2
    | .core q => q = p

/-- Where a soft error strikes memory: the place, whether it is the LLC's copy, the bytes of the unit (R188). -/
def Struck (e : ErrorPlace) (l : Loc) (cached : Bool) (n : Nat) : Prop :=
  match e with
  | .memory pa => l = ⟨.local, pa⟩ ∧ cached = false ∧ n = 64
  | .cache pa => l = ⟨.local, pa⟩ ∧ cached = true ∧ n = 32
  | .chip off => l = ⟨.chip, off⟩ ∧ cached = false ∧ n = 32
  | .scratch b off => l = ⟨.scratch b, off⟩ ∧ cached = false ∧ n = 32
  | .share b off => l = ⟨.share b, off⟩ ∧ cached = false ∧ n = 32
  | .tiles b off => l = ⟨.tiles b, off⟩ ∧ cached = false ∧ n = 8
  | .slice b lane off => l = ⟨.slice b lane, off⟩ ∧ cached = false ∧ n = 32
  | _ => False

/-- The 32 bits of a register place (R188). -/
def regWord (x : Group) : RegPlace → Word
  | .v lane reg => (x.th lane).reg reg
  | .s reg => x.sreg reg
  | .k lane word => (x.th lane).k.extractLsb' (32 * word) 32
  | .m i => x.rejoin i

/-- A register place that is there, but for a rejoin mask, whose change is judged (R167). -/
def plainReg : RegPlace → Prop
  | .v lane reg => lane < 32 ∧ reg < 64
  | .s reg => reg < 32
  | .k lane word => lane < 32 ∧ word < 4
  | .m _ => False

/-- A partition's two error counters after an error (R111, R189). -/
def ErrorCounted (s t : State) (p : Nat) (lost : Bool) (kept : Bool) : Prop :=
  (t.partition p).dataLoss = (if lost && !kept then satInc (s.partition p).dataLoss else (s.partition p).dataLoss) ∧
  (t.partition p).corrected = (if lost then (s.partition p).corrected else satInc (s.partition p).corrected)

/-- The commands of PCMD by number (R371). -/
def isPcmd (w : Writer) (p desc : Nat) (k : Nat) (i : Instr) : Prop := (k, i) ∈
  [(1, .pcmdCreateKeyHandle w p desc), (2, .pcmdBindKeyHandle w p desc), (3, .pcmdDestroyKeyHandle w p desc),
   (4, .pcmdCreateCollective w p desc), (5, .pcmdDestroyCollective w p desc), (6, .pcmdDefineLayer w p desc),
   (7, .pcmdRetireLayer w p desc), (8, .pcmdSpdm w p desc)]

/-- The commands of SMCMD by number (R384). -/
def isSmcmd (port desc : Nat) (k : Nat) (i : Instr) : Prop := (k, i) ∈
  [(1, .writeImage port desc), (2, .activate port desc), (3, .confirm port desc), (4, .readLog port desc), (5, .spdm port desc),
   (6, .setCert port desc), (7, .readSensors port desc), (8, .setCarveout port desc)]

end Sys2Proof.Claims

open Sys2Proof.Claims

/-- Chapter 04: an encoded instruction is decoded from its own word, every field at every value the encoding admits. -/
def Obligations.DecodeReadsWhatEncodeWrites : Prop :=
  ∀ i w, i.wellFormed = true → encode i = some w → decode w = some i

/-- R61, R65, R66, R71: a word that decodes is the word of its instruction, which is well formed; so no two words stand
for one instruction, and no reserved word decodes. -/
def Obligations.EncodeGivesBackTheWord : Prop :=
  ∀ w i, decode w = some i → i.wellFormed = true ∧ encode i = some w

/-- R61, R62, R66, R69, R70: words laid out field by field as the formats give them. -/
def Obligations.WordsLaidOutByHandDecode : Prop :=
  decode (0#1 ++ 1#1 ++ 0x00#7 ++ 1#1 ++ 3#7 ++ 65#7 ++ 96#7 ++ 0#1) = some (.add true true 3 65 96) ∧
  decode (0#1 ++ 0#1 ++ 0x24#7 ++ 0#1 ++ 9#7 ++ 8#7 ++ 31#8) = some (.shli false false 9 8 31) ∧
  decode (0#1 ++ 0#1 ++ 0x29#7 ++ 5#7 ++ 0xBEEF#16) = some (.ldh false 5 0xBEEF) ∧
  decode (0#1 ++ 0#1 ++ 0x31#7 ++ 127#7 ++ 1#7 ++ 2#7 ++ 0#2) = some (.cmpne false 127 1 2) ∧
  decode (0#1 ++ 1#1 ++ 0x3B#7 ++ 4#7 ++ 5#7 ++ 6#7 ++ 3#2) = some (.kandn true 4 5 6) ∧
  decode (0#1 ++ 0#1 ++ 0x4E#7 ++ 0#1 ++ 7#7 ++ 8#7 ++ 5#7 ++ 0#1) = some (.cvtbf false false 7 8) ∧
  decode (0#1 ++ 1#1 ++ 0x6A#7 ++ 10#7 ++ 1#1 ++ 0x7FFF#15) = some (.brk 10 true 0x7FFF) ∧
  decode (0#1 ++ 0#1 ++ 0x71#7 ++ 0#1 ++ 1#7 ++ 4#7 ++ 0xFF#8) = some (.ld8s false false 1 4 0xFF) ∧
  decode (0#1 ++ 1#1 ++ 0x7C#7 ++ 0#1 ++ 2#7 ++ 4#7 ++ 11#4 ++ 1#2 ++ 1#2) = some (.acas false 2 4 1 1) ∧
  decode (1#1 ++ 1#1 ++ 0x23#7 ++ 0x7FFFFF#23) = some (.ucall 0x7FFFFF) ∧
  decode (1#1 ++ 1#1 ++ 0x31#7 ++ 0#1 ++ 70#7 ++ 0#7 ++ 9#5 ++ 0#3) = some (.pop false 70 9) ∧
  decode (1#1 ++ 1#1 ++ 0x28#7 ++ 0#8 ++ 0#7 ++ 0#8) = some .uexit ∧
  decode (1#1 ++ 0#1 ++ 0x28#7 ++ 0#8 ++ 0#7 ++ 0#8) = none ∧
  decode (0#1 ++ 0#1 ++ 0x2A#7 ++ 0#23) = none ∧
  decode (0#1 ++ 0#1 ++ 0x00#7 ++ 1#1 ++ 3#7 ++ 65#7 ++ 96#7 ++ 1#1) = none

/-- A step that the agenda does not direct runs the instruction of the run in focus, which its word, fetched when the run
began, decodes to; a step that it directs runs the event, or the next instruction of the issue slot's run (log entry 3). -/
def Obligations.StepRunsTheDecodedInstruction : Prop :=
  (∀ s x w i, s.agenda = [] → s.passTime.ctx = some x → x.run.count < 24 → x.run.words[x.run.count]? = some w →
    decode w = some i → ∃ t, step s = exec i t ∧ Noted s.passTime t x) ∧
  (∀ s i rest, s.agenda = .event i :: rest → isEvent i = true → step s = exec i { s.passTime with agenda := rest }) ∧
  (∀ s c k g rest x w i, s.agenda = .issue c k :: rest → s.running c k = some g →
    let u := { s.passTime with agenda := rest, focus := some (c, g) }
    u.ctx = some x → x.run.count < 24 → x.run.words[x.run.count]? = some w → decode w = some i →
    ∃ t, step s = exec i t ∧ Noted u t x)

/-- R29, R37, R38, R71, R74, R113, R137: the words a run fetches are those that stand at its addresses, or that the
instruction cache holds for them, up to the first with E; and what the run meets before it executes: a 25th instruction,
a fetch that was refused, a word that is no instruction. That a cached word is what the first fetch reads, where R210
leaves the old word or the new, is the model's reading (log entry 22). -/
def Obligations.RunOverflowAndBadFetchesTrap : Prop :=
  (∀ s x, s.agenda = [] → s.passTime.ctx = some x →
    (24 ≤ x.run.count → TrapFree s x → ∃ u t, step s = .next t ∧ Noted s.passTime u x ∧ EntersTrap u t x 3 0) ∧
    (x.run.count < 24 → x.run.words[x.run.count]? = none → TrapFree s x →
      ∃ u t, step s = .next t ∧ Noted s.passTime u x ∧ EntersTrap u t x x.run.refusal 0) ∧
    (∀ w, x.run.count < 24 → x.run.words[x.run.count]? = some w → decode w = none →
      ((w.getLsbD 31 ∨ x.real ≠ 0) → TrapFree s x → ∃ u t, step s = .next t ∧ Noted s.passTime u x ∧ EntersTrap u t x 1 w) ∧
      (w.getLsbD 31 = false → x.real = 0 →
        ∃ u t, step s = .next t ∧ Noted s.passTime u x ∧ PassesOver u t x (w.getLsbD 30)))) ∧
  (∀ (s : State) c launch base pc n,
    let f := (s.fetchRun c launch base pc n).2
    let place := fun (j : Nat) => s.fetchPlace c launch base (pc + BitVec.ofNat 32 (4 * j))
    (∀ w, f.words[0]? = some w → ∃ l, place 0 = .ok l ∧ w = ((s.core c).cachedWord l).getD (s.wordAt l)) ∧
    (∀ v, f.words = [] → f.unmapped = some v → place 0 = .unmapped) ∧
    (∀ k, n ≠ 0 → place 0 = .bad k → f = { words := [], refusal := if k = 7 then 9 else 7, unmapped := none }) ∧
    f.words.length ≤ n ∧ (∀ j w, f.words[j]? = some w → j + 1 < f.words.length → w.getLsbD 30 = false) ∧
    ((∀ j, j < n → ∃ e, (s.core c).tlbHit launch (abits (base + (pc + BitVec.ofNat 32 (4 * j)).setWidth 64) 56 0) = some e) →
      (∀ j w, f.words[j]? = some w → ∃ l, place j = .ok l ∧ (w = s.wordAt l ∨ (s.core c).cachedWord l = some w)) ∧
      (∀ v, f.unmapped = some v → place f.words.length = .unmapped) ∧
      (f.unmapped = none → f.words.length < n → (∃ w, f.words.getLast? = some w ∧ w.getLsbD 30 = true) ∨
        ∃ k, place f.words.length = .bad k ∧ f.refusal = if k = 7 then 9 else 7)))

/-- Every step keeps the canonical form of every memory outside the blocks. -/
def Obligations.StepKeepsMemoriesCanonical : Prop :=
  ∀ s t, s.memoriesWf → step s = .next t → t.memoriesWf

/-- The state after reset has its memories in canonical form. -/
def Obligations.ResetMemoriesAreCanonical : Prop := State.reset.memoriesWf

/-- What stands in every place is what was last written there: a read of a byte after a write of bytes. -/
def Obligations.ReadAfterWrite : Prop :=
  ∀ (s : State) l bs m, s.Exists l → (s.setBytes l bs).byteAt m =
    if m.place = l.place ∧ l.off ≤ m.off ∧ m.off < l.off + bs.length then bs.getD (m.off - l.off) 0 else s.byteAt m

/-- R112, R114, R258, R271, R354, R357, R359, R362, R364, R368, R382: what reset leaves, as far as the rules give it. That no
group is on a core and that the carve-out is 0 are the model's (log entry 2). -/
def Obligations.ResetLeavesWhatTheRulesGive : Prop :=
  let s := State.reset
  (∀ c, (s.core c).cycle = 0 ∧ (s.core c).icache = [] ∧ (s.core c).tlb = [] ∧ ∀ g, s.group c g = none) ∧
  (∀ c t, let x := (s.core c).table t
    x.gen = 0 ∧ ∀ a, mget x.bank0 a = 0 ∧ mget x.bank1 a = 0) ∧
  (∀ d a, ((s.die d).array a).state = 4 ∧ ((s.die d).array a).count = 0 ∧ (s.die d).limit = 512 ∧ (s.die d).gen = 0 ∧
    (s.die d).rate = 0 ∧ (s.die d).narrow = 0 ∧ (s.die d).stale = 0) ∧
  (∀ p, let q := s.partition p
    q.slice = 20 ∧ q.active = false ∧ q.operator = false ∧ q.clusters = 0 ∧ q.ranges = Vector.replicate 8 (0, 0) ∧ q.ways = 0 ∧
    q.cspBase = 0 ∧ q.cspLen = 0 ∧ q.images = 0 ∧ q.qifCount = 0 ∧ q.qifFirst = 0 ∧ (∀ k : Fin 8, q.peers[k] = 0) ∧
    q.faultQ = 0 ∧ q.faultN = 0 ∧ q.faultTail = 0 ∧ q.faultHead = 0 ∧ q.shoots = [] ∧ q.pcmdAns = 0 ∧ q.pcmdBusy = false ∧
    q.mboxOut = 0 ∧ q.mboxN = 0 ∧ q.mboxTail = 0 ∧ q.mboxHead = 0 ∧ q.mboxAns = 0 ∧ q.trapVecP = 0 ∧ (∀ k : Fin 16, q.arrSel[k] = 0)) ∧
  (∀ i, let f := s.iface i
    f.state = 0 ∧ f.pasid = 0 ∧ f.ringBase = 0 ∧ f.ringSize = 0 ∧ f.sealOnly = false ∧ f.ptroot = 0 ∧ f.wrIdx = 0 ∧ f.rdIdx = 0 ∧
    f.intVec = 0 ∧ f.heapBase = 0 ∧ f.heapLim = 0 ∧ f.heapOfs = 0 ∧ f.everLocked = false) ∧
  s.ready = false ∧ s.merr = false ∧ s.dropCnt = 0 ∧ s.carveout = 0 ∧ s.mgr.powered = false

/-- R7, R25, R26, R27, R32, R145: what an operand code reads; where a core lies in its cluster follows the numbering of log
entry 16. -/
def Obligations.OperandCodesRead : Prop :=
  ∀ (s : State) x l, l < 32 → ∀ c : Code,
    (∀ r : Fin 64, c.toNat = r.val → s.src x l c = (x.grp.th l).v[r]) ∧
    (∀ r : Fin 32, c.toNat = 64 + r.val → s.src x l c = x.grp.s[r]) ∧
    (∀ j v, j < 4 → c.toNat = 96 + j → x.run.latches[j]? = some (.uniform v) →
      s.src x l c = v.setWidth 32 ∧ s.src64 x l c = v) ∧
    (∀ j (v : Vector Dword 32), j < 4 → c.toNat = 96 + j → x.run.latches[j]? = some (.lanes v) → ∀ h : l < 32,
      s.src x l c = v[l].setWidth 32 ∧ s.src64 x l c = v[l]) ∧
    (∀ la b, s.launch x.grp.launch = some la → s.block x.grp.block = some b →
      let roleOf := fun k => la.word (0x18 + 4 * k)
      let groups := fun k => (roleOf k).toNat % 256
      let ngrp := groups 0 + groups 1 + groups 2 + groups 3
      let last := (roleOf (if groups 3 ≠ 0 then 3 else if groups 2 ≠ 0 then 2 else if groups 1 ≠ 0 then 1 else 0)).toNat / 65536 % 64
      let nat := BitVec.ofNat 32
      (c = 100 → s.src x l c = 0) ∧ (c = 101 → s.src x l c = nat (x.grp.grp * 32 + l)) ∧ (c = 102 → s.src x l c = nat l) ∧
      (c = 103 → s.src x l c = nat (l / 4)) ∧ (c = 104 → s.src x l c = nat x.grp.grp) ∧ (c = 105 → s.src x l c = nat x.grp.role) ∧
      (c = 106 → s.src x l c = nat b.bx) ∧ (c = 107 → s.src x l c = nat b.by_) ∧ (c = 108 → s.src x l c = nat b.bz) ∧
      (c = 109 → s.src x l c = nat b.crank) ∧
      (c = 110 → s.src x l c = nat (32 * (ngrp - 1) + if last = 0 then 32 else last)) ∧ (c = 111 → s.src x l c = nat ngrp) ∧
      (c = 112 → s.src x l c = la.word 0x28) ∧ (c = 113 → s.src x l c = la.word 0x2C) ∧ (c = 114 → s.src x l c = la.word 0x30) ∧
      (c = 115 → s.src x l c = nat (x.c % 20 % 4)) ∧ (c = 116 → s.src x l c = nat (x.c / 20 % 2)) ∧
      (c = 117 → s.src x l c = nat la.part) ∧ (c = 118 → s.src x l c = 1) ∧ (c = 119 → s.src x l c = 0xFFFFFFFF)) ∧
    (∀ r : Nat, r < 63 → r % 2 = 0 → c.toNat = r → s.src64 x l c = (x.grp.th l).v[r + 1]?.getD 0 ++ (x.grp.th l).v[r]?.getD 0) ∧
    (∀ r : Nat, r < 31 → r % 2 = 0 → c.toNat = 64 + r → s.src64 x l c = x.grp.s[r + 1]?.getD 0 ++ x.grp.s[r]?.getD 0) ∧
    (c = 100 → s.src64 x l c = 0) ∧ (c = 118 → s.src64 x l c = 1) ∧ (c = 119 → s.src64 x l c = 0xFFFFFFFFFFFFFFFF)

/-- R15, R27, R32, R35, R73, R74, R78, R94, R137, R164, R227, R234, R306, R311: which operands are illegal and which latches
are stale; an illegal operand, a stale latch or a pending register, in that order, traps the whole path before anything
else; a V-form of a path without real threads raises none of these and writes nothing, no latch either. -/
def Obligations.OperandTrapsAndHelperPaths : Prop :=
  (∀ u cls r use, Use.illegal u cls r use = true ↔ ¬accepts u cls r use) ∧
  (∀ r use, Use.stale r use = true ↔ ∃ c j : Nat, (sourceOf use).map BitVec.toNat = some c ∧ c = 96 + j ∧ j < 4 ∧ r.count ≤ j) ∧
  (∀ s x e n d a b i8 i7 i16, s.ctx = some x → ∀ f ∈ laneForms e n d a b i8 i7 i16,
    (∀ cause, x.real ≠ 0 → judgeUses false x f.2.2 = some cause → TrapFree s x →
      ∃ t, exec f.1 s = .next t ∧ EntersTrap s t x cause (wordOf f.1)) ∧
    (x.real = 0 → ∃ t, exec f.1 s = .next t ∧ PassesOver s t x f.2.1)) ∧
  (∀ s x n d a sc r, s.ctx = some x → ∀ f ∈ atomForms n d a sc r,
    (∀ cause, x.real ≠ 0 → judgeUses false x [dataUse n d f.2, .pair a] = some cause → TrapFree s x →
      ∃ t, exec f.1 s = .next t ∧ EntersTrap s t x cause (wordOf f.1)) ∧
    (x.real = 0 → ∃ t, exec f.1 s = .next t ∧
      Moves s t x (fun _ th => { th with pc := th.pc + 4, regionStart := th.pc + 4 }) x.grp.s fun _ => [x.run.mask])) ∧
  (∀ s x e n d a b i8 i16 d16 q, s.ctx = some x → ∀ f ∈ uniformForms e n d a b i8 i16 d16 q,
    ∀ cause, judgeUses true x f.2 = some cause → TrapFree s x →
      ∃ t, exec f.1 s = .next t ∧ EntersTrap s t x cause (wordOf f.1)) ∧
  (∀ u x uses,
    ((∃ c ∈ uses, c.illegal u x.grp.cls x.run = true) → judgeUses u x uses = some 2) ∧
    ((∀ c ∈ uses, c.illegal u x.grp.cls x.run = false) → (∃ c ∈ uses, c.stale x.run = true) → judgeUses u x uses = some 4) ∧
    ((∀ c ∈ uses, c.illegal u x.grp.cls x.run = false ∧ c.stale x.run = false) → (∃ c ∈ uses, c.pending x = true) →
      judgeUses u x uses = some 5))

/-- R81, R82, R83: the two-source integer forms, the uniform twins with them; an immediate count lies below 32. -/
def Obligations.TwoSourceIntegerForms : Prop :=
  (Lane2 .add (· + ·) ∧ Lane2 .sub (· - ·) ∧ Lane2 .mul (· * ·) ∧
   Lane2 .mulh (fun a b => BitVec.ofInt 32 (a.toInt * b.toInt / 2 ^ 32)) ∧
   Lane2 .mulhn (fun a b => BitVec.ofNat 32 (a.toNat * b.toNat / 2 ^ 32)) ∧
   Lane2 .and (· &&& ·) ∧ Lane2 .or (· ||| ·) ∧ Lane2 .xor (· ^^^ ·) ∧ Lane2 .andn (fun a b => a &&& ~~~b)) ∧
  (Lane2 .shl (fun a b => left a b.toNat) ∧ Lane2 .shr (fun a b => right a b.toNat) ∧
   Lane2 .sar (fun a b => arith a b.toNat)) ∧
  (Lane2 .min (fun a b => if a.toInt < b.toInt then a else b) ∧ Lane2 .max (fun a b => if a.toInt < b.toInt then b else a) ∧
   Lane2 .minn (fun a b => if a.toNat < b.toNat then a else b) ∧ Lane2 .maxn (fun a b => if a.toNat < b.toNat then b else a) ∧
   Lane2 .addsat (fun a b => clamped (-2 ^ 31) (2 ^ 31 - 1) (a.toInt + b.toInt)) ∧
   Lane2 .subsat (fun a b => clamped (-2 ^ 31) (2 ^ 31 - 1) (a.toInt - b.toInt)) ∧
   Lane2 .addsatn (fun a b => clamped 0 (2 ^ 32 - 1) (a.toNat + b.toNat)) ∧
   Lane2 .subsatn (fun a b => clamped 0 (2 ^ 32 - 1) (a.toNat - b.toNat)) ∧
   Lane2 .absd (fun a b => BitVec.ofNat 32 (a.toInt - b.toInt).natAbs)) ∧
  (Lane2 .bfxn (fun a b => BitVec.ofNat 32 (field a b)) ∧ Lane2 .bfx signedField ∧
   ∀ s x e n d a b, LaneReady s x [.src a, .src b, .src d, .dst d n] →
     ∃ t, exec (.bfi e n d a b) s = .next t ∧
       Writes32 s t x e n d fun l => inserted (s.src x l d) (s.src x l a) (s.src x l b)) ∧
  (Uniform2 .uadd (· + ·) ∧ Uniform2 .usub (· - ·) ∧ Uniform2 .umul (· * ·) ∧ Uniform2 .uand (· &&& ·) ∧
   Uniform2 .uor (· ||| ·) ∧ Uniform2 .uxor (· ^^^ ·) ∧ Uniform2 .ushl (fun a b => left a b.toNat) ∧
   Uniform2 .ushr (fun a b => right a b.toNat) ∧ Uniform2 .usar (fun a b => arith a b.toNat) ∧
   Uniform2 .umin (fun a b => if a.toInt < b.toInt then a else b) ∧
   Uniform2 .umax (fun a b => if a.toInt < b.toInt then b else a)) ∧
  (∀ e n d a i, ∀ k ∈ [Instr.shli e n d a i, .shri e n d a i, .sari e n d a i, .ushli e n d a i, .ushri e n d a i],
    k.wellFormed = decide (i.toNat < 32))

/-- R84, R85, R87, R88, R93: selection, unary forms, immediate forms and constants, in both sets. -/
def Obligations.UnaryImmediateAndConstantForms : Prop :=
  (∀ s x e n d a k, LaneReady s x [.src a, .src d, .dst d n] →
    ∃ t, exec (.sel e n d a k) s = .next t ∧
      Writes32 s t x e n d fun l => if (x.grp.th l).k.getLsbD k.toNat then s.src x l a else s.src x l d) ∧
  (Lane1 .mov (fun a => a) ∧ Lane1 .not (~~~ ·) ∧ Lane1 .neg (fun a => BitVec.ofInt 32 (-a.toInt)) ∧
   Lane1 .abs (fun a => if a.msb then BitVec.ofInt 32 (-a.toInt) else a) ∧
   Lane1 .clz (fun a => BitVec.ofNat 32 (if a = 0 then 32 else 31 - Nat.log2 a.toNat)) ∧
   Lane1 .popc (fun a => BitVec.ofNat 32 ((List.range 32).countP fun i => a.getLsbD i)) ∧
   Lane1 .brev BitVec.reverse ∧
   Lane1 .sextb (fun a => (a.setWidth 8).signExtend 32) ∧ Lane1 .sexth (fun a => (a.setWidth 16).signExtend 32) ∧
   Lane1 .zextb (fun a => (a.setWidth 8).setWidth 32) ∧ Lane1 .zexth (fun a => (a.setWidth 16).setWidth 32)) ∧
  (Uniform1 .umov (fun a => a) ∧ Uniform1 .unot (~~~ ·) ∧ Uniform1 .uneg (fun a => BitVec.ofInt 32 (-a.toInt)) ∧
   Uniform1 .uclz (fun a => BitVec.ofNat 32 (if a = 0 then 32 else 31 - Nat.log2 a.toNat)) ∧
   Uniform1 .upopc (fun a => BitVec.ofNat 32 ((List.range 32).countP fun i => a.getLsbD i))) ∧
  (Lane1i .addi (fun a i => a + i.signExtend 32) ∧ Lane1i .andi (fun a i => a &&& i.setWidth 32) ∧
   Lane1i .ori (fun a i => a ||| i.setWidth 32) ∧ Lane1i .xori (fun a i => a ^^^ i.setWidth 32) ∧
   Lane1i .shli (fun a i => left a i.toNat) ∧ Lane1i .shri (fun a i => right a i.toNat) ∧
   Lane1i .sari (fun a i => arith a i.toNat) ∧ Lane1i .muli (fun a i => a * i.signExtend 32)) ∧
  (Uniform1i .uaddi (fun a i => a + i.signExtend 32) ∧ Uniform1i .uandi (fun a i => a &&& i.setWidth 32) ∧
   Uniform1i .uori (fun a i => a ||| i.setWidth 32) ∧ Uniform1i .ushli (fun a i => left a i.toNat) ∧
   Uniform1i .ushri (fun a i => right a i.toNat)) ∧
  (∀ s x e d i, LaneReady s x [.dst d false] →
    ∃ t, exec (.ldi e d i) s = .next t ∧ Writes32 s t x e false d fun _ => i.signExtend 32) ∧
  (∀ s x e d i, LaneReady s x [.src d, .dst d false] →
    ∃ t, exec (.ldh e d i) s = .next t ∧
      Writes32 s t x e false d fun l => BitVec.ofNat 32 (i.toNat * 2 ^ 16 + (s.src x l d).toNat % 2 ^ 16)) ∧
  (∀ s x e d i, UniformReady s x [.dst d false] →
    ∃ t, exec (.uldi e d i) s = .next t ∧ WritesS s t x e false d (i.signExtend 32)) ∧
  (∀ s x e d i, UniformReady s x [.src d, .dst d false] →
    ∃ t, exec (.uldh e d i) s = .next t ∧
      WritesS s t x e false d (BitVec.ofNat 32 (i.toNat * 2 ^ 16 + (s.usrc x d).toNat % 2 ^ 16))) ∧
  (∀ s x e n d k, LaneReady s x [.dst d n] →
    ∃ t, exec (.kget e n d k) s = .next t ∧
      Writes32 s t x e n d fun l => if (x.grp.th l).k.getLsbD k.toNat then 1 else 0) ∧
  (∀ e n d a k, encode (.sel e n d a k) = some (0#1 ++ BitVec.ofBool e ++ 0x18#7 ++ BitVec.ofBool n ++ d ++ a ++ k ++ 0#1) ∧
    encode (.kget e n d k) = some (0#1 ++ BitVec.ofBool e ++ 0x3D#7 ++ BitVec.ofBool n ++ d ++ k ++ 0#8))

/-- R86: the 64-bit address forms, in both sets. -/
def Obligations.WideAddressForms : Prop :=
  (∀ s x e n d a b, LaneReady s x [.pair a, .pair b, .dstPair d n] →
    (∃ t, exec (.addx e n d a b) s = .next t ∧ Writes64 s t x e n d fun l => s.src64 x l a + s.src64 x l b) ∧
    (∃ t, exec (.subx e n d a b) s = .next t ∧ Writes64 s t x e n d fun l => s.src64 x l a - s.src64 x l b)) ∧
  (∀ s x e n d a b, LaneReady s x [.src a, .src b, .dstPair d n] →
    (∃ t, exec (.mulwx e n d a b) s = .next t ∧
      Writes64 s t x e n d fun l => BitVec.ofInt 64 ((s.src x l a).toInt * (s.src x l b).toInt)) ∧
    (∃ t, exec (.mulwxn e n d a b) s = .next t ∧
      Writes64 s t x e n d fun l => BitVec.ofNat 64 ((s.src x l a).toNat * (s.src x l b).toNat))) ∧
  (∀ s x e n d a b, LaneReady s x [.pair a, .src b, .dstPair d n] →
    ∃ t, exec (.leax e n d a b) s = .next t ∧ Writes64 s t x e n d fun l => s.src64 x l a + (s.src x l b).signExtend 64) ∧
  (∀ s x e n d a i, LaneReady s x [.pair a, .dstPair d n] →
    ∃ t, exec (.addxi e n d a i) s = .next t ∧ Writes64 s t x e n d fun l => s.src64 x l a + i.signExtend 64) ∧
  (∀ s x e n d a b, UniformReady s x [.pair a, .pair b, .dstPair d n] →
    ∃ t, exec (.uaddx e n d a b) s = .next t ∧ WritesS64 s t x e n d (s.usrc64 x a + s.usrc64 x b)) ∧
  (∀ s x e n d a b, UniformReady s x [.src a, .src b, .dstPair d n] →
    ∃ t, exec (.umulwx e n d a b) s = .next t ∧
      WritesS64 s t x e n d (BitVec.ofInt 64 ((s.usrc x a).toInt * (s.usrc x b).toInt))) ∧
  (∀ s x e n d a i, UniformReady s x [.pair a, .dstPair d n] →
    ∃ t, exec (.uaddxi e n d a i) s = .next t ∧ WritesS64 s t x e n d (s.usrc64 x a + i.signExtend 64)) ∧
  (∀ e n d a b i,
    (∀ f ∈ [(Instr.addx e n d a b, 0x1A#7), (.subx e n d a b, 0x1B#7), (.mulwx e n d a b, 0x1C#7), (.mulwxn e n d a b, 0x1D#7),
        (.leax e n d a b, 0x1E#7)],
      encode f.1 = some (0#1 ++ BitVec.ofBool e ++ f.2 ++ BitVec.ofBool n ++ d ++ a ++ b ++ 0#1)) ∧
    (∀ f ∈ [(Instr.uaddx e n d a b, 0x0C#7), (.umulwx e n d a b, 0x0D#7)],
      encode f.1 = some (1#1 ++ BitVec.ofBool e ++ f.2 ++ BitVec.ofBool n ++ d ++ a ++ b ++ 0#1)) ∧
    encode (.addxi e n d a i) = some (0#1 ++ BitVec.ofBool e ++ 0x1F#7 ++ BitVec.ofBool n ++ d ++ a ++ i) ∧
    encode (.uaddxi e n d a i) = some (1#1 ++ BitVec.ofBool e ++ 0x13#7 ++ BitVec.ofBool n ++ d ++ a ++ i))

/-- R89 to R92, R94: compares, predicate forms and the read of one lane. -/
def Obligations.CompareAndPredicateForms : Prop :=
  (Pred2 .cmpeq (fun a b => decide (a = b)) ∧ Pred2 .cmpne (fun a b => decide (a ≠ b)) ∧
   Pred2 .cmplt (fun a b => decide (a.toInt < b.toInt)) ∧ Pred2 .cmple (fun a b => decide (a.toInt ≤ b.toInt)) ∧
   Pred2 .cmpltn (fun a b => decide (a.toNat < b.toNat)) ∧ Pred2 .cmplen (fun a b => decide (a.toNat ≤ b.toNat)) ∧
   Pred1i .cmpeqi (fun a i => decide (a = i.signExtend 32)) ∧
   Pred1i .cmplti (fun a i => decide (a.toInt < i.toInt)) ∧ Pred1i .cmpltni (fun a i => decide (a.toNat < i.toNat)) ∧
   Pred2x .cmpltx (fun a b => decide (a.toInt < b.toInt)) ∧ Pred2x .cmpeqx (fun a b => decide (a = b))) ∧
  (Uniform2 .ucmpeq (fun a b => if a = b then 1 else 0) ∧ Uniform2 .ucmpne (fun a b => if a = b then 0 else 1) ∧
   Uniform2 .ucmplt (fun a b => if a.toInt < b.toInt then 1 else 0) ∧
   Uniform2 .ucmpltn (fun a b => if a.toNat < b.toNat then 1 else 0) ∧
   ∀ s x e n d a b, UniformReady s x [.pair a, .pair b, .dst d n] →
     ∃ t, exec (.ucmpltx e n d a b) s = .next t ∧
       WritesS s t x e n d (if (s.usrc64 x a).toInt < (s.usrc64 x b).toInt then 1 else 0)) ∧
  (PredK .kand (fun a b => a && b) ∧ PredK .kor (fun a b => a || b) ∧ PredK .kxor (fun a b => a != b) ∧
   PredK .kandn (fun a b => a && !b)) ∧
  (∀ s x e k a i, LaneReady s x [.src a] →
    ∃ t, exec (.kset e k a i) s = .next t ∧ WritesPred s t x e k fun l => (s.src x l a).getLsbD i.toNat) ∧
  (∀ s x e n d a, UniformReady s x [.anyLane a, .dst d n] →
    ∃ t, exec (.rdl e n d a) s = .next t ∧ WritesS s t x e n d (s.src x (lowestLane x.run.mask) a)) ∧
  (∀ e k a b i, (∀ f ∈ [(Instr.kand e k a b, 0#2), (.kor e k a b, 1#2), (.kxor e k a b, 2#2), (.kandn e k a b, 3#2)],
      encode f.1 = some (0#1 ++ BitVec.ofBool e ++ 0x3B#7 ++ k ++ a ++ b ++ f.2)) ∧
    encode (.kset e k a i) = some (0#1 ++ BitVec.ofBool e ++ 0x3C#7 ++ k ++ a ++ 0#2 ++ i ++ 0#2))

/-- R58, R368: an event counts once in its counter, which saturates; a counter that reaches the threshold interrupts once,
with the vector of the launch's interface. -/
def Obligations.EventsAreCounted : Prop :=
  ∀ (s : State) (n fmt : Nat) (evs : Events) (l : Launch), s.launch n = some l → fmt < 6 → (∀ e ∈ evs, e < 4) →
    let t := s.countEvents n fmt evs
    let occurs := fun i => (evs.map (fmt * 4 + ·)).count i
    ∃ (l' : Launch) (js : List Nat), t.launch n = some l' ∧ l' = { l with counters := l'.counters, interrupted := l'.interrupted } ∧
      (∀ i, i < 24 → (l'.counter i).toNat = min 0xFFFFFFFF ((l.counter i).toNat + occurs i)) ∧
      t.interrupts = s.interrupts ++ js.map (fun j => (.fpThreshold n j, some (s.iface l.iface).intVec)) ∧ js.Nodup ∧
      (∀ i, i ∈ js ↔ i < 24 ∧ 0 < occurs i ∧ l.interrupted[i]? = some false ∧ l.fpThr ≠ 0 ∧ l.fpThr.toNat ≤ (l'.counter i).toNat) ∧
      (∀ i, i < 24 → l'.interrupted[i]? = if i ∈ js then some true else l.interrupted[i]?) ∧
      (∀ m, m ≠ n → t.launch m = s.launch m) ∧ t = { s with launches := t.launches, interrupts := t.interrupts }

/-- R119, R120, R122, R123, R127, R128, with R116: the floating-point forms that may count events; the values of the
special functions are those of log entry 8. -/
def Obligations.FloatFormsCountTheirEvents : Prop :=
  (Float2 .fadd 0 fadd ∧ Float2 .fsub 0 fsub ∧ Float2 .fmul 0 fmul ∧ Float2 .faddz 0 faddz32 ∧ Float2 .fmulz 0 fmulz32 ∧
   Float2 .fmin 0 (fun a b => (fmin32 a b, [])) ∧ Float2 .fmax 0 (fun a b => (fmax32 a b, []))) ∧
  (Float3 .ffma 0 (ffma32 false) ∧ Float3 .ffmaz 0 (ffma32 true)) ∧
  (Float1 .fabs (fun a => (if (f32 a).isNan then 0x7FC00000 else a &&& 0x7FFFFFFF, [])) ∧
   Float1 .fneg (fun a => (if (f32 a).isNan then 0x7FC00000 else a ^^^ 0x80000000, [])) ∧
   Float1 .ffloor (integral .floor) ∧ Float1 .fceil (integral .ceil) ∧ Float1 .frint (integral .near) ∧
   Float1 .ftrunc (integral .trunc)) ∧
  (Float1 .fexp2 fexp2 ∧ Float1 .flog2 flog2 ∧ Float1 .frcp frcp ∧ Float1 .frsq frsq ∧ Float1 .fsqrt fsqrt ∧
   Float1 .fsinp fsinp ∧ Float1 .fcosp fcosp ∧ Float1 .ftanh ftanh ∧ Float1 .fsig fsig) ∧
  (Float2 .cvtfb 1 (fun a b => packHalves (narrow16 bf16 .rne a) (narrow16 bf16 .rne b)) ∧
   Float2 .cvtfbs 1 (fun a b => packHalves (narrow16 bf16 .sat a) (narrow16 bf16 .sat b)) ∧
   Float2 .cvtfh 2 (fun a b => packHalves (narrow16 fp16 .rne a) (narrow16 fp16 .rne b))) ∧
  (Float2 .badd2 1 (halves bsum) ∧ Float2 .bmul2 1 (halves bprod) ∧
   Float2 .bmax2 1 (halves fun a b => (bf16.pick true a b, [])) ∧ Float2 .bmin2 1 (halves fun a b => (bf16.pick false a b, [])) ∧
   Float3 .bfma2 1 (fun a b c => packHalves (bfused (lowHalf a) (lowHalf b) (lowHalf c))
     (bfused (highHalf a) (highHalf b) (highHalf c))))

/-- R121, R125, R126, R132: the floating-point compares, the conversions that count no event, and RND. -/
def Obligations.QuietFloatForms : Prop :=
  (Pred2 .fcmpeq (fun a b => (f32 a).eq (f32 b)) ∧ Pred2 .fcmplt (fun a b => (f32 a).lt (f32 b)) ∧
   Pred2 .fcmple (fun a b => (f32 a).le (f32 b)) ∧ Pred2 .fcmpun (fun a b => (f32 a).isNan || (f32 b).isNan)) ∧
  (Lane1 .cvtfi (toIntWord .near (-2 ^ 31) (2 ^ 31 - 1)) ∧ Lane1 .cvtfiz (toIntWord .trunc (-2 ^ 31) (2 ^ 31 - 1)) ∧
   Lane1 .cvtfn (toIntWord .near 0 (2 ^ 32 - 1)) ∧
   Lane1 .cvtif (fun a => (rne32 false false (.ofInt a.toInt)).1) ∧
   Lane1 .cvtnf (fun a => (rne32 false false (.ofInt a.toNat)).1)) ∧
  (Lane1 .cvtbf (fun a => widen bf16 (a.toNat % 65536)) ∧ Lane1 .cvtbfh (fun a => widen bf16 (a.toNat / 65536)) ∧
   Lane1 .cvthf (fun a => widen fp16 (a.toNat % 65536)) ∧ Lane1 .cvthfh (fun a => widen fp16 (a.toNat / 65536))) ∧
  Lane2 .rnd (fun a b =>
    let h1 := a ^^^ b * 0x6C8E9CF5
    let h2 := (h1 ^^^ h1 >>> 16) * 0xB5A347C9
    let h3 := (h2 ^^^ h2 >>> 13) * 0x2D358DCB
    h3 ^^^ h3 >>> 16)

/-- R52, R129, R131: the quantizers and DQN; a ZI8 code 0x80 counts one event in counter 12. -/
def Obligations.QuantizerForms : Prop :=
  Quantizes .qntf8 1 ∧ Quantizes .qntf6 2 ∧ Quantizes .qntf4 3 ∧ Quantizes .qnti8 4 ∧
  ∀ s x e n d a i, LaneReady s x [.src a, .dst d n] →
    let r := fun l => dequantize i.toNat (s.src x l a)
    let reserved := eventsOf x fun l => if i = 4 ∧ (s.src x l a).toNat % 256 = 0x80 then [0] else []
    ∃ t, exec (.dqn e n d a i) s =
        .next ((t.countEvents x.grp.launch 0 (eventsOf x fun l => (r l).2)).countEvents x.grp.launch 3 reserved) ∧
      Writes32 s t x e n d fun l => (r l).1

/-- R42, R43, R45: NaN operands, invalid operations, the order of FMIN and FMAX, commuting operands. -/
def Obligations.FloatSpecialOperands : Prop :=
  (∀ a b : Word, (f32 a).isNan ∨ (f32 b).isNan →
    fadd a b = (0x7FC00000, []) ∧ fsub a b = (0x7FC00000, []) ∧ fmul a b = (0x7FC00000, [])) ∧
  (∀ a b : Word, (f32 a = .inf true ∧ f32 b = .inf false) ∨ (f32 a = .inf false ∧ f32 b = .inf true) →
    fadd a b = (0x7FC00000, [0])) ∧
  (∀ a b : Word, (f32 a).isInf → (f32 b).isZero → fmul a b = (0x7FC00000, [0]) ∧ fmul b a = (0x7FC00000, [0])) ∧
  (∀ a b : Word, fadd a b = fadd b a ∧ fmul a b = fmul b a) ∧
  (∀ a b : Word, (f32 a).isNan → (f32 b).isNan = false → fmin32 a b = b ∧ fmax32 a b = b ∧ fmin32 b a = b ∧ fmax32 b a = b) ∧
  (∀ a b : Word, (f32 a).isNan → (f32 b).isNan → fmin32 a b = 0x7FC00000 ∧ fmax32 a b = 0x7FC00000) ∧
  (∀ a b : Word, (f32 a).lt (f32 b) → fmin32 a b = a ∧ fmin32 b a = a ∧ fmax32 a b = b ∧ fmax32 b a = b) ∧
  fmin32 0x80000000 0 = 0x80000000 ∧ fmin32 0 0x80000000 = 0x80000000 ∧
  fmax32 0x80000000 0 = 0 ∧ fmax32 0 0x80000000 = 0

/-- R42, R43: a value that FP32 holds is rounded to itself and counts no event, normal, subnormal or zero. -/
def Obligations.RepresentableValuesRoundToThemselves : Prop :=
  ∀ w : Word, (f32 w).isNan = false → (f32 w).isInf = false →
    rne32 false false (f32 w) = (w, []) ∧ rz32 false false (f32 w) = (w, [])

/-- R154 to R160: shuffles, quad exchange, votes, reductions and scans. -/
def Obligations.CrossLaneForms : Prop :=
  (∀ s x e n d a b, LaneReady s x [.src a, .src b, .dst d n] →
    ∃ t, exec (.shfl e n d a b) s = .next t ∧ Writes32 s t x e n d fun l =>
      let p := (s.src x l b).toNat % 32
      if x.run.mask.getLsbD p then s.src x p a else s.src x l a) ∧
  (∀ s x e n d a i, LaneReady s x [.src a, .dst d n] →
    (∃ t, exec (.shflu e n d a i) s = .next t ∧ Writes32 s t x e n d fun l =>
      if i.toNat ≤ l ∧ x.run.mask.getLsbD (l - i.toNat) then s.src x (l - i.toNat) a else s.src x l a) ∧
    (∃ t, exec (.shfld e n d a i) s = .next t ∧ Writes32 s t x e n d fun l =>
      if l + i.toNat < 32 ∧ x.run.mask.getLsbD (l + i.toNat) then s.src x (l + i.toNat) a else s.src x l a) ∧
    (∃ t, exec (.shflx e n d a i) s = .next t ∧ Writes32 s t x e n d fun l =>
      if x.run.mask.getLsbD (l ^^^ i.toNat) then s.src x (l ^^^ i.toNat) a else s.src x l a) ∧
    (∃ t, exec (.qex e n d a i) s = .next t ∧ Writes32 s t x e n d fun l =>
      let p := l ^^^ (i.toNat + 1)
      if x.run.mask.getLsbD p then s.src x p a
      else if (x.grp.th p).kind = .helper ∧ (x.grp.th p).standing ≠ .exited ∧ ¬(96 ≤ a.toNat ∧ a.toNat < 100)
      then s.src x p a else s.src x l a)) ∧
  (∀ s x e n d a, LaneReady s x [.src a, .dst d n] →
    ∃ t ballot, exec (.voteb e n d a) s = .next t ∧ Writes32 s t x e n d (fun _ => ballot) ∧
      ∀ l, l < 32 → ballot.getLsbD l = (x.real.getLsbD l && s.src x l a != 0)) ∧
  (∀ s x e k a, LaneReady s x [.src a] →
    (∃ t, exec (.votean e k a) s = .next t ∧ WritesPred s t x e k fun _ => decide (∃ v ∈ takers s x a, v ≠ 0)) ∧
    (∃ t, exec (.voteal e k a) s = .next t ∧ WritesPred s t x e k fun _ => decide (∀ v ∈ takers s x a, v ≠ 0))) ∧
  (∀ s x e n d a i, LaneReady s x [.src a, .dst d n] → i.toNat ≤ 8 →
    ∃ (r : Word) (ev : Events), Counted s x (.gred e n d a i) e n d 0 (fun l => (r, if l = lowestLane x.real then ev else [])) ∧
      (i = 0 → r = (takers s x a).foldr (· + ·) 0) ∧
      (i = 1 → (r, ev) = reduce 1 (s.taking x a)) ∧
      (i = 2 → Extreme (fun v w => v.toInt ≤ w.toInt) (takers s x a) r) ∧
      (i = 3 → Extreme (fun v w => w.toInt ≤ v.toInt) (takers s x a) r) ∧
      (i = 4 → r = canonical ((takers s x a).tail.foldl fmax32 ((takers s x a).headD 0))) ∧
      (i = 5 → r = canonical ((takers s x a).tail.foldl fmin32 ((takers s x a).headD 0))) ∧
      (i = 6 → r = (takers s x a).foldr (· &&& ·) 0xFFFFFFFF) ∧ (i = 7 → r = (takers s x a).foldr (· ||| ·) 0) ∧
      (i = 8 → r = (takers s x a).foldr (· ^^^ ·) 0) ∧ (i ≠ 1 → ev = [])) ∧
  (∀ s x e n d a i, LaneReady s x [.src a, .dst d n] → i.toNat ≤ 2 →
    ∃ (r : Nat → Word) (ev : Events), Counted s x (.gscan e n d a i) e n d 0 (fun l => (r l, if l = lowestLane x.real then ev else [])) ∧
      (i = 0 → ∀ l, l < 32 → r l = (((lanesOf x.real).filter (· ≤ l)).map fun u => s.src x u a).foldr (· + ·) 0) ∧
      (i = 1 → ∀ l, l < 32 → r l = (((lanesOf x.real).filter (· < l)).map fun u => s.src x u a).foldr (· + ·) 0) ∧
      (i = 2 → ∀ l, l < 32 → r l = (scanSums (s.taking x a) none).1.getD l 0 ∧ ev = (scanSums (s.taking x a) none).2) ∧
      (i ≠ 2 → ev = [])) ∧
  (∀ e n d a, encode (.voteb e n d a) = some (0#1 ++ BitVec.ofBool e ++ 0x65#7 ++ BitVec.ofBool n ++ d ++ a ++ 0#8) ∧
    encode (.votean e d a) = some (0#1 ++ BitVec.ofBool e ++ 0x66#7 ++ d ++ a ++ 0#9) ∧
    encode (.voteal e d a) = some (0#1 ++ BitVec.ofBool e ++ 0x67#7 ++ d ++ a ++ 0#9))

/-- R96, R98: the uniform branches move every thread of the path to one target. -/
def Obligations.UniformBranches : Prop :=
  (∀ s x d, s.ctx = some x → ∃ t, exec (.ubra d) s = .next t ∧ MovesTo s t x (x.pc + 4 * d.signExtend 32) x.grp.s) ∧
  (∀ s x a d, UniformReady s x [.src a] →
    (∃ t, exec (.ubz a d) s = .next t ∧
      MovesTo s t x (if s.usrc x a = 0 then x.pc + 4 * d.signExtend 32 else x.pc + 4) x.grp.s) ∧
    (∃ t, exec (.ubnz a d) s = .next t ∧
      MovesTo s t x (if s.usrc x a ≠ 0 then x.pc + 4 * d.signExtend 32 else x.pc + 4) x.grp.s)) ∧
  (∀ s x d, UniformReady s x [.dst 95 false] →
    ∃ t, exec (.ucall d) s = .next t ∧
      MovesTo s t x (x.pc + 4 * d.signExtend 32) (x.grp.s.setIfInBounds 31 (x.pc + 4))) ∧
  (∀ s x d c, s.ctx = some x → judgeUses true x [.dst 95 false] = some c → TrapFree s x →
    ∃ t, exec (.ucall d) s = .next t ∧ EntersTrap s t x c (wordOf (.ucall d))) ∧
  (∀ s x a, UniformReady s x [.src a] → Aligned (s.usrc x a) →
    ∃ t, exec (.uret a) s = .next t ∧ MovesTo s t x (s.usrc x a) x.grp.s) ∧
  (∀ s x a, UniformReady s x [.src a] → ¬Aligned (s.usrc x a) → TrapFree s x →
    ∃ t, exec (.uret a) s = .next t ∧ EntersTrap s t x 6 0)

/-- R37, R137, R139, R162, R163, R165: the branches that move each thread to its own place; the order of a BRK's two paths is
a free value (log entry 11). The real threads whose JMPI or CALLI target is misaligned trap as one set, at the branch. -/
def Obligations.LaneBranches : Prop :=
  (∀ s x k b d, s.ctx = some x →
    let goes := fun l => (x.grp.th l).k.getLsbD k.toNat == b
    let taken : LaneMask := maskOf fun l => x.run.mask.getLsbD l && goes l
    ∃ t s1 back, exec (.brk k b d) s = .next t ∧ (s1 = s ∨ s1 = { s with freeCtr := s.freeCtr + 1 }) ∧
      (back = [taken, x.run.mask &&& ~~~taken] ∨ back = [x.run.mask &&& ~~~taken, taken]) ∧
      Moves s1 t x (fun l th => { th with pc := if goes l then x.pc + 4 * d.signExtend 32 else th.pc + 4 }) x.grp.s
        fun _ => back.filter (· ≠ 0)) ∧
  (∀ s x a, s.ctx = some x → judgeUses false x [.src a] = none →
    let wrong : LaneMask := maskOf fun l => x.real.getLsbD l && decide ((s.src x l a).toNat % 4 ≠ 0)
    let goes := fun l (th : Thread) => { th with pc := if (s.src x l a).toNat % 4 = 0 then s.src x l a else th.pc + 4 }
    (wrong = 0 → ∃ t, exec (.jmpi a) s = .next t ∧ Moves s t x goes x.grp.s fun g => g.splitOrder x.run.mask) ∧
    (wrong ≠ 0 → TrapFree s x →
      ∃ t, exec (.jmpi a) s = .next t ∧ EntersSet s t x wrong 6 (s.src x (lowestLane wrong) a) [] goes)) ∧
  (∀ s x n d a, LaneReady s x [.src a, .dst d n] →
    let wrong : LaneMask := maskOf fun l => x.real.getLsbD l && decide ((s.src x l a).toNat % 4 ≠ 0)
    let goes := fun l (th : Thread) =>
      if (s.src x l a).toNat % 4 = 0 then
        { th with pc := s.src x l a, v := if n then th.v else th.v.setIfInBounds d.toNat (x.pc + 4) }
      else { th with pc := th.pc + 4 }
    (wrong = 0 → ∃ t, exec (.calli n d a) s = .next t ∧ Moves s t x goes x.grp.s fun g => g.splitOrder x.run.mask) ∧
    (wrong ≠ 0 → TrapFree s x →
      ∃ t, exec (.calli n d a) s = .next t ∧ EntersSet s t x wrong 6 (s.src x (lowestLane wrong) a) [] goes))

/-- R164, R165: JMPT moves each thread to the entry of its index, where the base is a global or constant address, every
index of a real thread is below the count, and the entries are aligned; the real threads with an index beyond the table
trap as one set and those with a misaligned entry as another, held behind it; a bad base or a refused entry traps the
path. What the reads leave in the core's copies, and whether a copy serves them, is free (log entry 5). -/
def Obligations.TableJumpMovesEachThread : Prop :=
  ∀ s x d a i, LaneReady s x [.sPair d, .src a] →
    let base := s.src64 x (lowestLane x.run.mask) d
    let good := (pathOf base < 8 ∨ pathOf base = 13) ∧ base.toNat % 4 = 0
    let index := fun l => (s.src x l a).toNat
    let addr := fun l => base + BitVec.ofNat 64 (4 * index l)
    let low := BitVec.ofNat 32 (lowestLane x.real)
    (∀ word : Nat → Word, good →
      (∀ l, l < 32 → x.run.mask.getLsbD l → index l < i.toNat → EntryReads s x l (addr l) (word l)) →
      let bound : LaneMask := maskOf fun l => x.real.getLsbD l && decide (i.toNat ≤ index l)
      let wrong : LaneMask := maskOf fun l => x.real.getLsbD l && decide (index l < i.toNat) && decide ((word l).toNat % 4 ≠ 0)
      let goes := fun l (th : Thread) =>
        if bound ≠ 0 ∧ wrong.getLsbD l = true then { th with standing := .held }
        else { th with pc := if index l < i.toNat ∧ (word l).toNat % 4 = 0 then word l else th.pc + 4 }
      (bound = 0 → wrong = 0 → ∃ t u, exec (.jmpt d a i) s = .next t ∧ ReadTable s u x ∧
        Moves u t x goes x.grp.s fun g => g.splitOrder x.run.mask) ∧
      (bound ≠ 0 → TrapFree s x → ∃ t u, exec (.jmpt d a i) s = .next t ∧ ReadTable s u x ∧
        EntersSet u t x bound 12 (s.src x (lowestLane bound) a)
          (if wrong = 0 then [] else
            [{ mask := wrong, cause := 6, value := word (lowestLane wrong), before := x.run.mask &&& ~~~(bound ||| wrong) }]) goes) ∧
      (bound = 0 → wrong ≠ 0 → TrapFree s x → ∃ t u, exec (.jmpt d a i) s = .next t ∧ ReadTable s u x ∧
        EntersSet u t x wrong 6 (word (lowestLane wrong)) [] goes)) ∧
    (TrapFree s x →
      (8 ≤ pathOf base → pathOf base ≠ 13 → ∃ t, exec (.jmpt d a i) s = .next t ∧ EntersTrap s t x 7 low) ∧
      ((pathOf base < 8 ∨ pathOf base = 13) → base.toNat % 4 ≠ 0 → ∃ t, exec (.jmpt d a i) s = .next t ∧ EntersTrap s t x 6 low) ∧
      (good → (∃ l, l < 32 ∧ x.real.getLsbD l ∧ index l < i.toNat ∧ EntryRefused s x l (addr l)) →
        ∃ t u c l, exec (.jmpt d a i) s = .next t ∧ ReadTable s u x ∧ (c = 7 ∨ c = 9) ∧ x.real.getLsbD l ∧
          EntryRefused s x l (addr l) ∧ EntersTrap u t x c (BitVec.ofNat 32 l)))

/-- R142, R166, R167: WAIT blocks its threads at the mask; MSET and MCLR write it; each judges it at once. -/
def Obligations.RejoinMasksAreJudged : Prop :=
  (∀ s x i, s.ctx = some x →
    let m := i.toNat % 16
    let blocked := fun l => if x.run.mask.getLsbD l then { x.grp.th l with standing := .waits m } else x.grp.th l
    let arr := (x.grp.arrived[m]?.getD 0) ||| x.run.mask
    ∃ t y, exec (.wait i) s = .next t ∧ SameMachine s t ∧ SameCores s t x.c x.g ∧ t.focus = none ∧
      t.group x.c x.g = some y ∧ y.run = none ∧ y.m = x.grp.m ∧ y.s = x.grp.s ∧
      (∀ l, l < 32 → y.th l = judged m (x.grp.rejoin m) arr blocked l) ∧
      y.arrived = x.grp.arrived.setIfInBounds m
        (if x.grp.rejoin m &&& ~~~(arr ||| goneOf blocked) = 0 then 0 else arr)) ∧
  (∀ s x e i v, s.ctx = some x → ∀ c : Bool → BitVec 8 → Instr,
    (c = .mset ∧ v = x.run.mask) ∨ (c = .mclr ∧ v = 0) →
    let m := i.toNat % 16
    let arr := x.grp.arrived[m]?.getD 0
    ∃ t y, exec (c e i) s = .next t ∧ SameMachine s t ∧ SameCores s t x.c x.g ∧
      t.group x.c x.g = some y ∧ y.m = x.grp.m.setIfInBounds m v ∧ y.s = x.grp.s ∧
      (∀ l, l < 32 → y.th l =
        let j := judged m v arr x.grp.th l
        if x.run.mask.getLsbD l then j.next else j) ∧
      (if e then t.focus = none ∧ y.run = none
       else t.focus = s.focus ∧ y.run = some { x.run with latches := (.uniform 0 :: x.run.latches).take 4, count := x.run.count + 1 }))

/-- R101, R136, R169: EXIT and UEXIT complete for every path; the path's real threads exit, and while another real
thread of the group stands ready, or another group of the block is not spent, the group stays, such threads as they
were; of the other groups only threads that wait may go on, and no byte of memory changes. A group whose last thread
exits discards its status queues and keeps its command queues; with the block's last group spent the block ends, and
its groups leave the core. -/
def Obligations.ExitEndsThePathsThreads : Prop :=
  ∀ s x, s.ctx = some x → ∀ i, i = .exit ∨ i = .uexit →
    (∃ t, exec i s = .next t ∧ t.focus = none ∧ ∀ l, t.byteAt l = s.byteAt l) ∧
    ((∃ l, l < 32 ∧ x.run.mask.getLsbD l = false ∧ (x.grp.th l).kind = .real ∧ (x.grp.th l).standing = .ready) →
      ∃ t, exec i s = .next t ∧ ExitsPath t x ∧
        (x.g < 32 → (∀ b, s.block x.grp.block = some b → b.core = x.c) → OthersKeep s t x.c x.g)) ∧
    (x.g < 32 → (∀ b, s.block x.grp.block = some b → b.core = x.c) →
      let last := ∀ l, l < 32 → (x.grp.th l).kind = .real → x.run.mask.getLsbD l ∨ (x.grp.th l).standing = .exited
      ((∃ g z, Mate s x g z ∧ z.spent = false) →
        ∃ t y, exec i s = .next t ∧ ExitsPath t x ∧ OthersKeep s t x.c x.g ∧ t.group x.c x.g = some y ∧ y.run = none ∧
          (last → (∀ l, l < 32 → (x.grp.th l).kind ≠ .absent → (y.th l).standing = .exited) ∧
            ∀ q, y.queue q = if q ∈ [1, 3, 5, 7, 9, 10, 11, 12, 13] then [] else x.grp.queue q)) ∧
      (∀ blk, s.block x.grp.block = some blk → blk.ended = false → last → (∀ g z, Mate s x g z → z.spent) →
        (∀ q ∈ commandQueues, x.grp.queue q = []) →
        ∃ t blk', exec i s = .next t ∧ t.block x.grp.block = some blk' ∧ blk'.ended = true ∧ t.group x.c x.g = none ∧
          ∀ g z, Mate s x g z → t.group x.c g = none))

/-- R170, R194: a path that arrives at a barrier blocks there; threads of the group that do not wait are as they were. While
a thread of the block (BARC: of the cluster) that has not exited has still to arrive, the path stays blocked; when the
last has arrived and nothing is owed to the releases, every thread that waits there goes on, in every group, and the
cores have acquired: their copies are gone, with BARC their clusters' constant caches too. A helper lane that has
finished counts as exited at BAR and BARC as R136 has it for WAIT: the model's reading (log entry 25). -/
def Obligations.BarriersBlockThePath : Prop :=
  (∀ s x, s.ctx = some x → ∀ i st, (i = .bar ∧ st = .bar) ∨ (i = .barc ∧ st = .barc) →
    ∃ t y, exec i s = .next t ∧ t.focus = none ∧ t.group x.c x.g = some y ∧ y.s = x.grp.s ∧ (∀ l, t.byteAt l = s.byteAt l) ∧
      ∀ l, l < 32 →
        (x.run.mask.getLsbD l = false → (x.grp.th l).standing.waiting = false → y.th l = x.grp.th l) ∧
        (x.run.mask.getLsbD l → y.th l = { x.grp.th l with standing := st } ∨ y.th l = released (x.grp.th l)) ∧
        ((∃ j, j < 32 ∧ x.run.mask.getLsbD j = false ∧ (x.grp.th j).kind ≠ .absent ∧ (x.grp.th j).standing = .ready) →
          x.run.mask.getLsbD l → y.th l = { x.grp.th l with standing := st })) ∧
  (∀ s x blk, s.ctx = some x → x.g < 32 → s.block x.grp.block = some blk → blk.core = x.c →
    (∃ l, l < 32 ∧ x.run.mask.getLsbD l ∧ (x.grp.th l).kind ≠ .absent) →
    let mates := fun g y => g < 32 ∧ s.group x.c g = some y ∧ y.block = x.grp.block
    ((∃ g y, mates g y ∧ ¬Arrived x .bar x.c g y) → ∃ t y, exec .bar s = .next t ∧ t.group x.c x.g = some y ∧
      ∀ l, l < 32 → x.run.mask.getLsbD l → y.th l = { x.grp.th l with standing := .bar }) ∧
    ((∀ g y, mates g y → Arrived x .bar x.c g y) → NothingOwed s x 0 (.bar x.grp.block) →
      ∃ t, exec .bar s = .next t ∧ (t.core x.c).snap = [] ∧ (t.core x.c).old = [] ∧
        ∀ g y, mates g y → ∃ z, t.group x.c g = some z ∧ GoesOn x .bar x.c g y z)) ∧
  (∀ s x blk, s.ctx = some x → x.g < 32 → s.block x.grp.block = some blk → blk.core = x.c →
    (x.grp.block, x.c) ∈ s.clusterBlocks blk.cluster →
    (∃ l, l < 32 ∧ x.run.mask.getLsbD l ∧ (x.grp.th l).kind ≠ .absent) →
    let mates := fun c g y => g < 32 ∧ s.group c g = some y ∧ (y.block, c) ∈ s.clusterBlocks blk.cluster
    ((∃ c g y, mates c g y ∧ ¬Arrived x .barc c g y) → ∃ t y, exec .barc s = .next t ∧ t.group x.c x.g = some y ∧
      ∀ l, l < 32 → x.run.mask.getLsbD l → y.th l = { x.grp.th l with standing := .barc }) ∧
    ((∀ c g y, mates c g y → Arrived x .barc c g y) → NothingOwed s x 1 (.barc x.grp.block) →
      (∀ p ∈ s.clusterBlocks blk.cluster, ∀ r ∈ (s.core p.2).releases, r.why ≠ .barc p.1) →
      ∃ t, exec .barc s = .next t ∧ (∀ c g y, mates c g y → ∃ z, t.group c g = some z ∧ GoesOn x .barc c g y z) ∧
        ∀ p ∈ s.clusterBlocks blk.cluster, (t.core p.2).snap = [] ∧ (t.core p.2).old = [] ∧
          tget [] t.constants (hwCluster p.2) = [] ∧ tget [] t.constantsOld (hwCluster p.2) = []))

/-- R100, R102, R113, R240: REGION and a PHASE that has nothing to release begin a new region at PC + 4; UNOP only goes
on; IFENCE empties the core's instruction cache. That the acquire of a PHASE empties the whole of the core's copies, at
core scope too, where R195 asks for what an observer of the scope could have written, is the model's reading (log entry
30). -/
def Obligations.RegionUnopFenceAndPhase : Prop :=
  (∀ s x, s.ctx = some x → ∃ t, exec .region s = .next t ∧
    Moves s t x (fun _ th => { th with pc := th.pc + 4, regionStart := th.pc + 4 }) x.grp.s fun _ => [x.run.mask]) ∧
  (∀ s x e, s.ctx = some x → ∃ t, exec (.unop e) s = .next t ∧ Ran s t x e (.uniform 0) (fun _ th => th.next) x.grp.s) ∧
  (∀ e, encode (.unop e) = some (1#1 ++ BitVec.ofBool e ++ 0x2D#7 ++ 0#23)) ∧
  (∀ s x, s.ctx = some x → ∃ t, exec .ifence s = .next t ∧
    let s1 := s.setCore x.c { s.core x.c with icache := [] }
    (t.core x.c).icache = [] ∧ Ran s1 t x true (.uniform 0) (fun _ th => th.next) x.grp.s) ∧
  (∀ s x sc k, s.ctx = some x →
    (k.getLsbD 1 = false ∨ (s.core x.c).releaseMet (s.partOf x.grp.launch) (s.core x.c).nextId sc.toNat (.phase x.g)) →
    ∃ t, exec (.phase sc k) s = .next t ∧
      let s1 := if k.getLsbD 0 = false then s
        else if sc = 0 then s.setCore x.c { s.core x.c with snap := [], old := [] }
        else { s.setCore x.c { s.core x.c with snap := [], old := [] } with
          constants := tput s.constants (hwCluster x.c) []
          constantsOld := tput s.constantsOld (hwCluster x.c) [] }
      Moves s1 t x (fun _ th => { th with pc := th.pc + 4, regionStart := th.pc + 4 }) x.grp.s fun _ => [x.run.mask])

/-- R59, R105, R106, R108, R110, R111, R112: the reads of system registers, counters and the cycle count; how far the count
has advanced is a free value (log entry 12). That an FPEV behind an AADDF or AADDB2 of its group waits, and the focus
passes on, is the model's reading (log entry 54). -/
def Obligations.SystemReads : Prop :=
  (∀ s x e n d i, s.ctx = some x → (x.supervisor ∨ i = 10 ∨ i = 11 ∨ i = 12) → i.toNat ≤ 12 →
    let l := (s.launch x.grp.launch).getD Launch.reset
    let th := x.grp.th (lowestLane x.run.mask)
    ((i = 0 ∨ i = 6 ∨ i = 7 ∨ i = 8 ∨ i = 9) → judgeUses true x [.dstPair d n] = none →
      ∃ t, exec (.mfsr e n d i) s = .next t ∧ WritesS64 s t x e n d
        (if i = 0 then (s.partition l.part).trapVec else if i = 6 then l.heapBase else if i = 7 then l.heapLim
         else if i = 8 then l.heapOfs else l.ptroot)) ∧
    (¬(i = 0 ∨ i = 6 ∨ i = 7 ∨ i = 8 ∨ i = 9) → judgeUses true x [.dst d n] = none →
      ∃ t, exec (.mfsr e n d i) s = .next t ∧ WritesS s t x e n d
        (if i = 1 then x.grp.trapCause else if i = 2 then x.grp.trapPc else if i = 3 then x.grp.trapMask
         else if i = 4 then x.grp.trapVal else if i = 5 then BitVec.ofNat 32 (th.lvl.toNat + 2 * th.plvl.toNat)
         else if i = 10 then BitVec.ofNat 32 l.part else if i = 11 then BitVec.ofNat 32 x.grp.launch else l.fpThr))) ∧
  (∀ s x e n d i l, UniformReady s x [.dst d n] → s.launch x.grp.launch = some l →
    let owed := fun (a : AtomRec) => a.slot = x.g ∧ (a.aop = 1 ∨ a.aop = 2)
    ((∀ a ∈ x.core.atoms, ¬owed a) → (∀ e ∈ x.core.sideLog, ∀ a ∈ e.atoms, ¬owed a) →
      ∃ t, exec (.fpev e n d i) s = .next t ∧ WritesS s t x e n d (l.counters[i.toNat]?.getD 0)) ∧
    ((∃ a ∈ x.core.atoms, owed a) → exec (.fpev e n d i) s = .next { s with focus := none }) ∧
    (i.toNat ≤ 3 → ∃ t, exec (.errc e n d i) s = .next t ∧ WritesS s t x e n d
      (if i = 0 then l.dataLoss else if i = 1 then (s.partition l.part).dataLoss
       else if i = 2 then l.corrected else (s.partition l.part).corrected))) ∧
  (∀ s x e d, UniformReady s x [.dstPair d false] →
    ∃ t v sl, ∃ adv : Nat, exec (.cyc e d) s = .next t ∧ adv ≤ 2 ^ 32 ∧ v = (s.core x.c).cycle + BitVec.ofNat 64 adv ∧
      ((s.core x.c).cycSlots.contains (x.g / 8) → 1 ≤ adv) ∧ sl.contains (x.g / 8) ∧
      (adv = 0 → ∀ i ∈ (s.core x.c).cycSlots, i ∈ sl) ∧
      WritesS64 (({ s with freeCtr := s.freeCtr + 1 } : State).setCore x.c { s.core x.c with cycle := v, cycSlots := sl })
        t x e false d v)

/-- R58, R105, R107, R109, R134, R334: MTSR writes a trap register at once and ignores a write to a read-only one. FPTHR
changes at once, too, and each counter that stands at or above the new threshold and has not interrupted does so then.
A 64-bit register holds the group until MTSR_COMPLETE has written it; of the heap registers bits [20:0] are ignored. -/
def Obligations.SystemWrites : Prop :=
  (∀ s x a i, UniformReady s x [.src a] → x.supervisor → (i = 1 ∨ i = 2 ∨ i = 3 ∨ i = 4 ∨ i = 5 ∨ i = 10 ∨ i = 11) →
    ∃ t y, exec (.mtsr a i) s = .next t ∧ SameMachine s t ∧ SameCores s t x.c x.g ∧ t.focus = none ∧
      t.group x.c x.g = some y ∧
      y.trapCause = (if i = 1 then s.usrc x a else x.grp.trapCause) ∧
      y.trapPc = (if i = 2 then s.usrc x a &&& ~~~3 else x.grp.trapPc) ∧
      y.trapMask = (if i = 3 then s.usrc x a &&& x.grp.presentMask else x.grp.trapMask) ∧
      y.trapVal = (if i = 4 then s.usrc x a else x.grp.trapVal) ∧ y.s = x.grp.s ∧
      ∀ l, l < 32 → y.th l = if x.run.mask.getLsbD l then (x.grp.th l).next else x.grp.th l) ∧
  (∀ s x a l, UniformReady s x [.src a] → x.supervisor → s.launch x.grp.launch = some l →
    let v := s.usrc x a
    let js := (List.range 24).filter fun i => v != 0 && decide (v.toNat ≤ (l.counter i).toNat) && l.interrupted[i]? == some false
    ∃ t l', exec (.mtsr a 12) s = .next t ∧ t.focus = none ∧ t.launch x.grp.launch = some l' ∧
      l' = { l with fpThr := v, interrupted := l'.interrupted } ∧
      (∀ i, i < 24 → l'.interrupted[i]? = if i ∈ js then some true else l.interrupted[i]?) ∧
      t.interrupts = s.interrupts ++ js.map (fun j => (.fpThreshold x.grp.launch j, some (s.iface l.iface).intVec))) ∧
  (∀ s x a i, UniformReady s x [.pair a] → x.supervisor → (i = 0 ∨ i = 6 ∨ i = 7 ∨ i = 8 ∨ i = 9) →
    ∃ t y, exec (.mtsr a i) s = .next t ∧ SameMachine s t ∧ SameCores s t x.c x.g ∧ t.focus = none ∧
      t.group x.c x.g = some y ∧ y.hold = some (x.run.mask, .mtsr i.toNat (s.usrc64 x a)) ∧ y.run = none ∧
      y.s = x.grp.s ∧ ∀ l, l < 32 → y.th l = x.grp.th l) ∧
  (∀ s c g grp m reg v l, s.group c g = some grp → grp.hold = some (m, .mtsr reg v) → s.launch grp.launch = some l →
    (reg = 0 ∨ reg = 6 ∨ reg = 7 ∨ reg = 8 ∨ reg = 9) →
    ∃ t y l', exec (.mtsrComplete c g) s = .next t ∧ t.group c g = some y ∧ y.hold = none ∧
      (∀ i, i < 32 → y.th i = if m.getLsbD i then (grp.th i).next else grp.th i) ∧
      t.launch grp.launch = some l' ∧
      l' = { l with heapBase := if reg = 6 then v &&& ~~~0x1FFFFF else l.heapBase,
                    heapLim := if reg = 7 then v &&& ~~~0x1FFFFF else l.heapLim,
                    heapOfs := if reg = 8 then v &&& ~~~0x1FFFFF else l.heapOfs,
                    ptroot := if reg = 9 then v else l.ptroot } ∧
      (t.partition l.part).trapVec = (if reg = 0 then v else (s.partition l.part).trapVec))

/-- R103, R326, R327: TRAP and BKPT enter the handler with their cause and ZEXT(IMM8). -/
def Obligations.TrapInstructionsEnterTheHandler : Prop :=
  ∀ s x i, s.ctx = some x → TrapFree s x →
    (∃ t, exec (.trap i) s = .next t ∧ EntersTrap s t x 19 (i.setWidth 32)) ∧
    (∃ t, exec (.bkpt i) s = .next t ∧ EntersTrap s t x 18 (i.setWidth 32))

/-- R67, R73, R104, R108, R109, R316: a privileged instruction of a path at user level is a privilege trap, whatever
its operands, with the instruction word in TRAPVAL. -/
def Obligations.PrivilegedInstructionsTrapAtUserLevel : Prop :=
  ∀ s x, s.ctx = some x → x.supervisor = false → TrapFree s x →
    (∃ t, exec .eret s = .next t ∧ EntersTrap s t x 10 (wordOf .eret)) ∧
    (∀ e n d i, ¬(i = 10 ∨ i = 11 ∨ i = 12) →
      ∃ t, exec (.mfsr e n d i) s = .next t ∧ EntersTrap s t x 10 (wordOf (.mfsr e n d i))) ∧
    (∀ a i, ∃ t, exec (.mtsr a i) s = .next t ∧ EntersTrap s t x 10 (wordOf (.mtsr a i))) ∧
    (∀ n d a, ∃ t, exec (.apgo n d a) s = .next t ∧ EntersTrap s t x 10 (wordOf (.apgo n d a)))

/-- R104: ERET at supervisor level: the threads of TRAPMASK resume at TRAPPC with their former level and code base, in a
new region, and no thread of the path is in the handler any more (that the trap registers are free once none is, is the
model's reading, log entry 26); of the other groups only threads that wait may go on, and no byte of
memory changes. -/
def Obligations.ReturnFromTrapResumes : Prop :=
  ∀ s x, s.ctx = some x → x.supervisor →
    (∃ t, exec .eret s = .next t ∧ t.focus = none ∧ ∀ l, t.byteAt l = s.byteAt l) ∧
    ((∃ l, l < 32 ∧ (x.run.mask &&& x.grp.trapMask).getLsbD l ∧ (x.grp.th l).kind = .real ∧ (x.grp.th l).standing = .ready) →
      ∃ t y, exec .eret s = .next t ∧ t.group x.c x.g = some y ∧ y.handlerSet &&& x.run.mask = 0 ∧ y.run = none ∧ y.s = x.grp.s ∧
        (x.g < 32 → (∀ b, s.block x.grp.block = some b → b.core = x.c) → OthersKeep s t x.c x.g) ∧
        y.trapCause = x.grp.trapCause ∧ y.trapPc = x.grp.trapPc ∧ y.trapMask = x.grp.trapMask ∧ y.trapVal = x.grp.trapVal ∧
        ∀ l, l < 32 → (x.grp.th l).kind = .real → (x.grp.th l).standing = .ready →
          y.th l =
            if (x.run.mask &&& x.grp.trapMask).getLsbD l then
              { x.grp.th l with lvl := (x.grp.th l).plvl, codeBase := x.grp.savedBase, pc := x.grp.trapPc, regionStart := x.grp.trapPc }
            else if x.run.mask.getLsbD l then { x.grp.th l with standing := .exited, vPend := 0 }
            else x.grp.th l)

/-- R34, R135, R186, R229, R230: what issuing a load does; no byte of memory changes. With R227, R228: a helper lane that fails a check
receives 0 at once (log entry 47). That a private place is read at issue is the model's reading (log entry 48). -/
def Obligations.LoadsAreIssued : Prop :=
  LoadIssues .ld8 1 1 false ∧ LoadIssues .ld8s 1 1 true ∧ LoadIssues .ld16 2 1 false ∧ LoadIssues .ld16s 2 1 true ∧
  LoadIssues .ld32 4 1 false ∧ LoadIssues .ld64 8 2 false ∧ LoadIssues .ld128 16 4 false

/-- R34, R35, R191, R193, R198, R229, R231: a load that no older load of its group holds up returns, from the shared bytes
under the core's own earlier stores, unless it is served by what a snapshot still holds; its values are written once no
run of the group is in progress. A value that only waits to be written is written. That it reads through the core's own
stores of whichever path, and a constant load the place as it stands, is the model's reading (log entry 5). Loads of its
own instruction in the same line may be served with it, or are tied to it. -/
def Obligations.LoadsReturn : Prop :=
  (∀ s c k st r g l, (s.core c).loads[k]? = some r → s.group c r.slot = some g → r.waits = false →
    s.logHeld c r.id g.launch r.ea r.size = false → s.absent l = false → s.olderLoads c r.slot r.id l r.size = [] →
    s.atomBefore c r.id l r.size = false →
    (s.core c).ownClear r.id l r.size = true →
    (∀ i, (partOf r i).1 + (partOf r i).2 ≤ r.size ∧ ((partOf r i).2 = 1 ∨ (partOf r i).2 = 2 ∨ (partOf r i).2 = 4 ∨
      (partOf r i).2 = 8 ∨ (partOf r i).2 = 16)) → ∀ cst, s.loadPlace c r = .loc l cst →
    let regs := fun i => if (partOf r i).2 ≤ 4 then 1 else (partOf r i).2 / 4
    let value := fun i => loaded (partOf r i).2 r.signed fun b =>
      let m := l.add ((partOf r i).1 + b)
      if cst then s.byteAt m else ((s.core c).ownByteBefore r.id m).getD (s.byteAt m)
    ∃ t, exec (.loadReturn c false k st) s = .next t ∧ (∀ m, t.byteAt m = s.byteAt m) ∧
      (s.siblings c r l = [] → (t.core c).loads = ldrop (s.core c).loads k) ∧
      (∀ q ∈ ldrop (s.core c).loads k, q ∈ (t.core c).loads ∨ { q with tied := true } ∈ (t.core c).loads ∨
        (st = true ∧ ∃ m, (q, m) ∈ s.siblings c r l)) ∧
      (g.run = none → ∃ y, t.group c r.slot = some y ∧ y = { g with threads := y.threads, since := y.since } ∧
        ∀ i, i < 32 →
          if r.lanes.getLsbD i ∧ r.n = false then
            y.th i = { g.th i with v := (y.th i).v, vPend := (g.th i).vPend &&& ~~~marks r.d (regs i) } ∧
            (∀ q, q < 64 → (q < r.d ∨ r.d + regs i ≤ q) → (y.th i).v[q]? = (g.th i).v[q]?) ∧
            (st = false → ∀ j, j < regs i → r.d + j < 64 → (y.th i).v[r.d + j]? = some (value i j))
          else y.th i = g.th i) ∧
      (g.run ≠ none → t.group c r.slot = some g ∧ (st = false → r.n = false → ∀ i, i < 32 → r.lanes.getLsbD i → ∀ j, j < regs i →
        ∃ e ∈ (t.core c).rets, e.slot = r.slot ∧ (i, r.d + j, value i j) ∈ e.vals))) ∧
  (∀ s c k st r g, (s.core c).rets[k]? = some r → s.group c r.slot = some g → g.run = none →
    ∃ t y, exec (.loadReturn c true k st) s = .next t ∧ (∀ m, t.byteAt m = s.byteAt m) ∧
      (t.core c).rets = ldrop (s.core c).rets k ∧ t.group c r.slot = some y ∧
      (∀ i, i < 32 → y.sreg i = (((r.svals.filter (·.1 = i)).getLast?).map (·.2)).getD (g.sreg i)) ∧
      ∀ i q, i < 32 → q < 64 →
        (y.th i).reg q = (((r.vals.filter fun v => v.1 = i ∧ v.2.1 = q).getLast?).map (·.2.2)).getD ((g.th i).reg q))

/-- R186, R192, R227, R232, R233: what issuing a store does; every byte outside the stored ones is as it was, for the core
itself and for the others. That a private place holds the bytes at once is the model's reading (log entry 48). R186, R359: a
store to a control register writes it. -/
def Obligations.StoresAreIssued : Prop :=
  StoreIssues .st8 .src 1 (fun s x l d => bytesOf (s.src x l d) 1) ∧
  StoreIssues .st16 .src 2 (fun s x l d => bytesOf (s.src x l d) 2) ∧
  StoreIssues .st32 .src 4 (fun s x l d => bytesOf (s.src x l d) 4) ∧
  StoreIssues .st64 .pair 8 (fun s x l d => bytesOf (s.src64 x l d) 8) ∧
  StoreIssues .st128 .quad 16 (fun s x l d =>
    if d = 100 then List.replicate 16 0 else bytesOf (s.src64 x l d) 8 ++ bytesOf (s.src64 x l (d + 2)) 8) ∧
  WindowStore .st32 .src 4 (fun s x l d => (s.src x l d).toNat) ∧ WindowStore .st64 .pair 8 fun s x l d => (s.src64 x l d).toNat

/-- R191 to R193, R203, R367: a store is performed: its bytes stand at its place from the first scope beyond the core on, but
that the module at a peer port may drop them, and no other byte changes, where no group waits at a barrier object. That
every observer sees the bytes from the same moment, the first scope's, is the model's reading (log entry 6). -/
def Obligations.StoresArePerformed : Prop :=
  ∀ s c k scope st, (s.core c).stores[k]? = some st → st.level < scope → scope ≤ 4 →
    (s.core c).storeBefore st.id scope st.loc st.bytes.length = false →
    s.atomBefore c st.id st.loc st.bytes.length = false → s.loadBefore c st.id st.loc st.bytes.length = false →
    ∃ t, exec (.storePerform c k scope) s = .next t ∧
      (s.NoWaiters → s.Exists st.loc →
        (∃ taken : Bool, ((∀ p, st.loc.place ≠ .peer p) → taken = true) ∧
          ∀ l, t.byteAt l = (if st.level = 0 ∧ taken = true then lastStore [(st.loc, st.bytes)] l else none).getD (s.byteAt l)) ∧
        (t.core c).stores = ((s.core c).stores.map fun y => if y.id = st.id then { y with level := max y.level scope } else y).filter
          (·.level < 4) ∧
        (∀ c' g y, s.group c' g = some y → y.jumps = [] → t.group c' g = some y) ∧ ∀ c', c' ≠ c → t.core c' = s.core c')

/-- R228, R237, R326, R335, R336, R363: a failed check of some real lane traps the whole path, with the lowest check that fails
and, in TRAPVAL, the lowest lane that fails it, but the instruction word for a privileged control register; no lane acts.
R233: so does a want of side-log entries. -/
def Obligations.FailedAccessesTrapAndTakeNoEffect : Prop :=
  (∀ s x e n d a o, ∀ f ∈ accessForms e n d a o, LaneReady s x f.2.2.2 → TrapFree s x → ∀ k l,
    FirstFailure x (fun l => s.access (x.who l) f.2.1 f.2.2.1 (s.src64 x l a + o.signExtend 64 * BitVec.ofNat 64 f.2.2.1)) k l →
    ∃ t, exec f.1 s = .next t ∧ EntersTrap s t x (causeOf k) (if k = 12 then wordOf f.1 else BitVec.ofNat 32 l)) ∧
  (∀ s x n d a sc r, ∀ f ∈ (atomForms n d a sc r).zip atomKinds, LaneReady s x [dataUse n d f.1.2, .pair a] → TrapFree s x → ∀ k l,
    FirstFailure x (fun l => s.access (x.who l) .atomic f.2.2 (s.src64 x l a)) k l →
    ∃ t, exec f.1.1 s = .next t ∧ EntersTrap s t x (causeOf k) (if k = 12 then wordOf f.1.1 else BitVec.ofNat 32 l)) ∧
  (∀ s x e n d a o, ∀ f ∈ accessForms e n d a o, f.2.1 = .store → LaneReady s x f.2.2.2 → TrapFree s x →
    let as := s.accesses x .store f.2.2.1 x.real fun l => s.src64 x l a + o.signExtend 64 * BitVec.ofNat 64 f.2.2.1
    let logged := as.filter (s.retires x f.2.2.1)
    (∀ b ∈ as, fails b.acc = false) → x.run.logRoom < (pagesOf logged).length →
    ∃ t b, exec f.1 s = .next t ∧ logged.head? = some b ∧ EntersTrap s t x 20 (BitVec.ofNat 32 b.lane))

/-- R172, R173, R175, R176, R178, R179, R181, R182, R228: what an address names, and the first of the checks it fails. How the
cores are numbered is log entry 16; that the chip scratchpad's grant ends at the carved ways is log entry 64. -/
def Obligations.AddressesAreJudgedInOrder : Prop :=
  ∀ (s : State) (w : Who) (k : Kind) (size : Nat) (a : Dword), (size = 1 ∨ size = 2 ∨ size = 4 ∨ size = 8 ∨ size = 16) →
    let path := (a.extractLsb' 60 4).toNat
    let clear := fun (lo n : Nat) => a.extractLsb' lo n = 0
    let even := a.toNat % size = 0
    ((path < 8 ∧ path ≠ 0) ∨ path = 14 → s.judge w k size a = .fails 1) ∧
    (∀ z ∈ [(0, 57, 3), (8, 14, 46), (9, 48, 12), (9, 20, 12), (10, 22, 38), (11, 30, 30), (12, 22, 38), (13, 57, 3), (15, 24, 36)],
      path = z.1 → ¬clear z.2.1 z.2.2 → s.judge w k size a = .fails 1) ∧
    (path = 15 → clear 24 36 → w.supervisor = false → s.judge w k size a = .fails 2) ∧
    (path = 13 → clear 57 3 → k ≠ .load → s.judge w k size a = .fails 3) ∧
    (path = 8 → clear 14 46 → k = .atomic → s.judge w k size a = .fails 3) ∧
    (path = 12 → clear 22 38 → (k = .atomic ∨ size < 4) → s.judge w k size a = .fails 3) ∧
    (path = 15 → clear 24 36 → w.supervisor = true → (k = .atomic ∨ ¬(size = 4 ∨ size = 8)) → s.judge w k size a = .fails 3) ∧
    (path = 0 → clear 57 3 → ¬even → s.judge w k size a = .fails 4) ∧
    (path = 0 → clear 57 3 → even → s.judge w k size a = .va (a.extractLsb' 0 57).toNat false) ∧
    (path = 13 → clear 57 3 → k = .load → even → s.judge w k size a = .va (a.extractLsb' 0 57).toNat true) ∧
    (path = 15 → clear 24 36 → w.supervisor = true → k ≠ .atomic → (size = 4 ∨ size = 8) → even →
      s.judge w k size a = .window (a.extractLsb' 0 24).toNat) ∧
    (∀ l b, s.launch w.launch = some l → s.block w.block = some b → even →
      let within := fun (o limit : Nat) (p : Loc) => if o + size ≤ limit then Target.loc p else .fails 6
      (path = 8 → clear 14 46 → k ≠ .atomic → s.judge w k size a =
        within (a.extractLsb' 0 14).toNat l.sliceBytes ⟨.slice w.block w.thread, (a.extractLsb' 0 14).toNat⟩) ∧
      (path = 9 → clear 48 12 → clear 20 12 →
        let o := (a.extractLsb' 0 20).toNat
        let col := (b.core % 20 : Nat) + (a.extractLsb' 40 8).toInt
        let row := (b.core / 20 : Nat) + (a.extractLsb' 32 8).toInt
        (¬(0 ≤ col ∧ col < 20 ∧ 0 ≤ row ∧ row < 16) → s.judge w k size a = .fails 5) ∧
        (∀ c : Nat, (c % 20 : Nat) = col → (c / 20 : Nat) = row → c < 320 → s.judge w k size a =
          if c / 20 / 2 ≠ b.core / 20 / 2 ∨ c % 20 / 4 ≠ b.core % 20 / 4 then .fails 5
          else if c = b.core then within o l.scratchBytes ⟨.scratch w.block, o⟩
          else match s.blockOn b.cluster c with
            | some t => within o l.scratchBytes ⟨.scratch t, o⟩
            | none => .fails 5)) ∧
      (path = 10 → clear 22 38 → l.shape < 4 →
        let o := (a.extractLsb' 0 22).toNat
        let n := 2 ^ l.shape
        s.judge w k size a = match s.blockOfRank b.cluster (o / 256 % n) with
          | some t => within o (n * l.shareBytes) ⟨.share t, o / (256 * n) * 256 + o % 256⟩
          | none => .fails 6) ∧
      (path = 11 → clear 30 30 → s.judge w k size a =
        let p := s.partition l.part
        within (a.extractLsb' 0 30).toNat (min (p.cspLen * 2 ^ 21) (s.carveout * 2 ^ 27 - p.cspBase * 2 ^ 21))
          ⟨.chip, p.cspBase * 2 ^ 21 + (a.extractLsb' 0 30).toNat⟩) ∧
      (path = 12 → clear 22 38 → k ≠ .atomic → 4 ≤ size → s.judge w k size a =
        within (a.extractLsb' 0 22).toNat (l.accTiles * 16384) ⟨.tiles w.block, (a.extractLsb' 0 22).toNat⟩))

/-- R334 to R336, R364: the heap triple translates first, and never a fetch; a walk of two or three levels that meets a valid
leaf of local memory answers its place where the leaf allows the access and the partition holds the address. -/
def Obligations.TranslationFollowsTheTables : Prop :=
  ∀ (s : State) c launch l k va, s.launch launch = some l →
    (l.heapBase.toNat ≤ va → va < l.heapLim.toNat → k ≠ .fetch →
      s.translate c launch k va =
        let pa := (va + l.heapOfs.toNat) % 2 ^ 52
        if (s.partition l.part).owns pa then .ok ⟨.local, pa⟩ else .bad 9) ∧
    ((¬(l.heapBase.toNat ≤ va ∧ va < l.heapLim.toNat) ∨ k = .fetch) → (s.core c).tlbHit launch va = none →
      let field := fun (e : Dword) => (e.extractLsb' 12 40).toNat * 2 ^ 12
      let reserved := fun (e : Dword) => e.getLsbD 11 ∨ e.extractLsb' 52 12 ≠ 0
      let pointer := fun (e : Dword) => e.getLsbD 0 ∧ ¬e.getLsbD 1 ∧ ¬reserved e
      let leaf := fun (e : Dword) => e.getLsbD 0 ∧ e.getLsbD 1
      let answer := fun (e : Dword) (pa : Nat) =>
        let allowed := match k with
          | .load => e.getLsbD 2
          | .store => e.getLsbD 3
          | .atomic => e.getLsbD 2 && e.getLsbD 3
          | .fetch => e.getLsbD 4
        if !allowed then Xlat.bad 8 else if (s.partition l.part).owns pa then .ok ⟨.local, pa⟩ else .bad 9
      let entry := fun (pa : Nat) => if pa < 2 ^ 40 then s.dwordAt ⟨.local, pa⟩ else 0
      let e1 := entry (l.ptroot.toNat + 8 * (va / 2 ^ 39 % 2 ^ 18))
      let e2 := entry (field e1 + 8 * (va / 2 ^ 21 % 2 ^ 18))
      let e3 := entry (field e2 + 8 * (va / 2 ^ 16 % 2 ^ 5))
      (e1.getLsbD 0 = false → s.translate c launch k va = .unmapped) ∧
      (e1.getLsbD 0 → (e1.getLsbD 1 ∨ reserved e1) → s.translate c launch k va = .bad 7) ∧
      (pointer e1 →
        (e2.getLsbD 0 = false → s.translate c launch k va = .unmapped) ∧
        (leaf e2 → reserved e2 → s.translate c launch k va = .bad 7) ∧
        (leaf e2 → ¬reserved e2 → e2.extractLsb' 5 2 = 0 → e2.getLsbD 10 = false →
          s.translate c launch k va = answer e2 (field e2 + va % 2 ^ 21)) ∧
        (e2.getLsbD 0 → ¬e2.getLsbD 1 → reserved e2 → s.translate c launch k va = .bad 7) ∧
        (pointer e2 →
          (e3.getLsbD 0 = false → s.translate c launch k va = .unmapped) ∧
          (e3.getLsbD 0 → (¬e3.getLsbD 1 ∨ reserved e3) → s.translate c launch k va = .bad 7) ∧
          (leaf e3 → ¬reserved e3 → e3.extractLsb' 5 2 = 0 → e3.getLsbD 10 = false →
            s.translate c launch k va = answer e3 (field e3 + va % 2 ^ 16)))))

/-- R186, R201, R234 to R237: what issuing an atomic does; no byte of memory changes yet. R228: a helper lane that
fails a check receives 0 (log entry 47). -/
def Obligations.AtomicsAreIssued : Prop :=
  ∀ s x n d a sc r, ∀ f ∈ (atomForms n d a sc r).zip atomKinds, LaneReady s x [dataUse n d f.1.2, .pair a] →
    let ea := fun l => s.src64 x l a
    let acc := fun l => s.access (x.who l) .atomic f.2.2 (ea l)
    let old := s.core x.c
    let logged := if n then (s.accesses x .atomic f.2.2 x.run.mask ea).filter fun b =>
      x.real.getLsbD b.lane && s.retires x f.2.2 b else []
    (∀ l, l < 32 → x.real.getLsbD l → fails (acc l) = false) → (pagesOf logged).length ≤ x.run.logRoom →
    ∃ t recs y, exec f.1.1 s = .next t ∧ Issued s t x ∧ t.group x.c x.g = some y ∧ SameGroup x.grp y ∧
      Closes s t x y [x.run.mask] ∧ y.s = x.grp.s ∧
      (∀ l, l < 32 → y.th l =
        if x.run.mask.getLsbD l then
          let th := { x.grp.th l with pc := (x.grp.th l).pc + 4, regionStart := (x.grp.th l).pc + 4 }
          if fails (acc l) || x.real.getLsbD l then awaits n (fails (acc l)) d.toNat (f.2.2 / 4) th else th
        else x.grp.th l) ∧
      (t.core x.c).atoms = old.atoms ++ recs ∧ (t.core x.c).stores = old.stores ∧ (t.core x.c).loads = old.loads ∧
      (∀ l, l < 32 → x.real.getLsbD l → (∀ b ∈ logged, b.ea ≠ ea l) →
        ∃ q ∈ recs, q.ea = ea l ∧ atomLane s x f.1.2 d l ∈ q.lanes) ∧
      (∀ q ∈ recs, q.aop = f.2.1 ∧ q.ord = r.toNat ∧ q.d = d.toNat ∧ q.n = n ∧ q.slot = x.g ∧ q.launch = x.grp.launch ∧
        (∀ ln ∈ q.lanes, x.real.getLsbD ln.lane ∧ q.ea = ea ln.lane) ∧ (q.lanes.map (·.lane)).Pairwise (· < ·) ∧
        (2 ≤ r.toNat → old.releaseMet (s.partOf x.grp.launch) old.nextId (sc.toNat + 1) (.atomic q.instr) = false →
          (t.core x.c).releaseOwed q = true))

/-- R186, R201, R235, R236: an atomic is performed: its lanes act in ascending order on the value at its place, each is
owed what it met, and no other byte changes, where no group waits at a barrier object. -/
def Obligations.AtomicsArePerformed : Prop :=
  ∀ s c k a, (s.core c).atoms[k]? = some a → (∀ ln ∈ a.lanes, ln.lane < 32) → a.aop < 15 →
    let n := if a.aop < 12 then 4 else 8
    a.waits = false → (s.core c).releaseOwed a = false → s.logHeld c a.id a.launch a.ea n = false →
    ∀ l cst, s.atomPlace c a = .loc l cst → s.absent l = false → (s.core c).storeBefore a.id 1 l n = false →
    s.atomBefore c a.id l n = false → s.loadBefore c a.id l n = false →
    ∃ t, exec (.atomicPerform c k) s = .next t ∧
      (s.NoWaiters → s.Exists l →
        let old := BitVec.ofNat 64 (valueAt s l n)
        let (met, last) := meets a.aop a.lanes old
        (∀ m, t.byteAt m = (lastStore [(l, bytesOf last n)] m).getD (s.byteAt m)) ∧
        (t.core c).atoms = ldrop (s.core c).atoms k ∧
        (∀ g, s.group c a.slot = some g → a.n = false → ∀ v ∈ met, (g.th v.1).standing ≠ .exited →
          ∃ ret ∈ (t.core c).rets, ret.slot = a.slot ∧ (v.1, a.d, v.2.setWidth 32) ∈ ret.vals ∧
            (12 ≤ a.aop → (v.1, a.d + 1, v.2.extractLsb' 32 32) ∈ ret.vals)) ∧
        ∀ c' g y, s.group c' g = some y → y.jumps = [] → ∃ y', t.group c' g = some y' ∧ y' = { y with since := y'.since })

/-- R194, R199 and R233, R240: a release completes once all that it covers is performed; a PHASE that waited for it goes
on in a new region. The side log replays an entry whose pages are mapped and resolved, behind the core's earlier accesses of
its bytes (R193, R338). -/
def Obligations.ReleasesAndReplaysComplete : Prop :=
  (∀ s c k r, (s.core c).releases[k]? = some r →
    (s.core c).stores.all (fun t => decide (r.limit ≤ t.id) || decide (r.scope ≤ t.level)) →
    (s.core c).atoms.all (fun a => decide (r.limit ≤ a.id)) → (s.core c).sideLog.all (fun e => e.part != r.part) →
    ∃ t, exec (.releaseComplete c k) s = .next t ∧
      ∀ g grp m scope acq, r.why = .phase g → s.group c g = some grp → grp.hold = some (m, .phase r.limit scope acq) →
        (t.core c).releases = ldrop (s.core c).releases k ∧ ∃ y, t.group c g = some y ∧ y.hold = none ∧ y.s = grp.s ∧
          ∀ l, l < 32 → y.th l = if m.getLsbD l
            then { grp.th l with pc := (grp.th l).pc + 4, regionStart := (grp.th l).pc + 4 } else grp.th l) ∧
  (∀ s c k en, (s.core c).sideLog[k]? = some en → en.waits = false → ((s.core c).sideLog.take k).any (·.overlaps en) = false →
    en.atoms.any (s.core c).releaseOwed = false → s.entryTrouble c en = none → s.entryBehind c en = false →
    ∃ t, exec (.sideLogReplay c k) s = .next t ∧
      ∀ va bs l, s.NoWaiters → en.atoms = [] → en.writes = [(va, bs)] → s.translateBy c en.launch en.roots .store va = .ok l →
        (∀ p, l.place ≠ .peer p) →
        (t.core c).sideLog = ldrop (s.core c).sideLog k ∧ ∀ m, t.byteAt m = (lastStore [(l, bs)] m).getD (s.byteAt m))

/-- R185, R198, R239: PF raises nothing of its own, writes no register and changes no byte of memory. -/
def Obligations.PrefetchesChangeNoByte : Prop :=
  ∀ s x e a o, LaneReady s x [.pair a] → ∀ i ∈ [Instr.pfNormal e a o, .pfEvictFirst e a o, .pfEvictLast e a o, .pfLlcOnly e a o],
    ∃ t, exec i s = .next t ∧ (∀ l, t.byteAt l = s.byteAt l) ∧ GroupRan s t x e latchZero (fun _ th => th.next) ∧
      { t with cores := [], focus := none, hints := [] } = { s with cores := [], focus := none, hints := [] } ∧
      (∀ c, c ≠ x.c → t.core c = s.core c) ∧
      t.core x.c = { s.core x.c with groups := (t.core x.c).groups, snap := (t.core x.c).snap } ∧
      ∀ g, g ≠ x.g → t.group x.c g = s.group x.c g

/-- R245, R246, R304, R306 to R309, R313: the instructions that hand a command to a queue: what enters it, when the group
is held, and where they trap. -/
def Obligations.CommandsEnterTheirQueues : Prop :=
  (∀ s x a b, LaneReady s x [.src a, .pair b] → ∀ i q align n,
    (i = Instr.mxgo a b ∧ q = 0 ∧ align = 64 ∧ n = 64) ∨ (i = Instr.aego a b ∧ q = 2 ∧ align = 32 ∧ n = 96) →
    let low := lowestLane x.real
    let e := s.src64 x low b
    ((∀ l, l < 32 → x.real.getLsbD l → s.src x l a = s.src x low a) →
      (s.judgeBlock (x.grp.reader x.c x.supervisor) [0, 9, 10, 11] align n e = none →
        ∃ t, exec i s = .next t ∧ SameMachine s t ∧ SameCores s t x.c x.g ∧
          if (x.grp.queue q).length < 8 then Committed s t x (withEntry x.grp q e (s.src x low a))
          else Held s t x x.grp (.push q e (s.src x low a))) ∧
      (∀ k, s.judgeBlock (x.grp.reader x.c x.supervisor) [0, 9, 10, 11] align n e = some k → TrapFree s x →
        ∃ t, exec i s = .next t ∧ EntersTrap s t x (causeOf k) (BitVec.ofNat 32 low))) ∧
    (∀ l, l < 32 → x.real.getLsbD l → s.src x l a ≠ s.src x low a →
      (∀ j, j < l → x.real.getLsbD j → s.src x j a = s.src x low a) → TrapFree s x →
      ∃ t, exec i s = .next t ∧ EntersTrap s t x 11 (BitVec.ofNat 32 l))) ∧
  (∀ s x a b, s.ctx = some x → x.real = 0 → ∀ i ∈ [Instr.mxgo a b, .aego a b],
    ∃ t, exec i s = .next t ∧ SameMachine s t ∧ SameCores s t x.c x.g ∧ Committed s t x x.grp) ∧
  (∀ s x a q, UniformReady s x [.pair a] →
    let e := s.usrc64 x a
    ((q = 4 ∨ q = 6 ∨ q = 13) → ∃ t, exec (.push a q) s = .next t ∧ SameMachine s t ∧ SameCores s t x.c x.g ∧
      if x.real = 0 then Committed s t x x.grp
      else
        let k := if q = 13 then 14 else q.toNat
        if (x.grp.queue k).length < 8 then Committed s t x (withEntry x.grp k e 0) else Held s t x x.grp (.push k e 0)) ∧
    (¬(q = 4 ∨ q = 6 ∨ q = 13) → TrapFree s x →
      ∃ t, exec (.push a q) s = .next t ∧ EntersTrap s t x 13 (wordOf (.push a q)))) ∧
  (∀ s x n d a im, UniformReady s x [.pair a, .dst d n] →
    let e := s.usrc64 x a
    let k := if im.getLsbD 0 then 6 else 4
    (s.judgeBlock (x.grp.reader x.c x.supervisor) [0, 9, 10, 11] 64 64 e = none →
      (∃ t, exec (.rego n d a) s = .next t ∧ SameMachine s t ∧ SameCores s t x.c x.g ∧
        if x.real = 0 then Committed s t x x.grp
        else if (x.grp.queue 8).length < 8 then Committed s t x (withRego x.grp e d n)
        else Held s t x x.grp (.rego e d n)) ∧
      (∃ t, exec (.cego n d a im) s = .next t ∧ SameMachine s t ∧ SameCores s t x.c x.g ∧
        if x.real = 0 then Committed s t x x.grp
        else if (x.grp.queue k).length < 8 then Held s t x (withEntry x.grp k e 0) (.cego (im.getLsbD 0) e true d n)
        else Held s t x x.grp (.cego (im.getLsbD 0) e false d n))) ∧
    (∀ j, s.judgeBlock (x.grp.reader x.c x.supervisor) [0, 9, 10, 11] 64 64 e = some j → TrapFree s x →
      ∀ i ∈ [Instr.rego n d a, .cego n d a im], ∃ t, exec i s = .next t ∧ EntersTrap s t x (causeOf j) 0)) ∧
  (∀ s c g grp m, s.group c g = some grp →
    (∀ q e fmt, grp.hold = some (m, .push q e fmt) → (grp.queue q).length < 8 →
      ∃ t, exec (.queueEntryAppend c g) s = .next t ∧ SameMachine s t ∧ Completed s t c g grp m true (withEntry · q e fmt)) ∧
    (∀ e d n, grp.hold = some (m, .rego e d n) → (grp.queue 8).length < 8 →
      ∃ t, exec (.queueEntryAppend c g) s = .next t ∧ SameMachine s t ∧ Completed s t c g grp m true (withRego · e d n)) ∧
    (∀ eng e d n, grp.hold = some (m, .cego eng e false d n) → (grp.queue (if eng then 6 else 4)).length < 8 →
      ∃ t, exec (.queueEntryAppend c g) s = .next t ∧ SameMachine s t ∧
        t.group c g = some { (withEntry grp (if eng then 6 else 4) e 0 : Group) with hold := some (m, .cego eng e true d n) }))

/-- R34, R246, R248, R310 to R312: POP, QTRY and QSTAT, the entry that a held POP takes, the delivery of an entry that
waited at its source. -/
def Obligations.StatusEntriesAreTaken : Prop :=
  (∀ s x n d q, UniformReady s x [.dstPair d n] →
    (¬commandQueue q.toNat →
      (x.real = 0 → ∃ t, exec (.pop n d q) s = .next t ∧ SameMachine s t ∧ Committed s t x x.grp) ∧
      (x.real ≠ 0 → x.grp.queue q.toNat = [] →
        ∃ t, exec (.pop n d q) s = .next t ∧ SameMachine s t ∧ SameCores s t x.c x.g ∧ Held s t x x.grp (.pop q.toNat d n)) ∧
      (∀ e rest, x.real ≠ 0 → x.grp.queue q.toNat = e :: rest →
        ∃ t, exec (.pop n d q) s = .next t ∧ Takes s t x q.toNat rest (pairOf d n e) (acquires q.toNat))) ∧
    (commandQueue q.toNat → TrapFree s x → ∃ t, exec (.pop n d q) s = .next t ∧ EntersTrap s t x 13 (wordOf (.pop n d q)))) ∧
  (∀ s x n d q, UniformReady s x [.quadDst d] →
    (¬commandQueue q.toNat →
      (x.real = 0 → ∃ t, exec (.qtry n d q) s = .next t ∧ SameMachine s t ∧ Committed s t x x.grp) ∧
      (x.real ≠ 0 → x.grp.queue q.toNat = [] →
        ∃ t, exec (.qtry n d q) s = .next t ∧ Takes s t x q.toNat []
          (if n then [] else [(d.toNat - 64, 0), (d.toNat - 63, 0), (d.toNat - 62, 0)]) false) ∧
      (∀ e rest, x.real ≠ 0 → x.grp.queue q.toNat = e :: rest →
        ∃ t, exec (.qtry n d q) s = .next t ∧
          Takes s t x q.toNat rest (if n then [] else pairOf d n e ++ [(d.toNat - 62, 1)]) (acquires q.toNat))) ∧
    (commandQueue q.toNat → TrapFree s x → ∃ t, exec (.qtry n d q) s = .next t ∧ EntersTrap s t x 13 (wordOf (.qtry n d q)))) ∧
  (∀ s x e n d q, UniformReady s x [.dst d n] →
    let k := q.toNat
    let v := BitVec.ofNat 32 ((x.grp.queue k).length +
      16 * (if k = 0 ∨ k = 2 ∨ k = 4 ∨ k = 6 then x.grp.unans k else 0) + 256 * (if k = 13 then (x.grp.queue 14).length else 0))
    ∃ t, exec (.qstat e n d q) s = .next t ∧ Ran s t x e (.uniform (v.setWidth 64))
      (fun _ th => { th.next with regionStart := th.pc + 4 }) (if n then x.grp.s else x.grp.s.setIfInBounds (d.toNat - 64) v)) ∧
  (∀ s c g grp m q d n e rest, s.group c g = some grp → grp.hold = some (m, .pop q d n) → grp.queue q = e :: rest →
    ∃ t, exec (.queueEntryTake c g) s = .next t ∧ SameButCaches s t ∧ Acquired s t c (acquires q) ∧
      Completed s t c g grp m true (fun y => { y with
        queues := y.queues.setIfInBounds q rest,
        sPend := (pairOf d n e).foldl (fun m v => m ||| ((1 : BitVec 32) <<< v.1)) y.sPend }) ∧
      (n = false → ∃ r ∈ (t.core c).rets, r.slot = g ∧ r.svals = pairOf d n e)) ∧
  (∀ s k w c g grp, s.waitingEntries[k]? = some w → s.groupLives w.launch w.block w.grp = true →
    s.findGroup w.launch w.block w.grp = some (c, g) → s.group c g = some grp →
    (s.waitingEntries.take k).any (·.isFor w.launch w.block w.grp w.q) = false → (grp.queue w.q).length < 8 →
    ∃ t, exec (.statusEntryDelivery k) s = .next t ∧ t.waitingEntries = ldrop s.waitingEntries k ∧
      t.group c g = some { grp with queues := grp.queues.setIfInBounds w.q (grp.queue w.q ++ [w.entry]) })

/-- R249, R250, R306, R317 to R319: an update of a barrier object counts at its place and reports the phase before it; a
wait goes on where the phase has turned, acquiring, and holds its group otherwise; where they trap. That both proceed
whether or not the object's sector is present is the model's reading (log entry 37). -/
def Obligations.BarrierObjectsCount : Prop :=
  (∀ s x n d a i bytes, (∃ b, i = Instr.bexp n d a b ∧ bytes = s.usrc x b ∧ UniformReady s x [.pair a, .src b, .dst d n]) ∨
      (i = Instr.barv n d a ∧ bytes = 0 ∧ UniformReady s x [.pair a, .dst d n]) →
    (∀ l, s.barrierPlace (x.grp.reader x.c x.supervisor) (s.usrc64 x a) = .inr l → Settled s x.c →
      let w := s.barrierAt l
      (wellFormedObject w → ∃ t, exec i s = .next t ∧ t.focus = none ∧
        (x.real = 0 → SameMachine s t ∧ Committed s t x x.grp) ∧
        (x.real ≠ 0 → s.NoWaiters → s.Exists l →
          Committed s t x { x.grp with s := if n then x.grp.s else x.grp.s.setIfInBounds (d.toNat - 64) (w.phase &&& 1) } ∧
          t.barrierAt l = counted w bytes ∧
          t.credits = (s.credits.map fun r =>
            if r.object = l ∧ (counted w bytes).phase ≠ w.phase then { r with flipped := true } else r) ∧
          ∀ m, m.place ≠ l.place ∨ m.off < l.off ∨ l.off + 12 ≤ m.off → t.byteAt m = s.byteAt m)) ∧
      (¬wellFormedObject w → ∃ t, exec i s = .next t ∧ (TrapFree s x → s.NoWaiters → EntersTrap s t x 17 0))) ∧
    (∀ c, s.barrierPlace (x.grp.reader x.c x.supervisor) (s.usrc64 x a) = .inl c → TrapFree s x →
      ∃ t, exec i s = .next t ∧ EntersTrap s t x c 0)) ∧
  (∀ s x a im, UniformReady s x [.pair a] →
    (∀ l, s.barrierPlace (x.grp.reader x.c x.supervisor) (s.usrc64 x a) = .inr l → Settled s x.c →
      let w := s.barrierAt l
      (∃ t, exec (.bwait a im) s = .next t) ∧
      (wellFormedObject w → s.NoWaiters → ∃ t, exec (.bwait a im) s = .next t ∧
        if w.phase.getLsbD 0 ≠ im.getLsbD 0 then
          let h := hwCluster x.c
          let s' := { s.setCore x.c { s.core x.c with snap := creditsTaken s l (s.core x.c).snap } with
            constants := tput s.constants h (creditsTaken s l (tget [] s.constants h)) }
          SameMachine s' t ∧ SameCores s' t x.c x.g ∧ Committed s t x x.grp
        else SameMachine s t ∧ SameCores s t x.c x.g ∧ Held s t x x.grp (.bwait (s.usrc64 x a) (im.getLsbD 0))) ∧
      (¬wellFormedObject w → TrapFree s x → s.NoWaiters → ∃ t, exec (.bwait a im) s = .next t ∧ EntersTrap s t x 17 0)) ∧
    (∀ c, s.barrierPlace (x.grp.reader x.c x.supervisor) (s.usrc64 x a) = .inl c → TrapFree s x →
      ∃ t, exec (.bwait a im) s = .next t ∧ EntersTrap s t x c 0)) ∧
  (∀ (s : State) w a, (pathOk a = false → s.barrierPlace w a = .inl 7) ∧
    (pathOk a = true → (¬(pathOf a = 9 ∨ pathOf a = 10 ∨ pathOf a = 11) ∨ a.toNat % 16 ≠ 0) → s.barrierPlace w a = .inl 17) ∧
    (pathOk a = true → (pathOf a = 9 ∨ pathOf a = 10 ∨ pathOf a = 11) → a.toNat % 16 = 0 →
      (s.window w a = none → s.barrierPlace w a = .inl 8) ∧
      ∀ o lim f, s.window w a = some (o, lim, f) → s.barrierPlace w a = if o + 16 ≤ lim then .inr (f o) else .inl 7))

/-- R208, R221, R223, R241 to R243, R306: PIN, UNPIN and SPLICE send a request to the consist manager, and D awaits the
answer; where they trap. That UNPIN frees its slot at issue is the model's reading (log entry 49). -/
def Obligations.ConsistRequestsAreSent : Prop :=
  (∀ s x n d a b, UniformReady s x [.pair a, .pair b, .dst d n] →
    let h := s.usrc64 x a
    let e := s.usrc64 x b
    (globalAt h 64 → globalAt e 32 → x.real ≠ 0 →
      ∃ t r, exec (.splice n d a b) s = .next t ∧ (∀ l, t.byteAt l = s.byteAt l) ∧ Committed s t x (awaiting x.grp d n) ∧
        t.consistReqs = s.consistReqs ++ [r] ∧ request s x d n r ∧ r.kind = 0 ∧ r.header = h.toNat ∧ r.desc = e.toNat) ∧
    (TrapFree s x → (h.extractLsb' 57 7 ≠ 0 → ∃ t, exec (.splice n d a b) s = .next t ∧ EntersTrap s t x 7 0) ∧
      (h.extractLsb' 57 7 = 0 → h.toNat % 64 ≠ 0 → ∃ t, exec (.splice n d a b) s = .next t ∧ EntersTrap s t x 6 0) ∧
      (globalAt h 64 → e.extractLsb' 57 7 ≠ 0 → ∃ t, exec (.splice n d a b) s = .next t ∧ EntersTrap s t x 7 0) ∧
      (globalAt h 64 → e.extractLsb' 57 7 = 0 → e.toNat % 32 ≠ 0 →
        ∃ t, exec (.splice n d a b) s = .next t ∧ EntersTrap s t x 6 0))) ∧
  (∀ s x n d a, UniformReady s x [.pair a, .dst d n] →
    let h := s.usrc64 x a
    (∀ slot, globalAt h 64 → x.real ≠ 0 → slot < 256 → tget none (s.core x.c).pins slot = none →
      (∀ j, j < slot → tget none (s.core x.c).pins j ≠ none) →
      ∃ t r, exec (.pin n d a) s = .next t ∧ (∀ l, t.byteAt l = s.byteAt l) ∧ Committed s t x (awaiting x.grp d n) ∧
        t.consistReqs = s.consistReqs ++ [r] ∧ request s x d n r ∧ r.kind = 1 ∧ r.header = h.toNat ∧ r.pin = slot ∧
        (∃ p, tget none (t.core x.c).pins slot = some p ∧ p.block = x.grp.block ∧ p.launch = x.grp.launch) ∧
        ∀ j, j ≠ slot → tget none (t.core x.c).pins j = tget none (s.core x.c).pins j) ∧
    (TrapFree s x → (h.extractLsb' 57 7 ≠ 0 → ∃ t, exec (.pin n d a) s = .next t ∧ EntersTrap s t x 7 0) ∧
      (h.extractLsb' 57 7 = 0 → h.toNat % 64 ≠ 0 → ∃ t, exec (.pin n d a) s = .next t ∧ EntersTrap s t x 6 0)) ∧
    (TrapFree s x → globalAt h 64 → (∀ j, j < 256 → tget none (s.core x.c).pins j ≠ none) →
      ∃ t, exec (.pin n d a) s = .next t ∧ EntersTrap s t x 15 0)) ∧
  (∀ s x n d a, UniformReady s x [.src a, .dst d n] →
    let h := s.usrc x a
    (∀ p, x.core.granted x.grp.block h = some p → x.real ≠ 0 →
      ∃ t r, exec (.unpin n d a) s = .next t ∧ (∀ l, t.byteAt l = s.byteAt l) ∧ Committed s t x (awaiting x.grp d n) ∧
        t.consistReqs = s.consistReqs ++ [r] ∧ request s x d n r ∧ r.kind = 2 ∧ r.header = p.header ∧ r.gen = p.gen ∧
        tget none (t.core x.c).pins h.toNat = none) ∧
    (TrapFree s x → (256 ≤ h.toNat ∨ tget none x.core.pins h.toNat = none ∨
        (∃ p, tget none x.core.pins h.toNat = some p ∧ (p.block ≠ x.grp.block ∨ p.gen = unboundGen))) →
      ∃ t, exec (.unpin n d a) s = .next t ∧ EntersTrap s t x 16 h)) ∧
  (∀ s x n d a b i, s.ctx = some x → x.real = 0 →
    ((i = Instr.splice n d a b ∧ judgeUses true x [.pair a, .pair b, .dst d n] = none ∧ globalAt (s.usrc64 x a) 64 ∧
        globalAt (s.usrc64 x b) 32) ∨
      (i = .pin n d a ∧ judgeUses true x [.pair a, .dst d n] = none ∧ globalAt (s.usrc64 x a) 64 ∧ x.core.freePinSlot ≠ none) ∨
      (i = .unpin n d a ∧ judgeUses true x [.src a, .dst d n] = none ∧ x.core.granted x.grp.block (s.usrc x a) ≠ none)) →
    ∃ t, exec i s = .next t ∧ SameMachine s t ∧ SameCores s t x.c x.g ∧ Committed s t x x.grp)

/-- R213 to R226, R241, R242: what a consist manager does with a request: SPLICE makes a generation or answers the first
check it fails, PIN binds the current generation and acquires, UNPIN lowers a pin count; and it delivers its oldest reclaim
record that may go. Generations, pins and records are the model's own record of the table area (log entry 17); that the
acquire of a PIN, at die scope, empties the core's snapshot and the constant cache is its reading (log entry 30). -/
def Obligations.ConsistRequestsArePerformed : Prop :=
  (∀ s k r, s.consistReqs[k]? = some r → r.kind = 0 → r.ready = true →
    (∀ j, s.readAs r.who (BitVec.ofNat 64 r.desc) 32 = .refused j →
      ∃ t, exec (.splicePerform k) s = .next t ∧ Replied s t k r 0x80000001) ∧
    ∀ bs, s.readAs r.who (BitVec.ofNat 64 r.desc) 32 = .ok bs →
      let d := spliceDesc bs
      (d.ok = false → ∃ t, exec (.splicePerform k) s = .next t ∧ Replied s t k r 0x80000001) ∧
      (d.ok = true → ∀ j, s.readAs r.who d.list (16 * d.count) = .refused j →
        ∃ t, exec (.splicePerform k) s = .next t ∧ Replied s t k r 0x80000001) ∧
      ∀ list, d.ok = true → s.readAs r.who d.list (16 * d.count) = .ok list →
        let ps := pieceList list d.count
        let need := fun h => s.spliceNeed h d.row d.remove d.count
        (s.headerGot r.who r.header need = .refused →
          ∃ t, exec (.splicePerform k) s = .next t ∧ Replied s t k r 0x80000002) ∧
        ∀ h area, s.headerGot r.who r.header need = .key h area →
          let v := spliceAnswer s h area d ps.1 ps.2
          ∃ t, exec (.splicePerform k) s = .next t ∧ Replied s t k r v ∧
            (v.msb = false → ∀ new, editOf s h area d ps.1 = some new → Spliced s t h area r d ps.1 new) ∧
            (v.msb = true → (s.header h).live ≠ 0 → (∀ l, t.byteAt l = s.byteAt l) ∧
              ((s.header h).ok = true → (t.consist h).gens = (foundConsist s h area).gens))) ∧
  (∀ s k r, s.consistReqs[k]? = some r → r.kind = 1 →
    (s.pinWaits r = false → exec (.pinPerform k) s = .next { s with consistReqs := ldrop s.consistReqs k }) ∧
    (s.pinWaits r = true → s.headerGot r.who r.header s.areaNeed = .refused →
      ∃ t, exec (.pinPerform k) s = .next t ∧ Replied s t k r 0x80000002 ∧ tget none (t.core r.core).pins r.pin = none) ∧
    ∀ h area, s.pinWaits r = true → s.headerGot r.who r.header s.areaNeed = .key h area →
      let c := foundConsist s h area
      ∃ t, exec (.pinPerform k) s = .next t ∧
        ((s.header h).ok = true → Replied s t k r (BitVec.ofNat 32 r.pin) ∧
          tget none (t.core r.core).pins r.pin = some ⟨r.block, r.launch, h, (s.header h).gen⟩ ∧
          (t.consist h).pins (s.header h).gen = c.pins (s.header h).gen + 1 ∧ (t.consist h).gens = c.gens ∧
          t.header h = { s.header h with live := foundLive s h } ∧ Acquired s t r.core true) ∧
        ((s.header h).ok = false → Replied s t k r 0x80000002 ∧ tget none (t.core r.core).pins r.pin = none ∧
          t.consists = s.consists)) ∧
  (∀ s k r, s.consistReqs[k]? = some r → r.kind = 2 → r.ready = true → TurnOf s r →
    (s.areaGot r.who r.header (s.areaNeed r.header) = .refused →
      ∃ t, exec (.unpinPerform k) s = .next t ∧ Replied s t k r 0) ∧
    ∀ h area, s.areaGot r.who r.header (s.areaNeed r.header) = .key h area →
      let c := (s.consistTake h area).consist h
      let n := c.pins r.gen - 1
      let dies := n = 0 ∧ r.gen ≠ (s.header h).gen ∧ (c.piecesOf r.gen).isSome
      ∃ t, exec (.unpinPerform k) s = .next t ∧ t.consistReqs = ldrop s.consistReqs k ∧
        (dies → Replied s t k r 1 ∧ (t.consist h).gens = (c.gens.filter fun g => g.1 != r.gen) ∧
          (t.consist h).waiting.map (·.base) = c.waiting.map (·.base) ++ c.lost r.gen ∧
          t.header h = { s.header h with
            live := (s.header h).live - 1, pending := ((s.header h).pending + (c.lost r.gen).length) % 2 ^ 32 }) ∧
        (¬dies → Replied s t k r 0 ∧ (t.consist h).pins r.gen = n ∧ (t.consist h).gens = c.gens ∧
          ∀ l, t.byteAt l = s.byteAt l)) ∧
  (∀ s k key con j w c g grp, s.consists[k]? = some (key, con) → con.waiting[j]? = some w → s.recordFirst w = true →
    s.takesRecord w = some (c, g, grp) →
    (∀ i v, i < j → con.waiting[i]? = some v → s.recordFirst v = true → s.takesRecord v = none) →
    ∃ t, exec (.reclaimRecordDelivery k) s = .next t ∧ (t.consist key).waiting = ldrop con.waiting j ∧
      t.group c g = some { grp with queues := grp.queues.setIfInBounds 12 (grp.queue 12 ++ [BitVec.ofNat 64 w.base]) } ∧
      (t.header key).pending = (s.header key).pending - 1)

/-- R222, R243, R244: STAD gives each lane the address of its row; a handle that is not granted and a row beyond the
generation trap, in that order; it waits while a page of a table area is unmapped, and the focus passes on. Where the program has stored into
the consist the row's address, or the trap, is free (log entry 10). -/
def Obligations.RowAddressesAreComputed : Prop :=
  ∀ s x e n d a b, LaneReady s x [.src a, .src b, .dstPair d n] →
    let pin := fun l => x.core.granted x.grp.block (s.src x l a)
    let row := fun l => (s.src x l b).toNat
    let rows := fun (p : Pin) => if (s.consistNow p.header).astray then none else (s.consistNow p.header).piecesOf p.gen
    let known := fun (p : Pin) l => (rows p).bind fun ps => pieceAddress (s.header p.header).rowBytes ps (row l)
    let beyond := fun (p : Pin) l => if (rows p).isSome then (known p l).isNone else Config.freeBit (s.freeCtr + l)
    let here := ∀ l p, l < 32 → x.run.mask.getLsbD l → pin l = some p → s.areaWaits x p = none
    (∀ addr : Nat → Dword, here →
      (∀ l, l < 32 → x.real.getLsbD l → ∃ p, pin l = some p ∧ beyond p l = false) →
      (∀ l, l < 32 → x.run.mask.getLsbD l → addr l = match pin l with
        | none => 0
        | some p => if beyond p l then 0 else match known p l with
          | some v => BitVec.ofNat 64 v
          | none => Config.freeDword (s.freeCtr + l)) →
      ∃ t, exec (.stad e n d a b) s = .next { t with freeCtr := s.freeCtr + 32 } ∧ Writes64 s t x e n d addr) ∧
    (TrapFree s x → ∀ l, l < 32 → x.real.getLsbD l → pin l = none → (∀ j, j < l → x.real.getLsbD j → pin j ≠ none) →
      ∃ t, exec (.stad e n d a b) s = .next t ∧ EntersTrap s t x 16 (BitVec.ofNat 32 l)) ∧
    ((∀ l, l < 32 → x.real.getLsbD l → pin l ≠ none) → ∀ l p v, l < 32 → x.run.mask.getLsbD l → pin l = some p →
      s.areaWaits x p = some v → (∀ j q, j < l → x.run.mask.getLsbD j → pin j = some q → s.areaWaits x q = none) →
      exec (.stad e n d a b) s = .next { s.noteUnit x.grp.launch v 0 with focus := none }) ∧
    (TrapFree s x → here → (∀ l, l < 32 → x.real.getLsbD l → pin l ≠ none) →
      ∀ l p, l < 32 → x.real.getLsbD l → pin l = some p → beyond p l = true →
      (∀ j q, j < l → x.real.getLsbD j → pin j = some q → beyond q j = false) →
      ∃ t, exec (.stad e n d a b) s = .next { t with freeCtr := s.freeCtr + 32 } ∧ EntersTrap s t x 14 (BitVec.ofNat 32 l))

/-- R114, R115, R291, R306, R314 to R316: TBLD and APGO hold their group until the table is loaded and the die has answered;
DRAIN and LAUNCH are handed over at issue; where they trap. That a TBLD whose A is a latch entry or a special executes is
the model's reading (log entry 59). -/
def Obligations.RequestsToTheUnits : Prop :=
  (∀ s x n d a b, UniformReady s x [.pair a, .src b, .dst d n] →
    let slot := s.usrc x b
    let e := s.usrc64 x a
    let refuses := fun (b : Dword) j => (s.resolve (x.grp.reader x.c x.supervisor) .load b).2 = .bad j
    (1 ≤ slot.toNat → slot.toNat < 16 → e.extractLsb' 57 7 = 0 → e.toNat % 256 = 0 →
      (x.real ≠ 0 ∨ ∀ j, ¬refuses e j ∧ ¬refuses (e + 4095) j) →
      ∃ t, exec (.tbld n d a b) s = .next t ∧ (∀ l, t.byteAt l = s.byteAt l) ∧
        if x.real = 0 then Ran s t x true (.uniform 0) (fun _ th => th.next) x.grp.s
        else Held s t x x.grp (.tbld e slot.toNat d n)) ∧
    (TrapFree s x → 1 ≤ slot.toNat → slot.toNat < 16 → e.extractLsb' 57 7 = 0 → e.toNat % 256 = 0 → x.real = 0 → ∀ j,
      refuses e j ∨ ((∀ i, ¬refuses e i) ∧ refuses (e + 4095) j) →
      ∃ t, exec (.tbld n d a b) s = .next t ∧ EntersTrap s t x (causeOf j) 0) ∧
    (TrapFree s x → (slot.toNat = 0 ∨ 16 ≤ slot.toNat) → ∃ t, exec (.tbld n d a b) s = .next t ∧ EntersTrap s t x 17 0) ∧
    (TrapFree s x → 1 ≤ slot.toNat → slot.toNat < 16 → pathOf e = 0 → pathOk e = true → e.toNat % 256 ≠ 0 →
      ∃ t, exec (.tbld n d a b) s = .next t ∧ EntersTrap s t x 6 0) ∧
    (e.extractLsb' 57 7 = 0 → e.toNat % 256 = 0 → slot.toNat < 4096 → x.real ≠ 0 →
      ∃ t r, exec (.launch n d a b) s = .next t ∧ (∀ l, t.byteAt l = s.byteAt l) ∧ Committed s t x (awaiting x.grp d n) ∧
        t.launchReqs = s.launchReqs ++ [r] ∧ r.id = s.nextReq ∧ r.core = x.c ∧ r.slot = x.g ∧ r.launch = x.grp.launch ∧
        r.addr = e.toNat ∧ r.queue = slot.toNat ∧ r.d = d ∧ r.n = n) ∧
    (TrapFree s x → e.extractLsb' 57 7 = 0 → e.toNat % 256 = 0 → 4096 ≤ slot.toNat →
      ∃ t, exec (.launch n d a b) s = .next t ∧ EntersTrap s t x 17 0)) ∧
  (∀ s x n d a, UniformReady s x [.pair a, .dst d n] →
    let e := s.usrc64 x a
    (x.supervisor = true → (s.partition (s.partOf x.grp.launch)).operator = true → globalAt e 64 →
      ∃ t, exec (.apgo n d a) s = .next t ∧ SameMachine s t ∧ SameCores s t x.c x.g ∧
        if x.real = 0 then Committed s t x x.grp else Held s t x x.grp (.apgo e d n)) ∧
    (∀ words tensor, s.judgeBlock (x.grp.reader x.c x.supervisor) [0, 9, 10, 11] 32 32 e = none → x.real ≠ 0 →
      s.drainGot (engineWho x.c x.grp.launch x.grp.block) ((s.launch x.grp.launch).getD Launch.reset).accTiles e = .ok words tensor →
      ∃ t cmd, exec (.drain n d a) s = .next t ∧ (∀ l, t.byteAt l = s.byteAt l) ∧
        Committed s t x { x.grp with seqs := { x.grp.seqs with drain := x.grp.seqs.drain + 1 },
                                     s := if n then x.grp.s else x.grp.s.setIfInBounds (d.toNat - 64) (x.grp.seqs.drain + 1) } ∧
        t.drains = s.drains ++ [cmd] ∧ cmd.core = x.c ∧ cmd.launch = x.grp.launch ∧ cmd.block = x.grp.block ∧
        cmd.grp = x.grp.grp ∧ cmd.seq = x.grp.seqs.drain + 1 ∧ cmd.words = words ∧ cmd.tensor = tensor ∧ cmd.order = s.order) ∧
    (∀ v, s.judgeBlock (x.grp.reader x.c x.supervisor) [0, 9, 10, 11] 32 32 e = none → x.real ≠ 0 →
      s.drainGot (engineWho x.c x.grp.launch x.grp.block) ((s.launch x.grp.launch).getD Launch.reset).accTiles e = .waits v →
      ∃ t, exec (.drain n d a) s = .next t ∧ (∀ l, t.byteAt l = s.byteAt l) ∧ t.drains = s.drains ∧
        Held s t x x.grp (.drain e d n)) ∧
    (∀ j, TrapFree s x → s.judgeBlock (x.grp.reader x.c x.supervisor) [0, 9, 10, 11] 32 32 e = some j →
      ∃ t, exec (.drain n d a) s = .next t ∧ EntersTrap s t x (causeOf j) 0)) ∧
  (∀ s c g grp m a slot d n bs, s.group c g = some grp → grp.hold = some (m, .tbld a slot d n) →
    s.readAs (grp.reader c (grp.th (lowestLane m)).lvl) a 4096 = .ok bs →
    let old := (s.core c).table slot
    (s.core c).bankFree slot (!old.active) = true →
    ∃ t, exec (.tbldBankSwap c g) s = .next t ∧ (∀ l, t.byteAt l = s.byteAt l) ∧
      { t with cores := [], hints := [] } = { s with cores := [], hints := [] } ∧
      Completed s t c g grp m false (fun y => { y with s := if n then y.s else y.s.setIfInBounds (d.toNat - 64) (old.gen + 1) }) ∧
      let new := (t.core c).table slot
      new.gen = old.gen + 1 ∧ new.active = !old.active ∧ (if old.active then new.bank1 = old.bank1 else new.bank0 = old.bank0) ∧
      (∀ j, j < 4096 → mget (if old.active then new.bank0 else new.bank1) j = bs.getD j 0) ∧
      ∀ k, k ≠ slot → (t.core c).table k = (s.core c).table k) ∧
  (∀ s c g grp m a d n bs list, s.group c g = some grp → grp.hold = some (m, .apgo a d n) →
    s.readAs (grp.reader c true) a 64 = .ok bs → apgoFieldsOk bs = true →
    s.readAs (grp.reader c true) (BitVec.ofNat 64 (dwordIn bs 8)) (4 * wordIn bs 4) = .ok list → (s.die (wordIn bs 0)).up = true →
    let v := (s.die (wordIn bs 0)).apgoAnswer (wordIn bs 0x1C == 1) (wordsIn list (wordIn bs 4))
    ∃ t, exec (.apgoAnswer c g) s = .next t ∧ (∀ l, t.byteAt l = s.byteAt l) ∧
      Completed s t c g grp m true (fun y => { y with s := if n then y.s else y.s.setIfInBounds (d.toNat - 64) v }) ∧
      (v = 0 → ∀ k ∈ wordsIn list (wordIn bs 4),
        let old := (s.die (wordIn bs 0)).array k
        let new := (t.die (wordIn bs 0)).array k
        new.state = 1 ∧ new.count = old.count + (if wordIn bs 0x1C = 1 then 0 else 1) ∧
        (wordIn bs 0x1C ≠ 1 ∨ old.journalOpen = true → new.journalOpen = true)) ∧
      (v ≠ 0 → t.dies = s.dies)) ∧
  (∀ s c g grp m a d n words tensor, s.group c g = some grp → grp.hold = some (m, .drain a d n) →
    s.drainGot (engineWho c grp.launch grp.block) ((s.launch grp.launch).getD Launch.reset).accTiles a = .ok words tensor →
    ∃ t cmd, exec (.drainDeferredAccept c g) s = .next t ∧ (∀ l, t.byteAt l = s.byteAt l) ∧
      Completed s t c g grp m true (fun y => { y with
        seqs := { y.seqs with drain := y.seqs.drain + 1 },
        s := if n then y.s else y.s.setIfInBounds (d.toNat - 64) (y.seqs.drain + 1) }) ∧
      t.drains = s.drains ++ [cmd] ∧ cmd.words = words ∧ cmd.tensor = tensor ∧ cmd.seq = grp.seqs.drain + 1)

/-- R204, R247, R252 to R260, R265 to R267, R271 to R273: commands of the matrix engine and the array engine from
acceptance to their answer, the epilogue of a matrix command among them; the codes that converters return are free values
(log entry 7). -/
def Obligations.MatrixAndArrayCommandsRun : Prop :=
  (∀ s c g x bs, s.engineTurn c = some g → s.headBlock c g 0 64 = some (.ok bs) → s.group c g = some x →
    let fault := s.mxFault (engineWho c x.launch x.block) ((s.launch x.launch).getD Launch.reset).accTiles (x.mxFmt.headD 0) (mxBlock bs)
    ∃ t, exec (.mxAccept c) s = .next t ∧
      (fault = none → ∃ cmd, (t.core c).mx = (s.core c).mx ++ [cmd] ∧ cmd =
        { order := s.order, slot := g, launch := x.launch, block := x.block, seq := x.seqs.mx + 1, fmt := x.mxFmt.headD 0,
          words := blockWords bs 16, src := cmd.src, wanted := cmd.wanted, upTo := (s.core c).nextId, bank := ((s.core c).table (mxBlock bs).slot).active, started := false }) ∧
      (∀ f, fault = some f → (t.core c).mx = (s.core c).mx) ∧
      (Stays s c x → OnlyCores s t ∧ ∃ y, t.group c g = some y ∧ y.seqs = { x.seqs with mx := x.seqs.mx + 1 } ∧
        headTaken x y 0 (match fault with | none => [] | some f => [entryOf f 1 (x.seqs.mx + 1)]))) ∧
  (∀ s c k m, (s.core c).mx[k]? = some m → s.engineTurn c = some m.slot → s.mxStartable c m = true →
    exec (.mxStart c k) s = .next (s.setCore c { s.core c with
      mx := lset (s.core c).mx k { m with started := true }
      mxLast := m.slot })) ∧
  (∀ s c k cmd, (s.core c).mx[k]? = some cmd → cmd.started = true → cmd.wanted = [] →
    let m := cmd.block_
    let bs := cmd.src.filterMap id
    m.outWait s (cmd.who c) = none → m.outBehind s (cmd.who c) = false →
    ∃ t, exec (.mxCommandComplete c k) s = .next t ∧ (t.core c).mx = ldrop (s.core c).mx k ∧
      let tile : Loc := ⟨.tiles cmd.block, 16384 * m.tile⟩
      let element := fun (i j : Nat) => (m.element cmd.fmt (m.decode cmd.fmt bs)
        (if m.accumulate then s.wordAt (tile.add (4 * (64 * i + j))) else 0) i j).1
      let answered := ∀ y, s.group c cmd.slot = some y → y.launch = cmd.launch → y.block = cmd.block → y.over = false →
        ∃ z, t.group c cmd.slot = some z ∧ z.queue 1 = y.queue 1 ++ [entryOf 0xFFFF 0 cmd.seq] ∧ z.threads = y.threads
      (s.NoWaiters → s.Exists tile →
        (m.epilogue = false → (∀ i j, i < 64 → j < 64 → t.wordAt (tile.add (4 * (64 * i + j))) = element i j) ∧
          (∀ l, ¬within tile 16384 l → t.byteAt l = s.byteAt l) ∧ answered) ∧
        (m.epilogue = true → Settled s c → OutHere s (cmd.who c) m → 64 * m.outSize ≤ m.outStride →
          (∀ i j, i < 64 → j < 64 → t.wordAt (tile.add (4 * (64 * i + j))) = element i j) ∧
          (∀ i j b q, i < 64 → j < 64 → b < m.outSize →
            (s.resolve (cmd.who c) .store (outAt m i j + BitVec.ofNat 64 b)).2 = .ok q →
            t.byteAt q = outByte m ((s.core c).boundTable cmd) (element i j) b) ∧
          (∀ l, ¬within tile 16384 l → (∀ i j b, i < 64 → j < 64 → b < m.outSize →
            (s.resolve (cmd.who c) .store (outAt m i j + BitVec.ofNat 64 b)).2 ≠ .ok l) → t.byteAt l = s.byteAt l) ∧ answered))) ∧
  (∀ s c g x bs, (rotation (s.core c).aeLast).find? (fun g => ((s.headBlock c g 2 96).map Got.settled).getD false) = some g →
    s.headBlock c g 2 96 = some (.ok bs) → s.group c g = some x →
    let la := (s.launch x.launch).getD Launch.reset
    let verdict := s.aeJudge (engineWho c x.launch x.block) la.part la.accTiles (x.aeFmt.headD 0) (x.seqs.ae + 1) bs
    ∃ t, exec (.aeAccept c) s = .next t ∧
      (∀ l, verdict = .inr l → t.die l.die = { s.die l.die with order := (s.die l.die).order ++ [(c, s.order)] } ∧
        ∃ cmd, (t.core c).ae = (s.core c).ae ++ [cmd] ∧ cmd =
          { order := s.order, slot := g, launch := x.launch, block := x.block, seq := x.seqs.ae + 1, words := blockWords bs 24,
            src := cmd.src, wanted := cmd.wanted, upTo := (s.core c).nextId, layer := l, bank := (s.die l.die).active, bound := (s.die l.die).bankOf (s.die l.die).active,
            weights := l.arrays.map fun a => (a, ((s.die l.die).array a).codes), waiting := (aeBlock bs).ops l, running := [], done := [],
            linkbound := false, phase := .analogue, answer := 0 }) ∧
      (∀ e, verdict = .inl e → Stays s c x → (∀ a ∈ (s.core c).ae, a.slot ≠ g) →
        OnlyCores s t ∧ ∃ y, t.group c g = some y ∧ y.seqs = { x.seqs with ae := x.seqs.ae + 1 } ∧ headTaken x y 2 [e])) ∧
  (∀ (s : State) die (j : Nat) who k m i, s.slotsFree die 1 = true → (s.die die).order[j]? = some who → s.aeOf who = some (k, m) →
    s.startableOp m = some i →
    (∀ (j' : Nat) who' k' m', j' < j → (s.die die).order[j']? = some who' → s.aeOf who' = some (k', m') → s.startableOp m' = none) →
    ∃ o, m.waiting[i]? = some o ∧ exec (.arrayOperationStart die) s =
      .next (s.setAe who.1 k { m with
        waiting := ldrop m.waiting i
        running := m.running ++ [o] })) ∧
  (∀ (s : State) die k c j i m o, (s.running_ die)[k]? = some (c, j, i) → (s.core c).ae[j]? = some m → m.running[i]? = some o →
    ∃ t m1, exec (.arrayOperationComplete die k) s = .next t ∧ (t.core c).ae = lset (s.core c).ae j m1 ∧
      m1 = { m with
             running := ldrop m.running i
             done := m.done ++ [{ o with code := some s.freeCtr }]
             phase := if m.waiting = [] ∧ ldrop m.running i = [] then .arrived else m.phase
             linkbound := m1.linkbound } ∧
      (∀ c' g, t.group c' g = s.group c' g) ∧ ∀ l, t.byteAt l = s.byteAt l) ∧
  (∀ (s : State) die, (s.die die).lateAnswers ≠ 0 →
    exec (.arrayOperationComplete die (s.running_ die).length) s = .next (s.setDie die { s.die die with
      lateAnswers := (s.die die).lateAnswers - 1
      stale := if (s.die die).stale = 0xFFFFFFFF then 0xFFFFFFFF else (s.die die).stale + 1 })) ∧
  (∀ s c k m, (s.core c).ae[k]? = some m → s.engineTurn c = some m.slot → s.aeStartable c m = true →
    exec (.aeDigitalPartStart c k) s = .next (s.setCore c { s.core c with
      ae := lset (s.core c).ae k { m with phase := .started }
      mxLast := m.slot })) ∧
  (∀ s c k cmd, (s.core c).ae[k]? = some cmd → cmd.phase = .started → (s.supplyAe c cmd).1.wanted = [] →
    let m := aeBlock (wordBytes cmd.words)
    let l := cmd.layer
    let bs := (s.supplyAe c cmd).1.src.filterMap id
    ∃ t, exec (.aeDigitalPartComplete c k) s = .next t ∧
      (s.NoWaiters → s.Exists ⟨.tiles cmd.block, 0⟩ → m.tokens ≤ 64 →
        let data := m.decode l bs
        let element := fun (i j : Nat) => (⟨.tiles cmd.block, (m.tile + j / 64) * 16384 + (64 * i + j % 64) * 4⟩ : Loc)
        (∀ i j, i < m.tokens → j < m.nO l → t.wordAt (element i j) =
          (m.element cmd data (cmd.draws m) (s.wordAt (element i j))
            (lowRanks m l data i).1 (lowRanks m l data i).2 i j).1) ∧
        ∀ q, (∀ i j, i < m.tokens → j < m.nO l → ¬within (element i j) 4 q) → t.byteAt q = s.byteAt q))

/-- R56, R177, R204, R205, R247, R282 to R286, R291 to R293: the copy engines and the update units. That a DRAIN whose blocks have awaited
bytes is accepted unread and has its place is the model's reading (log entry 50). -/
def Obligations.CopiesAndUpdatesRun : Prop :=
  (∀ s c eng g x got, (s.core c).copyOf eng = none →
    (rotation ((s.core c).copyLast eng)).find? (fun g => ((s.copyHead c g eng).map CopyGot.settled).getD false) = some g →
    s.copyHead c g eng = some got → s.group c g = some x →
    let seq := (if eng then x.seqs.ceb else x.seqs.cea) + 1
    let q := if eng then 6 else 4
    ∃ t, exec (.ceAccept c eng) s = .next t ∧
      (∀ m words list, got = .block m words list →
        (∃ cmd, (t.core c).copyOf eng = some cmd ∧ cmd =
          { slot := g, launch := x.launch, block := x.block, seq := seq, words := words, gather := list, src := cmd.src,
            wanted := cmd.wanted, upTo := (s.core c).nextId, chunks := m.chunks, sectors := s.copySectors (engineWho c x.launch x.block) m, landed := 0, written := [], counted := 0,
            badBarrier := false }) ∧
        (Stays s c x → (∀ l, t.byteAt l = s.byteAt l) ∧
          ∀ l ∈ s.copySectors (engineWho c x.launch x.block) m, s.Exists l → t.absent l = true)) ∧
      (∀ f, got = .fault f → (t.core c).copyOf eng = none ∧ (Stays s c x → OnlyCores s t)) ∧
      (Stays s c x → ∃ y, t.group c g = some y ∧
        headTaken x y q (match got with | .fault f => [entryOf f 1 seq] | _ => []))) ∧
  (∀ s c eng k cmd ch, (s.core c).copyOf eng = some cmd → cmd.chunks[k]? = some ch →
    let m := cmd.block_
    let w := engineWho c cmd.launch cmd.block
    let first := ch.1 * m.rowBytes + ch.2.1
    let cmd1 := (s.supplyChunk c cmd first ch.2.2).1
    let bs := ((cmd1.src.drop first).take ch.2.2).filterMap id
    (∀ q ∈ cmd1.wanted, q.pos < first ∨ first + ch.2.2 ≤ q.pos) →
    s.rangeTrouble w .store 32 (m.target ch) ch.2.2 = none → s.writeBehind w 32 (m.target ch) ch.2.2 = false →
    ∃ t, exec (.ceChunkWrite c eng k) s = .next t ∧
      (if ldrop cmd.chunks k = [] then (t.core c).copyOf eng = none
       else ∃ cmd', (t.core c).copyOf eng = some cmd' ∧ cmd'.chunks = ldrop cmd.chunks k) ∧
      (∀ l, s.NoWaiters → Settled s c → m.barrier = 0 → (s.resolve w .store (m.target ch)).2 = .ok l → s.Exists l →
        bs ≠ [] → bs.length ≤ 16 - (m.target ch).toNat % 16 →
        ∀ q, t.byteAt q =
          (lastStore (if s.takesWrite (s.partOf cmd.launch) l then [(l, bs)] else []) q).getD (s.byteAt q)) ∧
      (∀ l, s.NoWaiters → Settled s c → m.barrier = 0 → (s.resolve w .store (m.target ch)).2 = .ok l → s.Exists l →
        (∀ p, l.place ≠ .peer p) → (m.target ch).toNat % 16 = 0 → 16 < bs.length → bs.length ≤ 32 →
        ((s.setBytes l (bs.take 16)).resolve w .store (m.target ch + 16)).2 = .ok (l.add 16) →
        ∀ q, t.byteAt q = (lastStore [(l, bs)] q).getD (s.byteAt q))) ∧
  (∀ s k d a words tensor, s.drains[k]? = some d → d.unread = some a →
    let d' := (s.supplyDrain d).1
    d'.wanted = [] → ((d'.src.take 32).filterMap id).length = 32 →
    s.drainJudge (engineWho d.core d.launch d.block) ((s.launch d.launch).getD Launch.reset).accTiles
      ((d'.src.take 32).filterMap id) (.ok ((d'.src.drop 32).filterMap id)) = .ok words tensor →
    ∃ t, exec (.drainTileTake k) s = .next t ∧ t.drains = lset s.drains k { d' with
        unread := none, words := words, tensor := tensor, linesLeft := drainLines (drainBlock (wordBytes words)) (tensorBlock (wordBytes tensor))
        tilesLeft := (List.range (drainBlock (wordBytes words)).tiles).map ((drainBlock (wordBytes words)).tile + ·) } ∧
      OnlyCores { s with drains := [] } { t with drains := [] }) ∧
  (∀ s k d tile rest, s.drains[k]? = some d → d.unread = none → d.tilesLeft = tile :: rest →
    s.tileBusy d.core d.order d.block (tile, 1) = false →
    ∃ t, exec (.drainTileTake k) s = .next t ∧
      t.drains = lset s.drains k { d with
        tilesLeft := rest
        grads := d.grads ++ s.tileGrads d tile } ∧
      (s.Exists ⟨.tiles d.block, 0⟩ → (∀ q, within ⟨.tiles d.block, 16384 * tile⟩ 16384 q → t.byteAt q = 0) ∧
        ∀ q, ¬within ⟨.tiles d.block, 16384 * tile⟩ 16384 q → t.byteAt q = s.byteAt q)) ∧
  (∀ s k line d, s.drains[k]? = some d → d.unread = none → d.tilesLeft = [] → line ∈ d.linesLeft →
    let ts := tensorBlock (wordBytes d.tensor)
    (∀ a ∈ tensorsOf ts, ∃ l, s.lineGot d a line = .place l) →
    let left := d.linesLeft.filter (· ≠ line)
    let (gs, clipped, _) := clipLine ts.clip ((covered d line).map (·.2))
    ∃ t, exec (.nmuLineUpdate k line) s = .next t ∧
      t.drains = (if left = [] then ldrop s.drains k else lset s.drains k { d with
        linesLeft := left
        written := d.written ++ (tensorsOf ts).filterMap fun a => match s.lineGot d a line with
          | .place l => some (l, 1024)
          | _ => none
        clipped := d.clipped + if clipped then 1 else 0 }) ∧
      ((drainBlock (wordBytes d.words)).barrier = 0 →
        (∀ q, (∀ a ∈ tensorsOf ts, ∀ l, s.lineGot d a line = .place l → ¬within l 1024 q) → t.byteAt q = s.byteAt q) ∧
        (∀ l i g, ts.opt = 0 → s.lineGot d ts.weights line = .place l → (i, g) ∈ ((covered d line).map (·.1)).zip gs →
          t.wordAt (l.add (4 * i)) = (ts.stepElement ts.once g (s.wordAt (l.add (4 * i))) 0 0).1)))

/-- R278, R281, R347 to R356: rows of an array's journal, die resets, the link's retrains, Oboe's fits and publications.
The codes that a fit rests on are free values (log entry 7); that a die reset leaves rate 0 and full width is the model's
reading (log entry 35). -/
def Obligations.DiesAndOboe : Prop :=
  (∀ (s : State) die a row j k bs, ((s.die die).array a).apgo.bind (s.die die).job = some j →
    (s.die die).toStage j = some (k, a, row) →
    s.readAs (launchWho j.launch) (BitVec.ofNat 64 (j.source + 524288 * k + 512 * row)) 512 = .ok bs →
    ((∀ b ∈ bs, -15 ≤ b.toInt ∧ b.toInt ≤ 15) →
      let x := (s.die die).array a
      ∃ t, exec (.rowStage die a row) s = .next t ∧
        Journals s t die a row (if (x.row row).intent then [3] else [2, 3])
          ((s.die die).jobs.map fun z => if z.number = j.number then { j with staged := 1024 * k + row + 1 } else z) x
          { x.row row with codes := bs }) ∧
    (∀ b ∈ bs, ¬(-15 ≤ b.toInt ∧ b.toInt ≤ 15) → ∃ t, exec (.rowStage die a row) s = .next t ∧
      ((t.die die).array a).state = 3 ∧ ((t.die die).array a).journalOpen = false)) ∧
  (∀ (s : State) die a row, let x := (s.die die).array a
    let j := x.row row
    x.journalOpen = true → x.state = 1 → x.nextRow = some row → j.stage = true → (s.die die).mayWrite a = true →
    s.arrayIdle die a = true → (s.die die).up = true → (x.writing = true ∨ s.slotsFree die 1 = true) →
    (j.verify = false →
      (∃ t, exec (.rowWriteComplete die a row true) s = .next t ∧
        Journals s t die a row [4, 5] (s.die die).jobs { x with
          writing := true
          codes := tput x.codes row j.codes } j) ∧
      (j.tries ≠ 3 → ∃ t, exec (.rowWriteComplete die a row false) s = .next t ∧
        Journals s t die a row [4] (s.die die).jobs { x with writing := true } { j with tries := j.tries + 1 }) ∧
      (j.tries = 3 → ∃ t, exec (.rowWriteComplete die a row false) s = .next t ∧
        ((t.die die).array a).state = 3 ∧ ((t.die die).array a).journalOpen = false)) ∧
    (j.verify = true → ∀ ok, ∃ t, exec (.rowWriteComplete die a row ok) s = .next t ∧
      ((((t.die die).array a).row row).commit = true ∨ ((t.die die).array a).closed = true))) ∧
  (∀ (s : State) die, die < 16 → ∀ i ∈ [Instr.dieReset die, .dieWatchdogExpiry die, .linkFailure die],
    ∃ t, exec i s = .next t ∧ DieReset s t die) ∧
  (∀ (s : State) die rate, die < 16 → rate < 3 → ∃ u, exec (.linkRateChangeRequest die rate) s = .next (s.setDie die u) ∧
    if (s.die die).applying = none
    then u = { s.die die with
               pendRate := none
               applying := some (some rate, none)
               retried := false }
    else u = { s.die die with pendRate := some rate }) ∧
  (∀ (s : State) die narrow, die < 16 → narrow < 16 → ∃ u, exec (.linkWidthChangeRequest die narrow) s = .next (s.setDie die u) ∧
    ((s.die die).applying = none → (s.die die).pendRate = none → u =
      { s.die die with
        pendNarrow := none
        applying := some (none, some narrow)
        retried := false }) ∧
    ((s.die die).applying ≠ none → u = { s.die die with pendNarrow := some narrow })) ∧
  (∀ (s : State) die r w, (s.die die).applying = some (r, w) →
    (∃ t, exec (.retrainComplete die true) s = .next t ∧ (t.die die).rate = r.getD (s.die die).rate ∧
      (t.die die).narrow = w.getD (s.die die).narrow) ∧
    ((s.die die).retried = false → exec (.retrainComplete die false) s = .next (s.setDie die { s.die die with
      applying := some (some 2, some 15)
      retried := true })) ∧
    ((s.die die).retried = true → ∃ t, exec (.retrainComplete die false) s = .next t ∧ DieReset s t die)) ∧
  (∀ (s : State) die a b tr, (s.die die).up = true → (if tr then s.pairOf die a = some b else b = a) → s.probeable die a = true →
    s.probeable die b = true → s.runningOps die + (s.die die).programming + (if tr then 2 else 1) ≤ (s.die die).limit →
    ∃ t f, exec (.oboeGroupFit die a tr) s = .next t ∧ fitIn (t.die die).fits tr a = some f ∧
      f.pos.length = (if tr then 1024 else 512) ∧ (∀ tr' a', (tr', a') ≠ (tr, a) →
        fitIn (t.die die).fits tr' a' = fitIn (s.die die).fits tr' a') ∧ (t.die die).gen = (s.die die).gen) ∧
  (∀ (s : State) die, let d := s.die die
    s.ready = true → d.up = true → d.replaying = false → (∃ f ∈ d.fits, f.news (d.bankOf d.active) = true) → s.bankUnheld die (!d.active) = true →
    ∃ t, exec (.oboePublish die) s = .next t ∧ (t.die die).gen = d.gen + 1 ∧ (t.die die).active = !d.active ∧
      (t.die die).bankOf (!d.active) = d.fits ∧ (t.die die).bankOf d.active = d.bankOf d.active ∧
      ∀ a, let x := d.array a
        x.closed = true → x.state = 1 → (fitIn d.fits false a).isSome → (∀ f, s.firstOf die a = some f → (fitIn d.fits true f).isSome) →
        ((t.die die).array a).state = 0) ∧
  (∀ (s : State) die, die < 16 → (s.die die).up = true →
    exec (.oboeStarvationTimeout die) s = .next (s.setDie die { s.die die with oboeArrays := 8 }))

/-- R24, R37, R138, R141, R144 to R153, R315, R327, R340 to R345: Junction binds queues, takes and ends launches, dispatches,
saves and restores clusters, passes slices on; a core in service begins runs and enters held traps. That a pre-emption takes
two steps (log entry 46), that a path at FPEV does not begin while events are owed (log entry 54) and that a removed core
issues nothing (log entry 66) are the model's readings. -/
def Obligations.LaunchesAndSlots : Prop :=
  (∀ (s : State) i, let f := s.iface i
    f.waiting = true → f.bound = false → (s.ifaces.filter fun x => x.2.bound).length < 64 →
    (∀ x ∈ s.ifaces, x.2.waiting = true → x.2.bound = false → s.boundFirst i x.1 = true) →
    exec (.queueBind i) s = .next (s.setIface i { f with bound := true })) ∧
  (∀ (s : State) i bs, let f := s.iface i
    f.bound = true → f.waiting = true → s.currentOver i = true →
    (s.asQueue i).recordAt (launchWho s.nextLaunch) (f.slotAddr f.rdIdx) = .ok bs →
    let l := launchOf s i (blockWords bs 64)
    ∃ t, exec (.launchTake i) s = .next t ∧ t.nextLaunch = s.nextLaunch + 1 ∧ (t.iface i).rdIdx = f.rdIdx + 1 ∧
      (s.recordFault l f.sealOnly = none → (t.iface i).current = some s.nextLaunch ∧ t.launch s.nextLaunch = some l) ∧
      (∀ off, s.recordFault l f.sealOnly = some off → s.NoWaiters → (t.iface i).current = none ∧
        t.launch s.nextLaunch = some { l with ended := true } ∧ (.refused s.nextLaunch, some f.intVec) ∈ t.interrupts)) ∧
  (∀ (s : State) n c0 l cs, s.launch n = some l → (s.iface l.iface).current = some n → l.ended = false → l.doubleTrap = false →
    l.nextBlock < l.clusterCount → l.waitMet = true → l.migrated = true → s.waitingCluster l.iface = some (.fresh n) →
    s.outranked l.part l.iface l.priority = false → s.place l c0 = some cs →
    ∃ t, exec (.clusterDispatch n c0) s = .next t ∧ t.nextBlock = s.nextBlock + cs.length ∧ t.nextCluster = s.nextCluster + 1 ∧
      t.launch n = some { l with
        nextBlock := l.nextBlock + 1
        liveBlocks := l.liveBlocks ++ (List.range cs.length).map (s.nextBlock + ·) } ∧
      ∀ r c, cs[r]? = some c →
        let lin := l.nextBlock * shapeBlocks l.shape + r
        t.block (s.nextBlock + r) = some
          { launch := n, core := c, bx := lin % l.gridX, by_ := lin / l.gridX % l.gridY, bz := lin / l.gridX / l.gridY, crank := r,
            cluster := s.nextCluster, scratch := [], share := [], slices := [], tiles := [], absentScratch := [],
            absentShare := [], started := s.tick, stopping := false, ended := false } ∧
        ∀ grp role : Nat, l.roleList[grp]? = some role →
          let n' := if grp + 1 = l.ngrp ∧ l.lastThreads role ≠ 0 then l.lastThreads role else 32
          ∃ i y, i < 32 ∧ t.group c i = some y ∧ y.launch = n ∧ y.block = s.nextBlock + r ∧ y.grp = grp ∧ y.role = role ∧
            y.cls = l.classOf role ∧ y.sreg 0 = l.word 0x48 ∧ y.sreg 1 = l.word 0x4C ∧ (∀ q, 2 ≤ q → y.sreg q = 0) ∧ y.sPend = 0 ∧
            ∀ j, j < 32 → (y.th j).pc = l.word (0x08 + 4 * role) ∧ (y.th j).codeBase = l.dword 0 ∧ (∀ q, (y.th j).reg q = 0) ∧
              (y.th j).k = 0 ∧ (y.th j).vPend = 0 ∧ (y.th j).lvl = false ∧
              (y.th j).kind = if j < n' then .real else if j < (n' + 3) / 4 * 4 then .helper else .absent) ∧
  (∀ (s : State) n l, s.launch n = some l → l.ended = false → l.liveBlocks = [] → (l.doubleTrap = true ∨ l.clusterCount ≤ l.nextBlock) →
    s.launchQuiet n = true → ∃ t, exec (.launchEnd n) s = .next t ∧ (s.NoWaiters →
      t.launch n = some { l with ended := true } ∧
      ∀ o, (∀ k ∈ s.keys, ¬(k.handle = l.keyHandle ∧ k.part = l.part)) → s.chipObject l.part (l.dword 0x58) = some o →
        wellFormedObject (s.barrierAt o) → t.barrierAt o = counted (s.barrierAt o) 0)) ∧
  (∀ (s : State) (k : Nat) r bytes, s.launchReqs[k]? = some r → r.ready = true →
    s.readAs { core := r.core, launch := r.launch, block := 0, thread := 0, supervisor := true, engine := true }
      (BitVec.ofNat 64 r.addr) 256 = .ok bytes →
    let f := s.iface r.queue
    let answer := fun (t : State) v => t.launchReqs = ldrop s.launchReqs k ∧ Answered s t r.core r.slot r.launch r.d r.n v
    (s.partOfIface r.queue ≠ some (s.partOf r.launch) ∨ f.state ≠ 2 →
      ∃ t, exec (.launchAppend k) s = .next t ∧ answer t 0x80000002) ∧
    (s.partOfIface r.queue = some (s.partOf r.launch) → f.state = 2 →
      (f.ringSize < (f.wrIdx + 1 - f.rdIdx).toNat → ∃ t, exec (.launchAppend k) s = .next t ∧ answer t 0x80000001) ∧
      ((f.wrIdx + 1 - f.rdIdx).toNat ≤ f.ringSize →
        (s.asQueue r.queue).rangeTrouble (launchWho s.nextLaunch) .store 32 (f.slotAddr f.wrIdx) 256 = none →
        ∃ t, exec (.launchAppend k) s = .next t ∧ answer t (BitVec.ofNat 32 (f.wrIdx.toNat % f.ringSize)) ∧
          (t.iface r.queue).wrIdx = f.wrIdx + 1 ∧ t.launches = s.launches))) ∧
  (∀ (s : State) n k b0 c0 more blk, s.clusterBlocks k = (b0, c0) :: more → s.block b0 = some blk → blk.launch = n →
    (blk.stopping = false → s.isVictim n blk.started = true →
      ∃ t, exec (.preempt n k) s = .next t ∧ t.saved = s.saved ∧ (∀ l, t.byteAt l = s.byteAt l) ∧
        ∀ p ∈ s.clusterBlocks k, ∀ b, s.block p.1 = some b → b.core = p.2 → b.ended = false →
          t.block p.1 = some { b with stopping := true } ∧
          ∀ g x, g < 32 → s.group p.2 g = some x → x.launch = b.launch → t.group p.2 g = some { x with stopped := true }) ∧
    (blk.stopping = true →
      (∀ p ∈ s.clusterBlocks k, s.landed n p.1 p.2 = true ∧ ∀ g ∈ (s.core p.2).slotsOf p.1, ∀ x, s.group p.2 g = some x →
        s.slotSavable p.2 g x = true) →
      ∃ t cl, exec (.preempt n k) s = .next t ∧ t.saved = cl :: s.saved ∧ (∀ p ∈ s.clusterBlocks k, t.block p.1 = none) ∧
        ∀ b ∈ cl, s.block b.number = some b.block)) ∧
  (∀ (s : State) (k : Nat) c0 cl l cs, s.saved[k]? = some cl → s.launch (launchOfSaved cl) = some l →
    s.waitingCluster l.iface = some (.saved k) → s.outranked l.part l.iface l.priority = false → s.placeSaved l cl c0 = some cs →
    ∃ t, exec (.restart k c0) s = .next t ∧ t.saved = ldrop s.saved k ∧
      ((cl.map (·.number)).Nodup → ∀ b ∈ cl, t.block b.number = some { b.block with
        core := cs.getD b.block.crank 0
        started := s.tick
        stopping := false })) ∧
  (∀ (s : State) p prio h j, s.holder p prio = some h → s.nextSlice p prio h = some j →
    ∃ t, exec (.timeSliceExpiry p prio) s = .next t ∧ t.holder p prio = some j ∧ t.endedSlot p prio = some h ∧
      { t with sliceOwner := [] } = { s with sliceOwner := [] }) ∧
  (∀ (s : State) c slot a m, slot < 4 → c ∉ s.removedCores → s.running c slot = none → 32 ≤ (s.core c).logFree → a ∈ s.eligible c slot →
    (∀ b ∈ s.eligible c slot, b ≠ a → servedFirst s a b) → (s.core c).choosePath a.1 a.2 = some m →
    (∀ j ∈ a.2.jumps, j.mask &&& m = 0) →
    let lane := a.2.th (lowestLane m)
    let f := (s.fetchRun c a.2.launch lane.codeBase lane.pc 25).2
    ∃ t, exec (.runIssue c slot) s = .next t ∧ (∀ l, t.byteAt l = s.byteAt l) ∧ (∀ g, g ≠ a.1 → t.group c g = s.group c g) ∧
      match f.unmapped with
      | some _ => t.focus = s.focus ∧ t.group c a.1 = some { a.2 with fetchWait := m :: a.2.fetchWait }
      | none =>
        if f.words.any isFpev = true ∧ (s.core c).eventsOwed a.1 = true
        then t.focus = s.focus ∧ t.group c a.1 = some { a.2 with countWait := m :: a.2.countWait }
        else t.focus = some (c, a.1) ∧ t.group c a.1 = some { a.2 with
          run := some { mask := m, count := 0, latches := [], logRoom := 32, words := f.words, refusal := f.refusal }
          countWait := a.2.countWait.filter (· ≠ m) }) ∧
  (∀ (s : State) c g grp h rest la, s.group c g = some grp → grp.heldTraps = h :: rest → grp.handlerSet = 0 → grp.run = none →
    s.launch grp.launch = some la → (s.partition la.part).trapPolicy = false →
    let low := grp.th (lowestLane h.mask)
    ∃ t y, exec (.trapEntry c g) s = .next t ∧ SameMachine s t ∧ SameCores s t c g ∧ t.group c g = some y ∧
      y = { grp with threads := y.threads, heldTraps := rest, trapCause := BitVec.ofNat 32 h.cause, trapPc := low.pc &&& ~~~3,
                     trapMask := h.mask, trapVal := h.value, savedBase := low.codeBase, handlerSet := h.mask,
                     handler := grp.handler ++ [h.mask], since := y.since } ∧
      ∀ l, l < 32 → y.th l = if h.mask.getLsbD l
        then { grp.th l with
               plvl := (grp.th l).lvl
               lvl := true
               pc := 0
               codeBase := (s.partition la.part).trapVec
               standing := .ready }
        else grp.th l)

/-- R295 to R301, R367, R372 to R374: departure stations from the acceptance of a contribution to the root's record.
Readings of the model: a contribution's NaN is the canonical one, a round's expected children count once each, a round no
longer kept (log entries 40 to 42); a packet of no open collective, or that names no child station of it, is lost, and a
port admits a packet that any active partition's peer list admits (log entry 43). -/
def Obligations.DepartureStations : Prop :=
  (∀ (s : State) c g x a rest got, s.group c g = some x → x.queue 8 = a :: rest →
    let w := engineWho c x.launch x.block
    s.regoGot w (s.partOf x.launch) (hwCluster c) a = got →
    let taken := fun (u : State) => u.setGroup c g { x with queues := x.queues.setIfInBounds 8 rest }
    (∀ k b data st child parent up expected r s', got = .ok k b data → k.contributors[b.contributor]? = some (st, child) →
      k.station st = some (parent, up, expected) →
      ∃ t, exec (.stationAcceptRego c g) s = .next t ∧
        (Stays s c x → g < 32 → k.rootContributor ≠ some b.contributor →
          roundFor (taken ((s.hasRead w a 64).hasRead w b.src b.bytes)) k st b.round b.deadline s' r →
          Arrives s' t k r parent up expected false { child := child, manifest := [b.contributor], repeats := 0, data := data })) ∧
    (∀ f low, got = .fault f low → ∃ t, exec (.stationAcceptRego c g) s = .next t ∧
      (Stays s c x → g < 32 → Posted (taken s) t x.launch x.block x.grp 9 (BitVec.ofNat 64 (2 ^ 63 + f % 2 ^ 16 * 2 ^ 32 + low))))) ∧
  (∀ (s : State) (k : Nat) p, s.packets[k]? = some p →
    (∃ t, exec (.stationPacketArrival (.lost k)) s = .next t ∧
      (NoneEnding s → t = { s with packets := ldrop s.packets k })) ∧
    ∃ t, exec (.stationPacketArrival (.within k)) s = .next t ∧ (NoneEnding s →
      (s.collectiveOf p.id p.part = none → t = { s with packets := ldrop s.packets k }) ∧
      ∀ c parent up expected r s', s.collectiveOf p.id p.part = some c → p.toStation / 1024 = c.module →
        c.station p.toStation = some (parent, up, expected) →
        (¬NamesSender c p.toStation p.child true → t = { s with packets := ldrop s.packets k }) ∧
        (NamesSender c p.toStation p.child true → roundFor { s with packets := ldrop s.packets k } c p.toStation p.round p.deadline s' r →
          Arrives s' t c r parent up expected p.late
            { child := p.child, manifest := p.manifest, repeats := p.repeats, data := p.data.take (c.bytes / 4) }))) ∧
  (∀ (s : State) port (p : Packet), s.ready = true → 2 ≤ port → port < 8 →
    let admits := ∃ q ∈ s.partitions, q.2.active = true ∧ (q.2.peers[port]?.getD 0).getLsbD p.part = true
    (¬admits → ∃ t, exec (.stationPacketArrival (.peer port p)) s = .next t ∧ { t with dropCnt := 0 } = { s with dropCnt := 0 }) ∧
    (admits → ∃ t, exec (.stationPacketArrival (.peer port p)) s = .next t ∧
      ∀ c parent up expected r s', s.collectiveOf p.id p.part = some c → p.toStation / 1024 = c.module →
        c.station p.toStation = some (parent, up, expected) →
        (¬NamesSender c p.toStation p.child false → t = s) ∧
        (NamesSender c p.toStation p.child false → roundFor s c p.toStation p.round p.deadline s' r →
          Arrives s' t c r parent up expected p.late
            { child := p.child, manifest := p.manifest, repeats := p.repeats, data := p.data.take (c.bytes / 4) }))) ∧
  (∀ (s : State) (k : Nat) r c parent up expected, s.rounds[k]? = some r → s.collectiveOf r.id r.part = some c →
    c.station r.station = some (parent, up, expected) → r.kept = true →
    (r.departed = false → r.counting = true → ∃ t, exec (.stationDeadlineExpiry k) s = .next t ∧
      (NoneEnding s → r.lateHeld = [] →
        (if r.onTime = [] then t.packets = s.packets ∧ t.sent = s.sent ∧ t.rootRecords = s.rootRecords
         else Leaves s t c r parent up false r.onTime) ∧
        t.rounds = (s.setRound { r with
          departed := true
          counting := false
          onTime := []
          repeats := if r.onTime = [] then r.repeats else 0 }).rounds)) ∧
    (r.departed = true → r.lateCounting = true → r.lateHeld ≠ [] → ∃ t, exec (.lateCountdownExpiry k) s = .next t ∧
      (NoneEnding s → Leaves s t c r parent up true r.lateHeld ∧ t.rounds = (s.setRound { r with
        lateHeld := []
        lateCounting := false
        repeats := 0 }).rounds))) ∧
  (∀ (s : State) (k : Nat) rec c r dst slots lateDst launch block grp, s.rootRecords[k]? = some rec →
    s.collectiveOf rec.id rec.part = some c → s.roundOf rec.station rec.id rec.part rec.round = some r →
    r.root = some (dst, slots, lateDst, launch, block, grp) →
    (∀ x ∈ s.rootRecords.take k, ¬(x.station = rec.station ∧ x.id = rec.id ∧ x.part = rec.part ∧ x.round = rec.round)) →
    s.isSaved block = false →
    let a := BitVec.ofNat 64 (if rec.late then lateDst + r.lateNumber % slots * c.slotBytes else dst)
    let q := if rec.late then 10 else 9
    (rec.late = true → s.slotOpen launch block a = true) →
    (s.recordTrouble launch block (c.dataAt + c.bytes) a = none →
      ∃ t, exec (.rootRecordDelivery k) s = .next t ∧ t.rootRecords = ldrop s.rootRecords k ∧
        (s.NoWaiters → NoneEnding s → Posted s t launch block grp q a)) ∧
    (∀ j, s.recordTrouble launch block (c.dataAt + c.bytes) a = some (.refused j) →
      ∃ t, exec (.rootRecordDelivery k) s = .next t ∧ t.rootRecords = ldrop s.rootRecords k ∧
        (NoneEnding s → Posted s t launch block grp q
          (BitVec.ofNat 64 (2 ^ 63 + 2 ^ 62 + (if rec.late then 0x30 else 0x20) * 2 ^ 32 + rec.round.toNat)))))

/-- R332, R337, R359, R361 to R369: what writes to the control window do, who may make them, and the accesses that reach
the module from outside. A host access to an unmapped page is refused (log entry 36), creating a partition empties the caches
and table slots of its clusters (log entry 61) and a host port's ARRSEL is partition 0's (log entry 21): readings of the
model. -/
def Obligations.ControlWindow : Prop :=
  (∀ (s : State) w off width value, off % width = 0 → (width = 4 ∨ width = 8) → off < 2 ^ 24 →
    (match w with | .port n => n < 2 | .core p => p < 32) →
    ∃ t, exec (.controlRegisterWrite w off width value) s = .next t ∧
      (∀ n, w = .port n → s.ready = false → t = s) ∧
      (∀ n q o, w = .port n → s.ready = true → width = 4 → winBlock off = .partition q o → o < 0x100 →
        ¬(s.semHeld = true ∧ s.semOwner = n) → t = { s with busy := s.busy ++ [(n, off)] }) ∧
      (∀ n q o, w = .port n → s.ready = true → width = 4 → winBlock off = .partition q o → o = 0x130 ∨ o = 0x134 →
        (s.partition q).pcmdBusy = true → t = { s with busy := s.busy ++ [(n, 0x10000 + 0x1000 * q + 0x130)] }) ∧
      (∀ p, w = .core p → width = 4 → s.windowCause p off true ≠ none → t = s) ∧
      (width = 4 → mayWrite s w off → let v := BitVec.ofNat 32 value
        (∀ q o, winBlock off = .partition q o → o ∈ plainPart → PartReads s t q o v) ∧
        (∀ q, winBlock off = .partition q 0x100 → PartReads s t q 0x100 (v &&& 0x1F)) ∧
        (∀ n q o, w = .port n → s.semHeld = true → s.semOwner = n → winBlock off = .partition q o →
          ((∀ x ∈ (s.partition q).ranges.toList, x.1 < 2 ^ 31) →
            atAnyTime o ∨ (whileInactive o ∧ (s.partition q).active = false) → PartReads s t q o (keptBits o v)) ∧
          (whileInactive o → (s.partition q).active = true → t = { s with busy := s.busy ++ [(n, off)] })) ∧
        (∀ i o r, winBlock off = .iface i o → configBits o v = some r →
          (isLocked s (s.iface i) o → IfaceIs s t i (toError (s.iface i) 1)) ∧
          (¬isLocked s (s.iface i) o → (t.iface i).readReg o = r ∧
            (∀ o', o' % 4 = 0 → o' ≠ o → (t.iface i).readReg o' = (s.iface i).readReg o') ∧ IfaceIs s t i (t.iface i))) ∧
        (∀ d, winBlock off = .port d 0 → let p := match w with | .port _ => 0 | .core p => p
          { t with partitions := [] } = { s with partitions := [] } ∧ (∀ q, q ≠ p → t.partition q = s.partition q) ∧
          t.partition p = { s.partition p with arrSel := (t.partition p).arrSel } ∧
          ∀ e, (t.partition p).arrSel[e]?.getD 0 = if e = d then v &&& 0x7FFFFF else (s.partition p).arrSel[e]?.getD 0))) ∧
  (∀ (s : State) w i, i < 4096 → let f := s.iface i
    (mayWrite s w (0x100000 + 128 * i + 4) →
      (∃ t, exec (.ifcmdLock w i) s = .next t ∧ IfaceIs s t i (if f.state = 0 then { f with
        state := 1
        wrIdx := 0
        rdIdx := 0
        everLocked := true } else toError f 2)) ∧
      (∃ t, exec (.ifcmdStart w i) s = .next t ∧ IfaceIs s t i (if f.state = 1 then { f with state := 2 } else toError f 2)) ∧
      (∃ t, exec (.ifcmdStop w i) s = .next t ∧ IfaceIs s t i (if f.state = 3 then { f with
        state := 0
        errCause := 0 } else { f with state := 0 })) ∧
      ∃ t, exec (.ifcmdNone w i) s = .next t ∧ IfaceIs s t i f) ∧
    (mayWrite s w (0x100000 + 128 * i + 0x30) → ∀ n, n < 2 ^ 13 → ∃ t g, exec (.doorbell w i n) s = .next t ∧ IfaceIs s t i g ∧
      (f.state ≠ 2 → g = f) ∧ (f.state = 2 →
        (1 ≤ n ∧ (f.wrIdx + BitVec.ofNat 32 n - f.rdIdx).toNat ≤ f.ringSize →
          g = { f with
                wrIdx := f.wrIdx + BitVec.ofNat 32 n
                waitSince := g.waitSince }) ∧
        (¬(1 ≤ n ∧ (f.wrIdx + BitVec.ofNat 32 n - f.rdIdx).toNat ≤ f.ringSize) → g = toError f 4))) ∧
    (∀ n, w = .port n → n < 2 → s.ready = false → ∀ k, ∀ x ∈ [Instr.ifcmdLock w i, .ifcmdStart w i, .ifcmdStop w i, .ifcmdNone w i, .doorbell w i k],
      exec x s = .next s)) ∧
  (∀ (s : State) w p, p < 32 →
    (mayWrite s w (0x10000 + 0x1000 * p + 0x11C) → ∃ t, exec (.resolve w p) s = .next t ∧
      (s.owed = [] → (t.partition p).faultsPosted = [] ∧ (∀ l, t.byteAt l = s.byteAt l) ∧
        (∀ c e, e ∈ (t.core c).tlb ↔ e ∈ (s.core c).tlb ∧
          ¬(s.inPart p e.launch = true ∧ ∃ v ∈ s.waitingVas p (s.core c), e.va ≤ v ∧ v < e.va + e.size)) ∧
        ∀ c g y, s.group c g = some y → s.inPart p y.launch = true →
          (∃ n, t.group c g = some { y with
            fetchWait := []
            since := n }) ∧ ∀ r ∈ (t.core c).loads, r.slot = g → r.waits = false)) ∧
    (∀ va, mayWrite s w (0x10000 + 0x1000 * p + 0x120) → mayWrite s w (0x10000 + 0x1000 * p + 0x124) →
      ∃ t, exec (.shoot w p va) s = .next t ∧ t.cores = s.cores ∧
        (t.partition p).shoots = (s.partition p).shoots ++ [va % 2 ^ 57 / 65536 * 65536]) ∧
    (mayWrite s w (0x10000 + 0x1000 * p + 0x174) → ∃ t, exec (.mboxinDeliver w p) s = .next t ∧
      (s.mailTarget p = none → (t.partition p).mboxAns = 2 ∧ t.cores = s.cores) ∧
      ∀ c g x, s.mailTarget p = some (c, g, x) →
        if (x.queue 13).length < 8 then (t.partition p).mboxAns = 0 ∧ ∃ y, t.group c g = some y ∧ y = { x with queues := y.queues } ∧
            y.queue 13 = x.queue 13 ++ [((s.partition p).mboxIn[5]?.getD 0) ++ ((s.partition p).mboxIn[4]?.getD 0)] ∧
            ∀ j, j ≠ 13 → y.queue j = x.queue j
        else (t.partition p).mboxAns = 1 ∧ t.cores = s.cores) ∧
    (∀ x ∈ [Instr.resolve w p, .shoot w p 0, .mboxinDeliver w p], ∀ n, w = .port n → n < 2 → s.ready = false → exec x s = .next s)) ∧
  (∀ (s : State) p va rest, let q := s.partition p
    q.shoots = va :: rest → (∀ k ∈ s.cores, ∀ st ∈ k.2.stores, s.inPart p st.launch = true → st.level ≠ 0) →
    ∃ t, exec (.shootdownComplete p) s = .next t ∧ (t.partition p).shoots = rest ∧ (∀ l, t.byteAt l = s.byteAt l) ∧
      ∀ c e, e ∈ (t.core c).tlb ↔ e ∈ (s.core c).tlb ∧ ¬(s.inPart p e.launch = true ∧ e.va ≤ va ∧ va < e.va + e.size)) ∧
  (∀ (s : State) c g x e rest, s.group c g = some x → x.queue 14 = e :: rest →
    let p := s.partOf x.launch
    let q := s.partition p
    g < 32 → q.mboxN ≠ 0 → q.mboxTail - q.mboxHead ≠ q.mboxN → ∃ t, exec (.mailboxOutRecord c g) s = .next t ∧
      (t.partition p).mboxTail = q.mboxTail + 1 ∧ t.group c g = some { x with queues := x.queues.setIfInBounds 14 rest } ∧
      ∀ l, t.byteAt l = (lastStore [mailOf q x.launch (s.blockIndex x.block) x.grp e] l).getD (s.byteAt l)) ∧
  (∀ (s : State) c k o, s.outbox[k]? = some o →
    (∀ m ∈ s.outbox.take k, ¬(m.launch = o.launch ∧ m.index = o.index ∧ m.grp = o.grp)) →
    let q := s.partition o.part
    q.mboxN ≠ 0 → q.mboxTail - q.mboxHead ≠ q.mboxN → ∃ t, exec (.mailboxOutRecord c (32 + k)) s = .next t ∧
      (t.partition o.part).mboxTail = q.mboxTail + 1 ∧ t.outbox = s.outbox.take k ++ s.outbox.drop (k + 1) ∧
      ∀ l, t.byteAt l = (lastStore [mailOf q o.launch o.index o.grp o.entry] l).getD (s.byteAt l)) ∧
  (∀ (s : State) port, port < 2 →
    (s.ready = true → exec (.privsemTake port) s = .next (
      if s.semHeld then (if s.semOwner = port then s else { s with busy := s.busy ++ [(port, 4)] })
      else { s with
             semHeld := true
             semOwner := port }) ∧
      exec (.privsemGive port) s = .next (if s.semHeld = true ∧ s.semOwner = port then { s with semHeld := false }
        else { s with busy := s.busy ++ [(port, 4)] })) ∧
    (s.ready = false → exec (.privsemTake port) s = .next s ∧ exec (.privsemGive port) s = .next s) ∧
    exec (.hostLinkDown port) s = .next (if s.semHeld = true ∧ s.semOwner = port then { s with semHeld := false } else s)) ∧
  (∀ (s : State) port p, port < 2 → p < 32 → let q := s.partition p
    let holds := s.ready = true ∧ s.semHeld = true ∧ s.semOwner = port
    (q.active = false → ∃ t, exec (.partitionCreate port p) s = .next t ∧ (¬holds → t.partitions = s.partitions ∧ ∀ l, t.byteAt l = s.byteAt l) ∧
      (holds → (t.partition p).active = true ∧ (t.partition p).trapVec = q.trapVecP ∧
        (t.partition p).trapPolicy = (q.trapVecP == 0) ∧ (t.partition p).dataLoss = 0 ∧ (t.partition p).corrected = 0 ∧
        (∀ c, if q.clusters.getLsbD (hwCluster c)
          then (t.core c).tlb = [] ∧ (t.core c).icache = [] ∧ (t.core c).tables = [] ∧ (t.core c).snap = [] ∧
              (t.core c).old = [] else t.core c = s.core c) ∧
        (∀ a, inGrant q a → t.byteAt ⟨.chip, a⟩ = 0) ∧ (∀ a, ¬inGrant q a → t.byteAt ⟨.chip, a⟩ = s.byteAt ⟨.chip, a⟩) ∧
        ∀ a, (inRanges q a 1 → t.byteAt ⟨.local, a⟩ = 0) ∧ (¬inRanges q a 1 → t.byteAt ⟨.local, a⟩ = s.byteAt ⟨.local, a⟩))) ∧
    (q.active = true → s.noLaunch p = true → ∃ t, exec (.partitionDissolve port p) s = .next t ∧ (∀ l, t.byteAt l = s.byteAt l) ∧
      if s.ready = true ∧ s.semHeld = true ∧ s.semOwner = port then (t.partition p).active = false else t.partitions = s.partitions)) ∧
  (∀ (s : State) p f rest, let q := s.partition p
    q.faultsWaiting = f :: rest → q.faultTail - q.faultHead ≠ q.faultN → q.faultN ≠ 0 →
    ∃ t, exec (.faultRecordPost p) s = .next t ∧ (t.partition p).faultsWaiting = rest ∧
      (t.partition p).faultTail = q.faultTail + 1 ∧ t.interrupts = s.interrupts ++ [(.fault p, none)] ∧ t.cores = s.cores) ∧
  (∀ (s : State) (acc : HostAccess), ∃ t, exec (.hostMemoryAccess acc) s = .next t ∧
    ((s.ready = false ∨ ∀ x ∈ s.ifaces, ¬(x.2.state = 2 ∧ x.2.pasid = acc.pasid)) → t = { s with dropCnt := satInc s.dropCnt }) ∧
    ∀ i f, s.ready = true → (s.ifaces.find? fun x => x.2.state == 2 && x.2.pasid == acc.pasid) = some (i, f) →
      let at_ := fun j => s.hostPlace i (acc.va + j) (if acc.write then .store else .load)
      ((∀ x ∈ s.partitions, ¬(x.2.active = true ∧ x.2.qifFirst ≤ i ∧ i < x.2.qifFirst + x.2.qifCount)) → ∀ j, at_ j = none) ∧
      ((∃ j, j < acc.data.length ∧ at_ j = none) →
        let u := s.setIface i { s.iface i with
          state := 3
          errCause := 3
          bound := (s.iface i).bound && s.queueRuns i }
        t = if acc.write then u else { u with answers := s.answers ++ [.host acc.pasid (List.replicate acc.data.length 0xFF)] }) ∧
      ((∀ j, j < acc.data.length → at_ j ≠ none) → acc.write = false →
        ∃ bs, t = { s with answers := s.answers ++ [.host acc.pasid bs] } ∧ bs.length = acc.data.length ∧
          ∀ j l, j < acc.data.length → at_ j = some l → bs[j]? = some (s.byteAt l)) ∧
      ∀ b l, acc.data = [b] → at_ 0 = some l → s.Exists l → (∀ n, l.place ≠ .peer n) → s.NoWaiters → acc.write = true →
        ∀ m, t.byteAt m = if m = l then b else s.byteAt m) ∧
  (∀ (s : State) (acc : PeerAccess), 2 ≤ acc.port → acc.port < 8 →
    (∀ aop, acc.atomic = some aop → aop < 15 ∧ acc.data.length = 4 * (if aop < 11 then 1 else if aop < 14 then 2 else 4) ∧
      acc.pa % (if aop < 12 then 4 else 8) = 0) →
    ∃ t, exec (.peerAccess acc) s = .next t ∧
    let n := match acc.atomic with | none => acc.data.length | some aop => if aop < 12 then 4 else 8
    let admits := ∃ q ∈ s.partitions, q.2.active = true ∧ (q.2.peers[acc.port]?.getD 0).getLsbD acc.q = true ∧
      holdsAll q.2 acc.pa n
    let l : Loc := ⟨.local, acc.pa⟩
    (¬(s.ready = true ∧ admits) → t = { s with
      dropCnt := satInc s.dropCnt
      answers := if acc.write = true ∧ acc.atomic = none then s.answers else s.answers ++ [.peer acc.port acc.q none] }) ∧
    (s.ready = true → admits → (acc.atomic = none → if acc.write
        then ∀ m, t.byteAt m = (lastStore [(l, acc.data)] m).getD (s.byteAt m)
        else ∃ bs, t = { s with
            answers := s.answers ++ [.peer acc.port acc.q (some bs)]
            hints := t.hints } ∧ bs.length = n ∧ ∀ j, j < n → bs[j]? = some (s.byteAt (l.add j))) ∧
      ∀ aop, acc.atomic = some aop →
        let x := BitVec.ofNat 64 (leNat (acc.data.take 8))
        let y := BitVec.ofNat 64 (leNat (acc.data.drop 8))
        t.answers = s.answers ++ [.peer acc.port acc.q (some (s.bytesAt l n))] ∧
        ∀ m, t.byteAt m = (lastStore [(l, bytesOf (updated aop (BitVec.ofNat 64 (valueAt s l n)) x y) n)] m).getD (s.byteAt m)))

/-- R180, R188, R189, R353, R382 to R389: bring-up and the loss of power, sensors, errors that scrubbing finds, the commands of
the Stationmaster, its SPDM responses. Readings and choices of the model: a READ_LOG with nothing to return answers
0x8000_0001 (log entry 28), the answers of WRITE_IMAGE and ACTIVATE (log entry 36), the layout of SPDM messages, of which
what no rule gives is a free value (log entries 13 and 18), a removed slice but for the machine error (log entry 66), an
activity limit lowered when the operations fit (log entry 67). -/
def Obligations.ManagementAndAttestation : Prop :=
  (∀ (s : State) r, s.mgr.powered = false → ∃ t, exec (.powerGood r) s = .next t ∧ t.mgr.powered = true ∧
    (s.mgr.rollback = none → t.mgr.dark = true ∧ t.ready = s.ready ∧ t.dies = s.dies) ∧
    ∀ v, s.mgr.rollback = some v →
      let m := s.mgr
      let w := max v (m.slot m.activeB).svn
      let good := fun b => (m.slot b).verified = true ∧ min w 128 ≤ (m.slot b).svn
      let tries := m.pending = true ∧ m.attempts < 3
      t.mgr.roll1 = rollOf w ∧ t.mgr.roll2 = rollOf w ∧
      (tries → t.mgr.attempts = m.attempts + 1 ∧
        if good (!m.activeB) then t.mgr.runningB = (!m.activeB) ∧ t.mgr.pending = true ∧ t.mgr.dark = false
        else t.mgr.runningB = m.activeB ∧ t.mgr.pending = decide (m.attempts + 1 ≠ 3)) ∧
      (¬tries → t.mgr.runningB = m.activeB ∧ t.mgr.pending = false ∧ t.mgr.attempts = m.attempts) ∧
      (¬(tries ∧ good (!m.activeB)) → (t.mgr.dark = true ↔ ¬good m.activeB)) ∧
      (t.mgr.dark = true → t.ready = s.ready ∧ t.merr = s.merr ∧ t.dies = s.dies) ∧
      (t.mgr.dark = false →
        (r.memoryTrained = false → t.merr = true ∧ t.ready = s.ready) ∧
        (r.memoryTrained = true →
          ((∃ d, d < 16 ∧ (t.die d).replaying = true) → t.mgr.bringing = some r.fillOk ∧ t.ready = s.ready ∧ t.merr = s.merr) ∧
          ((∀ d, d < 16 → (t.die d).replaying = false) → t.mgr.bringing = none ∧ t.cores = [] ∧ t.constants = [] ∧ t.chip = [] ∧
            if r.fillOk then t.ready = true ∧ t.merr = s.merr else t.ready = s.ready ∧ t.merr = true)) ∧
        ∀ d, d < 16 →
          let cal := r.calibrationFailed.contains d
          let link := r.memoryTrained && r.linkFailed.contains d
          (t.die d).up = (!cal && !link) ∧
          (t.die d).incarnation = (s.die d).incarnation + 1 + (if cal then 1 else 0) + (if link then 1 else 0) ∧
          (link = false → r.memoryTrained = true → (t.die d).linkUp = true ∧
            if r.linkSlow.contains d then (t.die d).rate = 2 ∧ (t.die d).narrow = 15
            else (t.die d).rate = 0 ∧ (t.die d).narrow = 0))) ∧
  (∀ s : State, s.mgr.powered = true → ∃ t, exec .powerLoss s = .next t ∧ t.mgr.powered = false ∧ t.ready = false ∧ t.cores = [] ∧
    t.layers = s.layers ∧ t.mgr.log = s.mgr.log ∧ t.mgr.certs = s.mgr.certs ∧ t.mgr.slotA = s.mgr.slotA ∧ t.mgr.slotB = s.mgr.slotB ∧
    (s.mgr.raising = none → t.mgr.roll1 = s.mgr.roll1 ∧ t.mgr.roll2 = s.mgr.roll2) ∧
    (∀ v, s.mgr.raising = some v → v ≤ runLength s.mgr.roll1.bits → v ≤ runLength s.mgr.roll2.bits →
      t.mgr.roll1 = s.mgr.roll1 ∧ t.mgr.roll2 = s.mgr.roll2) ∧
    (∀ v, s.mgr.raising = some v →
      let n := s.mgr.raiseBit
      (t.mgr.roll1 = s.mgr.roll1 ∧ t.mgr.roll2 = s.mgr.roll2) ∨ (t.mgr.roll1 = n.roll1 ∧ t.mgr.roll2 = n.roll2) ∨
      (t.mgr.roll1.bits = n.roll1.bits ∧ t.mgr.roll2.bits = n.roll2.bits ∧
        (t.mgr.roll1.clean = true ↔ n.roll1 = s.mgr.roll1 ∧ s.mgr.roll1.clean = true) ∧
        (t.mgr.roll2.clean = true ↔ n.roll2 = s.mgr.roll2 ∧ s.mgr.roll2.clean = true))) ∧
    ∀ d, ((∃ x ∈ s.dies, x.1 = d) → (t.die d).lateAnswers = (s.die d).lateAnswers + s.runningOps d) ∧
      (t.die d).incarnation = (s.die d).incarnation ∧ (t.die d).nextJob = (s.die d).nextJob ∧
      (t.die d).nextRecord = (s.die d).nextRecord ∧ ∀ a, (t.die d).array a = (s.die d).array a) ∧
  (∀ (s : State) k v, 1 ≤ k → k < 34 → (k ≤ 16 → 95 * 8 < v → s.opsOn (k - 1) ≤ max 256 ((s.die (k - 1)).limit - 64)) → ∃ t, exec (.thermalStep k v) s = .next t ∧ tget 0 t.mgr.sensors k = v ∧
    t.mgr.clockSteps = s.mgr.clockSteps + (if 17 ≤ k ∧ k ≤ 20 ∧ 105 * 8 < v then 1 else 0) ∧
    ∀ d, (t.die d).limit = if k ≤ 16 ∧ d = k - 1
      then (if 95 * 8 < v then max 256 ((s.die d).limit - 64)
        else if v < 90 * 8 ∧ (s.die d).limit < 512 then min 512 ((s.die d).limit + 64) else (s.die d).limit)
      else (s.die d).limit) ∧
  (∀ (s : State) e l cached n lost, Struck e l cached n → s.hasPlace l = true → ∃ t, exec (.scrubError e lost) s = .next t ∧
    let kept := cached && !s.dirty.contains (l.off / 256)
    (lost = true → kept = false →
      (∀ q, t.byteAt q = (lastStore [(⟨l.place, l.off / n * n⟩, List.replicate n 0)] q).getD (s.byteAt q)) ∧
      ∃ level place, t.mgr.log = (LogEntry.mk s.mgr.logNext 1 (((s.ownerOf l).map (BitVec.ofNat 32)).getD 0xFFFFFFFF) level place ::
        s.mgr.log).take 65536) ∧
    (lost = false ∨ kept = true → (∀ q, t.byteAt q = s.byteAt q) ∧ t.mgr = s.mgr) ∧
    t.launches = s.launches ∧ ∀ p, s.ownerOf l = some p → ErrorCounted s t p lost kept) ∧
  (∀ (s : State) c g x r lost, s.group c g = some x → plainReg r → ∃ t y, exec (.scrubError (.register c g r) lost) s = .next t ∧
    t.group c g = some y ∧ (∀ r', plainReg r' → regWord y r' = if lost = true ∧ r' = r then 0 else regWord x r') ∧
    (∀ q, t.byteAt q = s.byteAt q) ∧ t.launches = s.launches ∧ ErrorCounted s t (s.partOf x.launch) lost false) ∧
  (∀ (s : State) n isCore, n < (if isCore then 320 else 64) → exec (.scrubError (.metadata n isCore) false) s = .next s ∧
    ∃ t, exec (.scrubError (.metadata n isCore) true) s = .next t ∧ t.merr = true ∧
      t.interrupts = s.interrupts ++ [(.machineError, none)] ∧
      if isCore then t.removedCores = n :: s.removedCores else t.removedSlices = n :: s.removedSlices) ∧
  (∀ (s : State) c, s.mgr.carveTarget = some c → ∃ t, exec .carveoutChangeComplete s = .next t ∧ t.carveout = c ∧
    t.mgr.smAns = 0 ∧ t.mgr.smBusy = false ∧ t.mgr.carveTarget = none ∧
    ∀ q, t.byteAt q = if q.place = .chip ∧ min s.carveout c * 2 ^ 27 ≤ q.off then 0 else s.byteAt q) ∧
  (∀ (s : State) port desc d, s.ready = true → port < 2 → s.mgr.raising = none → s.smDescriptor desc = some d →
    (∀ k i, isSmcmd port desc k i → wordIn d 0 = k → ¬(s.semHeld = true ∧ s.semOwner = port ∧ s.mgr.smBusy = false) →
      exec i s = .next { s with busy := s.busy ++ [(port, 0x10)] }) ∧
    (s.semHeld = true → s.semOwner = port → s.mgr.smBusy = false →
      let m := s.mgr
      let spare := m.slot (!m.activeB)
      (wordIn d 0 = 1 →
        let img := s.bytesAt ⟨.host, dwordIn d 8⟩ (wordIn d 4)
        let ok := Config.digestMatches img && Config.ecdsaVerifies img && Config.lmsVerifies img && decide (Config.imageSvn img ≤ 128)
        exec (.writeImage port desc) s = .next (if m.runningB ≠ m.activeB then smAnswered s 0x80000001
          else smAnswered { s with mgr := m.setSlot (!m.activeB) { svn := Config.imageSvn img, image := img, verified := ok } }
            (if ok then 0 else 0x80000003))) ∧
      (wordIn d 0 = 2 → exec (.activate port desc) s = .next (
        if m.runningB ≠ m.activeB then smAnswered s 0x80000001
        else if spare.verified = false then smAnswered s 0x80000003
        else if spare.svn < m.rollback.getD 0 then smAnswered s 0x80000004
        else smAnswered { s with mgr := { m with
          pending := true
          attempts := 0 } } 0)) ∧
      (wordIn d 0 = 3 → exec (.confirm port desc) s = .next (
        if m.pending = true ∧ m.runningB ≠ m.activeB
        then { s with mgr := { m with
          activeB := m.runningB
          pending := false
          attempts := 0
          smBusy := true
          raising := some (max (m.rollback.getD 0) (m.slot m.runningB).svn) } }
        else smAnswered s 0x80000001)) ∧
      (wordIn d 0 = 4 → ∃ t, exec (.readLog port desc) s = .next t ∧
        let es := (m.log.filter fun e => wordIn d 4 ≤ e.index).reverse.take (wordIn d 24)
        if 1 ≤ wordIn d 24 ∧ wordIn d 24 ≤ 65536 ∧ es ≠ [] then t.mgr.smAns = BitVec.ofNat 32 es.length ∧
          ∀ q, t.byteAt q = (lastStore [(⟨.host, dwordIn d 8⟩, es.flatMap LogEntry.bytes)] q).getD (s.byteAt q)
        else t = smAnswered s 0x80000001) ∧
      (wordIn d 0 = 5 → ∃ t, exec (.spdm port desc) s = .next t ∧
        t = s.respond { route := .host port, request := s.bytesAt ⟨.host, dwordIn d 8⟩ (wordIn d 4), buffer := dwordIn d 16 }) ∧
      (wordIn d 0 = 6 → exec (.setCert port desc) s = .next (
        if wordIn d 4 = 0 ∨ 8 ≤ wordIn d 4 then smAnswered s 0x80000001
        else if m.challenges.any (·.1 == wordIn d 4) then smAnswered s 0x80000002
        else smAnswered { s with mgr := { m with
          certs := tput m.certs (wordIn d 4) (s.bytesAt ⟨.host, dwordIn d 8⟩ (wordIn d 24)) } } 0)) ∧
      (wordIn d 0 = 7 → ∃ t, exec (.readSensors port desc) s = .next t ∧ t.mgr = { m with
          smAns := 0
          smBusy := false } ∧
        (∀ q, ¬within ⟨.host, dwordIn d 8⟩ 256 q → t.byteAt q = s.byteAt q) ∧
        ∀ i, i < 64 → t.wordAt ⟨.host, dwordIn d 8 + 4 * i⟩ =
          if i = 0 then 33 else if i ≤ 33 then BitVec.ofInt 32 (tget 0 m.sensors i) else 0) ∧
      (wordIn d 0 = 8 → exec (.setCarveout port desc) s = .next (
        if 8 < wordIn d 4 then smAnswered s 0x80000001
        else if s.carveRefused (wordIn d 4) then smAnswered s 0x80000005
        else { s with mgr := { m with
          carveTarget := some (wordIn d 4)
          smBusy := true } })))) ∧
  (∀ (s : State) port desc v, s.mgr.raising = some v →
    let m := s.mgr
    let n1 := runLength m.roll1.bits
    let n2 := runLength m.roll2.bits
    exec (.confirm port desc) s = .next (
      if v ≤ n1 ∧ v ≤ n2 then smAnswered { s with mgr := { m with raising := none } } 0
      else if n1 ≤ n2 then { s with mgr := { m with roll1 := rollOf (n1 + 1) } }
      else { s with mgr := { m with roll2 := rollOf (n2 + 1) } })) ∧
  (∀ (s : State) (r : SpdmRequest) code i, isSpdm r code i →
    (¬(routeFree s r ∧ codeOf (messageOf s r) = code) → exec i s = .fault .notEnabled) ∧
    (routeFree s r → codeOf (messageOf s r) = code → exec i s = .next (s.respond r))) ∧
  (∀ (s : State) (r : SpdmRequest),
    let m := messageOf s r
    let secret := routeSecret s r
    let t := s.respond r
    let code := codeOf m
    let blocks := measurements s.mgr
    (∀ k ∈ [(0x84, ([] : List Byte)), (0xE1, []), (0x81, s.mgr.certs.flatMap fun c => Config.sha384 c.2)],
      code = k.1 → Responded s t r (respOf s r k.2) ∧ t.mgr.challenges = s.mgr.challenges) ∧
    (code = 0xE3 → Responded s t r (sealedReply s r (algorithms m (selectedStructs (m.getD 2 0).toNat
      (m.drop (32 + 4 * ((m.getD 28 0).toNat + (m.getD 29 0).toNat))))))) ∧
    (code = 0xE0 → let op := (m.getD 3 0).toNat
      let record := fun (bs : List (List Byte)) => sealedReply s r ([0x13, 0x60, if op = 0 then 4 else 0, 0, BitVec.ofNat 8 bs.length] ++
        bytesOf (BitVec.ofNat 24 bs.flatten.length) 3 ++ bs.flatten ++ Config.spdmBody m blocks.flatten)
      (op = 0 → Responded s t r (record [])) ∧ (op = 0xFF → Responded s t r (record blocks)) ∧
      (∀ b, 1 ≤ op → blocks[op - 1]? = some b → Responded s t r (record [b])) ∧
      (5 ≤ op → op ≠ 0xFF → Responded s t r (spdmErrorOf s r 0x01 0))) ∧
    (code = 0x82 →
      let slot := (m.getD 2 0).toNat % 16
      let half := fun i => (m.getD i 0).toNat + 256 * (m.getD (i + 1) 0).toNat
      let now := tget [] s.mgr.certs slot
      let chain := match s.mgr.certReads.find? fun x => x.1 == r.route && x.2.1 == slot with
        | some x => if half 4 = 0 then now else x.2.2
        | none => now
      let portion := (chain.drop (half 4)).take (min (half 6) 4032)
      (chain.length ≤ half 4 → Responded s t r (spdmErrorOf s r 0x01 0)) ∧
      (half 4 < chain.length → Responded s t r (sealedReply s r ([0x13, 0x02, BitVec.ofNat 8 slot, 0] ++
          bytesOf (BitVec.ofNat 16 portion.length) 2 ++ bytesOf (BitVec.ofNat 16 (chain.length - half 4 - portion.length)) 2 ++ portion)) ∧
        (r.route, slot, chain) ∈ t.mgr.certReads)) ∧
    (code = 0xE4 → Responded s t r (respOf s r blocks.flatten) ∧ SessionIs t r false (Config.sessionSecret s.freeCtr m)) ∧
    (code = 0xE5 → ((opened s r).isSome = true → Responded s t r (respOf s r secret) ∧ SessionIs t r true secret) ∧
      (opened s r = none → Responded s t r (spdmErrorOf s r 0x04 0) ∧ t.mgr.hostSecret = s.mgr.hostSecret)) ∧
    (code = 0xE9 ∨ code = 0xE8 ∨ code = 0xEC →
      ((opened s r).isSome = true → SessionIs s r true secret → Responded s t r (respOf s r secret) ∧
        if code = 0xEC then SessionIs t r false [] else SessionIs t r true secret) ∧
      (opened s r = none ∨ SessionIs s r false secret → Responded s t r (spdmErrorOf s r 0x04 0))) ∧
    (code = 0x83 → (∀ l, t.byteAt l = s.byteAt l) ∧ t.mgr.challenges = s.mgr.challenges ++ [((m.getD 2 0).toNat % 16, r)] ∧
      match r.route with | .host _ => t.mgr.smBusy = true | .partition p => (t.partition p).pcmdBusy = true) ∧
    ((∀ i, ¬isSpdm r code i) → Responded s t r (spdmErrorOf s r 0x07 code))) ∧
  (∀ (s : State) slot r rest, s.mgr.challenges = (slot, r) :: rest → ∃ t v, exec .challengeTimeout s = .next t ∧
    t.mgr.challenges = rest ∧ (∀ l, t.byteAt l = s.byteAt l) ∧
    match r.route with
    | .host _ => t.mgr.smBusy = false ∧ t.mgr.smAns = v
    | .partition p => (t.partition p).pcmdBusy = false ∧ (t.partition p).pcmdAns = v)

/-- R262, R295, R358, R365, R370, R371: the commands of a partition and their answers. HKDF-Expand and key unwrap are those of
RFC 5869 and RFC 3394 over uninterpreted SHA-384 and AES (log entry 13). That RETIRE_LAYER of an unknown layer answers
0x8000_0001 is the model's choice (log entry 28). -/
def Obligations.PartitionCommands : Prop :=
  ∀ (s : State) w p desc d, s.ready = true → commander w p → s.descriptor p desc = some d →
    (∀ k i, isPcmd w p desc k i → wordIn d 0 = k → (s.partition p).pcmdBusy = true → exec i s = .next (
      match w with
      | .port n => { s with busy := s.busy ++ [(n, 0x10000 + 0x1000 * p + 0x130)] }
      | .core _ => s)) ∧
    ((s.partition p).pcmdBusy = false →
      let q := s.partition p
      let free := fun (h : Nat) => ∃ k ∈ s.keys, k.handle = h ∧ k.part = p ∧ k.bound = none
      (wordIn d 0 = 1 → ∃ t, exec (.pcmdCreateKeyHandle w p desc) s = .next t ∧
        (s.partBytes p (dwordIn d 8) 96 = none → t = pcmdAnswered s p 0x80000001) ∧
        ∀ blob, s.partBytes p (dwordIn d 8) 96 = some blob →
          (q.sessionOpen = false → t = pcmdAnswered s p 0x80000003) ∧
          let key := hkdfExpand q.sessionSecret [0x7A, 0x68, 0x6D, 0x20, 0x77, 0x72, 0x61, 0x70, BitVec.ofNat 8 p] 32
          (q.sessionOpen = true → keyUnwrap key blob = none → t = pcmdAnswered s p 0x80000003) ∧
          ∀ keys h, q.sessionOpen = true → keyUnwrap key blob = some keys → s.freeHandle = some h →
            t.keys = s.keys ++ [{ handle := h, part := p, blob := keys, bound := none }] ∧
            (∀ k ∈ s.keys, k.handle ≠ h) ∧ 1 ≤ h ∧ h ≤ 0xFFFF ∧
            t.partition p = { q with
              pcmdAns := BitVec.ofNat 32 h
              pcmdBusy := false }) ∧
      (wordIn d 0 = 2 → ∃ t, exec (.pcmdBindKeyHandle w p desc) s = .next t ∧
        let h := wordIn d 4
        let base := dwordIn d 8
        let len := wordIn d 16 * 65536
        let good := free h ∧ base % 65536 = 0 ∧ len ≠ 0 ∧ holdsAll q base len
        (good → t = pcmdAnswered { s with keys := s.keys.map fun k => if k.handle = h then { k with bound := some (base, len) } else k } p 0) ∧
        (¬good → t = pcmdAnswered s p 0x80000001)) ∧
      (wordIn d 0 = 3 → ∃ t, exec (.pcmdDestroyKeyHandle w p desc) s = .next t ∧
        (free (wordIn d 4) → t = pcmdAnswered { s with keys := s.keys.filter fun k => k.handle ≠ wordIn d 4 } p 0) ∧
        (¬free (wordIn d 4) → t = pcmdAnswered s p 0x80000001)) ∧
      (wordIn d 0 = 4 → ∃ t, exec (.pcmdCreateCollective w p desc) s = .next t ∧
        ∀ cb sb, wordIn d 0x10 ≤ 4096 → wordIn d 0x1C ≤ 4096 → s.partBytes p (dwordIn d 0x20) (4 * wordIn d 0x10) = some cb →
          s.partBytes p (dwordIn d 0x28) (8 * wordIn d 0x1C) = some sb →
          let cs := contributorsOf cb (wordIn d 0x10)
          let ss := stationsOf sb (wordIn d 0x1C)
          let good := collectiveOk (wordIn d 4) (wordIn d 0x10) (wordIn d 0x14) (wordIn d 0x18) (wordIn d 0x1C) cs ss = true ∧
            ∀ i, 0x30 ≤ i → i < 0x40 → d.getD i 0 = 0
          (¬good → t = pcmdAnswered s p 0x80000001) ∧
          (good → 256 ≤ s.collectives.length → t = pcmdAnswered s p 0x80000002) ∧
          (good → s.collectives.length < 256 → (t.partition p).pcmdAns = BitVec.ofNat 32 s.nextCollective ∧
            ∃ c, t.collectives = s.collectives ++ [c] ∧ c =
              { part := p, handle := (BitVec.ofNat 64 (dwordIn d 8)).setWidth 32 ++ BitVec.ofNat 32 s.nextCollective,
                id := BitVec.ofNat 64 (dwordIn d 8), module := wordIn d 4, n := wordIn d 0x10, bytes := wordIn d 0x14,
                op := wordIn d 0x18, contributors := cs, stations := ss, destroying := false })) ∧
      (wordIn d 0 = 5 → ∃ t, exec (.pcmdDestroyCollective w p desc) s = .next t ∧
        let named := fun (c : Collective) => c.handle == BitVec.ofNat 64 (dwordIn d 8) && c.part == p
        (s.collectives.any named = false → t = pcmdAnswered s p 0x80000001) ∧
        (s.collectives.any named = true → NoneEnding s → (∀ c ∈ s.collectives, named c = true → s.roundOpen c = false) →
          t.collectives = s.collectives.filter (fun c => !named c) ∧ (t.partition p).pcmdAns = 0 ∧ (t.partition p).pcmdBusy = false) ∧
        (s.collectives.any named = true → NoneEnding s → (∀ c ∈ s.collectives, named c = true → s.roundOpen c = true) →
          (t.partition p).pcmdBusy = true)) ∧
      (wordIn d 0 = 6 → ∃ t, exec (.pcmdDefineLayer w p desc) s = .next t ∧
        (q.operator = false → t = pcmdAnswered s p 0x80000004) ∧
        ∀ ab sb, q.operator = true → wordIn d 4 < 16 → layerDim (wordIn d 0xC) = true → layerDim (wordIn d 0x10) = true →
          wordIn d 0x14 = 0 → dwordIn d 0x18 % 4 = 0 → dwordIn d 0x20 % 4 = 0 → zeroIn d 0x28 24 = true →
          let na := wordIn d 0xC / 1024 * (wordIn d 0x10 / 512)
          let ns := wordIn d 0xC / 1024 * (wordIn d 0x10 / 1024)
          s.partBytes p (dwordIn d 0x18) (4 * na) = some ab → s.partBytes p (dwordIn d 0x20) (4 * ns) = some sb →
          let arrays := wordsIn ab na
          let scales := wordsIn sb ns
          let good := (∀ a ∈ arrays, a < 65536) ∧ arrays.Nodup ∧ (∀ x ∈ scales, finiteNonzero x = true) ∧
            ∀ l ∈ s.layers, l.die = wordIn d 4 → ∀ a ∈ l.arrays, a ∉ arrays
          (¬good → t = pcmdAnswered s p 0x80000001) ∧
          (good → (∃ l ∈ s.layers, l.handle = wordIn d 8) → t = pcmdAnswered s p 0x80000003) ∧
          (good → (∀ l ∈ s.layers, l.handle ≠ wordIn d 8) → t = pcmdAnswered { s with layers := s.layers ++
            [{ handle := wordIn d 8, die := wordIn d 4, nIn := wordIn d 0xC, nOut := wordIn d 0x10, arrays := arrays,
               scales := scales.map (BitVec.ofNat 32) }] } p 0)) ∧
      (wordIn d 0 = 7 → exec (.pcmdRetireLayer w p desc) s = .next (
        if q.operator = false then pcmdAnswered s p 0x80000004
        else if s.layers.any (·.handle == wordIn d 8)
          then pcmdAnswered { s with layers := s.layers.filter fun l => l.handle ≠ wordIn d 8 } p 0
        else pcmdAnswered s p 0x80000001)) ∧
      (wordIn d 0 = 8 → ∃ t, exec (.pcmdSpdm w p desc) s = .next t ∧
        (s.partBytes p (dwordIn d 8) (wordIn d 4) = none → t = pcmdAnswered s p 0x80000001) ∧
        ∀ req, s.partBytes p (dwordIn d 8) (wordIn d 4) = some req →
          t = s.respond { route := .partition p, request := req, buffer := dwordIn d 0x10 }))
end

