-- ==== Sys2Proof/Laws/Tbl.lean ====
section
/-! SUPPORT. Laws of sparse tables and of byte memory: reading after a write, and that every write keeps
the canonical form. -/

namespace Sys2Proof.Machine

section
variable {α : Type}

@[simp] theorem tget_nil (d : α) (k : Nat) : tget d [] k = d := rfl

theorem tget_tput (d : α) (t : Tbl α) (k j : Nat) (v : α) :
    tget d (tput t k v) j = if k = j then v else tget d t j := by
  induction t with
  | nil => simp [tput, tget]
  | cons p t ih =>
    obtain ⟨i, a⟩ := p
    simp only [tput]
    split
    · subst_vars; simp only [tget]; split <;> rfl
    · simp only [tget, ih]; split
      · subst_vars; simp_all; intro h; exact absurd h.symm ‹_›
      · rfl

@[simp] theorem tget_tput_same (d : α) (t : Tbl α) (k : Nat) (v : α) : tget d (tput t k v) k = v := by
  simp [tget_tput]

theorem tget_tput_ne (d : α) (t : Tbl α) {k j : Nat} (v : α) (h : k ≠ j) :
    tget d (tput t k v) j = tget d t j := by simp [tget_tput, h]

@[simp] theorem tput_tput (t : Tbl α) (k : Nat) (v w : α) : tput (tput t k v) k w = tput t k w := by
  induction t with
  | nil => simp [tput]
  | cons p t ih =>
    obtain ⟨i, a⟩ := p
    simp only [tput]
    split
    · simp [tput]
    · simp_all [tput]

end

/-! ## Bytes -/

@[simp] theorem mget_nil (a : Nat) : mget [] a = unwritten := rfl

theorem wfFrom_mono {m : Mem} {lo lo' : Nat} (h : lo' ≤ lo) (w : wfFrom lo m = true) : wfFrom lo' m = true := by
  cases m with
  | nil => rfl
  | cons p m => obtain ⟨j, b⟩ := p; simp [wfFrom] at w ⊢; exact ⟨⟨by omega, w.1.2⟩, w.2⟩

theorem mget_below {m : Mem} {lo a : Nat} (w : wfFrom lo m = true) (h : a < lo) : mget m a = unwritten := by
  induction m generalizing lo with
  | nil => rfl
  | cons p m ih =>
    obtain ⟨j, b⟩ := p
    simp [wfFrom] at w
    have : j ≠ a := by omega
    simp [mget, this]
    exact ih w.2 (by omega)

theorem wfFrom_mins {m : Mem} {lo : Nat} (a : Nat) (b : Byte) (hb : b ≠ unwritten) (w : wfFrom lo m = true) (h : lo ≤ a) :
    wfFrom lo (mins m a b) = true := by
  induction m generalizing lo with
  | nil => simp_all [mins, wfFrom]
  | cons p m ih =>
    obtain ⟨j, c⟩ := p
    simp [wfFrom] at w
    simp only [mins]
    split
    · subst_vars; simp_all [wfFrom]
    · split
      · simp_all [wfFrom] <;> omega
      · simp [wfFrom, w]
        exact ih w.2 (by omega)

theorem wfFrom_tdel {m : Mem} {lo : Nat} (a : Nat) (w : wfFrom lo m = true) : wfFrom lo (tdel m a) = true := by
  induction m generalizing lo with
  | nil => rfl
  | cons p m ih =>
    obtain ⟨j, c⟩ := p
    simp [wfFrom] at w
    simp only [tdel]
    split
    · exact wfFrom_mono (by omega) (ih w.2)
    · simp [wfFrom, w, ih w.2]

/-- A write keeps the canonical form. -/
theorem Memory.wf_mput {m : Mem} (a : Nat) (b : Byte) (w : Memory.wf m = true) : Memory.wf (mput m a b) = true :=
  by unfold mput; split
     · exact wfFrom_tdel a w
     · exact wfFrom_mins a b ‹_› w (Nat.zero_le a)

theorem Memory.wf_mputs {m : Mem} (a : Nat) (bs : List Byte) (w : Memory.wf m = true) :
    Memory.wf (mputs m a bs) = true := by
  induction bs generalizing m a with
  | nil => exact w
  | cons b bs ih => exact ih _ (Memory.wf_mput a b w)

theorem wfFrom_filter {m : Mem} {lo : Nat} (p : Host.Cell → Bool) (w : wfFrom lo m = true) :
    wfFrom lo (m.filter p) = true := by
  induction m generalizing lo with
  | nil => rfl
  | cons q m ih =>
    obtain ⟨j, b⟩ := q
    simp [wfFrom] at w
    simp only [List.filter_cons]
    split
    · simp [wfFrom, w, ih w.2]
    · exact wfFrom_mono (by omega) (ih w.2)

/-- Dropping entries keeps the canonical form. -/
theorem Memory.wf_filter {m : Mem} (p : Host.Cell → Bool) (w : Memory.wf m = true) : Memory.wf (m.filter p) = true :=
  wfFrom_filter p w

@[simp] theorem Memory.wf_nil : Memory.wf [] = true := rfl

theorem mget_tdel (m : Mem) (a b : Nat) : mget (tdel m a) b = if a = b then unwritten else mget m b := by
  induction m with
  | nil => simp [tdel, mget]
  | cons p m ih =>
    obtain ⟨j, c⟩ := p
    by_cases h : j = a
    · subst h; simp only [tdel, if_true, ih, mget]; split <;> simp_all
    · simp only [tdel, h, if_false, mget, ih]; split <;> simp_all
      intro e; exact absurd e.symm h

theorem mget_mins (m : Mem) (a b : Nat) (v : Byte) : mget (mins m a v) b = if a = b then v else mget m b := by
  induction m with
  | nil => simp [mins, mget]
  | cons p m ih =>
    obtain ⟨j, c⟩ := p
    by_cases h : j = a
    · subst h; simp only [mins, if_true, mget]; split <;> simp_all
    · by_cases h2 : a < j
      · simp [mins, h, h2, mget]
      · simp only [mins, h, h2, if_false, mget, ih]; split <;> simp_all
        intro e; exact absurd e.symm h

/-- A read after a write: the byte written at its address, and every other byte as it was. -/
@[simp] theorem mget_mput (m : Mem) (a b : Nat) (v : Byte) : mget (mput m a v) b = if a = b then v else mget m b := by
  unfold mput; split <;> simp_all [mget_tdel, mget_mins]

end Sys2Proof.Machine
end

