-- ==== Sys2Proof/Laws/State.lean ====
section
/-! SUPPORT. Each update of the state, of a core, a group and a thread, field by field: what it writes reads
back, every other field is as it was. -/

namespace Sys2Proof.Machine

/-! ## The module -/

@[simp] theorem State.setCore_blocks (s : State) (c : Nat) (k : Core) : (s.setCore c k).blocks = s.blocks := (rfl)
@[simp] theorem State.setCore_nextBlock (s : State) (c : Nat) (k : Core) : (s.setCore c k).nextBlock = s.nextBlock := (rfl)
@[simp] theorem State.setCore_nextCluster (s : State) (c : Nat) (k : Core) : (s.setCore c k).nextCluster = s.nextCluster := (rfl)
@[simp] theorem State.setCore_launches (s : State) (c : Nat) (k : Core) : (s.setCore c k).launches = s.launches := (rfl)
@[simp] theorem State.setCore_nextLaunch (s : State) (c : Nat) (k : Core) : (s.setCore c k).nextLaunch = s.nextLaunch := (rfl)
@[simp] theorem State.setCore_saved (s : State) (c : Nat) (k : Core) : (s.setCore c k).saved = s.saved := (rfl)
@[simp] theorem State.setCore_partitions (s : State) (c : Nat) (k : Core) : (s.setCore c k).partitions = s.partitions := (rfl)
@[simp] theorem State.setCore_ifaces (s : State) (c : Nat) (k : Core) : (s.setCore c k).ifaces = s.ifaces := (rfl)
@[simp] theorem State.setCore_layers (s : State) (c : Nat) (k : Core) : (s.setCore c k).layers = s.layers := (rfl)
@[simp] theorem State.setCore_dies (s : State) (c : Nat) (k : Core) : (s.setCore c k).dies = s.dies := (rfl)
@[simp] theorem State.setCore_mem (s : State) (c : Nat) (k : Core) : (s.setCore c k).mem = s.mem := (rfl)
@[simp] theorem State.setCore_hostMem (s : State) (c : Nat) (k : Core) : (s.setCore c k).hostMem = s.hostMem := (rfl)
@[simp] theorem State.setCore_peerMem (s : State) (c : Nat) (k : Core) : (s.setCore c k).peerMem = s.peerMem := (rfl)
@[simp] theorem State.setCore_chip (s : State) (c : Nat) (k : Core) : (s.setCore c k).chip = s.chip := (rfl)
@[simp] theorem State.setCore_hints (s : State) (c : Nat) (k : Core) : (s.setCore c k).hints = s.hints := (rfl)
@[simp] theorem State.setCore_carveout (s : State) (c : Nat) (k : Core) : (s.setCore c k).carveout = s.carveout := (rfl)
@[simp] theorem State.setCore_drains (s : State) (c : Nat) (k : Core) : (s.setCore c k).drains = s.drains := (rfl)
@[simp] theorem State.setCore_consists (s : State) (c : Nat) (k : Core) : (s.setCore c k).consists = s.consists := (rfl)
@[simp] theorem State.setCore_consistReqs (s : State) (c : Nat) (k : Core) : (s.setCore c k).consistReqs = s.consistReqs := (rfl)
@[simp] theorem State.setCore_launchReqs (s : State) (c : Nat) (k : Core) : (s.setCore c k).launchReqs = s.launchReqs := (rfl)
@[simp] theorem State.setCore_nextReq (s : State) (c : Nat) (k : Core) : (s.setCore c k).nextReq = s.nextReq := (rfl)
@[simp] theorem State.setCore_waitingEntries (s : State) (c : Nat) (k : Core) : (s.setCore c k).waitingEntries = s.waitingEntries := (rfl)
@[simp] theorem State.setCore_rounds (s : State) (c : Nat) (k : Core) : (s.setCore c k).rounds = s.rounds := (rfl)
@[simp] theorem State.setCore_packets (s : State) (c : Nat) (k : Core) : (s.setCore c k).packets = s.packets := (rfl)
@[simp] theorem State.setCore_sent (s : State) (c : Nat) (k : Core) : (s.setCore c k).sent = s.sent := (rfl)
@[simp] theorem State.setCore_rootRecords (s : State) (c : Nat) (k : Core) : (s.setCore c k).rootRecords = s.rootRecords := (rfl)
@[simp] theorem State.setCore_keys (s : State) (c : Nat) (k : Core) : (s.setCore c k).keys = s.keys := (rfl)
@[simp] theorem State.setCore_nextKey (s : State) (c : Nat) (k : Core) : (s.setCore c k).nextKey = s.nextKey := (rfl)
@[simp] theorem State.setCore_collectives (s : State) (c : Nat) (k : Core) : (s.setCore c k).collectives = s.collectives := (rfl)
@[simp] theorem State.setCore_nextCollective (s : State) (c : Nat) (k : Core) : (s.setCore c k).nextCollective = s.nextCollective := (rfl)
@[simp] theorem State.setCore_ready (s : State) (c : Nat) (k : Core) : (s.setCore c k).ready = s.ready := (rfl)
@[simp] theorem State.setCore_merr (s : State) (c : Nat) (k : Core) : (s.setCore c k).merr = s.merr := (rfl)
@[simp] theorem State.setCore_semHeld (s : State) (c : Nat) (k : Core) : (s.setCore c k).semHeld = s.semHeld := (rfl)
@[simp] theorem State.setCore_semOwner (s : State) (c : Nat) (k : Core) : (s.setCore c k).semOwner = s.semOwner := (rfl)
@[simp] theorem State.setCore_dropCnt (s : State) (c : Nat) (k : Core) : (s.setCore c k).dropCnt = s.dropCnt := (rfl)
@[simp] theorem State.setCore_mgr (s : State) (c : Nat) (k : Core) : (s.setCore c k).mgr = s.mgr := (rfl)
@[simp] theorem State.setCore_owned (s : State) (c : Nat) (k : Core) : (s.setCore c k).owned = s.owned := (rfl)
@[simp] theorem State.setCore_removedSlices (s : State) (c : Nat) (k : Core) : (s.setCore c k).removedSlices = s.removedSlices := (rfl)
@[simp] theorem State.setCore_removedCores (s : State) (c : Nat) (k : Core) : (s.setCore c k).removedCores = s.removedCores := (rfl)
@[simp] theorem State.setCore_interrupts (s : State) (c : Nat) (k : Core) : (s.setCore c k).interrupts = s.interrupts := (rfl)
@[simp] theorem State.setCore_busy (s : State) (c : Nat) (k : Core) : (s.setCore c k).busy = s.busy := (rfl)
@[simp] theorem State.setCore_tick (s : State) (c : Nat) (k : Core) : (s.setCore c k).tick = s.tick := (rfl)
@[simp] theorem State.setCore_sliceOwner (s : State) (c : Nat) (k : Core) : (s.setCore c k).sliceOwner = s.sliceOwner := (rfl)
@[simp] theorem State.setCore_order (s : State) (c : Nat) (k : Core) : (s.setCore c k).order = s.order := (rfl)
@[simp] theorem State.setCore_freeCtr (s : State) (c : Nat) (k : Core) : (s.setCore c k).freeCtr = s.freeCtr := (rfl)
@[simp] theorem State.setCore_focus (s : State) (c : Nat) (k : Core) : (s.setCore c k).focus = s.focus := (rfl)
@[simp] theorem State.setCore_agenda (s : State) (c : Nat) (k : Core) : (s.setCore c k).agenda = s.agenda := (rfl)
@[simp] theorem State.setCore_constants (s : State) (c : Nat) (k : Core) : (s.setCore c k).constants = s.constants := (rfl)
@[simp] theorem State.setCore_constantsOld (s : State) (c : Nat) (k : Core) : (s.setCore c k).constantsOld = s.constantsOld := (rfl)
@[simp] theorem State.setCore_credits (s : State) (c : Nat) (k : Core) : (s.setCore c k).credits = s.credits := (rfl)
@[simp] theorem State.setCore_owed (s : State) (c : Nat) (k : Core) : (s.setCore c k).owed = s.owed := (rfl)
@[simp] theorem State.setCore_outbox (s : State) (c : Nat) (k : Core) : (s.setCore c k).outbox = s.outbox := (rfl)
@[simp] theorem State.setCore_dirty (s : State) (c : Nat) (k : Core) : (s.setCore c k).dirty = s.dirty := (rfl)
@[simp] theorem State.setCore_emitted (s : State) (c : Nat) (k : Core) : (s.setCore c k).emitted = s.emitted := (rfl)
@[simp] theorem State.setCore_answers (s : State) (c : Nat) (k : Core) : (s.setCore c k).answers = s.answers := (rfl)

@[simp] theorem State.setGroup_blocks (s : State) (c g : Nat) (x : Group) : (s.setGroup c g x).blocks = s.blocks := (rfl)
@[simp] theorem State.setGroup_nextBlock (s : State) (c g : Nat) (x : Group) : (s.setGroup c g x).nextBlock = s.nextBlock := (rfl)
@[simp] theorem State.setGroup_nextCluster (s : State) (c g : Nat) (x : Group) : (s.setGroup c g x).nextCluster = s.nextCluster := (rfl)
@[simp] theorem State.setGroup_launches (s : State) (c g : Nat) (x : Group) : (s.setGroup c g x).launches = s.launches := (rfl)
@[simp] theorem State.setGroup_nextLaunch (s : State) (c g : Nat) (x : Group) : (s.setGroup c g x).nextLaunch = s.nextLaunch := (rfl)
@[simp] theorem State.setGroup_saved (s : State) (c g : Nat) (x : Group) : (s.setGroup c g x).saved = s.saved := (rfl)
@[simp] theorem State.setGroup_partitions (s : State) (c g : Nat) (x : Group) : (s.setGroup c g x).partitions = s.partitions := (rfl)
@[simp] theorem State.setGroup_ifaces (s : State) (c g : Nat) (x : Group) : (s.setGroup c g x).ifaces = s.ifaces := (rfl)
@[simp] theorem State.setGroup_layers (s : State) (c g : Nat) (x : Group) : (s.setGroup c g x).layers = s.layers := (rfl)
@[simp] theorem State.setGroup_dies (s : State) (c g : Nat) (x : Group) : (s.setGroup c g x).dies = s.dies := (rfl)
@[simp] theorem State.setGroup_mem (s : State) (c g : Nat) (x : Group) : (s.setGroup c g x).mem = s.mem := (rfl)
@[simp] theorem State.setGroup_hostMem (s : State) (c g : Nat) (x : Group) : (s.setGroup c g x).hostMem = s.hostMem := (rfl)
@[simp] theorem State.setGroup_peerMem (s : State) (c g : Nat) (x : Group) : (s.setGroup c g x).peerMem = s.peerMem := (rfl)
@[simp] theorem State.setGroup_chip (s : State) (c g : Nat) (x : Group) : (s.setGroup c g x).chip = s.chip := (rfl)
@[simp] theorem State.setGroup_hints (s : State) (c g : Nat) (x : Group) : (s.setGroup c g x).hints = s.hints := (rfl)
@[simp] theorem State.setGroup_carveout (s : State) (c g : Nat) (x : Group) : (s.setGroup c g x).carveout = s.carveout := (rfl)
@[simp] theorem State.setGroup_drains (s : State) (c g : Nat) (x : Group) : (s.setGroup c g x).drains = s.drains := (rfl)
@[simp] theorem State.setGroup_consists (s : State) (c g : Nat) (x : Group) : (s.setGroup c g x).consists = s.consists := (rfl)
@[simp] theorem State.setGroup_consistReqs (s : State) (c g : Nat) (x : Group) : (s.setGroup c g x).consistReqs = s.consistReqs := (rfl)
@[simp] theorem State.setGroup_launchReqs (s : State) (c g : Nat) (x : Group) : (s.setGroup c g x).launchReqs = s.launchReqs := (rfl)
@[simp] theorem State.setGroup_nextReq (s : State) (c g : Nat) (x : Group) : (s.setGroup c g x).nextReq = s.nextReq := (rfl)
@[simp] theorem State.setGroup_waitingEntries (s : State) (c g : Nat) (x : Group) : (s.setGroup c g x).waitingEntries = s.waitingEntries := (rfl)
@[simp] theorem State.setGroup_rounds (s : State) (c g : Nat) (x : Group) : (s.setGroup c g x).rounds = s.rounds := (rfl)
@[simp] theorem State.setGroup_packets (s : State) (c g : Nat) (x : Group) : (s.setGroup c g x).packets = s.packets := (rfl)
@[simp] theorem State.setGroup_sent (s : State) (c g : Nat) (x : Group) : (s.setGroup c g x).sent = s.sent := (rfl)
@[simp] theorem State.setGroup_rootRecords (s : State) (c g : Nat) (x : Group) : (s.setGroup c g x).rootRecords = s.rootRecords := (rfl)
@[simp] theorem State.setGroup_keys (s : State) (c g : Nat) (x : Group) : (s.setGroup c g x).keys = s.keys := (rfl)
@[simp] theorem State.setGroup_nextKey (s : State) (c g : Nat) (x : Group) : (s.setGroup c g x).nextKey = s.nextKey := (rfl)
@[simp] theorem State.setGroup_collectives (s : State) (c g : Nat) (x : Group) : (s.setGroup c g x).collectives = s.collectives := (rfl)
@[simp] theorem State.setGroup_nextCollective (s : State) (c g : Nat) (x : Group) : (s.setGroup c g x).nextCollective = s.nextCollective := (rfl)
@[simp] theorem State.setGroup_ready (s : State) (c g : Nat) (x : Group) : (s.setGroup c g x).ready = s.ready := (rfl)
@[simp] theorem State.setGroup_merr (s : State) (c g : Nat) (x : Group) : (s.setGroup c g x).merr = s.merr := (rfl)
@[simp] theorem State.setGroup_semHeld (s : State) (c g : Nat) (x : Group) : (s.setGroup c g x).semHeld = s.semHeld := (rfl)
@[simp] theorem State.setGroup_semOwner (s : State) (c g : Nat) (x : Group) : (s.setGroup c g x).semOwner = s.semOwner := (rfl)
@[simp] theorem State.setGroup_dropCnt (s : State) (c g : Nat) (x : Group) : (s.setGroup c g x).dropCnt = s.dropCnt := (rfl)
@[simp] theorem State.setGroup_mgr (s : State) (c g : Nat) (x : Group) : (s.setGroup c g x).mgr = s.mgr := (rfl)
@[simp] theorem State.setGroup_owned (s : State) (c g : Nat) (x : Group) : (s.setGroup c g x).owned = s.owned := (rfl)
@[simp] theorem State.setGroup_removedSlices (s : State) (c g : Nat) (x : Group) : (s.setGroup c g x).removedSlices = s.removedSlices := (rfl)
@[simp] theorem State.setGroup_removedCores (s : State) (c g : Nat) (x : Group) : (s.setGroup c g x).removedCores = s.removedCores := (rfl)
@[simp] theorem State.setGroup_interrupts (s : State) (c g : Nat) (x : Group) : (s.setGroup c g x).interrupts = s.interrupts := (rfl)
@[simp] theorem State.setGroup_busy (s : State) (c g : Nat) (x : Group) : (s.setGroup c g x).busy = s.busy := (rfl)
@[simp] theorem State.setGroup_tick (s : State) (c g : Nat) (x : Group) : (s.setGroup c g x).tick = s.tick := (rfl)
@[simp] theorem State.setGroup_sliceOwner (s : State) (c g : Nat) (x : Group) : (s.setGroup c g x).sliceOwner = s.sliceOwner := (rfl)
@[simp] theorem State.setGroup_order (s : State) (c g : Nat) (x : Group) : (s.setGroup c g x).order = s.order := (rfl)
@[simp] theorem State.setGroup_freeCtr (s : State) (c g : Nat) (x : Group) : (s.setGroup c g x).freeCtr = s.freeCtr := (rfl)
@[simp] theorem State.setGroup_focus (s : State) (c g : Nat) (x : Group) : (s.setGroup c g x).focus = s.focus := (rfl)
@[simp] theorem State.setGroup_agenda (s : State) (c g : Nat) (x : Group) : (s.setGroup c g x).agenda = s.agenda := (rfl)
@[simp] theorem State.setGroup_constants (s : State) (c g : Nat) (x : Group) : (s.setGroup c g x).constants = s.constants := (rfl)
@[simp] theorem State.setGroup_constantsOld (s : State) (c g : Nat) (x : Group) : (s.setGroup c g x).constantsOld = s.constantsOld := (rfl)
@[simp] theorem State.setGroup_credits (s : State) (c g : Nat) (x : Group) : (s.setGroup c g x).credits = s.credits := (rfl)
@[simp] theorem State.setGroup_owed (s : State) (c g : Nat) (x : Group) : (s.setGroup c g x).owed = s.owed := (rfl)
@[simp] theorem State.setGroup_outbox (s : State) (c g : Nat) (x : Group) : (s.setGroup c g x).outbox = s.outbox := (rfl)
@[simp] theorem State.setGroup_dirty (s : State) (c g : Nat) (x : Group) : (s.setGroup c g x).dirty = s.dirty := (rfl)
@[simp] theorem State.setGroup_emitted (s : State) (c g : Nat) (x : Group) : (s.setGroup c g x).emitted = s.emitted := (rfl)
@[simp] theorem State.setGroup_answers (s : State) (c g : Nat) (x : Group) : (s.setGroup c g x).answers = s.answers := (rfl)

@[simp] theorem State.setBlock_cores (s : State) (b : Nat) (x : Block) : (s.setBlock b x).cores = s.cores := (rfl)
@[simp] theorem State.setBlock_nextBlock (s : State) (b : Nat) (x : Block) : (s.setBlock b x).nextBlock = s.nextBlock := (rfl)
@[simp] theorem State.setBlock_nextCluster (s : State) (b : Nat) (x : Block) : (s.setBlock b x).nextCluster = s.nextCluster := (rfl)
@[simp] theorem State.setBlock_launches (s : State) (b : Nat) (x : Block) : (s.setBlock b x).launches = s.launches := (rfl)
@[simp] theorem State.setBlock_nextLaunch (s : State) (b : Nat) (x : Block) : (s.setBlock b x).nextLaunch = s.nextLaunch := (rfl)
@[simp] theorem State.setBlock_saved (s : State) (b : Nat) (x : Block) : (s.setBlock b x).saved = s.saved := (rfl)
@[simp] theorem State.setBlock_partitions (s : State) (b : Nat) (x : Block) : (s.setBlock b x).partitions = s.partitions := (rfl)
@[simp] theorem State.setBlock_ifaces (s : State) (b : Nat) (x : Block) : (s.setBlock b x).ifaces = s.ifaces := (rfl)
@[simp] theorem State.setBlock_layers (s : State) (b : Nat) (x : Block) : (s.setBlock b x).layers = s.layers := (rfl)
@[simp] theorem State.setBlock_dies (s : State) (b : Nat) (x : Block) : (s.setBlock b x).dies = s.dies := (rfl)
@[simp] theorem State.setBlock_mem (s : State) (b : Nat) (x : Block) : (s.setBlock b x).mem = s.mem := (rfl)
@[simp] theorem State.setBlock_hostMem (s : State) (b : Nat) (x : Block) : (s.setBlock b x).hostMem = s.hostMem := (rfl)
@[simp] theorem State.setBlock_peerMem (s : State) (b : Nat) (x : Block) : (s.setBlock b x).peerMem = s.peerMem := (rfl)
@[simp] theorem State.setBlock_chip (s : State) (b : Nat) (x : Block) : (s.setBlock b x).chip = s.chip := (rfl)
@[simp] theorem State.setBlock_hints (s : State) (b : Nat) (x : Block) : (s.setBlock b x).hints = s.hints := (rfl)
@[simp] theorem State.setBlock_carveout (s : State) (b : Nat) (x : Block) : (s.setBlock b x).carveout = s.carveout := (rfl)
@[simp] theorem State.setBlock_drains (s : State) (b : Nat) (x : Block) : (s.setBlock b x).drains = s.drains := (rfl)
@[simp] theorem State.setBlock_consists (s : State) (b : Nat) (x : Block) : (s.setBlock b x).consists = s.consists := (rfl)
@[simp] theorem State.setBlock_consistReqs (s : State) (b : Nat) (x : Block) : (s.setBlock b x).consistReqs = s.consistReqs := (rfl)
@[simp] theorem State.setBlock_launchReqs (s : State) (b : Nat) (x : Block) : (s.setBlock b x).launchReqs = s.launchReqs := (rfl)
@[simp] theorem State.setBlock_nextReq (s : State) (b : Nat) (x : Block) : (s.setBlock b x).nextReq = s.nextReq := (rfl)
@[simp] theorem State.setBlock_waitingEntries (s : State) (b : Nat) (x : Block) : (s.setBlock b x).waitingEntries = s.waitingEntries := (rfl)
@[simp] theorem State.setBlock_rounds (s : State) (b : Nat) (x : Block) : (s.setBlock b x).rounds = s.rounds := (rfl)
@[simp] theorem State.setBlock_packets (s : State) (b : Nat) (x : Block) : (s.setBlock b x).packets = s.packets := (rfl)
@[simp] theorem State.setBlock_sent (s : State) (b : Nat) (x : Block) : (s.setBlock b x).sent = s.sent := (rfl)
@[simp] theorem State.setBlock_rootRecords (s : State) (b : Nat) (x : Block) : (s.setBlock b x).rootRecords = s.rootRecords := (rfl)
@[simp] theorem State.setBlock_keys (s : State) (b : Nat) (x : Block) : (s.setBlock b x).keys = s.keys := (rfl)
@[simp] theorem State.setBlock_nextKey (s : State) (b : Nat) (x : Block) : (s.setBlock b x).nextKey = s.nextKey := (rfl)
@[simp] theorem State.setBlock_collectives (s : State) (b : Nat) (x : Block) : (s.setBlock b x).collectives = s.collectives := (rfl)
@[simp] theorem State.setBlock_nextCollective (s : State) (b : Nat) (x : Block) : (s.setBlock b x).nextCollective = s.nextCollective := (rfl)
@[simp] theorem State.setBlock_ready (s : State) (b : Nat) (x : Block) : (s.setBlock b x).ready = s.ready := (rfl)
@[simp] theorem State.setBlock_merr (s : State) (b : Nat) (x : Block) : (s.setBlock b x).merr = s.merr := (rfl)
@[simp] theorem State.setBlock_semHeld (s : State) (b : Nat) (x : Block) : (s.setBlock b x).semHeld = s.semHeld := (rfl)
@[simp] theorem State.setBlock_semOwner (s : State) (b : Nat) (x : Block) : (s.setBlock b x).semOwner = s.semOwner := (rfl)
@[simp] theorem State.setBlock_dropCnt (s : State) (b : Nat) (x : Block) : (s.setBlock b x).dropCnt = s.dropCnt := (rfl)
@[simp] theorem State.setBlock_mgr (s : State) (b : Nat) (x : Block) : (s.setBlock b x).mgr = s.mgr := (rfl)
@[simp] theorem State.setBlock_owned (s : State) (b : Nat) (x : Block) : (s.setBlock b x).owned = s.owned := (rfl)
@[simp] theorem State.setBlock_removedSlices (s : State) (b : Nat) (x : Block) : (s.setBlock b x).removedSlices = s.removedSlices := (rfl)
@[simp] theorem State.setBlock_removedCores (s : State) (b : Nat) (x : Block) : (s.setBlock b x).removedCores = s.removedCores := (rfl)
@[simp] theorem State.setBlock_interrupts (s : State) (b : Nat) (x : Block) : (s.setBlock b x).interrupts = s.interrupts := (rfl)
@[simp] theorem State.setBlock_busy (s : State) (b : Nat) (x : Block) : (s.setBlock b x).busy = s.busy := (rfl)
@[simp] theorem State.setBlock_tick (s : State) (b : Nat) (x : Block) : (s.setBlock b x).tick = s.tick := (rfl)
@[simp] theorem State.setBlock_sliceOwner (s : State) (b : Nat) (x : Block) : (s.setBlock b x).sliceOwner = s.sliceOwner := (rfl)
@[simp] theorem State.setBlock_order (s : State) (b : Nat) (x : Block) : (s.setBlock b x).order = s.order := (rfl)
@[simp] theorem State.setBlock_freeCtr (s : State) (b : Nat) (x : Block) : (s.setBlock b x).freeCtr = s.freeCtr := (rfl)
@[simp] theorem State.setBlock_focus (s : State) (b : Nat) (x : Block) : (s.setBlock b x).focus = s.focus := (rfl)
@[simp] theorem State.setBlock_agenda (s : State) (b : Nat) (x : Block) : (s.setBlock b x).agenda = s.agenda := (rfl)
@[simp] theorem State.setBlock_constants (s : State) (b : Nat) (x : Block) : (s.setBlock b x).constants = s.constants := (rfl)
@[simp] theorem State.setBlock_constantsOld (s : State) (b : Nat) (x : Block) : (s.setBlock b x).constantsOld = s.constantsOld := (rfl)
@[simp] theorem State.setBlock_credits (s : State) (b : Nat) (x : Block) : (s.setBlock b x).credits = s.credits := (rfl)
@[simp] theorem State.setBlock_owed (s : State) (b : Nat) (x : Block) : (s.setBlock b x).owed = s.owed := (rfl)
@[simp] theorem State.setBlock_outbox (s : State) (b : Nat) (x : Block) : (s.setBlock b x).outbox = s.outbox := (rfl)
@[simp] theorem State.setBlock_dirty (s : State) (b : Nat) (x : Block) : (s.setBlock b x).dirty = s.dirty := (rfl)
@[simp] theorem State.setBlock_emitted (s : State) (b : Nat) (x : Block) : (s.setBlock b x).emitted = s.emitted := (rfl)
@[simp] theorem State.setBlock_answers (s : State) (b : Nat) (x : Block) : (s.setBlock b x).answers = s.answers := (rfl)

@[simp] theorem State.setLaunch_cores (s : State) (l : Nat) (x : Launch) : (s.setLaunch l x).cores = s.cores := (rfl)
@[simp] theorem State.setLaunch_blocks (s : State) (l : Nat) (x : Launch) : (s.setLaunch l x).blocks = s.blocks := (rfl)
@[simp] theorem State.setLaunch_nextBlock (s : State) (l : Nat) (x : Launch) : (s.setLaunch l x).nextBlock = s.nextBlock := (rfl)
@[simp] theorem State.setLaunch_nextCluster (s : State) (l : Nat) (x : Launch) : (s.setLaunch l x).nextCluster = s.nextCluster := (rfl)
@[simp] theorem State.setLaunch_nextLaunch (s : State) (l : Nat) (x : Launch) : (s.setLaunch l x).nextLaunch = s.nextLaunch := (rfl)
@[simp] theorem State.setLaunch_saved (s : State) (l : Nat) (x : Launch) : (s.setLaunch l x).saved = s.saved := (rfl)
@[simp] theorem State.setLaunch_partitions (s : State) (l : Nat) (x : Launch) : (s.setLaunch l x).partitions = s.partitions := (rfl)
@[simp] theorem State.setLaunch_ifaces (s : State) (l : Nat) (x : Launch) : (s.setLaunch l x).ifaces = s.ifaces := (rfl)
@[simp] theorem State.setLaunch_layers (s : State) (l : Nat) (x : Launch) : (s.setLaunch l x).layers = s.layers := (rfl)
@[simp] theorem State.setLaunch_dies (s : State) (l : Nat) (x : Launch) : (s.setLaunch l x).dies = s.dies := (rfl)
@[simp] theorem State.setLaunch_mem (s : State) (l : Nat) (x : Launch) : (s.setLaunch l x).mem = s.mem := (rfl)
@[simp] theorem State.setLaunch_hostMem (s : State) (l : Nat) (x : Launch) : (s.setLaunch l x).hostMem = s.hostMem := (rfl)
@[simp] theorem State.setLaunch_peerMem (s : State) (l : Nat) (x : Launch) : (s.setLaunch l x).peerMem = s.peerMem := (rfl)
@[simp] theorem State.setLaunch_chip (s : State) (l : Nat) (x : Launch) : (s.setLaunch l x).chip = s.chip := (rfl)
@[simp] theorem State.setLaunch_hints (s : State) (l : Nat) (x : Launch) : (s.setLaunch l x).hints = s.hints := (rfl)
@[simp] theorem State.setLaunch_carveout (s : State) (l : Nat) (x : Launch) : (s.setLaunch l x).carveout = s.carveout := (rfl)
@[simp] theorem State.setLaunch_drains (s : State) (l : Nat) (x : Launch) : (s.setLaunch l x).drains = s.drains := (rfl)
@[simp] theorem State.setLaunch_consists (s : State) (l : Nat) (x : Launch) : (s.setLaunch l x).consists = s.consists := (rfl)
@[simp] theorem State.setLaunch_consistReqs (s : State) (l : Nat) (x : Launch) : (s.setLaunch l x).consistReqs = s.consistReqs := (rfl)
@[simp] theorem State.setLaunch_launchReqs (s : State) (l : Nat) (x : Launch) : (s.setLaunch l x).launchReqs = s.launchReqs := (rfl)
@[simp] theorem State.setLaunch_nextReq (s : State) (l : Nat) (x : Launch) : (s.setLaunch l x).nextReq = s.nextReq := (rfl)
@[simp] theorem State.setLaunch_waitingEntries (s : State) (l : Nat) (x : Launch) : (s.setLaunch l x).waitingEntries = s.waitingEntries := (rfl)
@[simp] theorem State.setLaunch_rounds (s : State) (l : Nat) (x : Launch) : (s.setLaunch l x).rounds = s.rounds := (rfl)
@[simp] theorem State.setLaunch_packets (s : State) (l : Nat) (x : Launch) : (s.setLaunch l x).packets = s.packets := (rfl)
@[simp] theorem State.setLaunch_sent (s : State) (l : Nat) (x : Launch) : (s.setLaunch l x).sent = s.sent := (rfl)
@[simp] theorem State.setLaunch_rootRecords (s : State) (l : Nat) (x : Launch) : (s.setLaunch l x).rootRecords = s.rootRecords := (rfl)
@[simp] theorem State.setLaunch_keys (s : State) (l : Nat) (x : Launch) : (s.setLaunch l x).keys = s.keys := (rfl)
@[simp] theorem State.setLaunch_nextKey (s : State) (l : Nat) (x : Launch) : (s.setLaunch l x).nextKey = s.nextKey := (rfl)
@[simp] theorem State.setLaunch_collectives (s : State) (l : Nat) (x : Launch) : (s.setLaunch l x).collectives = s.collectives := (rfl)
@[simp] theorem State.setLaunch_nextCollective (s : State) (l : Nat) (x : Launch) : (s.setLaunch l x).nextCollective = s.nextCollective := (rfl)
@[simp] theorem State.setLaunch_ready (s : State) (l : Nat) (x : Launch) : (s.setLaunch l x).ready = s.ready := (rfl)
@[simp] theorem State.setLaunch_merr (s : State) (l : Nat) (x : Launch) : (s.setLaunch l x).merr = s.merr := (rfl)
@[simp] theorem State.setLaunch_semHeld (s : State) (l : Nat) (x : Launch) : (s.setLaunch l x).semHeld = s.semHeld := (rfl)
@[simp] theorem State.setLaunch_semOwner (s : State) (l : Nat) (x : Launch) : (s.setLaunch l x).semOwner = s.semOwner := (rfl)
@[simp] theorem State.setLaunch_dropCnt (s : State) (l : Nat) (x : Launch) : (s.setLaunch l x).dropCnt = s.dropCnt := (rfl)
@[simp] theorem State.setLaunch_mgr (s : State) (l : Nat) (x : Launch) : (s.setLaunch l x).mgr = s.mgr := (rfl)
@[simp] theorem State.setLaunch_owned (s : State) (l : Nat) (x : Launch) : (s.setLaunch l x).owned = s.owned := (rfl)
@[simp] theorem State.setLaunch_removedSlices (s : State) (l : Nat) (x : Launch) : (s.setLaunch l x).removedSlices = s.removedSlices := (rfl)
@[simp] theorem State.setLaunch_removedCores (s : State) (l : Nat) (x : Launch) : (s.setLaunch l x).removedCores = s.removedCores := (rfl)
@[simp] theorem State.setLaunch_interrupts (s : State) (l : Nat) (x : Launch) : (s.setLaunch l x).interrupts = s.interrupts := (rfl)
@[simp] theorem State.setLaunch_busy (s : State) (l : Nat) (x : Launch) : (s.setLaunch l x).busy = s.busy := (rfl)
@[simp] theorem State.setLaunch_tick (s : State) (l : Nat) (x : Launch) : (s.setLaunch l x).tick = s.tick := (rfl)
@[simp] theorem State.setLaunch_sliceOwner (s : State) (l : Nat) (x : Launch) : (s.setLaunch l x).sliceOwner = s.sliceOwner := (rfl)
@[simp] theorem State.setLaunch_order (s : State) (l : Nat) (x : Launch) : (s.setLaunch l x).order = s.order := (rfl)
@[simp] theorem State.setLaunch_freeCtr (s : State) (l : Nat) (x : Launch) : (s.setLaunch l x).freeCtr = s.freeCtr := (rfl)
@[simp] theorem State.setLaunch_focus (s : State) (l : Nat) (x : Launch) : (s.setLaunch l x).focus = s.focus := (rfl)
@[simp] theorem State.setLaunch_agenda (s : State) (l : Nat) (x : Launch) : (s.setLaunch l x).agenda = s.agenda := (rfl)
@[simp] theorem State.setLaunch_constants (s : State) (l : Nat) (x : Launch) : (s.setLaunch l x).constants = s.constants := (rfl)
@[simp] theorem State.setLaunch_constantsOld (s : State) (l : Nat) (x : Launch) : (s.setLaunch l x).constantsOld = s.constantsOld := (rfl)
@[simp] theorem State.setLaunch_credits (s : State) (l : Nat) (x : Launch) : (s.setLaunch l x).credits = s.credits := (rfl)
@[simp] theorem State.setLaunch_owed (s : State) (l : Nat) (x : Launch) : (s.setLaunch l x).owed = s.owed := (rfl)
@[simp] theorem State.setLaunch_outbox (s : State) (l : Nat) (x : Launch) : (s.setLaunch l x).outbox = s.outbox := (rfl)
@[simp] theorem State.setLaunch_dirty (s : State) (l : Nat) (x : Launch) : (s.setLaunch l x).dirty = s.dirty := (rfl)
@[simp] theorem State.setLaunch_emitted (s : State) (l : Nat) (x : Launch) : (s.setLaunch l x).emitted = s.emitted := (rfl)
@[simp] theorem State.setLaunch_answers (s : State) (l : Nat) (x : Launch) : (s.setLaunch l x).answers = s.answers := (rfl)

@[simp] theorem State.setPartition_cores (s : State) (p : Nat) (x : Partition) : (s.setPartition p x).cores = s.cores := (rfl)
@[simp] theorem State.setPartition_blocks (s : State) (p : Nat) (x : Partition) : (s.setPartition p x).blocks = s.blocks := (rfl)
@[simp] theorem State.setPartition_nextBlock (s : State) (p : Nat) (x : Partition) : (s.setPartition p x).nextBlock = s.nextBlock := (rfl)
@[simp] theorem State.setPartition_nextCluster (s : State) (p : Nat) (x : Partition) : (s.setPartition p x).nextCluster = s.nextCluster := (rfl)
@[simp] theorem State.setPartition_launches (s : State) (p : Nat) (x : Partition) : (s.setPartition p x).launches = s.launches := (rfl)
@[simp] theorem State.setPartition_nextLaunch (s : State) (p : Nat) (x : Partition) : (s.setPartition p x).nextLaunch = s.nextLaunch := (rfl)
@[simp] theorem State.setPartition_saved (s : State) (p : Nat) (x : Partition) : (s.setPartition p x).saved = s.saved := (rfl)
@[simp] theorem State.setPartition_ifaces (s : State) (p : Nat) (x : Partition) : (s.setPartition p x).ifaces = s.ifaces := (rfl)
@[simp] theorem State.setPartition_layers (s : State) (p : Nat) (x : Partition) : (s.setPartition p x).layers = s.layers := (rfl)
@[simp] theorem State.setPartition_dies (s : State) (p : Nat) (x : Partition) : (s.setPartition p x).dies = s.dies := (rfl)
@[simp] theorem State.setPartition_mem (s : State) (p : Nat) (x : Partition) : (s.setPartition p x).mem = s.mem := (rfl)
@[simp] theorem State.setPartition_hostMem (s : State) (p : Nat) (x : Partition) : (s.setPartition p x).hostMem = s.hostMem := (rfl)
@[simp] theorem State.setPartition_peerMem (s : State) (p : Nat) (x : Partition) : (s.setPartition p x).peerMem = s.peerMem := (rfl)
@[simp] theorem State.setPartition_chip (s : State) (p : Nat) (x : Partition) : (s.setPartition p x).chip = s.chip := (rfl)
@[simp] theorem State.setPartition_hints (s : State) (p : Nat) (x : Partition) : (s.setPartition p x).hints = s.hints := (rfl)
@[simp] theorem State.setPartition_carveout (s : State) (p : Nat) (x : Partition) : (s.setPartition p x).carveout = s.carveout := (rfl)
@[simp] theorem State.setPartition_drains (s : State) (p : Nat) (x : Partition) : (s.setPartition p x).drains = s.drains := (rfl)
@[simp] theorem State.setPartition_consists (s : State) (p : Nat) (x : Partition) : (s.setPartition p x).consists = s.consists := (rfl)
@[simp] theorem State.setPartition_consistReqs (s : State) (p : Nat) (x : Partition) : (s.setPartition p x).consistReqs = s.consistReqs := (rfl)
@[simp] theorem State.setPartition_launchReqs (s : State) (p : Nat) (x : Partition) : (s.setPartition p x).launchReqs = s.launchReqs := (rfl)
@[simp] theorem State.setPartition_nextReq (s : State) (p : Nat) (x : Partition) : (s.setPartition p x).nextReq = s.nextReq := (rfl)
@[simp] theorem State.setPartition_waitingEntries (s : State) (p : Nat) (x : Partition) : (s.setPartition p x).waitingEntries = s.waitingEntries := (rfl)
@[simp] theorem State.setPartition_rounds (s : State) (p : Nat) (x : Partition) : (s.setPartition p x).rounds = s.rounds := (rfl)
@[simp] theorem State.setPartition_packets (s : State) (p : Nat) (x : Partition) : (s.setPartition p x).packets = s.packets := (rfl)
@[simp] theorem State.setPartition_sent (s : State) (p : Nat) (x : Partition) : (s.setPartition p x).sent = s.sent := (rfl)
@[simp] theorem State.setPartition_rootRecords (s : State) (p : Nat) (x : Partition) : (s.setPartition p x).rootRecords = s.rootRecords := (rfl)
@[simp] theorem State.setPartition_keys (s : State) (p : Nat) (x : Partition) : (s.setPartition p x).keys = s.keys := (rfl)
@[simp] theorem State.setPartition_nextKey (s : State) (p : Nat) (x : Partition) : (s.setPartition p x).nextKey = s.nextKey := (rfl)
@[simp] theorem State.setPartition_collectives (s : State) (p : Nat) (x : Partition) : (s.setPartition p x).collectives = s.collectives := (rfl)
@[simp] theorem State.setPartition_nextCollective (s : State) (p : Nat) (x : Partition) : (s.setPartition p x).nextCollective = s.nextCollective := (rfl)
@[simp] theorem State.setPartition_ready (s : State) (p : Nat) (x : Partition) : (s.setPartition p x).ready = s.ready := (rfl)
@[simp] theorem State.setPartition_merr (s : State) (p : Nat) (x : Partition) : (s.setPartition p x).merr = s.merr := (rfl)
@[simp] theorem State.setPartition_semHeld (s : State) (p : Nat) (x : Partition) : (s.setPartition p x).semHeld = s.semHeld := (rfl)
@[simp] theorem State.setPartition_semOwner (s : State) (p : Nat) (x : Partition) : (s.setPartition p x).semOwner = s.semOwner := (rfl)
@[simp] theorem State.setPartition_dropCnt (s : State) (p : Nat) (x : Partition) : (s.setPartition p x).dropCnt = s.dropCnt := (rfl)
@[simp] theorem State.setPartition_mgr (s : State) (p : Nat) (x : Partition) : (s.setPartition p x).mgr = s.mgr := (rfl)
@[simp] theorem State.setPartition_owned (s : State) (p : Nat) (x : Partition) : (s.setPartition p x).owned = s.owned := (rfl)
@[simp] theorem State.setPartition_removedSlices (s : State) (p : Nat) (x : Partition) : (s.setPartition p x).removedSlices = s.removedSlices := (rfl)
@[simp] theorem State.setPartition_removedCores (s : State) (p : Nat) (x : Partition) : (s.setPartition p x).removedCores = s.removedCores := (rfl)
@[simp] theorem State.setPartition_interrupts (s : State) (p : Nat) (x : Partition) : (s.setPartition p x).interrupts = s.interrupts := (rfl)
@[simp] theorem State.setPartition_busy (s : State) (p : Nat) (x : Partition) : (s.setPartition p x).busy = s.busy := (rfl)
@[simp] theorem State.setPartition_tick (s : State) (p : Nat) (x : Partition) : (s.setPartition p x).tick = s.tick := (rfl)
@[simp] theorem State.setPartition_sliceOwner (s : State) (p : Nat) (x : Partition) : (s.setPartition p x).sliceOwner = s.sliceOwner := (rfl)
@[simp] theorem State.setPartition_order (s : State) (p : Nat) (x : Partition) : (s.setPartition p x).order = s.order := (rfl)
@[simp] theorem State.setPartition_freeCtr (s : State) (p : Nat) (x : Partition) : (s.setPartition p x).freeCtr = s.freeCtr := (rfl)
@[simp] theorem State.setPartition_focus (s : State) (p : Nat) (x : Partition) : (s.setPartition p x).focus = s.focus := (rfl)
@[simp] theorem State.setPartition_agenda (s : State) (p : Nat) (x : Partition) : (s.setPartition p x).agenda = s.agenda := (rfl)
@[simp] theorem State.setPartition_constants (s : State) (p : Nat) (x : Partition) : (s.setPartition p x).constants = s.constants := (rfl)
@[simp] theorem State.setPartition_constantsOld (s : State) (p : Nat) (x : Partition) : (s.setPartition p x).constantsOld = s.constantsOld := (rfl)
@[simp] theorem State.setPartition_credits (s : State) (p : Nat) (x : Partition) : (s.setPartition p x).credits = s.credits := (rfl)
@[simp] theorem State.setPartition_owed (s : State) (p : Nat) (x : Partition) : (s.setPartition p x).owed = s.owed := (rfl)
@[simp] theorem State.setPartition_outbox (s : State) (p : Nat) (x : Partition) : (s.setPartition p x).outbox = s.outbox := (rfl)
@[simp] theorem State.setPartition_dirty (s : State) (p : Nat) (x : Partition) : (s.setPartition p x).dirty = s.dirty := (rfl)
@[simp] theorem State.setPartition_emitted (s : State) (p : Nat) (x : Partition) : (s.setPartition p x).emitted = s.emitted := (rfl)
@[simp] theorem State.setPartition_answers (s : State) (p : Nat) (x : Partition) : (s.setPartition p x).answers = s.answers := (rfl)

@[simp] theorem State.setIface_cores (s : State) (i : Nat) (x : Iface) : (s.setIface i x).cores = s.cores := (rfl)
@[simp] theorem State.setIface_blocks (s : State) (i : Nat) (x : Iface) : (s.setIface i x).blocks = s.blocks := (rfl)
@[simp] theorem State.setIface_nextBlock (s : State) (i : Nat) (x : Iface) : (s.setIface i x).nextBlock = s.nextBlock := (rfl)
@[simp] theorem State.setIface_nextCluster (s : State) (i : Nat) (x : Iface) : (s.setIface i x).nextCluster = s.nextCluster := (rfl)
@[simp] theorem State.setIface_launches (s : State) (i : Nat) (x : Iface) : (s.setIface i x).launches = s.launches := (rfl)
@[simp] theorem State.setIface_nextLaunch (s : State) (i : Nat) (x : Iface) : (s.setIface i x).nextLaunch = s.nextLaunch := (rfl)
@[simp] theorem State.setIface_saved (s : State) (i : Nat) (x : Iface) : (s.setIface i x).saved = s.saved := (rfl)
@[simp] theorem State.setIface_partitions (s : State) (i : Nat) (x : Iface) : (s.setIface i x).partitions = s.partitions := (rfl)
@[simp] theorem State.setIface_layers (s : State) (i : Nat) (x : Iface) : (s.setIface i x).layers = s.layers := (rfl)
@[simp] theorem State.setIface_dies (s : State) (i : Nat) (x : Iface) : (s.setIface i x).dies = s.dies := (rfl)
@[simp] theorem State.setIface_mem (s : State) (i : Nat) (x : Iface) : (s.setIface i x).mem = s.mem := (rfl)
@[simp] theorem State.setIface_hostMem (s : State) (i : Nat) (x : Iface) : (s.setIface i x).hostMem = s.hostMem := (rfl)
@[simp] theorem State.setIface_peerMem (s : State) (i : Nat) (x : Iface) : (s.setIface i x).peerMem = s.peerMem := (rfl)
@[simp] theorem State.setIface_chip (s : State) (i : Nat) (x : Iface) : (s.setIface i x).chip = s.chip := (rfl)
@[simp] theorem State.setIface_hints (s : State) (i : Nat) (x : Iface) : (s.setIface i x).hints = s.hints := (rfl)
@[simp] theorem State.setIface_carveout (s : State) (i : Nat) (x : Iface) : (s.setIface i x).carveout = s.carveout := (rfl)
@[simp] theorem State.setIface_drains (s : State) (i : Nat) (x : Iface) : (s.setIface i x).drains = s.drains := (rfl)
@[simp] theorem State.setIface_consists (s : State) (i : Nat) (x : Iface) : (s.setIface i x).consists = s.consists := (rfl)
@[simp] theorem State.setIface_consistReqs (s : State) (i : Nat) (x : Iface) : (s.setIface i x).consistReqs = s.consistReqs := (rfl)
@[simp] theorem State.setIface_launchReqs (s : State) (i : Nat) (x : Iface) : (s.setIface i x).launchReqs = s.launchReqs := (rfl)
@[simp] theorem State.setIface_nextReq (s : State) (i : Nat) (x : Iface) : (s.setIface i x).nextReq = s.nextReq := (rfl)
@[simp] theorem State.setIface_waitingEntries (s : State) (i : Nat) (x : Iface) : (s.setIface i x).waitingEntries = s.waitingEntries := (rfl)
@[simp] theorem State.setIface_rounds (s : State) (i : Nat) (x : Iface) : (s.setIface i x).rounds = s.rounds := (rfl)
@[simp] theorem State.setIface_packets (s : State) (i : Nat) (x : Iface) : (s.setIface i x).packets = s.packets := (rfl)
@[simp] theorem State.setIface_sent (s : State) (i : Nat) (x : Iface) : (s.setIface i x).sent = s.sent := (rfl)
@[simp] theorem State.setIface_rootRecords (s : State) (i : Nat) (x : Iface) : (s.setIface i x).rootRecords = s.rootRecords := (rfl)
@[simp] theorem State.setIface_keys (s : State) (i : Nat) (x : Iface) : (s.setIface i x).keys = s.keys := (rfl)
@[simp] theorem State.setIface_nextKey (s : State) (i : Nat) (x : Iface) : (s.setIface i x).nextKey = s.nextKey := (rfl)
@[simp] theorem State.setIface_collectives (s : State) (i : Nat) (x : Iface) : (s.setIface i x).collectives = s.collectives := (rfl)
@[simp] theorem State.setIface_nextCollective (s : State) (i : Nat) (x : Iface) : (s.setIface i x).nextCollective = s.nextCollective := (rfl)
@[simp] theorem State.setIface_ready (s : State) (i : Nat) (x : Iface) : (s.setIface i x).ready = s.ready := (rfl)
@[simp] theorem State.setIface_merr (s : State) (i : Nat) (x : Iface) : (s.setIface i x).merr = s.merr := (rfl)
@[simp] theorem State.setIface_semHeld (s : State) (i : Nat) (x : Iface) : (s.setIface i x).semHeld = s.semHeld := (rfl)
@[simp] theorem State.setIface_semOwner (s : State) (i : Nat) (x : Iface) : (s.setIface i x).semOwner = s.semOwner := (rfl)
@[simp] theorem State.setIface_dropCnt (s : State) (i : Nat) (x : Iface) : (s.setIface i x).dropCnt = s.dropCnt := (rfl)
@[simp] theorem State.setIface_mgr (s : State) (i : Nat) (x : Iface) : (s.setIface i x).mgr = s.mgr := (rfl)
@[simp] theorem State.setIface_owned (s : State) (i : Nat) (x : Iface) : (s.setIface i x).owned = s.owned := (rfl)
@[simp] theorem State.setIface_removedSlices (s : State) (i : Nat) (x : Iface) : (s.setIface i x).removedSlices = s.removedSlices := (rfl)
@[simp] theorem State.setIface_removedCores (s : State) (i : Nat) (x : Iface) : (s.setIface i x).removedCores = s.removedCores := (rfl)
@[simp] theorem State.setIface_interrupts (s : State) (i : Nat) (x : Iface) : (s.setIface i x).interrupts = s.interrupts := (rfl)
@[simp] theorem State.setIface_busy (s : State) (i : Nat) (x : Iface) : (s.setIface i x).busy = s.busy := (rfl)
@[simp] theorem State.setIface_tick (s : State) (i : Nat) (x : Iface) : (s.setIface i x).tick = s.tick := (rfl)
@[simp] theorem State.setIface_sliceOwner (s : State) (i : Nat) (x : Iface) : (s.setIface i x).sliceOwner = s.sliceOwner := (rfl)
@[simp] theorem State.setIface_order (s : State) (i : Nat) (x : Iface) : (s.setIface i x).order = s.order := (rfl)
@[simp] theorem State.setIface_freeCtr (s : State) (i : Nat) (x : Iface) : (s.setIface i x).freeCtr = s.freeCtr := (rfl)
@[simp] theorem State.setIface_focus (s : State) (i : Nat) (x : Iface) : (s.setIface i x).focus = s.focus := (rfl)
@[simp] theorem State.setIface_agenda (s : State) (i : Nat) (x : Iface) : (s.setIface i x).agenda = s.agenda := (rfl)
@[simp] theorem State.setIface_constants (s : State) (i : Nat) (x : Iface) : (s.setIface i x).constants = s.constants := (rfl)
@[simp] theorem State.setIface_constantsOld (s : State) (i : Nat) (x : Iface) : (s.setIface i x).constantsOld = s.constantsOld := (rfl)
@[simp] theorem State.setIface_credits (s : State) (i : Nat) (x : Iface) : (s.setIface i x).credits = s.credits := (rfl)
@[simp] theorem State.setIface_owed (s : State) (i : Nat) (x : Iface) : (s.setIface i x).owed = s.owed := (rfl)
@[simp] theorem State.setIface_outbox (s : State) (i : Nat) (x : Iface) : (s.setIface i x).outbox = s.outbox := (rfl)
@[simp] theorem State.setIface_dirty (s : State) (i : Nat) (x : Iface) : (s.setIface i x).dirty = s.dirty := (rfl)
@[simp] theorem State.setIface_emitted (s : State) (i : Nat) (x : Iface) : (s.setIface i x).emitted = s.emitted := (rfl)
@[simp] theorem State.setIface_answers (s : State) (i : Nat) (x : Iface) : (s.setIface i x).answers = s.answers := (rfl)

@[simp] theorem State.setDie_cores (s : State) (d : Nat) (x : Die) : (s.setDie d x).cores = s.cores := (rfl)
@[simp] theorem State.setDie_blocks (s : State) (d : Nat) (x : Die) : (s.setDie d x).blocks = s.blocks := (rfl)
@[simp] theorem State.setDie_nextBlock (s : State) (d : Nat) (x : Die) : (s.setDie d x).nextBlock = s.nextBlock := (rfl)
@[simp] theorem State.setDie_nextCluster (s : State) (d : Nat) (x : Die) : (s.setDie d x).nextCluster = s.nextCluster := (rfl)
@[simp] theorem State.setDie_launches (s : State) (d : Nat) (x : Die) : (s.setDie d x).launches = s.launches := (rfl)
@[simp] theorem State.setDie_nextLaunch (s : State) (d : Nat) (x : Die) : (s.setDie d x).nextLaunch = s.nextLaunch := (rfl)
@[simp] theorem State.setDie_saved (s : State) (d : Nat) (x : Die) : (s.setDie d x).saved = s.saved := (rfl)
@[simp] theorem State.setDie_partitions (s : State) (d : Nat) (x : Die) : (s.setDie d x).partitions = s.partitions := (rfl)
@[simp] theorem State.setDie_ifaces (s : State) (d : Nat) (x : Die) : (s.setDie d x).ifaces = s.ifaces := (rfl)
@[simp] theorem State.setDie_layers (s : State) (d : Nat) (x : Die) : (s.setDie d x).layers = s.layers := (rfl)
@[simp] theorem State.setDie_mem (s : State) (d : Nat) (x : Die) : (s.setDie d x).mem = s.mem := (rfl)
@[simp] theorem State.setDie_hostMem (s : State) (d : Nat) (x : Die) : (s.setDie d x).hostMem = s.hostMem := (rfl)
@[simp] theorem State.setDie_peerMem (s : State) (d : Nat) (x : Die) : (s.setDie d x).peerMem = s.peerMem := (rfl)
@[simp] theorem State.setDie_chip (s : State) (d : Nat) (x : Die) : (s.setDie d x).chip = s.chip := (rfl)
@[simp] theorem State.setDie_hints (s : State) (d : Nat) (x : Die) : (s.setDie d x).hints = s.hints := (rfl)
@[simp] theorem State.setDie_carveout (s : State) (d : Nat) (x : Die) : (s.setDie d x).carveout = s.carveout := (rfl)
@[simp] theorem State.setDie_drains (s : State) (d : Nat) (x : Die) : (s.setDie d x).drains = s.drains := (rfl)
@[simp] theorem State.setDie_consists (s : State) (d : Nat) (x : Die) : (s.setDie d x).consists = s.consists := (rfl)
@[simp] theorem State.setDie_consistReqs (s : State) (d : Nat) (x : Die) : (s.setDie d x).consistReqs = s.consistReqs := (rfl)
@[simp] theorem State.setDie_launchReqs (s : State) (d : Nat) (x : Die) : (s.setDie d x).launchReqs = s.launchReqs := (rfl)
@[simp] theorem State.setDie_nextReq (s : State) (d : Nat) (x : Die) : (s.setDie d x).nextReq = s.nextReq := (rfl)
@[simp] theorem State.setDie_waitingEntries (s : State) (d : Nat) (x : Die) : (s.setDie d x).waitingEntries = s.waitingEntries := (rfl)
@[simp] theorem State.setDie_rounds (s : State) (d : Nat) (x : Die) : (s.setDie d x).rounds = s.rounds := (rfl)
@[simp] theorem State.setDie_packets (s : State) (d : Nat) (x : Die) : (s.setDie d x).packets = s.packets := (rfl)
@[simp] theorem State.setDie_sent (s : State) (d : Nat) (x : Die) : (s.setDie d x).sent = s.sent := (rfl)
@[simp] theorem State.setDie_rootRecords (s : State) (d : Nat) (x : Die) : (s.setDie d x).rootRecords = s.rootRecords := (rfl)
@[simp] theorem State.setDie_keys (s : State) (d : Nat) (x : Die) : (s.setDie d x).keys = s.keys := (rfl)
@[simp] theorem State.setDie_nextKey (s : State) (d : Nat) (x : Die) : (s.setDie d x).nextKey = s.nextKey := (rfl)
@[simp] theorem State.setDie_collectives (s : State) (d : Nat) (x : Die) : (s.setDie d x).collectives = s.collectives := (rfl)
@[simp] theorem State.setDie_nextCollective (s : State) (d : Nat) (x : Die) : (s.setDie d x).nextCollective = s.nextCollective := (rfl)
@[simp] theorem State.setDie_ready (s : State) (d : Nat) (x : Die) : (s.setDie d x).ready = s.ready := (rfl)
@[simp] theorem State.setDie_merr (s : State) (d : Nat) (x : Die) : (s.setDie d x).merr = s.merr := (rfl)
@[simp] theorem State.setDie_semHeld (s : State) (d : Nat) (x : Die) : (s.setDie d x).semHeld = s.semHeld := (rfl)
@[simp] theorem State.setDie_semOwner (s : State) (d : Nat) (x : Die) : (s.setDie d x).semOwner = s.semOwner := (rfl)
@[simp] theorem State.setDie_dropCnt (s : State) (d : Nat) (x : Die) : (s.setDie d x).dropCnt = s.dropCnt := (rfl)
@[simp] theorem State.setDie_mgr (s : State) (d : Nat) (x : Die) : (s.setDie d x).mgr = s.mgr := (rfl)
@[simp] theorem State.setDie_owned (s : State) (d : Nat) (x : Die) : (s.setDie d x).owned = s.owned := (rfl)
@[simp] theorem State.setDie_removedSlices (s : State) (d : Nat) (x : Die) : (s.setDie d x).removedSlices = s.removedSlices := (rfl)
@[simp] theorem State.setDie_removedCores (s : State) (d : Nat) (x : Die) : (s.setDie d x).removedCores = s.removedCores := (rfl)
@[simp] theorem State.setDie_interrupts (s : State) (d : Nat) (x : Die) : (s.setDie d x).interrupts = s.interrupts := (rfl)
@[simp] theorem State.setDie_busy (s : State) (d : Nat) (x : Die) : (s.setDie d x).busy = s.busy := (rfl)
@[simp] theorem State.setDie_tick (s : State) (d : Nat) (x : Die) : (s.setDie d x).tick = s.tick := (rfl)
@[simp] theorem State.setDie_sliceOwner (s : State) (d : Nat) (x : Die) : (s.setDie d x).sliceOwner = s.sliceOwner := (rfl)
@[simp] theorem State.setDie_order (s : State) (d : Nat) (x : Die) : (s.setDie d x).order = s.order := (rfl)
@[simp] theorem State.setDie_freeCtr (s : State) (d : Nat) (x : Die) : (s.setDie d x).freeCtr = s.freeCtr := (rfl)
@[simp] theorem State.setDie_focus (s : State) (d : Nat) (x : Die) : (s.setDie d x).focus = s.focus := (rfl)
@[simp] theorem State.setDie_agenda (s : State) (d : Nat) (x : Die) : (s.setDie d x).agenda = s.agenda := (rfl)
@[simp] theorem State.setDie_constants (s : State) (d : Nat) (x : Die) : (s.setDie d x).constants = s.constants := (rfl)
@[simp] theorem State.setDie_constantsOld (s : State) (d : Nat) (x : Die) : (s.setDie d x).constantsOld = s.constantsOld := (rfl)
@[simp] theorem State.setDie_credits (s : State) (d : Nat) (x : Die) : (s.setDie d x).credits = s.credits := (rfl)
@[simp] theorem State.setDie_owed (s : State) (d : Nat) (x : Die) : (s.setDie d x).owed = s.owed := (rfl)
@[simp] theorem State.setDie_outbox (s : State) (d : Nat) (x : Die) : (s.setDie d x).outbox = s.outbox := (rfl)
@[simp] theorem State.setDie_dirty (s : State) (d : Nat) (x : Die) : (s.setDie d x).dirty = s.dirty := (rfl)
@[simp] theorem State.setDie_emitted (s : State) (d : Nat) (x : Die) : (s.setDie d x).emitted = s.emitted := (rfl)
@[simp] theorem State.setDie_answers (s : State) (d : Nat) (x : Die) : (s.setDie d x).answers = s.answers := (rfl)

@[simp] theorem State.interrupt_cores (s : State) (i : Interrupt) : (s.interrupt i).cores = s.cores := (rfl)
@[simp] theorem State.interrupt_blocks (s : State) (i : Interrupt) : (s.interrupt i).blocks = s.blocks := (rfl)
@[simp] theorem State.interrupt_nextBlock (s : State) (i : Interrupt) : (s.interrupt i).nextBlock = s.nextBlock := (rfl)
@[simp] theorem State.interrupt_nextCluster (s : State) (i : Interrupt) : (s.interrupt i).nextCluster = s.nextCluster := (rfl)
@[simp] theorem State.interrupt_launches (s : State) (i : Interrupt) : (s.interrupt i).launches = s.launches := (rfl)
@[simp] theorem State.interrupt_nextLaunch (s : State) (i : Interrupt) : (s.interrupt i).nextLaunch = s.nextLaunch := (rfl)
@[simp] theorem State.interrupt_saved (s : State) (i : Interrupt) : (s.interrupt i).saved = s.saved := (rfl)
@[simp] theorem State.interrupt_partitions (s : State) (i : Interrupt) : (s.interrupt i).partitions = s.partitions := (rfl)
@[simp] theorem State.interrupt_ifaces (s : State) (i : Interrupt) : (s.interrupt i).ifaces = s.ifaces := (rfl)
@[simp] theorem State.interrupt_layers (s : State) (i : Interrupt) : (s.interrupt i).layers = s.layers := (rfl)
@[simp] theorem State.interrupt_dies (s : State) (i : Interrupt) : (s.interrupt i).dies = s.dies := (rfl)
@[simp] theorem State.interrupt_mem (s : State) (i : Interrupt) : (s.interrupt i).mem = s.mem := (rfl)
@[simp] theorem State.interrupt_hostMem (s : State) (i : Interrupt) : (s.interrupt i).hostMem = s.hostMem := (rfl)
@[simp] theorem State.interrupt_peerMem (s : State) (i : Interrupt) : (s.interrupt i).peerMem = s.peerMem := (rfl)
@[simp] theorem State.interrupt_chip (s : State) (i : Interrupt) : (s.interrupt i).chip = s.chip := (rfl)
@[simp] theorem State.interrupt_hints (s : State) (i : Interrupt) : (s.interrupt i).hints = s.hints := (rfl)
@[simp] theorem State.interrupt_carveout (s : State) (i : Interrupt) : (s.interrupt i).carveout = s.carveout := (rfl)
@[simp] theorem State.interrupt_drains (s : State) (i : Interrupt) : (s.interrupt i).drains = s.drains := (rfl)
@[simp] theorem State.interrupt_consists (s : State) (i : Interrupt) : (s.interrupt i).consists = s.consists := (rfl)
@[simp] theorem State.interrupt_consistReqs (s : State) (i : Interrupt) : (s.interrupt i).consistReqs = s.consistReqs := (rfl)
@[simp] theorem State.interrupt_launchReqs (s : State) (i : Interrupt) : (s.interrupt i).launchReqs = s.launchReqs := (rfl)
@[simp] theorem State.interrupt_nextReq (s : State) (i : Interrupt) : (s.interrupt i).nextReq = s.nextReq := (rfl)
@[simp] theorem State.interrupt_waitingEntries (s : State) (i : Interrupt) : (s.interrupt i).waitingEntries = s.waitingEntries := (rfl)
@[simp] theorem State.interrupt_rounds (s : State) (i : Interrupt) : (s.interrupt i).rounds = s.rounds := (rfl)
@[simp] theorem State.interrupt_packets (s : State) (i : Interrupt) : (s.interrupt i).packets = s.packets := (rfl)
@[simp] theorem State.interrupt_sent (s : State) (i : Interrupt) : (s.interrupt i).sent = s.sent := (rfl)
@[simp] theorem State.interrupt_rootRecords (s : State) (i : Interrupt) : (s.interrupt i).rootRecords = s.rootRecords := (rfl)
@[simp] theorem State.interrupt_keys (s : State) (i : Interrupt) : (s.interrupt i).keys = s.keys := (rfl)
@[simp] theorem State.interrupt_nextKey (s : State) (i : Interrupt) : (s.interrupt i).nextKey = s.nextKey := (rfl)
@[simp] theorem State.interrupt_collectives (s : State) (i : Interrupt) : (s.interrupt i).collectives = s.collectives := (rfl)
@[simp] theorem State.interrupt_nextCollective (s : State) (i : Interrupt) : (s.interrupt i).nextCollective = s.nextCollective := (rfl)
@[simp] theorem State.interrupt_ready (s : State) (i : Interrupt) : (s.interrupt i).ready = s.ready := (rfl)
@[simp] theorem State.interrupt_merr (s : State) (i : Interrupt) : (s.interrupt i).merr = s.merr := (rfl)
@[simp] theorem State.interrupt_semHeld (s : State) (i : Interrupt) : (s.interrupt i).semHeld = s.semHeld := (rfl)
@[simp] theorem State.interrupt_semOwner (s : State) (i : Interrupt) : (s.interrupt i).semOwner = s.semOwner := (rfl)
@[simp] theorem State.interrupt_dropCnt (s : State) (i : Interrupt) : (s.interrupt i).dropCnt = s.dropCnt := (rfl)
@[simp] theorem State.interrupt_mgr (s : State) (i : Interrupt) : (s.interrupt i).mgr = s.mgr := (rfl)
@[simp] theorem State.interrupt_owned (s : State) (i : Interrupt) : (s.interrupt i).owned = s.owned := (rfl)
@[simp] theorem State.interrupt_removedSlices (s : State) (i : Interrupt) : (s.interrupt i).removedSlices = s.removedSlices := (rfl)
@[simp] theorem State.interrupt_removedCores (s : State) (i : Interrupt) : (s.interrupt i).removedCores = s.removedCores := (rfl)
@[simp] theorem State.interrupt_busy (s : State) (i : Interrupt) : (s.interrupt i).busy = s.busy := (rfl)
@[simp] theorem State.interrupt_tick (s : State) (i : Interrupt) : (s.interrupt i).tick = s.tick := (rfl)
@[simp] theorem State.interrupt_sliceOwner (s : State) (i : Interrupt) : (s.interrupt i).sliceOwner = s.sliceOwner := (rfl)
@[simp] theorem State.interrupt_order (s : State) (i : Interrupt) : (s.interrupt i).order = s.order := (rfl)
@[simp] theorem State.interrupt_freeCtr (s : State) (i : Interrupt) : (s.interrupt i).freeCtr = s.freeCtr := (rfl)
@[simp] theorem State.interrupt_focus (s : State) (i : Interrupt) : (s.interrupt i).focus = s.focus := (rfl)
@[simp] theorem State.interrupt_agenda (s : State) (i : Interrupt) : (s.interrupt i).agenda = s.agenda := (rfl)
@[simp] theorem State.interrupt_constants (s : State) (i : Interrupt) : (s.interrupt i).constants = s.constants := (rfl)
@[simp] theorem State.interrupt_constantsOld (s : State) (i : Interrupt) : (s.interrupt i).constantsOld = s.constantsOld := (rfl)
@[simp] theorem State.interrupt_credits (s : State) (i : Interrupt) : (s.interrupt i).credits = s.credits := (rfl)
@[simp] theorem State.interrupt_owed (s : State) (i : Interrupt) : (s.interrupt i).owed = s.owed := (rfl)
@[simp] theorem State.interrupt_outbox (s : State) (i : Interrupt) : (s.interrupt i).outbox = s.outbox := (rfl)
@[simp] theorem State.interrupt_dirty (s : State) (i : Interrupt) : (s.interrupt i).dirty = s.dirty := (rfl)
@[simp] theorem State.interrupt_emitted (s : State) (i : Interrupt) : (s.interrupt i).emitted = s.emitted := (rfl)
@[simp] theorem State.interrupt_answers (s : State) (i : Interrupt) : (s.interrupt i).answers = s.answers := (rfl)

@[simp] theorem State.unfocus_cores (s : State)  : (s.unfocus ).cores = s.cores := (rfl)
@[simp] theorem State.unfocus_blocks (s : State)  : (s.unfocus ).blocks = s.blocks := (rfl)
@[simp] theorem State.unfocus_nextBlock (s : State)  : (s.unfocus ).nextBlock = s.nextBlock := (rfl)
@[simp] theorem State.unfocus_nextCluster (s : State)  : (s.unfocus ).nextCluster = s.nextCluster := (rfl)
@[simp] theorem State.unfocus_launches (s : State)  : (s.unfocus ).launches = s.launches := (rfl)
@[simp] theorem State.unfocus_nextLaunch (s : State)  : (s.unfocus ).nextLaunch = s.nextLaunch := (rfl)
@[simp] theorem State.unfocus_saved (s : State)  : (s.unfocus ).saved = s.saved := (rfl)
@[simp] theorem State.unfocus_partitions (s : State)  : (s.unfocus ).partitions = s.partitions := (rfl)
@[simp] theorem State.unfocus_ifaces (s : State)  : (s.unfocus ).ifaces = s.ifaces := (rfl)
@[simp] theorem State.unfocus_layers (s : State)  : (s.unfocus ).layers = s.layers := (rfl)
@[simp] theorem State.unfocus_dies (s : State)  : (s.unfocus ).dies = s.dies := (rfl)
@[simp] theorem State.unfocus_mem (s : State)  : (s.unfocus ).mem = s.mem := (rfl)
@[simp] theorem State.unfocus_hostMem (s : State)  : (s.unfocus ).hostMem = s.hostMem := (rfl)
@[simp] theorem State.unfocus_peerMem (s : State)  : (s.unfocus ).peerMem = s.peerMem := (rfl)
@[simp] theorem State.unfocus_chip (s : State)  : (s.unfocus ).chip = s.chip := (rfl)
@[simp] theorem State.unfocus_hints (s : State)  : (s.unfocus ).hints = s.hints := (rfl)
@[simp] theorem State.unfocus_carveout (s : State)  : (s.unfocus ).carveout = s.carveout := (rfl)
@[simp] theorem State.unfocus_drains (s : State)  : (s.unfocus ).drains = s.drains := (rfl)
@[simp] theorem State.unfocus_consists (s : State)  : (s.unfocus ).consists = s.consists := (rfl)
@[simp] theorem State.unfocus_consistReqs (s : State)  : (s.unfocus ).consistReqs = s.consistReqs := (rfl)
@[simp] theorem State.unfocus_launchReqs (s : State)  : (s.unfocus ).launchReqs = s.launchReqs := (rfl)
@[simp] theorem State.unfocus_nextReq (s : State)  : (s.unfocus ).nextReq = s.nextReq := (rfl)
@[simp] theorem State.unfocus_waitingEntries (s : State)  : (s.unfocus ).waitingEntries = s.waitingEntries := (rfl)
@[simp] theorem State.unfocus_rounds (s : State)  : (s.unfocus ).rounds = s.rounds := (rfl)
@[simp] theorem State.unfocus_packets (s : State)  : (s.unfocus ).packets = s.packets := (rfl)
@[simp] theorem State.unfocus_sent (s : State)  : (s.unfocus ).sent = s.sent := (rfl)
@[simp] theorem State.unfocus_rootRecords (s : State)  : (s.unfocus ).rootRecords = s.rootRecords := (rfl)
@[simp] theorem State.unfocus_keys (s : State)  : (s.unfocus ).keys = s.keys := (rfl)
@[simp] theorem State.unfocus_nextKey (s : State)  : (s.unfocus ).nextKey = s.nextKey := (rfl)
@[simp] theorem State.unfocus_collectives (s : State)  : (s.unfocus ).collectives = s.collectives := (rfl)
@[simp] theorem State.unfocus_nextCollective (s : State)  : (s.unfocus ).nextCollective = s.nextCollective := (rfl)
@[simp] theorem State.unfocus_ready (s : State)  : (s.unfocus ).ready = s.ready := (rfl)
@[simp] theorem State.unfocus_merr (s : State)  : (s.unfocus ).merr = s.merr := (rfl)
@[simp] theorem State.unfocus_semHeld (s : State)  : (s.unfocus ).semHeld = s.semHeld := (rfl)
@[simp] theorem State.unfocus_semOwner (s : State)  : (s.unfocus ).semOwner = s.semOwner := (rfl)
@[simp] theorem State.unfocus_dropCnt (s : State)  : (s.unfocus ).dropCnt = s.dropCnt := (rfl)
@[simp] theorem State.unfocus_mgr (s : State)  : (s.unfocus ).mgr = s.mgr := (rfl)
@[simp] theorem State.unfocus_owned (s : State)  : (s.unfocus ).owned = s.owned := (rfl)
@[simp] theorem State.unfocus_removedSlices (s : State)  : (s.unfocus ).removedSlices = s.removedSlices := (rfl)
@[simp] theorem State.unfocus_removedCores (s : State)  : (s.unfocus ).removedCores = s.removedCores := (rfl)
@[simp] theorem State.unfocus_interrupts (s : State)  : (s.unfocus ).interrupts = s.interrupts := (rfl)
@[simp] theorem State.unfocus_busy (s : State)  : (s.unfocus ).busy = s.busy := (rfl)
@[simp] theorem State.unfocus_tick (s : State)  : (s.unfocus ).tick = s.tick := (rfl)
@[simp] theorem State.unfocus_sliceOwner (s : State)  : (s.unfocus ).sliceOwner = s.sliceOwner := (rfl)
@[simp] theorem State.unfocus_order (s : State)  : (s.unfocus ).order = s.order := (rfl)
@[simp] theorem State.unfocus_freeCtr (s : State)  : (s.unfocus ).freeCtr = s.freeCtr := (rfl)
@[simp] theorem State.unfocus_agenda (s : State)  : (s.unfocus ).agenda = s.agenda := (rfl)

@[simp] theorem State.unfocus_focus (s : State) : s.unfocus.focus = none := (rfl)
@[simp] theorem State.unfocus_constants (s : State) : s.unfocus.constants = s.constants := (rfl)
@[simp] theorem State.unfocus_constantsOld (s : State) : s.unfocus.constantsOld = s.constantsOld := (rfl)
@[simp] theorem State.unfocus_credits (s : State) : s.unfocus.credits = s.credits := (rfl)
@[simp] theorem State.unfocus_owed (s : State) : s.unfocus.owed = s.owed := (rfl)
@[simp] theorem State.unfocus_outbox (s : State) : s.unfocus.outbox = s.outbox := (rfl)
@[simp] theorem State.unfocus_dirty (s : State) : s.unfocus.dirty = s.dirty := (rfl)
@[simp] theorem State.unfocus_emitted (s : State) : s.unfocus.emitted = s.emitted := (rfl)
@[simp] theorem State.unfocus_answers (s : State) : s.unfocus.answers = s.answers := (rfl)

/-! ## Its parts, read after an update -/

@[simp] theorem State.core_setBlock (s : State) (b : Nat) (x : Block) (j : Nat) : (s.setBlock b x).core j = s.core j := (rfl)
@[simp] theorem State.core_setLaunch (s : State) (l : Nat) (x : Launch) (j : Nat) : (s.setLaunch l x).core j = s.core j := (rfl)
@[simp] theorem State.core_setPartition (s : State) (p : Nat) (x : Partition) (j : Nat) : (s.setPartition p x).core j = s.core j := (rfl)
@[simp] theorem State.core_setIface (s : State) (i : Nat) (x : Iface) (j : Nat) : (s.setIface i x).core j = s.core j := (rfl)
@[simp] theorem State.core_setDie (s : State) (d : Nat) (x : Die) (j : Nat) : (s.setDie d x).core j = s.core j := (rfl)
@[simp] theorem State.core_interrupt (s : State) (i : Interrupt) (j : Nat) : (s.interrupt i).core j = s.core j := (rfl)
@[simp] theorem State.core_unfocus (s : State)  (j : Nat) : (s.unfocus ).core j = s.core j := (rfl)
@[simp] theorem State.core_setCore_same (s : State) (j : Nat) (k : Core) : (s.setCore j k).core j = k := by simp [State.core, State.setCore]
theorem State.core_setCore_ne (s : State) {i j : Nat} (k : Core) (h : i ≠ j) : (s.setCore i k).core j = s.core j := by simp [State.core, State.setCore, tget_tput, h]

@[simp] theorem State.block_setCore (s : State) (c : Nat) (k : Core) (j : Nat) : (s.setCore c k).block j = s.block j := (rfl)
@[simp] theorem State.block_setLaunch (s : State) (l : Nat) (x : Launch) (j : Nat) : (s.setLaunch l x).block j = s.block j := (rfl)
@[simp] theorem State.block_setPartition (s : State) (p : Nat) (x : Partition) (j : Nat) : (s.setPartition p x).block j = s.block j := (rfl)
@[simp] theorem State.block_setIface (s : State) (i : Nat) (x : Iface) (j : Nat) : (s.setIface i x).block j = s.block j := (rfl)
@[simp] theorem State.block_setDie (s : State) (d : Nat) (x : Die) (j : Nat) : (s.setDie d x).block j = s.block j := (rfl)
@[simp] theorem State.block_interrupt (s : State) (i : Interrupt) (j : Nat) : (s.interrupt i).block j = s.block j := (rfl)
@[simp] theorem State.block_unfocus (s : State)  (j : Nat) : (s.unfocus ).block j = s.block j := (rfl)
@[simp] theorem State.block_setGroup (s : State) (c g : Nat) (x : Group) (j : Nat) : (s.setGroup c g x).block j = s.block j := (rfl)
@[simp] theorem State.block_setBlock_same (s : State) (j : Nat) (x : Block) : (s.setBlock j x).block j = some x := by simp [State.block, State.setBlock]
theorem State.block_setBlock_ne (s : State) {i j : Nat} (x : Block) (h : i ≠ j) : (s.setBlock i x).block j = s.block j := by simp [State.block, State.setBlock, tget_tput, h]

@[simp] theorem State.launch_setCore (s : State) (c : Nat) (k : Core) (j : Nat) : (s.setCore c k).launch j = s.launch j := (rfl)
@[simp] theorem State.launch_setBlock (s : State) (b : Nat) (x : Block) (j : Nat) : (s.setBlock b x).launch j = s.launch j := (rfl)
@[simp] theorem State.launch_setPartition (s : State) (p : Nat) (x : Partition) (j : Nat) : (s.setPartition p x).launch j = s.launch j := (rfl)
@[simp] theorem State.launch_setIface (s : State) (i : Nat) (x : Iface) (j : Nat) : (s.setIface i x).launch j = s.launch j := (rfl)
@[simp] theorem State.launch_setDie (s : State) (d : Nat) (x : Die) (j : Nat) : (s.setDie d x).launch j = s.launch j := (rfl)
@[simp] theorem State.launch_interrupt (s : State) (i : Interrupt) (j : Nat) : (s.interrupt i).launch j = s.launch j := (rfl)
@[simp] theorem State.launch_unfocus (s : State)  (j : Nat) : (s.unfocus ).launch j = s.launch j := (rfl)
@[simp] theorem State.launch_setGroup (s : State) (c g : Nat) (x : Group) (j : Nat) : (s.setGroup c g x).launch j = s.launch j := (rfl)
@[simp] theorem State.launch_setLaunch_same (s : State) (j : Nat) (x : Launch) : (s.setLaunch j x).launch j = some x := by simp [State.launch, State.setLaunch]
theorem State.launch_setLaunch_ne (s : State) {i j : Nat} (x : Launch) (h : i ≠ j) : (s.setLaunch i x).launch j = s.launch j := by simp [State.launch, State.setLaunch, tget_tput, h]

@[simp] theorem State.partition_setCore (s : State) (c : Nat) (k : Core) (j : Nat) : (s.setCore c k).partition j = s.partition j := (rfl)
@[simp] theorem State.partition_setBlock (s : State) (b : Nat) (x : Block) (j : Nat) : (s.setBlock b x).partition j = s.partition j := (rfl)
@[simp] theorem State.partition_setLaunch (s : State) (l : Nat) (x : Launch) (j : Nat) : (s.setLaunch l x).partition j = s.partition j := (rfl)
@[simp] theorem State.partition_setIface (s : State) (i : Nat) (x : Iface) (j : Nat) : (s.setIface i x).partition j = s.partition j := (rfl)
@[simp] theorem State.partition_setDie (s : State) (d : Nat) (x : Die) (j : Nat) : (s.setDie d x).partition j = s.partition j := (rfl)
@[simp] theorem State.partition_interrupt (s : State) (i : Interrupt) (j : Nat) : (s.interrupt i).partition j = s.partition j := (rfl)
@[simp] theorem State.partition_unfocus (s : State)  (j : Nat) : (s.unfocus ).partition j = s.partition j := (rfl)
@[simp] theorem State.partition_setGroup (s : State) (c g : Nat) (x : Group) (j : Nat) : (s.setGroup c g x).partition j = s.partition j := (rfl)
@[simp] theorem State.partition_setPartition_same (s : State) (j : Nat) (x : Partition) : (s.setPartition j x).partition j = x := by simp [State.partition, State.setPartition]
theorem State.partition_setPartition_ne (s : State) {i j : Nat} (x : Partition) (h : i ≠ j) : (s.setPartition i x).partition j = s.partition j := by simp [State.partition, State.setPartition, tget_tput, h]

@[simp] theorem State.iface_setCore (s : State) (c : Nat) (k : Core) (j : Nat) : (s.setCore c k).iface j = s.iface j := (rfl)
@[simp] theorem State.iface_setBlock (s : State) (b : Nat) (x : Block) (j : Nat) : (s.setBlock b x).iface j = s.iface j := (rfl)
@[simp] theorem State.iface_setLaunch (s : State) (l : Nat) (x : Launch) (j : Nat) : (s.setLaunch l x).iface j = s.iface j := (rfl)
@[simp] theorem State.iface_setPartition (s : State) (p : Nat) (x : Partition) (j : Nat) : (s.setPartition p x).iface j = s.iface j := (rfl)
@[simp] theorem State.iface_setDie (s : State) (d : Nat) (x : Die) (j : Nat) : (s.setDie d x).iface j = s.iface j := (rfl)
@[simp] theorem State.iface_interrupt (s : State) (i : Interrupt) (j : Nat) : (s.interrupt i).iface j = s.iface j := (rfl)
@[simp] theorem State.iface_unfocus (s : State)  (j : Nat) : (s.unfocus ).iface j = s.iface j := (rfl)
@[simp] theorem State.iface_setGroup (s : State) (c g : Nat) (x : Group) (j : Nat) : (s.setGroup c g x).iface j = s.iface j := (rfl)
@[simp] theorem State.iface_setIface_same (s : State) (j : Nat) (x : Iface) : (s.setIface j x).iface j = x := by simp [State.iface, State.setIface]
theorem State.iface_setIface_ne (s : State) {i j : Nat} (x : Iface) (h : i ≠ j) : (s.setIface i x).iface j = s.iface j := by simp [State.iface, State.setIface, tget_tput, h]

@[simp] theorem State.die_setCore (s : State) (c : Nat) (k : Core) (j : Nat) : (s.setCore c k).die j = s.die j := (rfl)
@[simp] theorem State.die_setBlock (s : State) (b : Nat) (x : Block) (j : Nat) : (s.setBlock b x).die j = s.die j := (rfl)
@[simp] theorem State.die_setLaunch (s : State) (l : Nat) (x : Launch) (j : Nat) : (s.setLaunch l x).die j = s.die j := (rfl)
@[simp] theorem State.die_setPartition (s : State) (p : Nat) (x : Partition) (j : Nat) : (s.setPartition p x).die j = s.die j := (rfl)
@[simp] theorem State.die_setIface (s : State) (i : Nat) (x : Iface) (j : Nat) : (s.setIface i x).die j = s.die j := (rfl)
@[simp] theorem State.die_interrupt (s : State) (i : Interrupt) (j : Nat) : (s.interrupt i).die j = s.die j := (rfl)
@[simp] theorem State.die_unfocus (s : State)  (j : Nat) : (s.unfocus ).die j = s.die j := (rfl)
@[simp] theorem State.die_setGroup (s : State) (c g : Nat) (x : Group) (j : Nat) : (s.setGroup c g x).die j = s.die j := (rfl)
@[simp] theorem State.die_setDie_same (s : State) (j : Nat) (x : Die) : (s.setDie j x).die j = x := by simp [State.die, State.setDie]
theorem State.die_setDie_ne (s : State) {i j : Nat} (x : Die) (h : i ≠ j) : (s.setDie i x).die j = s.die j := by simp [State.die, State.setDie, tget_tput, h]

@[simp] theorem State.group_setBlock (s : State) (b : Nat) (x : Block) (cc gg : Nat) : (s.setBlock b x).group cc gg = s.group cc gg := (rfl)
@[simp] theorem State.group_setLaunch (s : State) (l : Nat) (x : Launch) (cc gg : Nat) : (s.setLaunch l x).group cc gg = s.group cc gg := (rfl)
@[simp] theorem State.group_setPartition (s : State) (p : Nat) (x : Partition) (cc gg : Nat) : (s.setPartition p x).group cc gg = s.group cc gg := (rfl)
@[simp] theorem State.group_setIface (s : State) (i : Nat) (x : Iface) (cc gg : Nat) : (s.setIface i x).group cc gg = s.group cc gg := (rfl)
@[simp] theorem State.group_setDie (s : State) (d : Nat) (x : Die) (cc gg : Nat) : (s.setDie d x).group cc gg = s.group cc gg := (rfl)
@[simp] theorem State.group_interrupt (s : State) (i : Interrupt) (cc gg : Nat) : (s.interrupt i).group cc gg = s.group cc gg := (rfl)
@[simp] theorem State.group_unfocus (s : State)  (cc gg : Nat) : (s.unfocus ).group cc gg = s.group cc gg := (rfl)
@[simp] theorem Core.group_setGroup_same (k : Core) (g : Nat) (x : Option Group) : (k.setGroup g x).group g = x := by
  simp [Core.group, Core.setGroup]
theorem Core.group_setGroup_ne (k : Core) {g j : Nat} (x : Option Group) (h : g ≠ j) : (k.setGroup g x).group j = k.group j := by
  simp [Core.group, Core.setGroup, tget_tput, h]
@[simp] theorem State.group_setGroup_same (s : State) (c g : Nat) (x : Group) : (s.setGroup c g x).group c g = some x := by
  simp [State.group, State.setGroup]
theorem State.group_setGroup_ne (s : State) {c g i j : Nat} (x : Group) (h : ¬(c = i ∧ g = j)) :
    (s.setGroup c g x).group i j = s.group i j := by
  by_cases hc : c = i
  · subst hc
    have hg : g ≠ j := fun e => h ⟨rfl, e⟩
    simp [State.group, State.setGroup, Core.group_setGroup_ne _ _ hg]
  · simp [State.group, State.setGroup, State.core_setCore_ne _ _ hc]
@[simp] theorem State.core_setGroup_same (s : State) (c g : Nat) (x : Group) :
    (s.setGroup c g x).core c = (s.core c).setGroup g (some x) := by simp [State.setGroup]
theorem State.core_setGroup_ne (s : State) {c i : Nat} (g : Nat) (x : Group) (h : c ≠ i) :
    (s.setGroup c g x).core i = s.core i := by simp [State.setGroup, State.core_setCore_ne _ _ h]

/-! ## A core -/

@[simp] theorem Core.setGroup_cycle (k : Core) (g : Nat) (x : Option Group) : (k.setGroup g x).cycle = k.cycle := (rfl)
@[simp] theorem Core.setGroup_cycSlots (k : Core) (g : Nat) (x : Option Group) : (k.setGroup g x).cycSlots = k.cycSlots := (rfl)
@[simp] theorem Core.setGroup_tables (k : Core) (g : Nat) (x : Option Group) : (k.setGroup g x).tables = k.tables := (rfl)
@[simp] theorem Core.setGroup_pins (k : Core) (g : Nat) (x : Option Group) : (k.setGroup g x).pins = k.pins := (rfl)
@[simp] theorem Core.setGroup_loads (k : Core) (g : Nat) (x : Option Group) : (k.setGroup g x).loads = k.loads := (rfl)
@[simp] theorem Core.setGroup_rets (k : Core) (g : Nat) (x : Option Group) : (k.setGroup g x).rets = k.rets := (rfl)
@[simp] theorem Core.setGroup_stores (k : Core) (g : Nat) (x : Option Group) : (k.setGroup g x).stores = k.stores := (rfl)
@[simp] theorem Core.setGroup_atoms (k : Core) (g : Nat) (x : Option Group) : (k.setGroup g x).atoms = k.atoms := (rfl)
@[simp] theorem Core.setGroup_releases (k : Core) (g : Nat) (x : Option Group) : (k.setGroup g x).releases = k.releases := (rfl)
@[simp] theorem Core.setGroup_sideLog (k : Core) (g : Nat) (x : Option Group) : (k.setGroup g x).sideLog = k.sideLog := (rfl)
@[simp] theorem Core.setGroup_nextId (k : Core) (g : Nat) (x : Option Group) : (k.setGroup g x).nextId = k.nextId := (rfl)
@[simp] theorem Core.setGroup_snap (k : Core) (g : Nat) (x : Option Group) : (k.setGroup g x).snap = k.snap := (rfl)
@[simp] theorem Core.setGroup_old (k : Core) (g : Nat) (x : Option Group) : (k.setGroup g x).old = k.old := (rfl)
@[simp] theorem Core.setGroup_icache (k : Core) (g : Nat) (x : Option Group) : (k.setGroup g x).icache = k.icache := (rfl)
@[simp] theorem Core.setGroup_tlb (k : Core) (g : Nat) (x : Option Group) : (k.setGroup g x).tlb = k.tlb := (rfl)
@[simp] theorem Core.setGroup_mx (k : Core) (g : Nat) (x : Option Group) : (k.setGroup g x).mx = k.mx := (rfl)
@[simp] theorem Core.setGroup_mxLast (k : Core) (g : Nat) (x : Option Group) : (k.setGroup g x).mxLast = k.mxLast := (rfl)
@[simp] theorem Core.setGroup_ae (k : Core) (g : Nat) (x : Option Group) : (k.setGroup g x).ae = k.ae := (rfl)
@[simp] theorem Core.setGroup_aeLast (k : Core) (g : Nat) (x : Option Group) : (k.setGroup g x).aeLast = k.aeLast := (rfl)
@[simp] theorem Core.setGroup_ceA (k : Core) (g : Nat) (x : Option Group) : (k.setGroup g x).ceA = k.ceA := (rfl)
@[simp] theorem Core.setGroup_ceALast (k : Core) (g : Nat) (x : Option Group) : (k.setGroup g x).ceALast = k.ceALast := (rfl)
@[simp] theorem Core.setGroup_ceB (k : Core) (g : Nat) (x : Option Group) : (k.setGroup g x).ceB = k.ceB := (rfl)
@[simp] theorem Core.setGroup_ceBLast (k : Core) (g : Nat) (x : Option Group) : (k.setGroup g x).ceBLast = k.ceBLast := (rfl)

/-! ## A group -/

@[simp] theorem Group.mapLanes_launch (g : Group) (m : LaneMask) (f : Nat → Thread → Thread) : (g.mapLanes m f).launch = g.launch := by simp only [Group.mapLanes]
@[simp] theorem Group.mapLanes_block (g : Group) (m : LaneMask) (f : Nat → Thread → Thread) : (g.mapLanes m f).block = g.block := by simp only [Group.mapLanes]
@[simp] theorem Group.mapLanes_role (g : Group) (m : LaneMask) (f : Nat → Thread → Thread) : (g.mapLanes m f).role = g.role := by simp only [Group.mapLanes]
@[simp] theorem Group.mapLanes_grp (g : Group) (m : LaneMask) (f : Nat → Thread → Thread) : (g.mapLanes m f).grp = g.grp := by simp only [Group.mapLanes]
@[simp] theorem Group.mapLanes_cls (g : Group) (m : LaneMask) (f : Nat → Thread → Thread) : (g.mapLanes m f).cls = g.cls := by simp only [Group.mapLanes]
@[simp] theorem Group.mapLanes_s (g : Group) (m : LaneMask) (f : Nat → Thread → Thread) : (g.mapLanes m f).s = g.s := by simp only [Group.mapLanes]
@[simp] theorem Group.mapLanes_sPend (g : Group) (m : LaneMask) (f : Nat → Thread → Thread) : (g.mapLanes m f).sPend = g.sPend := by simp only [Group.mapLanes]
@[simp] theorem Group.mapLanes_m (g : Group) (m : LaneMask) (f : Nat → Thread → Thread) : (g.mapLanes m f).m = g.m := by simp only [Group.mapLanes]
@[simp] theorem Group.mapLanes_arrived (g : Group) (m : LaneMask) (f : Nat → Thread → Thread) : (g.mapLanes m f).arrived = g.arrived := by simp only [Group.mapLanes]
@[simp] theorem Group.mapLanes_trapCause (g : Group) (m : LaneMask) (f : Nat → Thread → Thread) : (g.mapLanes m f).trapCause = g.trapCause := by simp only [Group.mapLanes]
@[simp] theorem Group.mapLanes_trapPc (g : Group) (m : LaneMask) (f : Nat → Thread → Thread) : (g.mapLanes m f).trapPc = g.trapPc := by simp only [Group.mapLanes]
@[simp] theorem Group.mapLanes_trapMask (g : Group) (m : LaneMask) (f : Nat → Thread → Thread) : (g.mapLanes m f).trapMask = g.trapMask := by simp only [Group.mapLanes]
@[simp] theorem Group.mapLanes_trapVal (g : Group) (m : LaneMask) (f : Nat → Thread → Thread) : (g.mapLanes m f).trapVal = g.trapVal := by simp only [Group.mapLanes]
@[simp] theorem Group.mapLanes_savedBase (g : Group) (m : LaneMask) (f : Nat → Thread → Thread) : (g.mapLanes m f).savedBase = g.savedBase := by simp only [Group.mapLanes]
@[simp] theorem Group.mapLanes_handlerSet (g : Group) (m : LaneMask) (f : Nat → Thread → Thread) : (g.mapLanes m f).handlerSet = g.handlerSet := by simp only [Group.mapLanes]
@[simp] theorem Group.mapLanes_handler (g : Group) (m : LaneMask) (f : Nat → Thread → Thread) : (g.mapLanes m f).handler = g.handler := by simp only [Group.mapLanes]
@[simp] theorem Group.mapLanes_handlerNext (g : Group) (m : LaneMask) (f : Nat → Thread → Thread) : (g.mapLanes m f).handlerNext = g.handlerNext := by simp only [Group.mapLanes]
@[simp] theorem Group.mapLanes_heldTraps (g : Group) (m : LaneMask) (f : Nat → Thread → Thread) : (g.mapLanes m f).heldTraps = g.heldTraps := by simp only [Group.mapLanes]
@[simp] theorem Group.mapLanes_queues (g : Group) (m : LaneMask) (f : Nat → Thread → Thread) : (g.mapLanes m f).queues = g.queues := by simp only [Group.mapLanes]
@[simp] theorem Group.mapLanes_mxFmt (g : Group) (m : LaneMask) (f : Nat → Thread → Thread) : (g.mapLanes m f).mxFmt = g.mxFmt := by simp only [Group.mapLanes]
@[simp] theorem Group.mapLanes_aeFmt (g : Group) (m : LaneMask) (f : Nat → Thread → Thread) : (g.mapLanes m f).aeFmt = g.aeFmt := by simp only [Group.mapLanes]
@[simp] theorem Group.mapLanes_unanswered (g : Group) (m : LaneMask) (f : Nat → Thread → Thread) : (g.mapLanes m f).unanswered = g.unanswered := by simp only [Group.mapLanes]
@[simp] theorem Group.mapLanes_seqs (g : Group) (m : LaneMask) (f : Nat → Thread → Thread) : (g.mapLanes m f).seqs = g.seqs := by simp only [Group.mapLanes]
@[simp] theorem Group.mapLanes_paths (g : Group) (m : LaneMask) (f : Nat → Thread → Thread) : (g.mapLanes m f).paths = g.paths := by simp only [Group.mapLanes]
@[simp] theorem Group.mapLanes_run (g : Group) (m : LaneMask) (f : Nat → Thread → Thread) : (g.mapLanes m f).run = g.run := by simp only [Group.mapLanes]
@[simp] theorem Group.mapLanes_hold (g : Group) (m : LaneMask) (f : Nat → Thread → Thread) : (g.mapLanes m f).hold = g.hold := by simp only [Group.mapLanes]
@[simp] theorem Group.mapLanes_since (g : Group) (m : LaneMask) (f : Nat → Thread → Thread) : (g.mapLanes m f).since = g.since := by simp only [Group.mapLanes]
@[simp] theorem Group.mapLanes_restarted (g : Group) (m : LaneMask) (f : Nat → Thread → Thread) : (g.mapLanes m f).restarted = g.restarted := by simp only [Group.mapLanes]
@[simp] theorem Group.mapLanes_fetchWait (g : Group) (m : LaneMask) (f : Nat → Thread → Thread) : (g.mapLanes m f).fetchWait = g.fetchWait := by simp only [Group.mapLanes]
@[simp] theorem Group.mapLanes_jumps (g : Group) (m : LaneMask) (f : Nat → Thread → Thread) : (g.mapLanes m f).jumps = g.jumps := by simp only [Group.mapLanes]
@[simp] theorem Group.mapLanes_countWait (g : Group) (m : LaneMask) (f : Nat → Thread → Thread) : (g.mapLanes m f).countWait = g.countWait := by simp only [Group.mapLanes]
@[simp] theorem Group.mapLanes_stopped (g : Group) (m : LaneMask) (f : Nat → Thread → Thread) : (g.mapLanes m f).stopped = g.stopped := by simp only [Group.mapLanes]

@[simp] theorem Group.setSreg_launch (g : Group) (r : Nat) (x : Word) : (g.setSreg r x).launch = g.launch := (rfl)
@[simp] theorem Group.setSreg_block (g : Group) (r : Nat) (x : Word) : (g.setSreg r x).block = g.block := (rfl)
@[simp] theorem Group.setSreg_role (g : Group) (r : Nat) (x : Word) : (g.setSreg r x).role = g.role := (rfl)
@[simp] theorem Group.setSreg_grp (g : Group) (r : Nat) (x : Word) : (g.setSreg r x).grp = g.grp := (rfl)
@[simp] theorem Group.setSreg_cls (g : Group) (r : Nat) (x : Word) : (g.setSreg r x).cls = g.cls := (rfl)
@[simp] theorem Group.setSreg_threads (g : Group) (r : Nat) (x : Word) : (g.setSreg r x).threads = g.threads := (rfl)
@[simp] theorem Group.setSreg_sPend (g : Group) (r : Nat) (x : Word) : (g.setSreg r x).sPend = g.sPend := (rfl)
@[simp] theorem Group.setSreg_m (g : Group) (r : Nat) (x : Word) : (g.setSreg r x).m = g.m := (rfl)
@[simp] theorem Group.setSreg_arrived (g : Group) (r : Nat) (x : Word) : (g.setSreg r x).arrived = g.arrived := (rfl)
@[simp] theorem Group.setSreg_trapCause (g : Group) (r : Nat) (x : Word) : (g.setSreg r x).trapCause = g.trapCause := (rfl)
@[simp] theorem Group.setSreg_trapPc (g : Group) (r : Nat) (x : Word) : (g.setSreg r x).trapPc = g.trapPc := (rfl)
@[simp] theorem Group.setSreg_trapMask (g : Group) (r : Nat) (x : Word) : (g.setSreg r x).trapMask = g.trapMask := (rfl)
@[simp] theorem Group.setSreg_trapVal (g : Group) (r : Nat) (x : Word) : (g.setSreg r x).trapVal = g.trapVal := (rfl)
@[simp] theorem Group.setSreg_savedBase (g : Group) (r : Nat) (x : Word) : (g.setSreg r x).savedBase = g.savedBase := (rfl)
@[simp] theorem Group.setSreg_handlerSet (g : Group) (r : Nat) (x : Word) : (g.setSreg r x).handlerSet = g.handlerSet := (rfl)
@[simp] theorem Group.setSreg_handler (g : Group) (r : Nat) (x : Word) : (g.setSreg r x).handler = g.handler := (rfl)
@[simp] theorem Group.setSreg_handlerNext (g : Group) (r : Nat) (x : Word) : (g.setSreg r x).handlerNext = g.handlerNext := (rfl)
@[simp] theorem Group.setSreg_heldTraps (g : Group) (r : Nat) (x : Word) : (g.setSreg r x).heldTraps = g.heldTraps := (rfl)
@[simp] theorem Group.setSreg_queues (g : Group) (r : Nat) (x : Word) : (g.setSreg r x).queues = g.queues := (rfl)
@[simp] theorem Group.setSreg_mxFmt (g : Group) (r : Nat) (x : Word) : (g.setSreg r x).mxFmt = g.mxFmt := (rfl)
@[simp] theorem Group.setSreg_aeFmt (g : Group) (r : Nat) (x : Word) : (g.setSreg r x).aeFmt = g.aeFmt := (rfl)
@[simp] theorem Group.setSreg_unanswered (g : Group) (r : Nat) (x : Word) : (g.setSreg r x).unanswered = g.unanswered := (rfl)
@[simp] theorem Group.setSreg_seqs (g : Group) (r : Nat) (x : Word) : (g.setSreg r x).seqs = g.seqs := (rfl)
@[simp] theorem Group.setSreg_paths (g : Group) (r : Nat) (x : Word) : (g.setSreg r x).paths = g.paths := (rfl)
@[simp] theorem Group.setSreg_run (g : Group) (r : Nat) (x : Word) : (g.setSreg r x).run = g.run := (rfl)
@[simp] theorem Group.setSreg_hold (g : Group) (r : Nat) (x : Word) : (g.setSreg r x).hold = g.hold := (rfl)
@[simp] theorem Group.setSreg_since (g : Group) (r : Nat) (x : Word) : (g.setSreg r x).since = g.since := (rfl)
@[simp] theorem Group.setSreg_restarted (g : Group) (r : Nat) (x : Word) : (g.setSreg r x).restarted = g.restarted := (rfl)
@[simp] theorem Group.setSreg_fetchWait (g : Group) (r : Nat) (x : Word) : (g.setSreg r x).fetchWait = g.fetchWait := (rfl)
@[simp] theorem Group.setSreg_jumps (g : Group) (r : Nat) (x : Word) : (g.setSreg r x).jumps = g.jumps := (rfl)
@[simp] theorem Group.setSreg_countWait (g : Group) (r : Nat) (x : Word) : (g.setSreg r x).countWait = g.countWait := (rfl)
@[simp] theorem Group.setSreg_stopped (g : Group) (r : Nat) (x : Word) : (g.setSreg r x).stopped = g.stopped := (rfl)

@[simp] theorem Group.setQueue_launch (g : Group) (q : Nat) (x : List Dword) : (g.setQueue q x).launch = g.launch := (rfl)
@[simp] theorem Group.setQueue_block (g : Group) (q : Nat) (x : List Dword) : (g.setQueue q x).block = g.block := (rfl)
@[simp] theorem Group.setQueue_role (g : Group) (q : Nat) (x : List Dword) : (g.setQueue q x).role = g.role := (rfl)
@[simp] theorem Group.setQueue_grp (g : Group) (q : Nat) (x : List Dword) : (g.setQueue q x).grp = g.grp := (rfl)
@[simp] theorem Group.setQueue_cls (g : Group) (q : Nat) (x : List Dword) : (g.setQueue q x).cls = g.cls := (rfl)
@[simp] theorem Group.setQueue_threads (g : Group) (q : Nat) (x : List Dword) : (g.setQueue q x).threads = g.threads := (rfl)
@[simp] theorem Group.setQueue_s (g : Group) (q : Nat) (x : List Dword) : (g.setQueue q x).s = g.s := (rfl)
@[simp] theorem Group.setQueue_sPend (g : Group) (q : Nat) (x : List Dword) : (g.setQueue q x).sPend = g.sPend := (rfl)
@[simp] theorem Group.setQueue_m (g : Group) (q : Nat) (x : List Dword) : (g.setQueue q x).m = g.m := (rfl)
@[simp] theorem Group.setQueue_arrived (g : Group) (q : Nat) (x : List Dword) : (g.setQueue q x).arrived = g.arrived := (rfl)
@[simp] theorem Group.setQueue_trapCause (g : Group) (q : Nat) (x : List Dword) : (g.setQueue q x).trapCause = g.trapCause := (rfl)
@[simp] theorem Group.setQueue_trapPc (g : Group) (q : Nat) (x : List Dword) : (g.setQueue q x).trapPc = g.trapPc := (rfl)
@[simp] theorem Group.setQueue_trapMask (g : Group) (q : Nat) (x : List Dword) : (g.setQueue q x).trapMask = g.trapMask := (rfl)
@[simp] theorem Group.setQueue_trapVal (g : Group) (q : Nat) (x : List Dword) : (g.setQueue q x).trapVal = g.trapVal := (rfl)
@[simp] theorem Group.setQueue_savedBase (g : Group) (q : Nat) (x : List Dword) : (g.setQueue q x).savedBase = g.savedBase := (rfl)
@[simp] theorem Group.setQueue_handlerSet (g : Group) (q : Nat) (x : List Dword) : (g.setQueue q x).handlerSet = g.handlerSet := (rfl)
@[simp] theorem Group.setQueue_handler (g : Group) (q : Nat) (x : List Dword) : (g.setQueue q x).handler = g.handler := (rfl)
@[simp] theorem Group.setQueue_handlerNext (g : Group) (q : Nat) (x : List Dword) : (g.setQueue q x).handlerNext = g.handlerNext := (rfl)
@[simp] theorem Group.setQueue_heldTraps (g : Group) (q : Nat) (x : List Dword) : (g.setQueue q x).heldTraps = g.heldTraps := (rfl)
@[simp] theorem Group.setQueue_mxFmt (g : Group) (q : Nat) (x : List Dword) : (g.setQueue q x).mxFmt = g.mxFmt := (rfl)
@[simp] theorem Group.setQueue_aeFmt (g : Group) (q : Nat) (x : List Dword) : (g.setQueue q x).aeFmt = g.aeFmt := (rfl)
@[simp] theorem Group.setQueue_unanswered (g : Group) (q : Nat) (x : List Dword) : (g.setQueue q x).unanswered = g.unanswered := (rfl)
@[simp] theorem Group.setQueue_seqs (g : Group) (q : Nat) (x : List Dword) : (g.setQueue q x).seqs = g.seqs := (rfl)
@[simp] theorem Group.setQueue_paths (g : Group) (q : Nat) (x : List Dword) : (g.setQueue q x).paths = g.paths := (rfl)
@[simp] theorem Group.setQueue_run (g : Group) (q : Nat) (x : List Dword) : (g.setQueue q x).run = g.run := (rfl)
@[simp] theorem Group.setQueue_hold (g : Group) (q : Nat) (x : List Dword) : (g.setQueue q x).hold = g.hold := (rfl)
@[simp] theorem Group.setQueue_since (g : Group) (q : Nat) (x : List Dword) : (g.setQueue q x).since = g.since := (rfl)
@[simp] theorem Group.setQueue_restarted (g : Group) (q : Nat) (x : List Dword) : (g.setQueue q x).restarted = g.restarted := (rfl)
@[simp] theorem Group.setQueue_fetchWait (g : Group) (q : Nat) (x : List Dword) : (g.setQueue q x).fetchWait = g.fetchWait := (rfl)
@[simp] theorem Group.setQueue_jumps (g : Group) (q : Nat) (x : List Dword) : (g.setQueue q x).jumps = g.jumps := (rfl)
@[simp] theorem Group.setQueue_countWait (g : Group) (q : Nat) (x : List Dword) : (g.setQueue q x).countWait = g.countWait := (rfl)
@[simp] theorem Group.setQueue_stopped (g : Group) (q : Nat) (x : List Dword) : (g.setQueue q x).stopped = g.stopped := (rfl)

@[simp] theorem Group.setUnans_launch (g : Group) (q n : Nat) : (g.setUnans q n).launch = g.launch := (rfl)
@[simp] theorem Group.setUnans_block (g : Group) (q n : Nat) : (g.setUnans q n).block = g.block := (rfl)
@[simp] theorem Group.setUnans_role (g : Group) (q n : Nat) : (g.setUnans q n).role = g.role := (rfl)
@[simp] theorem Group.setUnans_grp (g : Group) (q n : Nat) : (g.setUnans q n).grp = g.grp := (rfl)
@[simp] theorem Group.setUnans_cls (g : Group) (q n : Nat) : (g.setUnans q n).cls = g.cls := (rfl)
@[simp] theorem Group.setUnans_threads (g : Group) (q n : Nat) : (g.setUnans q n).threads = g.threads := (rfl)
@[simp] theorem Group.setUnans_s (g : Group) (q n : Nat) : (g.setUnans q n).s = g.s := (rfl)
@[simp] theorem Group.setUnans_sPend (g : Group) (q n : Nat) : (g.setUnans q n).sPend = g.sPend := (rfl)
@[simp] theorem Group.setUnans_m (g : Group) (q n : Nat) : (g.setUnans q n).m = g.m := (rfl)
@[simp] theorem Group.setUnans_arrived (g : Group) (q n : Nat) : (g.setUnans q n).arrived = g.arrived := (rfl)
@[simp] theorem Group.setUnans_trapCause (g : Group) (q n : Nat) : (g.setUnans q n).trapCause = g.trapCause := (rfl)
@[simp] theorem Group.setUnans_trapPc (g : Group) (q n : Nat) : (g.setUnans q n).trapPc = g.trapPc := (rfl)
@[simp] theorem Group.setUnans_trapMask (g : Group) (q n : Nat) : (g.setUnans q n).trapMask = g.trapMask := (rfl)
@[simp] theorem Group.setUnans_trapVal (g : Group) (q n : Nat) : (g.setUnans q n).trapVal = g.trapVal := (rfl)
@[simp] theorem Group.setUnans_savedBase (g : Group) (q n : Nat) : (g.setUnans q n).savedBase = g.savedBase := (rfl)
@[simp] theorem Group.setUnans_handlerSet (g : Group) (q n : Nat) : (g.setUnans q n).handlerSet = g.handlerSet := (rfl)
@[simp] theorem Group.setUnans_handler (g : Group) (q n : Nat) : (g.setUnans q n).handler = g.handler := (rfl)
@[simp] theorem Group.setUnans_handlerNext (g : Group) (q n : Nat) : (g.setUnans q n).handlerNext = g.handlerNext := (rfl)
@[simp] theorem Group.setUnans_heldTraps (g : Group) (q n : Nat) : (g.setUnans q n).heldTraps = g.heldTraps := (rfl)
@[simp] theorem Group.setUnans_queues (g : Group) (q n : Nat) : (g.setUnans q n).queues = g.queues := (rfl)
@[simp] theorem Group.setUnans_mxFmt (g : Group) (q n : Nat) : (g.setUnans q n).mxFmt = g.mxFmt := (rfl)
@[simp] theorem Group.setUnans_aeFmt (g : Group) (q n : Nat) : (g.setUnans q n).aeFmt = g.aeFmt := (rfl)
@[simp] theorem Group.setUnans_seqs (g : Group) (q n : Nat) : (g.setUnans q n).seqs = g.seqs := (rfl)
@[simp] theorem Group.setUnans_paths (g : Group) (q n : Nat) : (g.setUnans q n).paths = g.paths := (rfl)
@[simp] theorem Group.setUnans_run (g : Group) (q n : Nat) : (g.setUnans q n).run = g.run := (rfl)
@[simp] theorem Group.setUnans_hold (g : Group) (q n : Nat) : (g.setUnans q n).hold = g.hold := (rfl)
@[simp] theorem Group.setUnans_since (g : Group) (q n : Nat) : (g.setUnans q n).since = g.since := (rfl)
@[simp] theorem Group.setUnans_restarted (g : Group) (q n : Nat) : (g.setUnans q n).restarted = g.restarted := (rfl)
@[simp] theorem Group.setUnans_fetchWait (g : Group) (q n : Nat) : (g.setUnans q n).fetchWait = g.fetchWait := (rfl)
@[simp] theorem Group.setUnans_jumps (g : Group) (q n : Nat) : (g.setUnans q n).jumps = g.jumps := (rfl)
@[simp] theorem Group.setUnans_countWait (g : Group) (q n : Nat) : (g.setUnans q n).countWait = g.countWait := (rfl)
@[simp] theorem Group.setUnans_stopped (g : Group) (q n : Nat) : (g.setUnans q n).stopped = g.stopped := (rfl)

@[simp] theorem Group.relist_launch (g : Group) (ps : List PathRec) : (g.relist ps).launch = g.launch := by simp only [Group.relist]
@[simp] theorem Group.relist_block (g : Group) (ps : List PathRec) : (g.relist ps).block = g.block := by simp only [Group.relist]
@[simp] theorem Group.relist_role (g : Group) (ps : List PathRec) : (g.relist ps).role = g.role := by simp only [Group.relist]
@[simp] theorem Group.relist_grp (g : Group) (ps : List PathRec) : (g.relist ps).grp = g.grp := by simp only [Group.relist]
@[simp] theorem Group.relist_cls (g : Group) (ps : List PathRec) : (g.relist ps).cls = g.cls := by simp only [Group.relist]
@[simp] theorem Group.relist_threads (g : Group) (ps : List PathRec) : (g.relist ps).threads = g.threads := by simp only [Group.relist]
@[simp] theorem Group.relist_s (g : Group) (ps : List PathRec) : (g.relist ps).s = g.s := by simp only [Group.relist]
@[simp] theorem Group.relist_sPend (g : Group) (ps : List PathRec) : (g.relist ps).sPend = g.sPend := by simp only [Group.relist]
@[simp] theorem Group.relist_m (g : Group) (ps : List PathRec) : (g.relist ps).m = g.m := by simp only [Group.relist]
@[simp] theorem Group.relist_arrived (g : Group) (ps : List PathRec) : (g.relist ps).arrived = g.arrived := by simp only [Group.relist]
@[simp] theorem Group.relist_trapCause (g : Group) (ps : List PathRec) : (g.relist ps).trapCause = g.trapCause := by simp only [Group.relist]
@[simp] theorem Group.relist_trapPc (g : Group) (ps : List PathRec) : (g.relist ps).trapPc = g.trapPc := by simp only [Group.relist]
@[simp] theorem Group.relist_trapMask (g : Group) (ps : List PathRec) : (g.relist ps).trapMask = g.trapMask := by simp only [Group.relist]
@[simp] theorem Group.relist_trapVal (g : Group) (ps : List PathRec) : (g.relist ps).trapVal = g.trapVal := by simp only [Group.relist]
@[simp] theorem Group.relist_savedBase (g : Group) (ps : List PathRec) : (g.relist ps).savedBase = g.savedBase := by simp only [Group.relist]
@[simp] theorem Group.relist_handlerSet (g : Group) (ps : List PathRec) : (g.relist ps).handlerSet = g.handlerSet := by simp only [Group.relist]
@[simp] theorem Group.relist_handler (g : Group) (ps : List PathRec) : (g.relist ps).handler = g.handler := by simp only [Group.relist]
@[simp] theorem Group.relist_handlerNext (g : Group) (ps : List PathRec) : (g.relist ps).handlerNext = g.handlerNext := by simp only [Group.relist]
@[simp] theorem Group.relist_heldTraps (g : Group) (ps : List PathRec) : (g.relist ps).heldTraps = g.heldTraps := by simp only [Group.relist]
@[simp] theorem Group.relist_queues (g : Group) (ps : List PathRec) : (g.relist ps).queues = g.queues := by simp only [Group.relist]
@[simp] theorem Group.relist_mxFmt (g : Group) (ps : List PathRec) : (g.relist ps).mxFmt = g.mxFmt := by simp only [Group.relist]
@[simp] theorem Group.relist_aeFmt (g : Group) (ps : List PathRec) : (g.relist ps).aeFmt = g.aeFmt := by simp only [Group.relist]
@[simp] theorem Group.relist_unanswered (g : Group) (ps : List PathRec) : (g.relist ps).unanswered = g.unanswered := by simp only [Group.relist]
@[simp] theorem Group.relist_seqs (g : Group) (ps : List PathRec) : (g.relist ps).seqs = g.seqs := by simp only [Group.relist]
@[simp] theorem Group.relist_run (g : Group) (ps : List PathRec) : (g.relist ps).run = g.run := by simp only [Group.relist]
@[simp] theorem Group.relist_hold (g : Group) (ps : List PathRec) : (g.relist ps).hold = g.hold := by simp only [Group.relist]
@[simp] theorem Group.relist_since (g : Group) (ps : List PathRec) : (g.relist ps).since = g.since := by simp only [Group.relist]
@[simp] theorem Group.relist_restarted (g : Group) (ps : List PathRec) : (g.relist ps).restarted = g.restarted := by simp only [Group.relist]
@[simp] theorem Group.relist_fetchWait (g : Group) (ps : List PathRec) : (g.relist ps).fetchWait = g.fetchWait := by simp only [Group.relist]
@[simp] theorem Group.relist_jumps (g : Group) (ps : List PathRec) : (g.relist ps).jumps = g.jumps := by simp only [Group.relist]
@[simp] theorem Group.relist_countWait (g : Group) (ps : List PathRec) : (g.relist ps).countWait = g.countWait := by simp only [Group.relist]
@[simp] theorem Group.relist_stopped (g : Group) (ps : List PathRec) : (g.relist ps).stopped = g.stopped := by simp only [Group.relist]

@[simp] theorem Group.addPaths_launch (g : Group) (ms : List LaneMask) : (g.addPaths ms).launch = g.launch := by simp [Group.addPaths]
@[simp] theorem Group.addPaths_block (g : Group) (ms : List LaneMask) : (g.addPaths ms).block = g.block := by simp [Group.addPaths]
@[simp] theorem Group.addPaths_role (g : Group) (ms : List LaneMask) : (g.addPaths ms).role = g.role := by simp [Group.addPaths]
@[simp] theorem Group.addPaths_grp (g : Group) (ms : List LaneMask) : (g.addPaths ms).grp = g.grp := by simp [Group.addPaths]
@[simp] theorem Group.addPaths_cls (g : Group) (ms : List LaneMask) : (g.addPaths ms).cls = g.cls := by simp [Group.addPaths]
@[simp] theorem Group.addPaths_threads (g : Group) (ms : List LaneMask) : (g.addPaths ms).threads = g.threads := by simp [Group.addPaths]
@[simp] theorem Group.addPaths_s (g : Group) (ms : List LaneMask) : (g.addPaths ms).s = g.s := by simp [Group.addPaths]
@[simp] theorem Group.addPaths_sPend (g : Group) (ms : List LaneMask) : (g.addPaths ms).sPend = g.sPend := by simp [Group.addPaths]
@[simp] theorem Group.addPaths_m (g : Group) (ms : List LaneMask) : (g.addPaths ms).m = g.m := by simp [Group.addPaths]
@[simp] theorem Group.addPaths_arrived (g : Group) (ms : List LaneMask) : (g.addPaths ms).arrived = g.arrived := by simp [Group.addPaths]
@[simp] theorem Group.addPaths_trapCause (g : Group) (ms : List LaneMask) : (g.addPaths ms).trapCause = g.trapCause := by simp [Group.addPaths]
@[simp] theorem Group.addPaths_trapPc (g : Group) (ms : List LaneMask) : (g.addPaths ms).trapPc = g.trapPc := by simp [Group.addPaths]
@[simp] theorem Group.addPaths_trapMask (g : Group) (ms : List LaneMask) : (g.addPaths ms).trapMask = g.trapMask := by simp [Group.addPaths]
@[simp] theorem Group.addPaths_trapVal (g : Group) (ms : List LaneMask) : (g.addPaths ms).trapVal = g.trapVal := by simp [Group.addPaths]
@[simp] theorem Group.addPaths_savedBase (g : Group) (ms : List LaneMask) : (g.addPaths ms).savedBase = g.savedBase := by simp [Group.addPaths]
@[simp] theorem Group.addPaths_handlerSet (g : Group) (ms : List LaneMask) : (g.addPaths ms).handlerSet = g.handlerSet := by simp [Group.addPaths]
@[simp] theorem Group.addPaths_handler (g : Group) (ms : List LaneMask) : (g.addPaths ms).handler = g.handler := by simp [Group.addPaths]
@[simp] theorem Group.addPaths_handlerNext (g : Group) (ms : List LaneMask) : (g.addPaths ms).handlerNext = g.handlerNext := by simp [Group.addPaths]
@[simp] theorem Group.addPaths_heldTraps (g : Group) (ms : List LaneMask) : (g.addPaths ms).heldTraps = g.heldTraps := by simp [Group.addPaths]
@[simp] theorem Group.addPaths_queues (g : Group) (ms : List LaneMask) : (g.addPaths ms).queues = g.queues := by simp [Group.addPaths]
@[simp] theorem Group.addPaths_mxFmt (g : Group) (ms : List LaneMask) : (g.addPaths ms).mxFmt = g.mxFmt := by simp [Group.addPaths]
@[simp] theorem Group.addPaths_aeFmt (g : Group) (ms : List LaneMask) : (g.addPaths ms).aeFmt = g.aeFmt := by simp [Group.addPaths]
@[simp] theorem Group.addPaths_unanswered (g : Group) (ms : List LaneMask) : (g.addPaths ms).unanswered = g.unanswered := by simp [Group.addPaths]
@[simp] theorem Group.addPaths_seqs (g : Group) (ms : List LaneMask) : (g.addPaths ms).seqs = g.seqs := by simp [Group.addPaths]
@[simp] theorem Group.addPaths_run (g : Group) (ms : List LaneMask) : (g.addPaths ms).run = g.run := by simp [Group.addPaths]
@[simp] theorem Group.addPaths_hold (g : Group) (ms : List LaneMask) : (g.addPaths ms).hold = g.hold := by simp [Group.addPaths]
@[simp] theorem Group.addPaths_since (g : Group) (ms : List LaneMask) : (g.addPaths ms).since = g.since := by simp [Group.addPaths]
@[simp] theorem Group.addPaths_restarted (g : Group) (ms : List LaneMask) : (g.addPaths ms).restarted = g.restarted := by simp [Group.addPaths]
@[simp] theorem Group.addPaths_fetchWait (g : Group) (ms : List LaneMask) : (g.addPaths ms).fetchWait = g.fetchWait := by simp [Group.addPaths]
@[simp] theorem Group.addPaths_jumps (g : Group) (ms : List LaneMask) : (g.addPaths ms).jumps = g.jumps := by simp [Group.addPaths]
@[simp] theorem Group.addPaths_countWait (g : Group) (ms : List LaneMask) : (g.addPaths ms).countWait = g.countWait := by simp [Group.addPaths]
@[simp] theorem Group.addPaths_stopped (g : Group) (ms : List LaneMask) : (g.addPaths ms).stopped = g.stopped := by simp [Group.addPaths]

/-! ## A thread -/

@[simp] theorem Thread.setReg_kind (t : Thread) (r : Nat) (x : Word) : (t.setReg r x).kind = t.kind := (rfl)
@[simp] theorem Thread.setReg_pc (t : Thread) (r : Nat) (x : Word) : (t.setReg r x).pc = t.pc := (rfl)
@[simp] theorem Thread.setReg_k (t : Thread) (r : Nat) (x : Word) : (t.setReg r x).k = t.k := (rfl)
@[simp] theorem Thread.setReg_vPend (t : Thread) (r : Nat) (x : Word) : (t.setReg r x).vPend = t.vPend := (rfl)
@[simp] theorem Thread.setReg_standing (t : Thread) (r : Nat) (x : Word) : (t.setReg r x).standing = t.standing := (rfl)
@[simp] theorem Thread.setReg_lvl (t : Thread) (r : Nat) (x : Word) : (t.setReg r x).lvl = t.lvl := (rfl)
@[simp] theorem Thread.setReg_plvl (t : Thread) (r : Nat) (x : Word) : (t.setReg r x).plvl = t.plvl := (rfl)
@[simp] theorem Thread.setReg_regionStart (t : Thread) (r : Nat) (x : Word) : (t.setReg r x).regionStart = t.regionStart := (rfl)
@[simp] theorem Thread.setReg_codeBase (t : Thread) (r : Nat) (x : Word) : (t.setReg r x).codeBase = t.codeBase := (rfl)

/-- A register read after a register write of the same thread. -/
theorem Thread.reg_setReg (t : Thread) (r j : Nat) (x : Word) :
    (t.setReg r x).reg j = if r = j ∧ r < 64 then x else t.reg j := by
  simp only [Thread.reg, Thread.setReg, Vector.getElem?_setIfInBounds]
  by_cases h : r = j
  · subst h; by_cases hr : r < 64 <;> simp [hr]
  · simp [h]
/-- An s register read after a write of one. -/
theorem Group.sreg_setSreg (g : Group) (r j : Nat) (x : Word) :
    (g.setSreg r x).sreg j = if r = j ∧ r < 32 then x else g.sreg j := by
  simp only [Group.sreg, Group.setSreg, Vector.getElem?_setIfInBounds]
  by_cases h : r = j
  · subst h; by_cases hr : r < 32 <;> simp [hr]
  · simp [h]
/-- A queue read after a write of one. -/
theorem Group.queue_setQueue (g : Group) (q j : Nat) (x : List Dword) :
    (g.setQueue q x).queue j = if q = j ∧ q < 15 then x else g.queue j := by
  simp only [Group.queue, Group.setQueue, Vector.getElem?_setIfInBounds]
  by_cases h : q = j
  · subst h; by_cases hr : q < 15 <;> simp [hr]
  · simp [h]
/-- A thread after an update of lanes. -/
theorem Group.th_congr {a b : Group} (h : a.threads = b.threads) (l : Nat) : a.th l = b.th l := by
  rw [Group.th, h, Group.th]

theorem Group.th_mapLanes (g : Group) (m : LaneMask) (f : Nat → Thread → Thread) {l : Nat} (h : l < 32) :
    (g.mapLanes m f).th l = if m.getLsbD l then f l (g.th l) else g.th l := by
  simp [Group.th, Group.mapLanes, h]

end Sys2Proof.Machine
end

