-- ==== Sys2Proof/Laws/Canonical.lean ====
section
/-! SUPPORT. Memory.wf under the operations on bytes: the form every lemma of Laws/Canon/ takes. -/

namespace Sys2Proof.Machine

/-- An outcome whose next state, if there is one, has its memories in canonical form. -/
def Out.wf (o : Out) : Prop := match o with | .next t => t.memoriesWf | _ => True
@[simp] theorem Out.wf_next (t : State) : Out.wf (.next t) = t.memoriesWf := (rfl)
@[simp] theorem Out.wf_fault (r : Fault) : Out.wf (.fault r) = True := (rfl)
@[simp] theorem Out.wf_refused (r : Refusal) : Out.wf (.refused r) = True := (rfl)

theorem foldl_wf {α : Type} (f : State → α → State) (hf : ∀ s a, s.memoriesWf → (f s a).memoriesWf)
    (l : List α) {s : State} (h : s.memoriesWf) : (l.foldl f s).memoriesWf := by
  induction l generalizing s with
  | nil => exact h
  | cons a l ih => exact ih (hf s a h)

theorem wf_ite {c : Prop} [Decidable c] {a b : State} (ha : a.memoriesWf) (hb : b.memoriesWf) :
    (if c then a else b).memoriesWf := by split <;> assumption
theorem wf_ite_fst {α : Type} {c : Prop} [Decidable c] {a b : State × α} (ha : a.1.memoriesWf) (hb : b.1.memoriesWf) :
    (if c then a else b).1.memoriesWf := by split <;> assumption
theorem wf_ite_getD {c : Prop} [Decidable c] {a b : Option State} {d : State} (ha : (a.getD d).memoriesWf)
    (hb : (b.getD d).memoriesWf) : ((if c then a else b).getD d).memoriesWf := by split <;> assumption
theorem Out.wf_ite {c : Prop} [Decidable c] {a b : Out} (ha : Out.wf a) (hb : Out.wf b) :
    Out.wf (if c then a else b) := by split <;> assumption

/-! The updates of what is no memory leave the form as it was. -/
theorem State.setCore_wf (s : State) (c : Nat) (k : Core) : (s.setCore c k).memoriesWf ↔ s.memoriesWf := Iff.rfl
theorem State.setGroup_wf (s : State) (c g : Nat) (x : Group) : (s.setGroup c g x).memoriesWf ↔ s.memoriesWf := Iff.rfl
theorem State.setBlock_wf (s : State) (b : Nat) (x : Block) : (s.setBlock b x).memoriesWf ↔ s.memoriesWf := Iff.rfl
theorem State.setLaunch_wf (s : State) (l : Nat) (x : Launch) : (s.setLaunch l x).memoriesWf ↔ s.memoriesWf := Iff.rfl
theorem State.setPartition_wf (s : State) (p : Nat) (x : Partition) : (s.setPartition p x).memoriesWf ↔ s.memoriesWf := Iff.rfl
theorem State.setIface_wf (s : State) (i : Nat) (x : Iface) : (s.setIface i x).memoriesWf ↔ s.memoriesWf := Iff.rfl
theorem State.setDie_wf (s : State) (d : Nat) (x : Die) : (s.setDie d x).memoriesWf ↔ s.memoriesWf := Iff.rfl

end Sys2Proof.Machine
end

