-- ==== Sys2Proof/Laws/Canon/Groups.lean ====
section
/-! SUPPORT. The operations of Machine/Groups.lean keep every memory in canonical form. -/

namespace Sys2Proof.Machine

set_option linter.unusedSimpArgs false
set_option linter.unusedVariables false

@[simp] theorem State.withRun_wf {s : State} (k : Ctx → Out) (hw : s.memoriesWf) (hk : ∀ a0, Out.wf (k a0)) :
    Out.wf (State.withRun s k) := by
  unfold State.withRun
  (repeat' (first | with_reducible assumption | (simp (maxDischargeDepth := 40) [State.memoriesWf, *]; done) | refine foldl_wf _ ?_ _ ?_ | intro _ | refine wf_ite ?_ ?_ | refine Out.wf_ite ?_ ?_ | refine wf_ite_fst ?_ ?_ | extract_lets | split))

@[simp] theorem State.goOn_wf {s : State} (x : Ctx) (grp : Group) (e : Bool) (r : Run) (hw : s.memoriesWf) :
    (State.goOn s x grp e r).memoriesWf := by
  unfold State.goOn
  (repeat' (first | with_reducible assumption | (simp (maxDischargeDepth := 40) [State.memoriesWf, *]; done) | refine foldl_wf _ ?_ _ ?_ | intro _ | refine wf_ite ?_ ?_ | refine Out.wf_ite ?_ ?_ | refine wf_ite_fst ?_ ?_ | extract_lets | split))

@[simp] theorem State.finish_wf {s : State} (x : Ctx) (grp : Group) (e : Bool) (b : Latch) (hw : s.memoriesWf) :
    (State.finish s x grp e b).memoriesWf := by
  unfold State.finish
  (repeat' (first | with_reducible assumption | (simp (maxDischargeDepth := 40) [State.memoriesWf, *]; done) | refine foldl_wf _ ?_ _ ?_ | intro _ | refine wf_ite ?_ ?_ | refine Out.wf_ite ?_ ?_ | refine wf_ite_fst ?_ ?_ | extract_lets | split))

@[simp] theorem State.passOver_wf {s : State} (x : Ctx) (e : Bool) (hw : s.memoriesWf) :
    (State.passOver s x e).memoriesWf := by
  unfold State.passOver
  (repeat' (first | with_reducible assumption | (simp (maxDischargeDepth := 40) [State.memoriesWf, *]; done) | refine foldl_wf _ ?_ _ ?_ | intro _ | refine wf_ite ?_ ?_ | refine Out.wf_ite ?_ ?_ | refine wf_ite_fst ?_ ?_ | extract_lets | split))

@[simp] theorem State.finishCommit_wf {s : State} (x : Ctx) (grp : Group) (hw : s.memoriesWf) :
    (State.finishCommit s x grp).memoriesWf := by
  simp (maxDischargeDepth := 40) [State.memoriesWf, State.finishCommit, hw]

@[simp] theorem State.putGroup_wf {s : State} (c : Nat) (g : Nat) (x : Group) (hw : s.memoriesWf) :
    (State.putGroup s c g x).memoriesWf := by
  unfold State.putGroup
  (repeat' (first | with_reducible assumption | (simp (maxDischargeDepth := 40) [State.memoriesWf, *]; done) | refine foldl_wf _ ?_ _ ?_ | intro _ | refine wf_ite ?_ ?_ | refine Out.wf_ite ?_ ?_ | refine wf_ite_fst ?_ ?_ | extract_lets | split))

@[simp] theorem State.renew_wf {t : State} (s : State) (c : Nat) (hw : t.memoriesWf) : (t.renew s c).memoriesWf := by
  unfold State.renew
  refine foldl_wf _ (fun u i h => ?_) _ hw
  split
  · exact wf_ite ((State.setGroup_wf _ _ _ _).mpr h) h
  · exact h

@[simp] theorem State.mapGroups_wf {s : State} (bs : List (Nat × Nat)) (f : Group → Group) (hw : s.memoriesWf) :
    (State.mapGroups s bs f).memoriesWf := by
  unfold State.mapGroups
  (repeat' (first | with_reducible assumption | (simp (maxDischargeDepth := 40) [State.memoriesWf, *]; done) | refine foldl_wf _ ?_ _ ?_ | intro _ | refine wf_ite ?_ ?_ | refine Out.wf_ite ?_ ?_ | refine wf_ite_fst ?_ ?_ | extract_lets | split))

@[simp] theorem State.acquireAt_wf {s : State} (c : Nat) (scope : Nat) (hw : s.memoriesWf) :
    (State.acquireAt s c scope).memoriesWf := by
  unfold State.acquireAt
  (repeat' (first | with_reducible assumption | (simp (maxDischargeDepth := 40) [State.memoriesWf, *]; done) | refine foldl_wf _ ?_ _ ?_ | intro _ | refine wf_ite ?_ ?_ | refine Out.wf_ite ?_ ?_ | refine wf_ite_fst ?_ ?_ | extract_lets | split))

@[simp] theorem State.acquire_wf {s : State} (c : Nat) (hw : s.memoriesWf) :
    (State.acquire s c).memoriesWf := by
  simp (maxDischargeDepth := 40) [State.memoriesWf, State.acquire, hw]

@[simp] theorem State.judgeBar_wf {s : State} (b : Nat) (hw : s.memoriesWf) :
    (State.judgeBar s b).memoriesWf := by
  unfold State.judgeBar
  (repeat' (first | with_reducible assumption | (simp (maxDischargeDepth := 40) [State.memoriesWf, *]; done) | refine foldl_wf _ ?_ _ ?_ | intro _ | refine wf_ite ?_ ?_ | refine Out.wf_ite ?_ ?_ | refine wf_ite_fst ?_ ?_ | extract_lets | split))

@[simp] theorem State.judgeBarc_wf {s : State} (cluster : Nat) (hw : s.memoriesWf) :
    (State.judgeBarc s cluster).memoriesWf := by
  unfold State.judgeBarc
  (repeat' (first | with_reducible assumption | (simp (maxDischargeDepth := 40) [State.memoriesWf, *]; done) | refine foldl_wf _ ?_ _ ?_ | intro _ | refine wf_ite ?_ ?_ | refine Out.wf_ite ?_ ?_ | refine wf_ite_fst ?_ ?_ | extract_lets | split))

@[simp] theorem State.judgeBarriers_wf {s : State} (b : Nat) (hw : s.memoriesWf) :
    (State.judgeBarriers s b).memoriesWf := by
  unfold State.judgeBarriers
  (repeat' (first | with_reducible assumption | (simp (maxDischargeDepth := 40) [State.memoriesWf, *]; done) | refine foldl_wf _ ?_ _ ?_ | intro _ | refine wf_ite ?_ ?_ | refine Out.wf_ite ?_ ?_ | refine wf_ite_fst ?_ ?_ | extract_lets | split))

@[simp] theorem State.startRelease_wf {s : State} (c : Nat) (part : Nat) (scope : Nat) (why : ReleaseFor) (hw : s.memoriesWf) :
    (State.startRelease s c part scope why).memoriesWf := by
  unfold State.startRelease
  (repeat' (first | with_reducible assumption | (simp (maxDischargeDepth := 40) [State.memoriesWf, *]; done) | refine foldl_wf _ ?_ _ ?_ | intro _ | refine wf_ite ?_ ?_ | refine Out.wf_ite ?_ ?_ | refine wf_ite_fst ?_ ?_ | extract_lets | split))

end Sys2Proof.Machine
end

