-- ==== Sys2Proof/Laws/Canon/Memory.lean ====
section
/-! SUPPORT. The operations of Machine/Memory.lean keep every memory in canonical form. -/

namespace Sys2Proof.Machine

set_option linter.unusedSimpArgs false
set_option linter.unusedVariables false

@[simp] theorem State.setByte_wf {s : State} (l : Loc) (v : Byte) (h : s.memoriesWf) : (s.setByte l v).memoriesWf := by
  obtain ⟨h1, h2, h3, h4⟩ := h
  unfold State.setByte
  (repeat' split) <;> refine ⟨?_, ?_, ?_, ?_⟩ <;> simp_all [Memory.wf_mput, tget_tput] <;>
    (intro p; split <;> simp_all [Memory.wf_mput])

@[simp] theorem State.layBytes_wf {s : State} (l : Loc) (bs : List Byte) (h : s.memoriesWf) :
    (s.layBytes l bs).memoriesWf := by
  induction bs generalizing s l with
  | nil => exact h
  | cons b bs ih => exact ih _ (by simp [h])

/-- What a store does to the consists' managers changes what they hold, and how many records they have emitted. -/
theorem State.noteConsist_eq (s : State) (k : Nat) (free : Bool) (l : Loc) (n : Nat) :
    ∃ cs e, s.noteConsist k free l n = { s with consists := cs, emitted := e } := by
  simp only [State.noteConsist, State.fitRecords, State.strayConsist, State.setConsist]
  (repeat' split) <;> exact ⟨_, _, rfl⟩

/-- A store's notice likewise. -/
theorem State.noteStore_eq (s was : State) (l : Loc) (n : Nat) :
    ∃ cs e, s.noteStore was l n = { s with consists := cs, emitted := e } := by
  unfold State.noteStore
  generalize s.consists = ks
  induction ks generalizing s with
  | nil => exact ⟨s.consists, s.emitted, rfl⟩
  | cons k ks ih =>
    obtain ⟨c1, e1, h1⟩ := State.noteConsist_eq s k.1 (!was.pinHeld k.1 && was.pendingAt k.1 == 0) l n
    obtain ⟨c2, e2, h2⟩ := ih (s.noteConsist k.1 (!was.pinHeld k.1 && was.pendingAt k.1 == 0) l n)
    refine ⟨c2, e2, ?_⟩
    rw [List.foldl_cons, h2, h1]

/-- The bytes are laid; the consists' managers may notice them. -/
theorem State.setBytes_eq (s : State) (l : Loc) (bs : List Byte) :
    ∃ cs e, s.setBytes l bs = { s.layBytes l bs with consists := cs, emitted := e } := State.noteStore_eq _ _ _ _

@[simp] theorem State.setBytes_wf {s : State} (l : Loc) (bs : List Byte) (h : s.memoriesWf) :
    (s.setBytes l bs).memoriesWf := by
  obtain ⟨_, _, e⟩ := s.setBytes_eq l bs
  rw [e]
  exact State.layBytes_wf l bs h

@[simp] theorem State.setWord_wf {s : State} (l : Loc) (w : Word) (hw : s.memoriesWf) :
    (State.setWord s l w).memoriesWf := by
  simp (maxDischargeDepth := 40) [State.memoriesWf, State.setWord, hw]

@[simp] theorem State.setDword_wf {s : State} (l : Loc) (w : Dword) (hw : s.memoriesWf) :
    (State.setDword s l w).memoriesWf := by
  simp (maxDischargeDepth := 40) [State.memoriesWf, State.setDword, hw]

@[simp] theorem State.setPresence_wf {s : State} (l : Loc) (present : Bool) (hw : s.memoriesWf) :
    (State.setPresence s l present).memoriesWf := by
  unfold State.setPresence
  (repeat' (first | with_reducible assumption | (simp (maxDischargeDepth := 40) [State.memoriesWf, *]; done) | refine foldl_wf _ ?_ _ ?_ | intro _ | refine wf_ite ?_ ?_ | refine Out.wf_ite ?_ ?_ | refine wf_ite_fst ?_ ?_ | extract_lets | split))

@[simp] theorem State.fillTlb_wf {s : State} (c launch va : Nat) (hw : s.memoriesWf) :
    (State.fillTlb s c launch va).memoriesWf := by
  unfold State.fillTlb
  (repeat' (first | with_reducible assumption | (simp (maxDischargeDepth := 40) [State.memoriesWf, *]; done) | refine foldl_wf _ ?_ _ ?_ | intro _ | refine wf_ite ?_ ?_ | refine Out.wf_ite ?_ ?_ | refine wf_ite_fst ?_ ?_ | extract_lets | split))

@[simp] theorem State.loadConstant_wf {s : State} (c : Nat) (l : Loc) (n : Nat) (stale : Bool) (hw : s.memoriesWf) :
    (State.loadConstant s c l n stale).1.memoriesWf := by
  unfold State.loadConstant
  (repeat' (first | with_reducible assumption | (simp (maxDischargeDepth := 40) [State.memoriesWf, *]; done) | refine foldl_wf _ ?_ _ ?_ | intro _ | refine wf_ite ?_ ?_ | refine Out.wf_ite ?_ ?_ | refine wf_ite_fst ?_ ?_ | extract_lets | split))

@[simp] theorem State.loadFor_wf {s : State} (c : Nat) (id : Nat) (l : Loc) (n : Nat) (constant : Bool) (stale : Bool) (hw : s.memoriesWf) :
    (State.loadFor s c id l n constant stale).1.memoriesWf := by
  unfold State.loadFor
  (repeat' (first | with_reducible assumption | (simp (maxDischargeDepth := 40) [State.memoriesWf, *]; done) | refine foldl_wf _ ?_ _ ?_ | intro _ | refine wf_ite ?_ ?_ | refine Out.wf_ite ?_ ?_ | refine wf_ite_fst ?_ ?_ | extract_lets | split))

@[simp] theorem State.issueStore_wf {s : State} (c slot launch : Nat) (l : Loc) (bs : List Byte) (hw : s.memoriesWf) :
    (State.issueStore s c slot launch l bs).memoriesWf := by
  unfold State.issueStore
  (repeat' (first | with_reducible assumption | (simp (maxDischargeDepth := 40) [State.memoriesWf, *]; done) | refine foldl_wf _ ?_ _ ?_ | intro _ | refine wf_ite ?_ ?_ | refine Out.wf_ite ?_ ?_ | refine wf_ite_fst ?_ ?_ | extract_lets | split))

@[simp] theorem State.takeLoads_wf {s : State} (c : Nat) (qs : List (LoadRec × List Byte)) (hw : s.memoriesWf) :
    (State.takeLoads s c qs).memoriesWf := (State.setCore_wf _ _ _).mpr hw

@[simp] theorem State.setHint_wf {s : State} (pa hint : Nat) (hw : s.memoriesWf) : (State.setHint s pa hint).memoriesWf := hw

@[simp] theorem State.touch_wf {s : State} (l : Loc) (hw : s.memoriesWf) : (State.touch s l).memoriesWf := by
  unfold State.touch
  split <;> exact hw

@[simp] theorem State.readPlaces_wf {s : State} (c : Nat) (ps : List (Loc × Nat)) (hw : s.memoriesWf) :
    (State.readPlaces s c ps).memoriesWf :=
  foldl_wf _ (fun _ _ h => State.touch_wf _ ((State.setCore_wf _ _ _).mpr h)) _ hw

@[simp] theorem State.supplyCore_wf {s : State} (c : Nat) (hw : s.memoriesWf) : (State.supplyCore s c).memoriesWf :=
  State.readPlaces_wf _ _ ((State.setCore_wf _ _ _).mpr hw)

@[simp] theorem State.supplyLoads_wf {s : State} (c : Nat) (sector : Loc) (hw : s.memoriesWf) :
    (State.supplyLoads s c sector).memoriesWf := State.takeLoads_wf _ _ hw

@[simp] theorem State.makePresent_wf {s : State} (sector : Loc) (hw : s.memoriesWf) : (State.makePresent s sector).memoriesWf :=
  foldl_wf _ (fun _ _ h => State.supplyCore_wf _ (State.supplyLoads_wf _ _ h)) _ (State.setPresence_wf _ _ hw)

@[simp] theorem State.hasRead_wf {s : State} (w : Who) (a : Dword) (n : Nat) (hw : s.memoriesWf) :
    (State.hasRead s w a n).memoriesWf := by
  unfold State.hasRead
  (repeat' (first | with_reducible assumption | (simp (maxDischargeDepth := 40) [State.memoriesWf, *]; done) | refine foldl_wf _ ?_ _ ?_ | intro _ | refine wf_ite ?_ ?_ | refine Out.wf_ite ?_ ?_ | refine wf_ite_fst ?_ ?_ | extract_lets | split))

@[simp] theorem State.writeAs_wf {s : State} (w : Who) (a : Dword) (bs : List Byte) (h : s.memoriesWf) :
    (s.writeAs w a bs).memoriesWf := by
  induction bs generalizing s a with
  | nil => exact h
  | cons b bs ih =>
    simp only [State.writeAs]
    apply ih
    (repeat' split) <;> first | exact h | exact State.setBytes_wf _ _ h

@[simp] theorem State.noteFault_wf {s : State} (launch va kind : Nat) (refused : Bool) (hw : s.memoriesWf) :
    (State.noteFault s launch va kind refused).memoriesWf := by
  unfold State.noteFault
  (repeat' (first | with_reducible assumption | (simp (maxDischargeDepth := 40) [State.memoriesWf, *]; done) | refine foldl_wf _ ?_ _ ?_ | intro _ | refine wf_ite ?_ ?_ | refine Out.wf_ite ?_ ?_ | refine wf_ite_fst ?_ ?_ | extract_lets | split))

@[simp] theorem State.noteUnit_wf {s : State} (launch va kind : Nat) (hw : s.memoriesWf) :
    (State.noteUnit s launch va kind).memoriesWf := by
  unfold State.noteUnit
  exact wf_ite (State.noteFault_wf _ _ _ _ hw) ((State.setPartition_wf _ _ _).mpr (State.noteFault_wf _ _ _ _ hw))

@[simp] theorem State.waitPage_wf {s : State} (launch va kind : Nat) (hw : s.memoriesWf) :
    Out.wf (State.waitPage s launch va kind) := by
  unfold State.waitPage
  (repeat' (first | with_reducible assumption | (simp (maxDischargeDepth := 40) [State.memoriesWf, *]; done) | refine foldl_wf _ ?_ _ ?_ | intro _ | refine wf_ite ?_ ?_ | refine Out.wf_ite ?_ ?_ | refine wf_ite_fst ?_ ?_ | extract_lets | split))

end Sys2Proof.Machine
end

