-- ==== Sys2Proof/Laws/Canon/Flags.lean ====
section
/-! SUPPORT. The operations of Machine/Flags.lean keep every memory in canonical form. -/

namespace Sys2Proof.Machine

set_option linter.unusedSimpArgs false
set_option linter.unusedVariables false

@[simp] theorem State.judgeThreshold_wf {s : State} (n i : Nat) (hw : s.memoriesWf) :
    (State.judgeThreshold s n i).memoriesWf := by
  unfold State.judgeThreshold
  (repeat' (first | with_reducible assumption | (simp (maxDischargeDepth := 40) [State.memoriesWf, *]; done) | refine foldl_wf _ ?_ _ ?_ | intro _ | refine wf_ite ?_ ?_ | refine Out.wf_ite ?_ ?_ | refine wf_ite_fst ?_ ?_ | extract_lets | split))

@[simp] theorem State.countOne_wf {s : State} (n i : Nat) (hw : s.memoriesWf) :
    (State.countOne s n i).memoriesWf := by
  unfold State.countOne
  (repeat' (first | with_reducible assumption | (simp (maxDischargeDepth := 40) [State.memoriesWf, *]; done) | refine foldl_wf _ ?_ _ ?_ | intro _ | refine wf_ite ?_ ?_ | refine Out.wf_ite ?_ ?_ | refine wf_ite_fst ?_ ?_ | extract_lets | split))

@[simp] theorem State.countEvents_wf {s : State} (n fmt : Nat) (evs : Events) (hw : s.memoriesWf) :
    (State.countEvents s n fmt evs).memoriesWf := by
  unfold State.countEvents
  (repeat' (first | with_reducible assumption | (simp (maxDischargeDepth := 40) [State.memoriesWf, *]; done) | refine foldl_wf _ ?_ _ ?_ | intro _ | refine wf_ite ?_ ?_ | refine Out.wf_ite ?_ ?_ | refine wf_ite_fst ?_ ?_ | extract_lets | split))

@[simp] theorem State.countLoss_wf {s : State} (n : Nat) (hw : s.memoriesWf) :
    (State.countLoss s n).memoriesWf := by
  unfold State.countLoss
  (repeat' (first | with_reducible assumption | (simp (maxDischargeDepth := 40) [State.memoriesWf, *]; done) | refine foldl_wf _ ?_ _ ?_ | intro _ | refine wf_ite ?_ ?_ | refine Out.wf_ite ?_ ?_ | refine wf_ite_fst ?_ ?_ | extract_lets | split))

@[simp] theorem State.countCorrected_wf {s : State} (n : Nat) (hw : s.memoriesWf) :
    (State.countCorrected s n).memoriesWf := by
  unfold State.countCorrected
  (repeat' (first | with_reducible assumption | (simp (maxDischargeDepth := 40) [State.memoriesWf, *]; done) | refine foldl_wf _ ?_ _ ?_ | intro _ | refine wf_ite ?_ ?_ | refine Out.wf_ite ?_ ?_ | refine wf_ite_fst ?_ ?_ | extract_lets | split))

end Sys2Proof.Machine
end

