-- ==== Sys2Proof/Laws/Canon/Consist.lean ====
section
/-! SUPPORT. The operations of Machine/Consist.lean keep every memory in canonical form. -/

namespace Sys2Proof.Machine

set_option linter.unusedSimpArgs false
set_option linter.unusedVariables false

@[simp] theorem State.layWord_wf {s : State} (l : Loc) (w : Nat) (hw : s.memoriesWf) : (State.layWord s l w).memoriesWf :=
  State.layBytes_wf _ _ hw

@[simp] theorem State.setHeader_wf {s : State} (k gen rows pieces live pending : Nat) (hw : s.memoriesWf) :
    (State.setHeader s k gen rows pieces live pending).memoriesWf :=
  State.layWord_wf _ _ (State.layWord_wf _ _ (State.layWord_wf _ _ (State.layWord_wf _ _ (State.layWord_wf _ _ hw))))

@[simp] theorem State.setConsist_wf {s : State} (k : Nat) (c : Consist) (hw : s.memoriesWf) :
    (State.setConsist s k c).memoriesWf := hw

@[simp] theorem State.fitRecords_wf {s : State} (k : Nat) (hw : s.memoriesWf) : (State.fitRecords s k).memoriesWf := hw

@[simp] theorem State.strayConsist_wf {s : State} (k : Nat) (hw : s.memoriesWf) : (State.strayConsist s k).memoriesWf := hw

@[simp] theorem State.consistTake_wf {s : State} (k : Nat) (ranges : List (Nat × Loc × Nat)) (hw : s.memoriesWf) :
    (State.consistTake s k ranges).memoriesWf := by
  unfold State.consistTake
  exact State.setConsist_wf _ _ (State.fitRecords_wf _ (wf_ite (State.strayConsist_wf _ hw) hw))

@[simp] theorem State.consistSetup_wf {s : State} (k : Nat) (ranges : List (Nat × Loc × Nat)) (hw : s.memoriesWf) :
    (State.consistSetup s k ranges).memoriesWf := by
  unfold State.consistSetup
  exact wf_ite (State.setHeader_wf _ _ _ _ _ _ (State.setConsist_wf _ _ hw)) (State.consistTake_wf _ _ hw)

@[simp] theorem State.unpin_wf {s0 : State} (k : Nat) (g : Nat) (ranges : List (Nat × Loc × Nat)) (hw : s0.memoriesWf) :
    (State.unpin s0 k g ranges).1.memoriesWf := by
  unfold State.unpin
  have hs := State.consistTake_wf k ranges hw
  generalize s0.consistTake k ranges = s at hs
  extract_lets
  refine wf_ite_fst ?_ (State.setConsist_wf _ _ hs)
  extract_lets
  exact State.setHeader_wf _ _ _ _ _ _ (State.setConsist_wf _ _ hs)

@[simp] theorem State.askManager_wf {s : State} (c : Nat) (part : Nat) (rel : Bool) (r : ConsistReq) (hw : s.memoriesWf) :
    (State.askManager s c part rel r).memoriesWf := by
  unfold State.askManager
  (repeat' (first | with_reducible assumption | (simp (maxDischargeDepth := 40) [State.memoriesWf, *]; done) | refine foldl_wf _ ?_ _ ?_ | intro _ | refine wf_ite ?_ ?_ | refine Out.wf_ite ?_ ?_ | refine wf_ite_fst ?_ ?_ | extract_lets | split))

@[simp] theorem State.dropPin_wf {s : State} (c : Nat) (slot : Nat) (p : Pin) (hw : s.memoriesWf) :
    (State.dropPin s c slot p).memoriesWf := by
  unfold State.dropPin
  (repeat' (first | with_reducible assumption | (simp (maxDischargeDepth := 40) [State.memoriesWf, *]; done) | refine foldl_wf _ ?_ _ ?_ | intro _ | refine wf_ite ?_ ?_ | refine Out.wf_ite ?_ ?_ | refine wf_ite_fst ?_ ?_ | extract_lets | split))

@[simp] theorem State.releasePins_wf {s : State} (c block : Nat) (hw : s.memoriesWf) :
    (State.releasePins s c block).memoriesWf := by
  unfold State.releasePins
  (repeat' (first | with_reducible assumption | (simp (maxDischargeDepth := 40) [State.memoriesWf, *]; done) | refine foldl_wf _ ?_ _ ?_ | intro _ | refine wf_ite ?_ ?_ | refine Out.wf_ite ?_ ?_ | refine wf_ite_fst ?_ ?_ | extract_lets | split))

@[simp] theorem State.splice_wf {s0 : State} (k : Nat) (ranges : List (Nat × Loc × Nat)) (at_ remove expect : Nat) (list : List (Nat × Nat)) (listOk : Bool)
    (who : Nat × Nat × Nat) (h : s0.memoriesWf) : (s0.splice k ranges at_ remove expect list listOk who).1.memoriesWf := by
  unfold State.splice
  refine wf_ite_fst h ?_
  have hs := State.consistSetup_wf k ranges h
  generalize s0.consistSetup k ranges = s at hs
  extract_lets _ _ _
  refine wf_ite_fst hs (wf_ite_fst hs ?_)
  split
  · extract_lets
    iterate 5 refine wf_ite_fst hs ?_
    extract_lets
    exact State.setHeader_wf _ _ _ _ _ _ (State.setConsist_wf _ _ hs)
  · exact hs

@[simp] theorem State.pinCurrent_wf {s0 : State} (k : Nat) (ranges : List (Nat × Loc × Nat)) (hw : s0.memoriesWf) :
    (State.pinCurrent s0 k ranges).1.memoriesWf := by
  unfold State.pinCurrent
  exact wf_ite_fst hw (State.setConsist_wf _ _ (State.consistSetup_wf _ _ hw))

@[simp] theorem State.moveConsists_wf {s : State} (src : Loc) (dst : Loc) (n : Nat) (hw : s.memoriesWf) :
    (State.moveConsists s src dst n).memoriesWf := by
  unfold State.moveConsists
  (repeat' (first | with_reducible assumption | (simp (maxDischargeDepth := 40) [State.memoriesWf, *]; done) | refine foldl_wf _ ?_ _ ?_ | intro _ | refine wf_ite ?_ ?_ | refine Out.wf_ite ?_ ?_ | refine wf_ite_fst ?_ ?_ | extract_lets | split))

end Sys2Proof.Machine
end

