-- ==== Sys2Proof/Laws/Canon/Ops.lean ====
section
/-! SUPPORT. The operations of Machine/Ops.lean keep every memory in canonical form. -/

namespace Sys2Proof.Machine

set_option linter.unusedSimpArgs false
set_option linter.unusedVariables false

@[simp] theorem State.leaveMail_wf {s : State} (g : Group) (index : Nat) (hw : s.memoriesWf) :
    (State.leaveMail s g index).memoriesWf := by
  unfold State.leaveMail
  (repeat' (first | with_reducible assumption | (simp (maxDischargeDepth := 40) [State.memoriesWf, *]; done) | refine foldl_wf _ ?_ _ ?_ | intro _ | refine wf_ite ?_ ?_ | refine Out.wf_ite ?_ ?_ | refine wf_ite_fst ?_ ?_ | extract_lets | split))

@[simp] theorem State.restop_wf {s : State} (c : Nat) (hw : s.memoriesWf) :
    (State.restop s c).memoriesWf := by
  unfold State.restop
  (repeat' (first | with_reducible assumption | (simp (maxDischargeDepth := 40) [State.memoriesWf, *]; done) | refine foldl_wf _ ?_ _ ?_ | intro _ | refine wf_ite ?_ ?_ | refine Out.wf_ite ?_ ?_ | refine wf_ite_fst ?_ ?_ | extract_lets | split))

@[simp] theorem State.endBlock_wf {s : State} (b : Nat) (hw : s.memoriesWf) :
    (State.endBlock s b).memoriesWf := by
  unfold State.endBlock
  split
  · exact hw
  · extract_lets _ _ _ s2 s3
    refine wf_ite hw ?_
    have h2 : s2.memoriesWf := by
      refine foldl_wf _ (fun t g ht => ?_) _ (State.releasePins_wf _ _ hw)
      rw [State.setCore_wf]
      split
      · exact State.leaveMail_wf _ _ ht
      · exact ht
    have h3 : s3.memoriesWf := State.restop_wf _ h2
    split
    · exact h3
    · rw [State.setLaunch_wf]; exact h3

@[simp] theorem State.afterExit_wf {s : State} (c g : Nat) (hw : s.memoriesWf) :
    (State.afterExit s c g).memoriesWf := by
  unfold State.afterExit
  (repeat' (first | with_reducible assumption | (simp (maxDischargeDepth := 40) [State.memoriesWf, *]; done) | refine foldl_wf _ ?_ _ ?_ | intro _ | refine wf_ite ?_ ?_ | refine Out.wf_ite ?_ ?_ | refine wf_ite_fst ?_ ?_ | extract_lets | split))

@[simp] theorem State.exitAt_wf {s : State} (c g : Nat) (m : LaneMask) (hw : s.memoriesWf) :
    (State.exitAt s c g m).memoriesWf := by
  unfold State.exitAt
  (repeat' (first | with_reducible assumption | (simp (maxDischargeDepth := 40) [State.memoriesWf, *]; done) | refine foldl_wf _ ?_ _ ?_ | intro _ | refine wf_ite ?_ ?_ | refine Out.wf_ite ?_ ?_ | refine wf_ite_fst ?_ ?_ | extract_lets | split))

@[simp] theorem State.writeRecord_wf {s : State} (w : Who) (a : Dword) (bytes : List Byte) (hw : s.memoriesWf) :
    (State.writeRecord s w a bytes).memoriesWf := by
  unfold State.writeRecord
  (repeat' (first | with_reducible assumption | (simp (maxDischargeDepth := 40) [State.memoriesWf, *]; done) | refine foldl_wf _ ?_ _ ?_ | intro _ | refine wf_ite ?_ ?_ | refine Out.wf_ite ?_ ?_ | refine wf_ite_fst ?_ ?_ | extract_lets | split))

@[simp] theorem State.payOwed_wf {s : State} (hw : s.memoriesWf) :
    (State.payOwed s).memoriesWf := by
  unfold State.payOwed
  (repeat' (first | with_reducible assumption | (simp (maxDischargeDepth := 40) [State.memoriesWf, *]; done) | refine foldl_wf _ ?_ _ ?_ | intro _ | refine wf_ite ?_ ?_ | refine Out.wf_ite ?_ ?_ | refine wf_ite_fst ?_ ?_ | extract_lets | split))

@[simp] theorem State.recordTrap_wf {s : State} (c : Nat) (g : Group) (bytes : List Byte) (hw : s.memoriesWf) :
    (State.recordTrap s c g bytes).memoriesWf := by
  unfold State.recordTrap
  dsimp only
  (repeat' (first | with_reducible assumption | (simp (maxDischargeDepth := 40) [State.memoriesWf, *]; done) | refine foldl_wf _ ?_ _ ?_ | intro _ | refine wf_ite ?_ ?_ | refine Out.wf_ite ?_ ?_ | refine wf_ite_fst ?_ ?_ | extract_lets | split))

@[simp] theorem State.killGroup_wf {s : State} (c g : Nat) (hw : s.memoriesWf) :
    (State.killGroup s c g).memoriesWf := by
  unfold State.killGroup
  (repeat' (first | with_reducible assumption | (simp (maxDischargeDepth := 40) [State.memoriesWf, *]; done) | refine foldl_wf _ ?_ _ ?_ | intro _ | refine wf_ite ?_ ?_ | refine Out.wf_ite ?_ ?_ | refine wf_ite_fst ?_ ?_ | extract_lets | split))

@[simp] theorem State.dropSaved_wf {s : State} (launch : Nat) (hw : s.memoriesWf) :
    (State.dropSaved s launch).memoriesWf := by
  unfold State.dropSaved
  (repeat' (first | with_reducible assumption | (simp (maxDischargeDepth := 40) [State.memoriesWf, *]; done) | refine foldl_wf _ ?_ _ ?_ | intro _ | refine wf_ite ?_ ?_ | refine Out.wf_ite ?_ ?_ | refine wf_ite_fst ?_ ?_ | extract_lets | split))

@[simp] theorem State.endThreads_wf {s : State} (launch : Nat) (hw : s.memoriesWf) :
    (State.endThreads s launch).memoriesWf := by
  unfold State.endThreads
  (repeat' (first | with_reducible assumption | (simp (maxDischargeDepth := 40) [State.memoriesWf, *]; done) | refine foldl_wf _ ?_ _ ?_ | intro _ | refine wf_ite ?_ ?_ | refine Out.wf_ite ?_ ?_ | refine wf_ite_fst ?_ ?_ | extract_lets | split))

@[simp] theorem State.enterTrap_wf {s : State} (c g : Nat) (hw : s.memoriesWf) :
    (State.enterTrap s c g).memoriesWf := by
  unfold State.enterTrap
  dsimp only
  (repeat' (first | with_reducible assumption | (simp (maxDischargeDepth := 40) [State.memoriesWf, *]; done) | refine foldl_wf _ ?_ _ ?_ | intro _ | refine wf_ite ?_ ?_ | refine Out.wf_ite ?_ ?_ | refine wf_ite_fst ?_ ?_ | extract_lets | split))

@[simp] theorem State.raise_wf {s : State} (c g : Nat) (closed : Group) (hs : List HeldTrap) (hw : s.memoriesWf) :
    (State.raise s c g closed hs).memoriesWf := by
  unfold State.raise
  dsimp only
  (repeat' (first | with_reducible assumption | (simp (maxDischargeDepth := 40) [State.memoriesWf, *]; done) | refine foldl_wf _ ?_ _ ?_ | intro _ | refine wf_ite ?_ ?_ | refine Out.wf_ite ?_ ?_ | refine wf_ite_fst ?_ ?_ | extract_lets | split))

@[simp] theorem State.takeTrap_wf {s : State} (x : Ctx) (grp : Group) (hs : List HeldTrap) (back : List LaneMask) (hw : s.memoriesWf) :
    (State.takeTrap s x grp hs back).memoriesWf := by
  simp (maxDischargeDepth := 40) [State.memoriesWf, State.takeTrap, hw]

@[simp] theorem State.trapHold_wf {s : State} (c g : Nat) (cause : Nat) (value : Word) (hw : s.memoriesWf) :
    (State.trapHold s c g cause value).memoriesWf := by
  unfold State.trapHold
  (repeat' (first | with_reducible assumption | (simp (maxDischargeDepth := 40) [State.memoriesWf, *]; done) | refine foldl_wf _ ?_ _ ?_ | intro _ | refine wf_ite ?_ ?_ | refine Out.wf_ite ?_ ?_ | refine wf_ite_fst ?_ ?_ | extract_lets | split))

@[simp] theorem State.trapPath_wf {s : State} (x : Ctx) (cause : Nat) (value : Word) (hw : s.memoriesWf) :
    (State.trapPath s x cause value).memoriesWf := by
  simp (maxDischargeDepth := 40) [State.memoriesWf, State.trapPath, hw]

@[simp] theorem State.returnTrap_wf {s : State} (x : Ctx) (hw : s.memoriesWf) :
    (State.returnTrap s x).memoriesWf := by
  simp (maxDischargeDepth := 40) [State.memoriesWf, State.returnTrap, hw]

@[simp] theorem State.vform_wf {s : State} (i : Instr) (e : Bool) (uses : List Use) (k : Ctx → Out) (h : s.memoriesWf)
    (hk : ∀ x, Out.wf (k x)) : Out.wf (s.vform i e uses k) := by
  unfold State.vform
  refine State.withRun_wf _ h fun x => ?_
  (repeat' split) <;> simp [State.memoriesWf, h, hk]

@[simp] theorem State.uform_wf {s : State} (i : Instr) (uses : List Use) (k : Ctx → Out) (h : s.memoriesWf)
    (hk : ∀ x, Out.wf (k x)) : Out.wf (s.uform i uses k) := by
  unfold State.uform
  refine State.withRun_wf _ h fun x => ?_
  (repeat' split) <;> simp [State.memoriesWf, h, hk]

@[simp] theorem State.laneOp_wf {s : State} (i : Instr) (e n : Bool) (d : Code) (uses : List Use) (f : Ctx → Nat → Word) (hw : s.memoriesWf) :
    Out.wf (State.laneOp s i e n d uses f) := by
  simp (maxDischargeDepth := 40) [State.memoriesWf, State.laneOp, hw]

@[simp] theorem State.laneOp64_wf {s : State} (i : Instr) (e n : Bool) (d : Code) (uses : List Use) (f : Ctx → Nat → Dword) (hw : s.memoriesWf) :
    Out.wf (State.laneOp64 s i e n d uses f) := by
  simp (maxDischargeDepth := 40) [State.memoriesWf, State.laneOp64, hw]

@[simp] theorem State.lanePred_wf {s : State} (i : Instr) (e : Bool) (kd : Code) (uses : List Use) (f : Ctx → Nat → Bool) (hw : s.memoriesWf) :
    Out.wf (State.lanePred s i e kd uses f) := by
  simp (maxDischargeDepth := 40) [State.memoriesWf, State.lanePred, hw]

@[simp] theorem State.uniOp_wf {s : State} (i : Instr) (e n : Bool) (d : Code) (uses : List Use) (f : Ctx → Word) (hw : s.memoriesWf) :
    Out.wf (State.uniOp s i e n d uses f) := by
  simp (maxDischargeDepth := 40) [State.memoriesWf, State.uniOp, hw]

@[simp] theorem State.uniOp64_wf {s : State} (i : Instr) (e n : Bool) (d : Code) (uses : List Use) (f : Ctx → Dword) (hw : s.memoriesWf) :
    Out.wf (State.uniOp64 s i e n d uses f) := by
  simp (maxDischargeDepth := 40) [State.memoriesWf, State.uniOp64, hw]

@[simp] theorem State.branch_wf {s : State} (x : Ctx) (grp : Group) (back : List LaneMask) (hw : s.memoriesWf) :
    (State.branch s x grp back).memoriesWf := by
  simp (maxDischargeDepth := 40) [State.memoriesWf, State.branch, hw]

@[simp] theorem State.holdGroup_wf {s : State} (x : Ctx) (h : Hold) (hw : s.memoriesWf) :
    (State.holdGroup s x h).memoriesWf := by
  simp (maxDischargeDepth := 40) [State.memoriesWf, State.holdGroup, hw]

@[simp] theorem State.completeHold_wf {s : State} (c g : Nat) (commit : Bool) (f : Group → Group) (hw : s.memoriesWf) :
    (State.completeHold s c g commit f).memoriesWf := by
  unfold State.completeHold
  (repeat' (first | with_reducible assumption | (simp (maxDischargeDepth := 40) [State.memoriesWf, *]; done) | refine foldl_wf _ ?_ _ ?_ | intro _ | refine wf_ite ?_ ?_ | refine Out.wf_ite ?_ ?_ | refine wf_ite_fst ?_ ?_ | extract_lets | split))

end Sys2Proof.Machine
end

