-- ==== Sys2Proof/Laws/Canon/Integer.lean ====
section
/-! SUPPORT. The operations of Machine/Integer.lean keep every memory in canonical form. -/

namespace Sys2Proof.Machine

set_option linter.unusedSimpArgs false
set_option linter.unusedVariables false

@[simp] theorem State.lane2_wf {s : State} (i : Instr) (e n : Bool) (d ca cb : Code) (f : Word → Word → Word) (hw : s.memoriesWf) :
    Out.wf (State.lane2 s i e n d ca cb f) := by
  simp (maxDischargeDepth := 40) [State.memoriesWf, State.lane2, hw]

theorem execAdd_wf (e n : Bool) (d ca cb : Code) {s : State} (hw : s.memoriesWf) :
    Out.wf (execAdd e n d ca cb s) := by
  simp (maxDischargeDepth := 40) [State.memoriesWf, execAdd, hw]

theorem execSub_wf (e n : Bool) (d ca cb : Code) {s : State} (hw : s.memoriesWf) :
    Out.wf (execSub e n d ca cb s) := by
  simp (maxDischargeDepth := 40) [State.memoriesWf, execSub, hw]

theorem execMul_wf (e n : Bool) (d ca cb : Code) {s : State} (hw : s.memoriesWf) :
    Out.wf (execMul e n d ca cb s) := by
  simp (maxDischargeDepth := 40) [State.memoriesWf, execMul, hw]

theorem execMulh_wf (e n : Bool) (d ca cb : Code) {s : State} (hw : s.memoriesWf) :
    Out.wf (execMulh e n d ca cb s) := by
  simp (maxDischargeDepth := 40) [State.memoriesWf, execMulh, hw]

theorem execMulhn_wf (e n : Bool) (d ca cb : Code) {s : State} (hw : s.memoriesWf) :
    Out.wf (execMulhn e n d ca cb s) := by
  simp (maxDischargeDepth := 40) [State.memoriesWf, execMulhn, hw]

theorem execAnd_wf (e n : Bool) (d ca cb : Code) {s : State} (hw : s.memoriesWf) :
    Out.wf (execAnd e n d ca cb s) := by
  simp (maxDischargeDepth := 40) [State.memoriesWf, execAnd, hw]

theorem execOr_wf (e n : Bool) (d ca cb : Code) {s : State} (hw : s.memoriesWf) :
    Out.wf (execOr e n d ca cb s) := by
  simp (maxDischargeDepth := 40) [State.memoriesWf, execOr, hw]

theorem execXor_wf (e n : Bool) (d ca cb : Code) {s : State} (hw : s.memoriesWf) :
    Out.wf (execXor e n d ca cb s) := by
  simp (maxDischargeDepth := 40) [State.memoriesWf, execXor, hw]

theorem execAndn_wf (e n : Bool) (d ca cb : Code) {s : State} (hw : s.memoriesWf) :
    Out.wf (execAndn e n d ca cb s) := by
  simp (maxDischargeDepth := 40) [State.memoriesWf, execAndn, hw]

theorem execShl_wf (e n : Bool) (d ca cb : Code) {s : State} (hw : s.memoriesWf) :
    Out.wf (execShl e n d ca cb s) := by
  simp (maxDischargeDepth := 40) [State.memoriesWf, execShl, hw]

theorem execShr_wf (e n : Bool) (d ca cb : Code) {s : State} (hw : s.memoriesWf) :
    Out.wf (execShr e n d ca cb s) := by
  simp (maxDischargeDepth := 40) [State.memoriesWf, execShr, hw]

theorem execSar_wf (e n : Bool) (d ca cb : Code) {s : State} (hw : s.memoriesWf) :
    Out.wf (execSar e n d ca cb s) := by
  simp (maxDischargeDepth := 40) [State.memoriesWf, execSar, hw]

theorem execMin_wf (e n : Bool) (d ca cb : Code) {s : State} (hw : s.memoriesWf) :
    Out.wf (execMin e n d ca cb s) := by
  simp (maxDischargeDepth := 40) [State.memoriesWf, execMin, hw]

theorem execMax_wf (e n : Bool) (d ca cb : Code) {s : State} (hw : s.memoriesWf) :
    Out.wf (execMax e n d ca cb s) := by
  simp (maxDischargeDepth := 40) [State.memoriesWf, execMax, hw]

theorem execMinn_wf (e n : Bool) (d ca cb : Code) {s : State} (hw : s.memoriesWf) :
    Out.wf (execMinn e n d ca cb s) := by
  simp (maxDischargeDepth := 40) [State.memoriesWf, execMinn, hw]

theorem execMaxn_wf (e n : Bool) (d ca cb : Code) {s : State} (hw : s.memoriesWf) :
    Out.wf (execMaxn e n d ca cb s) := by
  simp (maxDischargeDepth := 40) [State.memoriesWf, execMaxn, hw]

theorem execAddsat_wf (e n : Bool) (d ca cb : Code) {s : State} (hw : s.memoriesWf) :
    Out.wf (execAddsat e n d ca cb s) := by
  simp (maxDischargeDepth := 40) [State.memoriesWf, execAddsat, hw]

theorem execSubsat_wf (e n : Bool) (d ca cb : Code) {s : State} (hw : s.memoriesWf) :
    Out.wf (execSubsat e n d ca cb s) := by
  simp (maxDischargeDepth := 40) [State.memoriesWf, execSubsat, hw]

theorem execAddsatn_wf (e n : Bool) (d ca cb : Code) {s : State} (hw : s.memoriesWf) :
    Out.wf (execAddsatn e n d ca cb s) := by
  simp (maxDischargeDepth := 40) [State.memoriesWf, execAddsatn, hw]

theorem execSubsatn_wf (e n : Bool) (d ca cb : Code) {s : State} (hw : s.memoriesWf) :
    Out.wf (execSubsatn e n d ca cb s) := by
  simp (maxDischargeDepth := 40) [State.memoriesWf, execSubsatn, hw]

theorem execAbsd_wf (e n : Bool) (d ca cb : Code) {s : State} (hw : s.memoriesWf) :
    Out.wf (execAbsd e n d ca cb s) := by
  simp (maxDischargeDepth := 40) [State.memoriesWf, execAbsd, hw]

theorem execBfx_wf (e n : Bool) (d ca cb : Code) {s : State} (hw : s.memoriesWf) :
    Out.wf (execBfx e n d ca cb s) := by
  simp (maxDischargeDepth := 40) [State.memoriesWf, execBfx, hw]

theorem execBfxn_wf (e n : Bool) (d ca cb : Code) {s : State} (hw : s.memoriesWf) :
    Out.wf (execBfxn e n d ca cb s) := by
  simp (maxDischargeDepth := 40) [State.memoriesWf, execBfxn, hw]

theorem execBfi_wf (e n : Bool) (d ca cb : Code) {s : State} (hw : s.memoriesWf) :
    Out.wf (execBfi e n d ca cb s) := by
  simp (maxDischargeDepth := 40) [State.memoriesWf, execBfi, hw]

theorem execSel_wf (e n : Bool) (d ca p : Code) {s : State} (hw : s.memoriesWf) :
    Out.wf (execSel e n d ca p s) := by
  simp (maxDischargeDepth := 40) [State.memoriesWf, execSel, hw]

@[simp] theorem State.lane1_wf {s : State} (i : Instr) (e n : Bool) (d ca : Code) (f : Word → Word) (hw : s.memoriesWf) :
    Out.wf (State.lane1 s i e n d ca f) := by
  simp (maxDischargeDepth := 40) [State.memoriesWf, State.lane1, hw]

theorem execMov_wf (e n : Bool) (d ca : Code) {s : State} (hw : s.memoriesWf) :
    Out.wf (execMov e n d ca s) := by
  simp (maxDischargeDepth := 40) [State.memoriesWf, execMov, hw]

theorem execNot_wf (e n : Bool) (d ca : Code) {s : State} (hw : s.memoriesWf) :
    Out.wf (execNot e n d ca s) := by
  simp (maxDischargeDepth := 40) [State.memoriesWf, execNot, hw]

theorem execNeg_wf (e n : Bool) (d ca : Code) {s : State} (hw : s.memoriesWf) :
    Out.wf (execNeg e n d ca s) := by
  simp (maxDischargeDepth := 40) [State.memoriesWf, execNeg, hw]

theorem execAbs_wf (e n : Bool) (d ca : Code) {s : State} (hw : s.memoriesWf) :
    Out.wf (execAbs e n d ca s) := by
  simp (maxDischargeDepth := 40) [State.memoriesWf, execAbs, hw]

theorem execClz_wf (e n : Bool) (d ca : Code) {s : State} (hw : s.memoriesWf) :
    Out.wf (execClz e n d ca s) := by
  simp (maxDischargeDepth := 40) [State.memoriesWf, execClz, hw]

theorem execPopc_wf (e n : Bool) (d ca : Code) {s : State} (hw : s.memoriesWf) :
    Out.wf (execPopc e n d ca s) := by
  simp (maxDischargeDepth := 40) [State.memoriesWf, execPopc, hw]

theorem execBrev_wf (e n : Bool) (d ca : Code) {s : State} (hw : s.memoriesWf) :
    Out.wf (execBrev e n d ca s) := by
  simp (maxDischargeDepth := 40) [State.memoriesWf, execBrev, hw]

theorem execSextb_wf (e n : Bool) (d ca : Code) {s : State} (hw : s.memoriesWf) :
    Out.wf (execSextb e n d ca s) := by
  simp (maxDischargeDepth := 40) [State.memoriesWf, execSextb, hw]

theorem execSexth_wf (e n : Bool) (d ca : Code) {s : State} (hw : s.memoriesWf) :
    Out.wf (execSexth e n d ca s) := by
  simp (maxDischargeDepth := 40) [State.memoriesWf, execSexth, hw]

theorem execZextb_wf (e n : Bool) (d ca : Code) {s : State} (hw : s.memoriesWf) :
    Out.wf (execZextb e n d ca s) := by
  simp (maxDischargeDepth := 40) [State.memoriesWf, execZextb, hw]

theorem execZexth_wf (e n : Bool) (d ca : Code) {s : State} (hw : s.memoriesWf) :
    Out.wf (execZexth e n d ca s) := by
  simp (maxDischargeDepth := 40) [State.memoriesWf, execZexth, hw]

theorem execAddx_wf (e n : Bool) (d ca cb : Code) {s : State} (hw : s.memoriesWf) :
    Out.wf (execAddx e n d ca cb s) := by
  simp (maxDischargeDepth := 40) [State.memoriesWf, execAddx, hw]

theorem execSubx_wf (e n : Bool) (d ca cb : Code) {s : State} (hw : s.memoriesWf) :
    Out.wf (execSubx e n d ca cb s) := by
  simp (maxDischargeDepth := 40) [State.memoriesWf, execSubx, hw]

theorem execMulwx_wf (e n : Bool) (d ca cb : Code) {s : State} (hw : s.memoriesWf) :
    Out.wf (execMulwx e n d ca cb s) := by
  simp (maxDischargeDepth := 40) [State.memoriesWf, execMulwx, hw]

theorem execMulwxn_wf (e n : Bool) (d ca cb : Code) {s : State} (hw : s.memoriesWf) :
    Out.wf (execMulwxn e n d ca cb s) := by
  simp (maxDischargeDepth := 40) [State.memoriesWf, execMulwxn, hw]

theorem execLeax_wf (e n : Bool) (d ca cb : Code) {s : State} (hw : s.memoriesWf) :
    Out.wf (execLeax e n d ca cb s) := by
  simp (maxDischargeDepth := 40) [State.memoriesWf, execLeax, hw]

theorem execAddxi_wf (e n : Bool) (d ca : Code) (i : BitVec 8) {s : State} (hw : s.memoriesWf) :
    Out.wf (execAddxi e n d ca i s) := by
  simp (maxDischargeDepth := 40) [State.memoriesWf, execAddxi, hw]

theorem execAddi_wf (e n : Bool) (d ca : Code) (i : BitVec 8) {s : State} (hw : s.memoriesWf) :
    Out.wf (execAddi e n d ca i s) := by
  simp (maxDischargeDepth := 40) [State.memoriesWf, execAddi, hw]

theorem execAndi_wf (e n : Bool) (d ca : Code) (i : BitVec 8) {s : State} (hw : s.memoriesWf) :
    Out.wf (execAndi e n d ca i s) := by
  simp (maxDischargeDepth := 40) [State.memoriesWf, execAndi, hw]

theorem execOri_wf (e n : Bool) (d ca : Code) (i : BitVec 8) {s : State} (hw : s.memoriesWf) :
    Out.wf (execOri e n d ca i s) := by
  simp (maxDischargeDepth := 40) [State.memoriesWf, execOri, hw]

theorem execXori_wf (e n : Bool) (d ca : Code) (i : BitVec 8) {s : State} (hw : s.memoriesWf) :
    Out.wf (execXori e n d ca i s) := by
  simp (maxDischargeDepth := 40) [State.memoriesWf, execXori, hw]

theorem execShli_wf (e n : Bool) (d ca : Code) (i : BitVec 8) {s : State} (hw : s.memoriesWf) :
    Out.wf (execShli e n d ca i s) := by
  simp (maxDischargeDepth := 40) [State.memoriesWf, execShli, hw]

theorem execShri_wf (e n : Bool) (d ca : Code) (i : BitVec 8) {s : State} (hw : s.memoriesWf) :
    Out.wf (execShri e n d ca i s) := by
  simp (maxDischargeDepth := 40) [State.memoriesWf, execShri, hw]

theorem execSari_wf (e n : Bool) (d ca : Code) (i : BitVec 8) {s : State} (hw : s.memoriesWf) :
    Out.wf (execSari e n d ca i s) := by
  simp (maxDischargeDepth := 40) [State.memoriesWf, execSari, hw]

theorem execMuli_wf (e n : Bool) (d ca : Code) (i : BitVec 8) {s : State} (hw : s.memoriesWf) :
    Out.wf (execMuli e n d ca i s) := by
  simp (maxDischargeDepth := 40) [State.memoriesWf, execMuli, hw]

theorem execLdi_wf (e : Bool) (d : Code) (i : BitVec 16) {s : State} (hw : s.memoriesWf) :
    Out.wf (execLdi e d i s) := by
  simp (maxDischargeDepth := 40) [State.memoriesWf, execLdi, hw]

theorem execLdh_wf (e : Bool) (d : Code) (i : BitVec 16) {s : State} (hw : s.memoriesWf) :
    Out.wf (execLdh e d i s) := by
  simp (maxDischargeDepth := 40) [State.memoriesWf, execLdh, hw]

@[simp] theorem State.lanePred2_wf {s : State} (i : Instr) (e : Bool) (kd ca cb : Code) (f : Word → Word → Bool) (hw : s.memoriesWf) :
    Out.wf (State.lanePred2 s i e kd ca cb f) := by
  simp (maxDischargeDepth := 40) [State.memoriesWf, State.lanePred2, hw]

theorem execCmpeq_wf (e : Bool) (k ca cb : Code) {s : State} (hw : s.memoriesWf) :
    Out.wf (execCmpeq e k ca cb s) := by
  simp (maxDischargeDepth := 40) [State.memoriesWf, execCmpeq, hw]

theorem execCmpne_wf (e : Bool) (k ca cb : Code) {s : State} (hw : s.memoriesWf) :
    Out.wf (execCmpne e k ca cb s) := by
  simp (maxDischargeDepth := 40) [State.memoriesWf, execCmpne, hw]

theorem execCmplt_wf (e : Bool) (k ca cb : Code) {s : State} (hw : s.memoriesWf) :
    Out.wf (execCmplt e k ca cb s) := by
  simp (maxDischargeDepth := 40) [State.memoriesWf, execCmplt, hw]

theorem execCmple_wf (e : Bool) (k ca cb : Code) {s : State} (hw : s.memoriesWf) :
    Out.wf (execCmple e k ca cb s) := by
  simp (maxDischargeDepth := 40) [State.memoriesWf, execCmple, hw]

theorem execCmpltn_wf (e : Bool) (k ca cb : Code) {s : State} (hw : s.memoriesWf) :
    Out.wf (execCmpltn e k ca cb s) := by
  simp (maxDischargeDepth := 40) [State.memoriesWf, execCmpltn, hw]

theorem execCmplen_wf (e : Bool) (k ca cb : Code) {s : State} (hw : s.memoriesWf) :
    Out.wf (execCmplen e k ca cb s) := by
  simp (maxDischargeDepth := 40) [State.memoriesWf, execCmplen, hw]

theorem execCmpeqi_wf (e : Bool) (k ca : Code) (i : BitVec 7) {s : State} (hw : s.memoriesWf) :
    Out.wf (execCmpeqi e k ca i s) := by
  simp (maxDischargeDepth := 40) [State.memoriesWf, execCmpeqi, hw]

theorem execCmplti_wf (e : Bool) (k ca : Code) (i : BitVec 7) {s : State} (hw : s.memoriesWf) :
    Out.wf (execCmplti e k ca i s) := by
  simp (maxDischargeDepth := 40) [State.memoriesWf, execCmplti, hw]

theorem execCmpltni_wf (e : Bool) (k ca : Code) (i : BitVec 7) {s : State} (hw : s.memoriesWf) :
    Out.wf (execCmpltni e k ca i s) := by
  simp (maxDischargeDepth := 40) [State.memoriesWf, execCmpltni, hw]

theorem execCmpltx_wf (e : Bool) (k ca cb : Code) {s : State} (hw : s.memoriesWf) :
    Out.wf (execCmpltx e k ca cb s) := by
  simp (maxDischargeDepth := 40) [State.memoriesWf, execCmpltx, hw]

theorem execCmpeqx_wf (e : Bool) (k ca cb : Code) {s : State} (hw : s.memoriesWf) :
    Out.wf (execCmpeqx e k ca cb s) := by
  simp (maxDischargeDepth := 40) [State.memoriesWf, execCmpeqx, hw]

theorem execKand_wf (e : Bool) (kd ka kb : Code) {s : State} (hw : s.memoriesWf) :
    Out.wf (execKand e kd ka kb s) := by
  simp (maxDischargeDepth := 40) [State.memoriesWf, execKand, hw]

theorem execKor_wf (e : Bool) (kd ka kb : Code) {s : State} (hw : s.memoriesWf) :
    Out.wf (execKor e kd ka kb s) := by
  simp (maxDischargeDepth := 40) [State.memoriesWf, execKor, hw]

theorem execKxor_wf (e : Bool) (kd ka kb : Code) {s : State} (hw : s.memoriesWf) :
    Out.wf (execKxor e kd ka kb s) := by
  simp (maxDischargeDepth := 40) [State.memoriesWf, execKxor, hw]

theorem execKandn_wf (e : Bool) (kd ka kb : Code) {s : State} (hw : s.memoriesWf) :
    Out.wf (execKandn e kd ka kb s) := by
  simp (maxDischargeDepth := 40) [State.memoriesWf, execKandn, hw]

theorem execKset_wf (e : Bool) (k ca : Code) (i : BitVec 5) {s : State} (hw : s.memoriesWf) :
    Out.wf (execKset e k ca i s) := by
  simp (maxDischargeDepth := 40) [State.memoriesWf, execKset, hw]

theorem execKget_wf (e n : Bool) (d ka : Code) {s : State} (hw : s.memoriesWf) :
    Out.wf (execKget e n d ka s) := by
  simp (maxDischargeDepth := 40) [State.memoriesWf, execKget, hw]

end Sys2Proof.Machine
end

