-- ==== Sys2Proof/Laws/Canon/Float.lean ====
section
/-! SUPPORT. The operations of Machine/Float.lean keep every memory in canonical form. -/

namespace Sys2Proof.Machine

set_option linter.unusedSimpArgs false
set_option linter.unusedVariables false

@[simp] theorem State.laneOpEv_wf {s : State} (i : Instr) (e n : Bool) (d : Code) (fmt : Nat) (uses : List Use) (f : Ctx → Nat → Word × Events) (hw : s.memoriesWf) :
    Out.wf (State.laneOpEv s i e n d fmt uses f) := by
  simp (maxDischargeDepth := 40) [State.memoriesWf, State.laneOpEv, hw]

@[simp] theorem State.fp2_wf {s : State} (i : Instr) (e n : Bool) (d ca cb : Code) (f : Word → Word → Word × Events) (hw : s.memoriesWf) :
    Out.wf (State.fp2 s i e n d ca cb f) := by
  simp (maxDischargeDepth := 40) [State.memoriesWf, State.fp2, hw]

@[simp] theorem State.fp1_wf {s : State} (i : Instr) (e n : Bool) (d ca : Code) (f : Word → Word × Events) (hw : s.memoriesWf) :
    Out.wf (State.fp1 s i e n d ca f) := by
  simp (maxDischargeDepth := 40) [State.memoriesWf, State.fp1, hw]

theorem execFadd_wf (e n : Bool) (d ca cb : Code) {s : State} (hw : s.memoriesWf) :
    Out.wf (execFadd e n d ca cb s) := by
  simp (maxDischargeDepth := 40) [State.memoriesWf, execFadd, hw]

theorem execFsub_wf (e n : Bool) (d ca cb : Code) {s : State} (hw : s.memoriesWf) :
    Out.wf (execFsub e n d ca cb s) := by
  simp (maxDischargeDepth := 40) [State.memoriesWf, execFsub, hw]

theorem execFmul_wf (e n : Bool) (d ca cb : Code) {s : State} (hw : s.memoriesWf) :
    Out.wf (execFmul e n d ca cb s) := by
  simp (maxDischargeDepth := 40) [State.memoriesWf, execFmul, hw]

theorem execFaddz_wf (e n : Bool) (d ca cb : Code) {s : State} (hw : s.memoriesWf) :
    Out.wf (execFaddz e n d ca cb s) := by
  simp (maxDischargeDepth := 40) [State.memoriesWf, execFaddz, hw]

theorem execFmulz_wf (e n : Bool) (d ca cb : Code) {s : State} (hw : s.memoriesWf) :
    Out.wf (execFmulz e n d ca cb s) := by
  simp (maxDischargeDepth := 40) [State.memoriesWf, execFmulz, hw]

theorem execFmin_wf (e n : Bool) (d ca cb : Code) {s : State} (hw : s.memoriesWf) :
    Out.wf (execFmin e n d ca cb s) := by
  simp (maxDischargeDepth := 40) [State.memoriesWf, execFmin, hw]

theorem execFmax_wf (e n : Bool) (d ca cb : Code) {s : State} (hw : s.memoriesWf) :
    Out.wf (execFmax e n d ca cb s) := by
  simp (maxDischargeDepth := 40) [State.memoriesWf, execFmax, hw]

theorem execFfma_wf (e n : Bool) (d ca cb : Code) {s : State} (hw : s.memoriesWf) :
    Out.wf (execFfma e n d ca cb s) := by
  simp (maxDischargeDepth := 40) [State.memoriesWf, execFfma, hw]

theorem execFfmaz_wf (e n : Bool) (d ca cb : Code) {s : State} (hw : s.memoriesWf) :
    Out.wf (execFfmaz e n d ca cb s) := by
  simp (maxDischargeDepth := 40) [State.memoriesWf, execFfmaz, hw]

theorem execFcmpeq_wf (e : Bool) (k ca cb : Code) {s : State} (hw : s.memoriesWf) :
    Out.wf (execFcmpeq e k ca cb s) := by
  simp (maxDischargeDepth := 40) [State.memoriesWf, execFcmpeq, hw]

theorem execFcmplt_wf (e : Bool) (k ca cb : Code) {s : State} (hw : s.memoriesWf) :
    Out.wf (execFcmplt e k ca cb s) := by
  simp (maxDischargeDepth := 40) [State.memoriesWf, execFcmplt, hw]

theorem execFcmple_wf (e : Bool) (k ca cb : Code) {s : State} (hw : s.memoriesWf) :
    Out.wf (execFcmple e k ca cb s) := by
  simp (maxDischargeDepth := 40) [State.memoriesWf, execFcmple, hw]

theorem execFcmpun_wf (e : Bool) (k ca cb : Code) {s : State} (hw : s.memoriesWf) :
    Out.wf (execFcmpun e k ca cb s) := by
  simp (maxDischargeDepth := 40) [State.memoriesWf, execFcmpun, hw]

theorem execFabs_wf (e n : Bool) (d ca : Code) {s : State} (hw : s.memoriesWf) :
    Out.wf (execFabs e n d ca s) := by
  simp (maxDischargeDepth := 40) [State.memoriesWf, execFabs, hw]

theorem execFneg_wf (e n : Bool) (d ca : Code) {s : State} (hw : s.memoriesWf) :
    Out.wf (execFneg e n d ca s) := by
  simp (maxDischargeDepth := 40) [State.memoriesWf, execFneg, hw]

theorem execFfloor_wf (e n : Bool) (d ca : Code) {s : State} (hw : s.memoriesWf) :
    Out.wf (execFfloor e n d ca s) := by
  simp (maxDischargeDepth := 40) [State.memoriesWf, execFfloor, hw]

theorem execFceil_wf (e n : Bool) (d ca : Code) {s : State} (hw : s.memoriesWf) :
    Out.wf (execFceil e n d ca s) := by
  simp (maxDischargeDepth := 40) [State.memoriesWf, execFceil, hw]

theorem execFrint_wf (e n : Bool) (d ca : Code) {s : State} (hw : s.memoriesWf) :
    Out.wf (execFrint e n d ca s) := by
  simp (maxDischargeDepth := 40) [State.memoriesWf, execFrint, hw]

theorem execFtrunc_wf (e n : Bool) (d ca : Code) {s : State} (hw : s.memoriesWf) :
    Out.wf (execFtrunc e n d ca s) := by
  simp (maxDischargeDepth := 40) [State.memoriesWf, execFtrunc, hw]

theorem execFexp2_wf (e n : Bool) (d ca : Code) {s : State} (hw : s.memoriesWf) :
    Out.wf (execFexp2 e n d ca s) := by
  simp (maxDischargeDepth := 40) [State.memoriesWf, execFexp2, hw]

theorem execFlog2_wf (e n : Bool) (d ca : Code) {s : State} (hw : s.memoriesWf) :
    Out.wf (execFlog2 e n d ca s) := by
  simp (maxDischargeDepth := 40) [State.memoriesWf, execFlog2, hw]

theorem execFrcp_wf (e n : Bool) (d ca : Code) {s : State} (hw : s.memoriesWf) :
    Out.wf (execFrcp e n d ca s) := by
  simp (maxDischargeDepth := 40) [State.memoriesWf, execFrcp, hw]

theorem execFrsq_wf (e n : Bool) (d ca : Code) {s : State} (hw : s.memoriesWf) :
    Out.wf (execFrsq e n d ca s) := by
  simp (maxDischargeDepth := 40) [State.memoriesWf, execFrsq, hw]

theorem execFsqrt_wf (e n : Bool) (d ca : Code) {s : State} (hw : s.memoriesWf) :
    Out.wf (execFsqrt e n d ca s) := by
  simp (maxDischargeDepth := 40) [State.memoriesWf, execFsqrt, hw]

theorem execFsinp_wf (e n : Bool) (d ca : Code) {s : State} (hw : s.memoriesWf) :
    Out.wf (execFsinp e n d ca s) := by
  simp (maxDischargeDepth := 40) [State.memoriesWf, execFsinp, hw]

theorem execFcosp_wf (e n : Bool) (d ca : Code) {s : State} (hw : s.memoriesWf) :
    Out.wf (execFcosp e n d ca s) := by
  simp (maxDischargeDepth := 40) [State.memoriesWf, execFcosp, hw]

theorem execFtanh_wf (e n : Bool) (d ca : Code) {s : State} (hw : s.memoriesWf) :
    Out.wf (execFtanh e n d ca s) := by
  simp (maxDischargeDepth := 40) [State.memoriesWf, execFtanh, hw]

theorem execFsig_wf (e n : Bool) (d ca : Code) {s : State} (hw : s.memoriesWf) :
    Out.wf (execFsig e n d ca s) := by
  simp (maxDischargeDepth := 40) [State.memoriesWf, execFsig, hw]

theorem execCvtfi_wf (e n : Bool) (d ca : Code) {s : State} (hw : s.memoriesWf) :
    Out.wf (execCvtfi e n d ca s) := by
  simp (maxDischargeDepth := 40) [State.memoriesWf, execCvtfi, hw]

theorem execCvtfiz_wf (e n : Bool) (d ca : Code) {s : State} (hw : s.memoriesWf) :
    Out.wf (execCvtfiz e n d ca s) := by
  simp (maxDischargeDepth := 40) [State.memoriesWf, execCvtfiz, hw]

theorem execCvtfn_wf (e n : Bool) (d ca : Code) {s : State} (hw : s.memoriesWf) :
    Out.wf (execCvtfn e n d ca s) := by
  simp (maxDischargeDepth := 40) [State.memoriesWf, execCvtfn, hw]

theorem execCvtif_wf (e n : Bool) (d ca : Code) {s : State} (hw : s.memoriesWf) :
    Out.wf (execCvtif e n d ca s) := by
  simp (maxDischargeDepth := 40) [State.memoriesWf, execCvtif, hw]

theorem execCvtnf_wf (e n : Bool) (d ca : Code) {s : State} (hw : s.memoriesWf) :
    Out.wf (execCvtnf e n d ca s) := by
  simp (maxDischargeDepth := 40) [State.memoriesWf, execCvtnf, hw]

theorem execCvtbf_wf (e n : Bool) (d ca : Code) {s : State} (hw : s.memoriesWf) :
    Out.wf (execCvtbf e n d ca s) := by
  simp (maxDischargeDepth := 40) [State.memoriesWf, execCvtbf, hw]

theorem execCvtbfh_wf (e n : Bool) (d ca : Code) {s : State} (hw : s.memoriesWf) :
    Out.wf (execCvtbfh e n d ca s) := by
  simp (maxDischargeDepth := 40) [State.memoriesWf, execCvtbfh, hw]

theorem execCvthf_wf (e n : Bool) (d ca : Code) {s : State} (hw : s.memoriesWf) :
    Out.wf (execCvthf e n d ca s) := by
  simp (maxDischargeDepth := 40) [State.memoriesWf, execCvthf, hw]

theorem execCvthfh_wf (e n : Bool) (d ca : Code) {s : State} (hw : s.memoriesWf) :
    Out.wf (execCvthfh e n d ca s) := by
  simp (maxDischargeDepth := 40) [State.memoriesWf, execCvthfh, hw]

theorem execCvtfb_wf (e n : Bool) (d ca cb : Code) {s : State} (hw : s.memoriesWf) :
    Out.wf (execCvtfb e n d ca cb s) := by
  simp (maxDischargeDepth := 40) [State.memoriesWf, execCvtfb, hw]

theorem execCvtfbs_wf (e n : Bool) (d ca cb : Code) {s : State} (hw : s.memoriesWf) :
    Out.wf (execCvtfbs e n d ca cb s) := by
  simp (maxDischargeDepth := 40) [State.memoriesWf, execCvtfbs, hw]

theorem execCvtfh_wf (e n : Bool) (d ca cb : Code) {s : State} (hw : s.memoriesWf) :
    Out.wf (execCvtfh e n d ca cb s) := by
  simp (maxDischargeDepth := 40) [State.memoriesWf, execCvtfh, hw]

@[simp] theorem State.packed_wf {s : State} (i : Instr) (e n : Bool) (d ca cb : Code) (f : Nat → Nat → Nat × Events) (hw : s.memoriesWf) :
    Out.wf (State.packed s i e n d ca cb f) := by
  simp (maxDischargeDepth := 40) [State.memoriesWf, State.packed, hw]

theorem execBadd2_wf (e n : Bool) (d ca cb : Code) {s : State} (hw : s.memoriesWf) :
    Out.wf (execBadd2 e n d ca cb s) := by
  simp (maxDischargeDepth := 40) [State.memoriesWf, execBadd2, hw]

theorem execBmul2_wf (e n : Bool) (d ca cb : Code) {s : State} (hw : s.memoriesWf) :
    Out.wf (execBmul2 e n d ca cb s) := by
  simp (maxDischargeDepth := 40) [State.memoriesWf, execBmul2, hw]

theorem execBmax2_wf (e n : Bool) (d ca cb : Code) {s : State} (hw : s.memoriesWf) :
    Out.wf (execBmax2 e n d ca cb s) := by
  simp (maxDischargeDepth := 40) [State.memoriesWf, execBmax2, hw]

theorem execBmin2_wf (e n : Bool) (d ca cb : Code) {s : State} (hw : s.memoriesWf) :
    Out.wf (execBmin2 e n d ca cb s) := by
  simp (maxDischargeDepth := 40) [State.memoriesWf, execBmin2, hw]

theorem execBfma2_wf (e n : Bool) (d ca cb : Code) {s : State} (hw : s.memoriesWf) :
    Out.wf (execBfma2 e n d ca cb s) := by
  simp (maxDischargeDepth := 40) [State.memoriesWf, execBfma2, hw]

@[simp] theorem State.quantize_wf {s : State} (i : Instr) (k : Nat) (e n : Bool) (d ca cb : Code) (hw : s.memoriesWf) :
    Out.wf (State.quantize s i k e n d ca cb) := by
  simp (maxDischargeDepth := 40) [State.memoriesWf, State.quantize, hw]

theorem execQntf8_wf (e n : Bool) (d ca cb : Code) {s : State} (hw : s.memoriesWf) :
    Out.wf (execQntf8 e n d ca cb s) := by
  simp (maxDischargeDepth := 40) [State.memoriesWf, execQntf8, hw]

theorem execQntf6_wf (e n : Bool) (d ca cb : Code) {s : State} (hw : s.memoriesWf) :
    Out.wf (execQntf6 e n d ca cb s) := by
  simp (maxDischargeDepth := 40) [State.memoriesWf, execQntf6, hw]

theorem execQntf4_wf (e n : Bool) (d ca cb : Code) {s : State} (hw : s.memoriesWf) :
    Out.wf (execQntf4 e n d ca cb s) := by
  simp (maxDischargeDepth := 40) [State.memoriesWf, execQntf4, hw]

theorem execQnti8_wf (e n : Bool) (d ca cb : Code) {s : State} (hw : s.memoriesWf) :
    Out.wf (execQnti8 e n d ca cb s) := by
  simp (maxDischargeDepth := 40) [State.memoriesWf, execQnti8, hw]

theorem execDqn_wf (e n : Bool) (d ca : Code) (i : BitVec 8) {s : State} (hw : s.memoriesWf) :
    Out.wf (execDqn e n d ca i s) := by
  simp (maxDischargeDepth := 40) [State.memoriesWf, execDqn, hw]

theorem execRnd_wf (e n : Bool) (d ca cb : Code) {s : State} (hw : s.memoriesWf) :
    Out.wf (execRnd e n d ca cb s) := by
  simp (maxDischargeDepth := 40) [State.memoriesWf, execRnd, hw]

end Sys2Proof.Machine
end

