-- ==== Sys2Proof/Laws/Canon/Lane.lean ====
section
/-! SUPPORT. The operations of Machine/Lane.lean keep every memory in canonical form. -/

namespace Sys2Proof.Machine

set_option linter.unusedSimpArgs false
set_option linter.unusedVariables false

@[simp] theorem State.shuffle_wf {s : State} (i : Instr) (e n : Bool) (d ca : Code) (uses : List Use) (f : Ctx → Nat → Option Nat) (hw : s.memoriesWf) :
    Out.wf (State.shuffle s i e n d ca uses f) := by
  simp (maxDischargeDepth := 40) [State.memoriesWf, State.shuffle, hw]

theorem execShfl_wf (e n : Bool) (d ca cb : Code) {s : State} (hw : s.memoriesWf) :
    Out.wf (execShfl e n d ca cb s) := by
  simp (maxDischargeDepth := 40) [State.memoriesWf, execShfl, hw]

theorem execShflu_wf (e n : Bool) (d ca : Code) (i : BitVec 8) {s : State} (hw : s.memoriesWf) :
    Out.wf (execShflu e n d ca i s) := by
  simp (maxDischargeDepth := 40) [State.memoriesWf, execShflu, hw]

theorem execShfld_wf (e n : Bool) (d ca : Code) (i : BitVec 8) {s : State} (hw : s.memoriesWf) :
    Out.wf (execShfld e n d ca i s) := by
  simp (maxDischargeDepth := 40) [State.memoriesWf, execShfld, hw]

theorem execShflx_wf (e n : Bool) (d ca : Code) (i : BitVec 8) {s : State} (hw : s.memoriesWf) :
    Out.wf (execShflx e n d ca i s) := by
  simp (maxDischargeDepth := 40) [State.memoriesWf, execShflx, hw]

theorem execQex_wf (e n : Bool) (d ca : Code) (i : BitVec 8) {s : State} (hw : s.memoriesWf) :
    Out.wf (execQex e n d ca i s) := by
  simp (maxDischargeDepth := 40) [State.memoriesWf, execQex, hw]

theorem execVoteb_wf (e n : Bool) (d ca : Code) {s : State} (hw : s.memoriesWf) :
    Out.wf (execVoteb e n d ca s) := by
  simp (maxDischargeDepth := 40) [State.memoriesWf, execVoteb, hw]

theorem execVotean_wf (e : Bool) (k ca : Code) {s : State} (hw : s.memoriesWf) :
    Out.wf (execVotean e k ca s) := by
  simp (maxDischargeDepth := 40) [State.memoriesWf, execVotean, hw]

theorem execVoteal_wf (e : Bool) (k ca : Code) {s : State} (hw : s.memoriesWf) :
    Out.wf (execVoteal e k ca s) := by
  simp (maxDischargeDepth := 40) [State.memoriesWf, execVoteal, hw]

theorem execGred_wf (e n : Bool) (d ca : Code) (i : BitVec 8) {s : State} (hw : s.memoriesWf) :
    Out.wf (execGred e n d ca i s) := by
  simp (maxDischargeDepth := 40) [State.memoriesWf, execGred, hw]

theorem execGscan_wf (e n : Bool) (d ca : Code) (i : BitVec 8) {s : State} (hw : s.memoriesWf) :
    Out.wf (execGscan e n d ca i s) := by
  simp (maxDischargeDepth := 40) [State.memoriesWf, execGscan, hw]

end Sys2Proof.Machine
end

