-- ==== Sys2Proof/Laws/Canon/Diverge.lean ====
section
/-! SUPPORT. The operations of Machine/Diverge.lean keep every memory in canonical form. -/

namespace Sys2Proof.Machine

set_option linter.unusedSimpArgs false
set_option linter.unusedVariables false

@[simp] theorem State.drawBit_wf {s : State} (hw : s.memoriesWf) :
    (State.drawBit s).1.memoriesWf := by
  simp (maxDischargeDepth := 40) [State.memoriesWf, State.drawBit, hw]

theorem execBrk_wf (k : Code) (t : Bool) (d : BitVec 15) {s : State} (hw : s.memoriesWf) :
    Out.wf (execBrk k t d s) := by
  unfold execBrk
  (repeat' (first | with_reducible assumption | (simp (maxDischargeDepth := 40) [State.memoriesWf, *]; done) | refine foldl_wf _ ?_ _ ?_ | intro _ | refine wf_ite ?_ ?_ | refine Out.wf_ite ?_ ?_ | refine wf_ite_fst ?_ ?_ | refine State.withRun_wf _ (by assumption) ?_ | refine State.uform_wf _ _ _ (by assumption) ?_ | refine State.vform_wf _ _ _ _ (by assumption) ?_| refine State.vcommit_wf _ _ _ (by assumption) ?_ | extract_lets | split))

@[simp] theorem State.indirect_wf {s : State} (x : Ctx) (grp : Group) (sets : List HeldTrap) (hw : s.memoriesWf) :
    (State.indirect s x grp sets).memoriesWf := by
  unfold State.indirect
  (repeat' (first | with_reducible assumption | (simp (maxDischargeDepth := 40) [State.memoriesWf, *]; done) | refine foldl_wf _ ?_ _ ?_ | intro _ | refine wf_ite ?_ ?_ | refine Out.wf_ite ?_ ?_ | refine wf_ite_fst ?_ ?_ | refine State.withRun_wf _ (by assumption) ?_ | refine State.uform_wf _ _ _ (by assumption) ?_ | refine State.vform_wf _ _ _ _ (by assumption) ?_| refine State.vcommit_wf _ _ _ (by assumption) ?_ | extract_lets | split))

@[simp] theorem State.jumpLanes_wf {s : State} (x : Ctx) (ca : Code) (link : Option (Bool × Code)) (hw : s.memoriesWf) :
    (State.jumpLanes s x ca link).memoriesWf := by
  unfold State.jumpLanes
  (repeat' split) <;> simp_all

theorem execJmpi_wf (ca : Code) {s : State} (hw : s.memoriesWf) :
    Out.wf (execJmpi ca s) := by
  unfold execJmpi
  (repeat' (first | with_reducible assumption | (simp (maxDischargeDepth := 40) [State.memoriesWf, *]; done) | refine foldl_wf _ ?_ _ ?_ | intro _ | refine wf_ite ?_ ?_ | refine Out.wf_ite ?_ ?_ | refine wf_ite_fst ?_ ?_ | refine State.withRun_wf _ (by assumption) ?_ | refine State.uform_wf _ _ _ (by assumption) ?_ | refine State.vform_wf _ _ _ _ (by assumption) ?_| refine State.vcommit_wf _ _ _ (by assumption) ?_ | extract_lets | split))

theorem execCalli_wf (n : Bool) (d ca : Code) {s : State} (hw : s.memoriesWf) :
    Out.wf (execCalli n d ca s) := by
  simp (maxDischargeDepth := 40) [State.memoriesWf, execCalli, hw]

@[simp] theorem State.tableWord_wf {s : State} (x : Ctx) (stale : Bool) (l : Nat) (a : Dword) (hw : s.memoriesWf) :
    (State.tableWord s x stale l a).1.memoriesWf := by
  unfold State.tableWord
  (repeat' (first | with_reducible assumption | (simp (maxDischargeDepth := 40) [State.memoriesWf, *]; done) | refine foldl_wf _ ?_ _ ?_ | intro _ | refine wf_ite ?_ ?_ | refine Out.wf_ite ?_ ?_ | refine wf_ite_fst ?_ ?_ | refine State.withRun_wf _ (by assumption) ?_ | refine State.uform_wf _ _ _ (by assumption) ?_ | refine State.vform_wf _ _ _ _ (by assumption) ?_ | refine State.ucommit_wf _ _ _ _ (by assumption) ?_ | refine State.vcommit_wf _ _ _ (by assumption) ?_ | extract_lets | split))

@[simp] theorem State.tableWords_wf {s : State} (x : Ctx) (stale : Bool) (addr : Nat → Dword) (ls : List Nat)
    (hw : s.memoriesWf) : (s.tableWords x stale addr ls).1.memoriesWf := by
  induction ls generalizing s with
  | nil => exact hw
  | cons l ls ih => exact ih (State.tableWord_wf x stale l (addr l) hw)

@[simp] theorem State.waitJump_wf {s : State} (x : Ctx) (base : Dword) (n : Nat) (index : Nat → Word) (hw : s.memoriesWf) :
    (State.waitJump s x base n index).memoriesWf := by
  unfold State.waitJump
  (repeat' (first | with_reducible assumption | (simp (maxDischargeDepth := 40) [State.memoriesWf, *]; done) | refine foldl_wf _ ?_ _ ?_ | intro _ | refine wf_ite ?_ ?_ | refine Out.wf_ite ?_ ?_ | refine wf_ite_fst ?_ ?_ | refine State.withRun_wf _ (by assumption) ?_ | refine State.uform_wf _ _ _ (by assumption) ?_ | refine State.vform_wf _ _ _ _ (by assumption) ?_ | refine State.ucommit_wf _ _ _ _ (by assumption) ?_ | refine State.vcommit_wf _ _ _ (by assumption) ?_ | extract_lets | split))

@[simp] theorem State.jumpTable_wf {s : State} (x : Ctx) (base : Dword) (n : Nat) (index : Nat → Word)
    (hw : s.memoriesWf) : (s.jumpTable x base n index).memoriesWf := by
  unfold State.jumpTable
  extract_lets _ _ _ _ rd
  refine wf_ite (State.indirect_wf _ _ _ hw) (wf_ite (State.trapPath_wf _ _ _ hw) (wf_ite (State.trapPath_wf _ _ _ hw) ?_))
  have h1 := fun st => State.tableWords_wf x st (fun l => base + BitVec.ofNat 64 (4 * (index l).toNat)) rd
    (State.drawBit_wf hw)
  generalize hs : s.drawBit = p at h1 ⊢
  obtain ⟨s0, stale⟩ := p
  have h2 := h1 stale
  dsimp only at h2 ⊢
  generalize s0.tableWords x stale _ rd = q at h2 ⊢
  obtain ⟨s1, ws⟩ := q
  dsimp only at h2 ⊢
  split
  · exact State.trapPath_wf _ _ _ h2
  · refine wf_ite (State.waitJump_wf _ _ _ _ ?_) (State.indirect_wf _ _ _ h2)
    exact foldl_wf _ (fun t v ht => State.noteFault_wf _ _ _ _ ht) _ hw

theorem execJmpt_wf (d ca : Code) (i : BitVec 8) {s : State} (hw : s.memoriesWf) : Out.wf (execJmpt d ca i s) := by
  unfold execJmpt
  refine State.withRun_wf _ hw fun x => ?_
  refine Out.wf_ite (State.jumpTable_wf _ _ _ _ hw) ?_
  split
  · exact State.trapPath_wf _ _ _ hw
  · exact State.jumpTable_wf _ _ _ _ hw

@[simp] theorem State.resumeJump_wf {s : State} (c : Nat) (g : Nat) (grp : Group) (j : JumpWait) (hw : s.memoriesWf) :
    (State.resumeJump s c g grp j).memoriesWf := by
  unfold State.resumeJump
  (repeat' (first | with_reducible assumption | (simp (maxDischargeDepth := 40) [State.memoriesWf, *]; done) | refine foldl_wf _ ?_ _ ?_ | intro _ | refine wf_ite ?_ ?_ | refine Out.wf_ite ?_ ?_ | refine wf_ite_fst ?_ ?_ | refine State.withRun_wf _ (by assumption) ?_ | refine State.uform_wf _ _ _ (by assumption) ?_ | refine State.vform_wf _ _ _ _ (by assumption) ?_ | refine State.ucommit_wf _ _ _ _ (by assumption) ?_ | refine State.vcommit_wf _ _ _ (by assumption) ?_ | extract_lets | split))

@[simp] theorem State.wakeJumps_wf {s : State} (c : Nat) (hw : s.memoriesWf) :
    (State.wakeJumps s c).memoriesWf := by
  unfold State.wakeJumps
  (repeat' (first | with_reducible assumption | (simp (maxDischargeDepth := 40) [State.memoriesWf, *]; done) | refine foldl_wf _ ?_ _ ?_ | intro _ | refine wf_ite ?_ ?_ | refine Out.wf_ite ?_ ?_ | refine wf_ite_fst ?_ ?_ | refine State.withRun_wf _ (by assumption) ?_ | refine State.uform_wf _ _ _ (by assumption) ?_ | refine State.vform_wf _ _ _ _ (by assumption) ?_ | refine State.ucommit_wf _ _ _ _ (by assumption) ?_ | refine State.vcommit_wf _ _ _ (by assumption) ?_ | extract_lets | split))

theorem execWait_wf (i : BitVec 8) {s : State} (hw : s.memoriesWf) :
    Out.wf (execWait i s) := by
  simp (maxDischargeDepth := 40) [State.memoriesWf, execWait, hw]

@[simp] theorem State.writeMask_wf {s : State} (x : Ctx) (e : Bool) (m : Nat) (v : LaneMask) (hw : s.memoriesWf) :
    (State.writeMask s x e m v).memoriesWf := by
  simp (maxDischargeDepth := 40) [State.memoriesWf, State.writeMask, hw]

theorem execMset_wf (e : Bool) (i : BitVec 8) {s : State} (hw : s.memoriesWf) :
    Out.wf (execMset e i s) := by
  simp (maxDischargeDepth := 40) [State.memoriesWf, execMset, hw]

theorem execMclr_wf (e : Bool) (i : BitVec 8) {s : State} (hw : s.memoriesWf) :
    Out.wf (execMclr e i s) := by
  simp (maxDischargeDepth := 40) [State.memoriesWf, execMclr, hw]

@[simp] theorem State.exitPath_wf {s : State} (x : Ctx) (hw : s.memoriesWf) :
    (State.exitPath s x).memoriesWf := by
  simp (maxDischargeDepth := 40) [State.memoriesWf, State.exitPath, hw]

theorem execExit_wf {s : State} (hw : s.memoriesWf) :
    Out.wf (execExit s) := by
  simp (maxDischargeDepth := 40) [State.memoriesWf, execExit, hw]

theorem execUexit_wf {s : State} (hw : s.memoriesWf) :
    Out.wf (execUexit s) := by
  simp (maxDischargeDepth := 40) [State.memoriesWf, execUexit, hw]

@[simp] theorem State.arrive_wf {s : State} (x : Ctx) (st : Standing) (scope : Nat) (why : ReleaseFor) (hw : s.memoriesWf) :
    (State.arrive s x st scope why).memoriesWf := by
  simp (maxDischargeDepth := 40) [State.memoriesWf, State.arrive, hw]

theorem execBar_wf {s : State} (hw : s.memoriesWf) :
    Out.wf (execBar s) := by
  simp (maxDischargeDepth := 40) [State.memoriesWf, execBar, hw]

theorem execBarc_wf {s : State} (hw : s.memoriesWf) :
    Out.wf (execBarc s) := by
  simp (maxDischargeDepth := 40) [State.memoriesWf, execBarc, hw]

end Sys2Proof.Machine
end

