-- ==== Sys2Proof/Laws/Canon/System.lean ====
section
/-! SUPPORT. The operations of Machine/System.lean keep every memory in canonical form. -/

namespace Sys2Proof.Machine

set_option linter.unusedSimpArgs false
set_option linter.unusedVariables false

@[simp] theorem State.moveAll_wf {s : State} (x : Ctx) (grp : Group) (target : Word) (hw : s.memoriesWf) :
    (State.moveAll s x grp target).memoriesWf := by
  simp (maxDischargeDepth := 40) [State.memoriesWf, State.moveAll, hw]

theorem execUbra_wf (d : BitVec 23) {s : State} (hw : s.memoriesWf) :
    Out.wf (execUbra d s) := by
  simp (maxDischargeDepth := 40) [State.memoriesWf, execUbra, hw]

theorem execUbz_wf (ca : Code) (d : BitVec 16) {s : State} (hw : s.memoriesWf) :
    Out.wf (execUbz ca d s) := by
  simp (maxDischargeDepth := 40) [State.memoriesWf, execUbz, hw]

theorem execUbnz_wf (ca : Code) (d : BitVec 16) {s : State} (hw : s.memoriesWf) :
    Out.wf (execUbnz ca d s) := by
  simp (maxDischargeDepth := 40) [State.memoriesWf, execUbnz, hw]

theorem execUcall_wf (d : BitVec 23) {s : State} (hw : s.memoriesWf) :
    Out.wf (execUcall d s) := by
  simp (maxDischargeDepth := 40) [State.memoriesWf, execUcall, hw]

theorem execUret_wf (ca : Code) {s : State} (hw : s.memoriesWf) : Out.wf (execUret ca s) := by
  unfold execUret
  refine State.uform_wf _ _ _ hw fun x => ?_
  extract_lets
  exact Out.wf_ite (State.trapPath_wf _ _ _ hw) (State.moveAll_wf _ _ _ hw)

theorem execRegion_wf {s : State} (hw : s.memoriesWf) :
    Out.wf (execRegion s) := by
  simp (maxDischargeDepth := 40) [State.memoriesWf, execRegion, hw]

theorem execUnop_wf (e : Bool) {s : State} (hw : s.memoriesWf) :
    Out.wf (execUnop e s) := by
  simp (maxDischargeDepth := 40) [State.memoriesWf, execUnop, hw]

theorem execTrap_wf (i : BitVec 8) {s : State} (hw : s.memoriesWf) :
    Out.wf (execTrap i s) := by
  simp (maxDischargeDepth := 40) [State.memoriesWf, execTrap, hw]

theorem execBkpt_wf (i : BitVec 8) {s : State} (hw : s.memoriesWf) :
    Out.wf (execBkpt i s) := by
  simp (maxDischargeDepth := 40) [State.memoriesWf, execBkpt, hw]

theorem execEret_wf {s : State} (hw : s.memoriesWf) :
    Out.wf (execEret s) := by
  unfold execEret
  (repeat' (first | with_reducible assumption | (simp (maxDischargeDepth := 40) [State.memoriesWf, *]; done) | refine foldl_wf _ ?_ _ ?_ | intro _ | refine wf_ite ?_ ?_ | refine Out.wf_ite ?_ ?_ | refine wf_ite_fst ?_ ?_ | refine State.withRun_wf _ (by assumption) ?_ | refine State.uform_wf _ _ _ (by assumption) ?_ | refine State.vform_wf _ _ _ _ (by assumption) ?_| refine State.vcommit_wf _ _ _ (by assumption) ?_ | extract_lets | split))

theorem execMfsr_wf (e n : Bool) (d : Code) (i : BitVec 8) {s : State} (hw : s.memoriesWf) :
    Out.wf (execMfsr e n d i s) := by
  unfold execMfsr
  (repeat' (first | with_reducible assumption | (simp (maxDischargeDepth := 40) [State.memoriesWf, *]; done) | refine foldl_wf _ ?_ _ ?_ | intro _ | refine wf_ite ?_ ?_ | refine Out.wf_ite ?_ ?_ | refine wf_ite_fst ?_ ?_ | refine State.withRun_wf _ (by assumption) ?_ | refine State.uform_wf _ _ _ (by assumption) ?_ | refine State.vform_wf _ _ _ _ (by assumption) ?_| refine State.vcommit_wf _ _ _ (by assumption) ?_ | extract_lets | split))

@[simp] theorem State.dropTlb_wf {s : State} (launch : Nat) (hw : s.memoriesWf) :
    (State.dropTlb s launch).memoriesWf := by
  simp (maxDischargeDepth := 40) [State.memoriesWf, State.dropTlb, hw]

@[simp] theorem State.keepRoots_wf {s : State} (c : Nat) (g : Nat) (launch : Nat) (hw : s.memoriesWf) :
    (State.keepRoots s c g launch).memoriesWf := by
  unfold State.keepRoots
  (repeat' (first | with_reducible assumption | (simp (maxDischargeDepth := 40) [State.memoriesWf, *]; done) | refine foldl_wf _ ?_ _ ?_ | intro _ | refine wf_ite ?_ ?_ | refine Out.wf_ite ?_ ?_ | refine wf_ite_fst ?_ ?_ | refine State.withRun_wf _ (by assumption) ?_ | refine State.uform_wf _ _ _ (by assumption) ?_ | refine State.vform_wf _ _ _ _ (by assumption) ?_ | refine State.ucommit_wf _ _ _ _ (by assumption) ?_ | refine State.vcommit_wf _ _ _ (by assumption) ?_ | extract_lets | split))

@[simp] theorem State.writeSys_wf {s : State} (launch reg : Nat) (v : Dword) (hw : s.memoriesWf) :
    (State.writeSys s launch reg v).memoriesWf := by
  unfold State.writeSys
  (repeat' (first | with_reducible assumption | (simp (maxDischargeDepth := 40) [State.memoriesWf, *]; done) | refine foldl_wf _ ?_ _ ?_ | intro _ | refine wf_ite ?_ ?_ | refine Out.wf_ite ?_ ?_ | refine wf_ite_fst ?_ ?_ | refine State.withRun_wf _ (by assumption) ?_ | refine State.uform_wf _ _ _ (by assumption) ?_ | refine State.vform_wf _ _ _ _ (by assumption) ?_| refine State.vcommit_wf _ _ _ (by assumption) ?_ | extract_lets | split))

theorem execMtsr_wf (ca : Code) (i : BitVec 8) {s : State} (hw : s.memoriesWf) :
    Out.wf (execMtsr ca i s) := by
  unfold execMtsr
  (repeat' (first | with_reducible assumption | (simp (maxDischargeDepth := 40) [State.memoriesWf, *]; done) | refine foldl_wf _ ?_ _ ?_ | intro _ | refine wf_ite ?_ ?_ | refine Out.wf_ite ?_ ?_ | refine wf_ite_fst ?_ ?_ | refine State.withRun_wf _ (by assumption) ?_ | refine State.uform_wf _ _ _ (by assumption) ?_ | refine State.vform_wf _ _ _ _ (by assumption) ?_| refine State.vcommit_wf _ _ _ (by assumption) ?_ | extract_lets | split))

theorem execMtsrComplete_wf (c g : Nat) {s : State} (hw : s.memoriesWf) :
    Out.wf (execMtsrComplete c g s) := by
  unfold execMtsrComplete
  split
  · trivial
  · split
    · extract_lets s1
      have h1 : s1.memoriesWf := wf_ite (State.keepRoots_wf _ _ _ hw) hw
      exact State.completeHold_wf _ _ _ _ (State.writeSys_wf _ _ _ h1)
    · trivial

theorem execFpev_wf (e n : Bool) (d : Code) (i : BitVec 8) {s : State} (hw : s.memoriesWf) :
    Out.wf (execFpev e n d i s) := by
  refine State.uform_wf _ _ _ hw fun x => Out.wf_ite hw ?_
  simp (maxDischargeDepth := 40) [State.memoriesWf, hw]

theorem execErrc_wf (e n : Bool) (d : Code) (i : BitVec 8) {s : State} (hw : s.memoriesWf) :
    Out.wf (execErrc e n d i s) := by
  simp (maxDischargeDepth := 40) [State.memoriesWf, execErrc, hw]

theorem execCyc_wf (e : Bool) (d : Code) {s : State} (hw : s.memoriesWf) :
    Out.wf (execCyc e d s) := by
  simp (maxDischargeDepth := 40) [State.memoriesWf, execCyc, hw]

theorem execIfence_wf {s : State} (hw : s.memoriesWf) :
    Out.wf (execIfence s) := by
  simp (maxDischargeDepth := 40) [State.memoriesWf, execIfence, hw]

theorem execTbld_wf (n : Bool) (d ca cb : Code) {s : State} (hw : s.memoriesWf) :
    Out.wf (execTbld n d ca cb s) := by
  unfold execTbld
  dsimp only
  (repeat' (first | with_reducible assumption | (simp (maxDischargeDepth := 40) [State.memoriesWf, *]; done) | refine foldl_wf _ ?_ _ ?_ | intro _ | refine wf_ite ?_ ?_ | refine Out.wf_ite ?_ ?_ | refine wf_ite_fst ?_ ?_ | refine State.withRun_wf _ (by assumption) ?_ | refine State.uform_wf _ _ _ (by assumption) ?_ | refine State.vform_wf _ _ _ _ (by assumption) ?_| refine State.vcommit_wf _ _ _ (by assumption) ?_ | extract_lets | split))

theorem execTbldBankSwap_wf (c g : Nat) {s : State} (hw : s.memoriesWf) :
    Out.wf (execTbldBankSwap c g s) := by
  unfold execTbldBankSwap
  (repeat' (first | with_reducible assumption | (simp (maxDischargeDepth := 40) [State.memoriesWf, *]; done) | refine foldl_wf _ ?_ _ ?_ | intro _ | refine wf_ite ?_ ?_ | refine Out.wf_ite ?_ ?_ | refine wf_ite_fst ?_ ?_ | refine State.withRun_wf _ (by assumption) ?_ | refine State.uform_wf _ _ _ (by assumption) ?_ | refine State.vform_wf _ _ _ _ (by assumption) ?_| refine State.vcommit_wf _ _ _ (by assumption) ?_ | extract_lets | split))

theorem execPhase_wf (sc : BitVec 3) (k : BitVec 2) {s : State} (hw : s.memoriesWf) : Out.wf (execPhase sc k s) := by
  unfold execPhase
  refine State.uform_wf _ _ _ hw fun x => ?_
  extract_lets
  refine Out.wf_ite ?_ ?_
  · extract_lets
    exact State.startRelease_wf _ _ _ _ (State.holdGroup_wf _ _ hw)
  · extract_lets s1
    exact State.finishCommit_wf _ _ (wf_ite (State.acquireAt_wf _ _ hw) hw)

end Sys2Proof.Machine
end

