-- ==== Sys2Proof/Laws/Canon/Issue.lean ====
section
/-! SUPPORT. The operations of Machine/Issue.lean keep every memory in canonical form. -/

namespace Sys2Proof.Machine

set_option linter.unusedSimpArgs false
set_option linter.unusedVariables false

@[simp] theorem State.fetchWord_wf {s : State} (c launch : Nat) (base : Dword) (pc : Word) (hw : s.memoriesWf) :
    (State.fetchWord s c launch base pc).1.memoriesWf := by
  unfold State.fetchWord
  dsimp only
  (repeat' (first | with_reducible assumption | (simp (maxDischargeDepth := 40) [State.memoriesWf, *]; done) | refine foldl_wf _ ?_ _ ?_ | intro _ | refine wf_ite ?_ ?_ | refine Out.wf_ite ?_ ?_ | refine wf_ite_fst ?_ ?_ | refine State.withRun_wf _ (by assumption) ?_ | refine State.uform_wf _ _ _ (by assumption) ?_ | refine State.vform_wf _ _ _ _ (by assumption) ?_| refine State.vcommit_wf _ _ _ (by assumption) ?_ | extract_lets | split))

@[simp] theorem State.fetchRun_wf {s : State} (c launch : Nat) (base : Dword) (pc : Word) (n : Nat)
    (hw : s.memoriesWf) : (s.fetchRun c launch base pc n).1.memoriesWf := by
  induction n generalizing s pc with
  | zero => exact hw
  | succ n ih =>
    have h1 := State.fetchWord_wf c launch base pc hw
    unfold State.fetchRun
    split <;> rename_i heq <;> rw [heq] at h1
    · exact wf_ite_fst h1 (ih _ h1)
    · exact h1
    · exact h1

@[simp] theorem State.beginRun_wf {s : State} (c : Nat) (g : Nat) (grp : Group) (m : LaneMask) (f : FetchedRun) (hw : s.memoriesWf) :
    (State.beginRun s c g grp m f).memoriesWf := by
  unfold State.beginRun
  split
  · exact State.noteFault_wf _ _ _ _ hw
  · exact wf_ite hw hw

theorem execRunIssue_wf (c slot : Nat) {s : State} (hw : s.memoriesWf) : Out.wf (execRunIssue c slot s) := by
  unfold execRunIssue
  refine Out.wf_ite trivial ?_
  split
  · trivial
  · split
    · trivial
    · rename_i g grp _ _ m _
      split
      · exact State.resumeJump_wf _ _ _ _ hw
      · extract_lets t
        have h1 := State.fetchRun_wf c grp.launch t.codeBase t.pc 25 hw
        generalize s.fetchRun c grp.launch t.codeBase t.pc 25 = p at h1 ⊢
        exact State.beginRun_wf _ _ _ _ _ h1

theorem execTrapEntry_wf (c g : Nat) {s : State} (hw : s.memoriesWf) :
    Out.wf (execTrapEntry c g s) := by
  unfold execTrapEntry
  (repeat' (first | with_reducible assumption | (simp (maxDischargeDepth := 40) [State.memoriesWf, *]; done) | refine foldl_wf _ ?_ _ ?_ | intro _ | refine wf_ite ?_ ?_ | refine Out.wf_ite ?_ ?_ | refine wf_ite_fst ?_ ?_ | refine State.withRun_wf _ (by assumption) ?_ | refine State.uform_wf _ _ _ (by assumption) ?_ | refine State.vform_wf _ _ _ _ (by assumption) ?_| refine State.vcommit_wf _ _ _ (by assumption) ?_ | extract_lets | split))

@[simp] theorem State.cycleMoves_wf {s : State} (c g : Nat) (hw : s.memoriesWf) :
    (State.cycleMoves s c g).memoriesWf := wf_ite hw hw

@[simp] theorem State.passTime_wf {s : State} (hw : s.memoriesWf) :
    (State.passTime s).memoriesWf := by
  simp (maxDischargeDepth := 40) [State.memoriesWf, State.passTime, hw]

@[simp] theorem State.withIssue_wf {s : State} (c i : Nat) (k : State → Ctx → Out) (hw : s.memoriesWf) (hk : ∀ a0 a1, a0.memoriesWf → Out.wf (k a0 a1)) :
    Out.wf (State.withIssue s c i k) := by
  unfold State.withIssue
  (repeat' (first | with_reducible assumption | (simp (maxDischargeDepth := 40) [State.memoriesWf, *]; done) | refine foldl_wf _ ?_ _ ?_ | intro _ | refine wf_ite ?_ ?_ | refine Out.wf_ite ?_ ?_ | refine wf_ite_fst ?_ ?_ | refine State.withRun_wf _ (by assumption) ?_ | refine State.uform_wf _ _ _ (by assumption) ?_ | refine State.vform_wf _ _ _ _ (by assumption) ?_| refine State.vcommit_wf _ _ _ (by assumption) ?_ | extract_lets | split))

@[simp] theorem State.placeWord_wf {s : State} (w : Nat) (hw : s.memoriesWf) :
    (State.placeWord s w).memoriesWf := by
  unfold State.placeWord
  extract_lets l b s1 _ s2 _ s3 s4 s5 word s6
  have h1 : s1.memoriesWf := hw
  have h2 : s2.memoriesWf := (State.setBlock_wf _ _ _).mpr ((State.setLaunch_wf _ _ _).mpr h1)
  have h3 : s3.memoriesWf := (State.setPartition_wf _ _ _).mpr h2
  have h6 : s6.memoriesWf := State.setWord_wf _ _ (State.setDword_wf _ _ (State.setDword_wf _ _ h3))
  clear_value s6
  exact h6

end Sys2Proof.Machine
end

