-- ==== Sys2Proof/Laws/Canon/Queue.lean ====
section
/-! SUPPORT. The operations of Machine/Queue.lean keep every memory in canonical form. -/

namespace Sys2Proof.Machine

set_option linter.unusedSimpArgs false
set_option linter.unusedVariables false

@[simp] theorem State.vcommit_wf {s : State} (i : Instr) (uses : List Use) (k : Ctx → Out) (h : s.memoriesWf)
    (hk : ∀ x, Out.wf (k x)) : Out.wf (s.vcommit i uses k) := by
  unfold State.vcommit
  refine State.withRun_wf _ h fun x => ?_
  (repeat' split) <;> simp [State.memoriesWf, h, hk]

@[simp] theorem State.ucommit_wf {s : State} (i : Instr) (uses : List Use) (own : Ctx → Option (Nat × Word))
    (k : Ctx → Out) (h : s.memoriesWf) (hk : ∀ x, Out.wf (k x)) : Out.wf (s.ucommit i uses own k) := by
  unfold State.ucommit
  refine State.uform_wf _ _ _ h fun x => ?_
  (repeat' split) <;> simp [State.memoriesWf, h, hk]

@[simp] theorem State.post_wf {s : State} (c slot launch block q : Nat) (e : Dword) (hw : s.memoriesWf) :
    (State.post s c slot launch block q e).memoriesWf := by
  unfold State.post
  (repeat' (first | with_reducible assumption | (simp (maxDischargeDepth := 40) [State.memoriesWf, *]; done) | refine foldl_wf _ ?_ _ ?_ | intro _ | refine wf_ite ?_ ?_ | refine Out.wf_ite ?_ ?_ | refine wf_ite_fst ?_ ?_ | refine State.withRun_wf _ (by assumption) ?_ | refine State.uform_wf _ _ _ (by assumption) ?_ | refine State.vform_wf _ _ _ _ (by assumption) ?_ | refine State.ucommit_wf _ _ _ _ (by assumption) ?_ | refine State.vcommit_wf _ _ _ (by assumption) ?_ | extract_lets | split))

@[simp] theorem State.deliver_wf {s : State} (launch block grp q : Nat) (e : Dword) (hw : s.memoriesWf) :
    (State.deliver s launch block grp q e).memoriesWf := by
  unfold State.deliver
  (repeat' (first | with_reducible assumption | (simp (maxDischargeDepth := 40) [State.memoriesWf, *]; done) | refine foldl_wf _ ?_ _ ?_ | intro _ | refine wf_ite ?_ ?_ | refine Out.wf_ite ?_ ?_ | refine wf_ite_fst ?_ ?_ | refine State.withRun_wf _ (by assumption) ?_ | refine State.uform_wf _ _ _ (by assumption) ?_ | refine State.vform_wf _ _ _ _ (by assumption) ?_ | refine State.ucommit_wf _ _ _ _ (by assumption) ?_ | refine State.vcommit_wf _ _ _ (by assumption) ?_ | extract_lets | split))

theorem execStatusEntryDelivery_wf (k : Nat) {s : State} (hw : s.memoriesWf) :
    Out.wf (execStatusEntryDelivery k s) := by
  unfold execStatusEntryDelivery
  dsimp only
  (repeat' (first | with_reducible assumption | (simp (maxDischargeDepth := 40) [State.memoriesWf, *]; done) | refine foldl_wf _ ?_ _ ?_ | intro _ | refine wf_ite ?_ ?_ | refine Out.wf_ite ?_ ?_ | refine wf_ite_fst ?_ ?_ | refine State.withRun_wf _ (by assumption) ?_ | refine State.uform_wf _ _ _ (by assumption) ?_ | refine State.vform_wf _ _ _ _ (by assumption) ?_ | refine State.ucommit_wf _ _ _ _ (by assumption) ?_ | refine State.vcommit_wf _ _ _ (by assumption) ?_ | extract_lets | split))

@[simp] theorem State.goElected_wf {s : State} (i : Instr) (ca cb : Code) (q align n : Nat) (hw : s.memoriesWf) :
    Out.wf (s.goElected i ca cb q align n) := by
  unfold State.goElected
  refine State.vcommit_wf _ _ _ hw fun x => ?_
  dsimp only
  split
  · exact State.trapPath_wf _ _ _ hw
  · split
    · exact State.trapPath_wf _ _ _ hw
    · exact Out.wf_ite (State.finishCommit_wf _ _ hw) (State.holdGroup_wf _ _ hw)

theorem execMxgo_wf (ca cb : Code) {s : State} (hw : s.memoriesWf) :
    Out.wf (execMxgo ca cb s) := by
  simp (maxDischargeDepth := 40) [State.memoriesWf, execMxgo, hw]

theorem execAego_wf (ca cb : Code) {s : State} (hw : s.memoriesWf) :
    Out.wf (execAego ca cb s) := by
  simp (maxDischargeDepth := 40) [State.memoriesWf, execAego, hw]

theorem execPush_wf (ca : Code) (q : BitVec 5) {s : State} (hw : s.memoriesWf) :
    Out.wf (execPush ca q s) := by
  unfold execPush
  (repeat' (first | with_reducible assumption | (simp (maxDischargeDepth := 40) [State.memoriesWf, *]; done) | refine foldl_wf _ ?_ _ ?_ | intro _ | refine wf_ite ?_ ?_ | refine Out.wf_ite ?_ ?_ | refine wf_ite_fst ?_ ?_ | refine State.withRun_wf _ (by assumption) ?_ | refine State.uform_wf _ _ _ (by assumption) ?_ | refine State.vform_wf _ _ _ _ (by assumption) ?_ | refine State.ucommit_wf _ _ _ _ (by assumption) ?_ | refine State.vcommit_wf _ _ _ (by assumption) ?_ | extract_lets | split))

theorem execCego_wf (n : Bool) (d ca : Code) (im : BitVec 8) {s : State} (hw : s.memoriesWf) : Out.wf (execCego n d ca im s) := by
  unfold execCego
  extract_lets
  refine State.ucommit_wf _ _ _ _ hw fun x => ?_
  extract_lets
  exact Out.wf_ite (State.holdGroup_wf _ _ hw) (State.holdGroup_wf _ _ hw)

theorem execRego_wf (n : Bool) (d ca : Code) {s : State} (hw : s.memoriesWf) : Out.wf (execRego n d ca s) := by
  unfold execRego
  refine State.ucommit_wf _ _ _ _ hw fun x => ?_
  extract_lets
  exact Out.wf_ite (State.finishCommit_wf _ _ hw) (State.holdGroup_wf _ _ hw)

theorem execQueueEntryAppend_wf (c g : Nat) {s : State} (hw : s.memoriesWf) :
    Out.wf (execQueueEntryAppend c g s) := by
  unfold execQueueEntryAppend
  (repeat' (first | with_reducible assumption | (simp (maxDischargeDepth := 40) [State.memoriesWf, *]; done) | refine foldl_wf _ ?_ _ ?_ | intro _ | refine wf_ite ?_ ?_ | refine Out.wf_ite ?_ ?_ | refine wf_ite_fst ?_ ?_ | refine State.withRun_wf _ (by assumption) ?_ | refine State.uform_wf _ _ _ (by assumption) ?_ | refine State.vform_wf _ _ _ _ (by assumption) ?_ | refine State.ucommit_wf _ _ _ _ (by assumption) ?_ | refine State.vcommit_wf _ _ _ (by assumption) ?_ | extract_lets | split))

@[simp] theorem State.returnS_wf {s : State} (c g : Nat) (vals : List (Nat × Word)) (hw : s.memoriesWf) :
    (State.returnS s c g vals).memoriesWf := by
  unfold State.returnS
  (repeat' (first | with_reducible assumption | (simp (maxDischargeDepth := 40) [State.memoriesWf, *]; done) | refine foldl_wf _ ?_ _ ?_ | intro _ | refine wf_ite ?_ ?_ | refine Out.wf_ite ?_ ?_ | refine wf_ite_fst ?_ ?_ | refine State.withRun_wf _ (by assumption) ?_ | refine State.uform_wf _ _ _ (by assumption) ?_ | refine State.vform_wf _ _ _ _ (by assumption) ?_ | refine State.ucommit_wf _ _ _ _ (by assumption) ?_ | refine State.vcommit_wf _ _ _ (by assumption) ?_ | extract_lets | split))

theorem execPop_wf (n : Bool) (d : Code) (q : BitVec 5) {s : State} (hw : s.memoriesWf) : Out.wf (execPop n d q s) := by
  unfold execPop
  refine State.ucommit_wf _ _ _ _ hw fun x => ?_
  dsimp only
  split
  · exact State.holdGroup_wf _ _ hw
  · exact State.returnS_wf _ _ _ (State.finishCommit_wf _ _ (wf_ite (State.acquire_wf _ hw) hw))

theorem execQueueEntryTake_wf (c g : Nat) {s : State} (hw : s.memoriesWf) :
    Out.wf (execQueueEntryTake c g s) := by
  unfold execQueueEntryTake
  dsimp only
  (repeat' (first | with_reducible assumption | (simp (maxDischargeDepth := 40) [State.memoriesWf, *]; done) | refine foldl_wf _ ?_ _ ?_ | intro _ | refine wf_ite ?_ ?_ | refine Out.wf_ite ?_ ?_ | refine wf_ite_fst ?_ ?_ | refine State.withRun_wf _ (by assumption) ?_ | refine State.uform_wf _ _ _ (by assumption) ?_ | refine State.vform_wf _ _ _ _ (by assumption) ?_ | refine State.ucommit_wf _ _ _ _ (by assumption) ?_ | refine State.vcommit_wf _ _ _ (by assumption) ?_ | extract_lets | split))

theorem execQtry_wf (n : Bool) (d : Code) (q : BitVec 5) {s : State} (hw : s.memoriesWf) : Out.wf (execQtry n d q s) := by
  unfold execQtry
  refine State.ucommit_wf _ _ _ _ hw fun x => ?_
  dsimp only
  split
  · exact State.returnS_wf _ _ _ (State.finishCommit_wf _ _ hw)
  · exact State.returnS_wf _ _ _ (State.finishCommit_wf _ _ (wf_ite (State.acquire_wf _ hw) hw))

theorem execQstat_wf (e n : Bool) (d : Code) (q : BitVec 5) {s : State} (hw : s.memoriesWf) :
    Out.wf (execQstat e n d q s) := by
  simp (maxDischargeDepth := 40) [State.memoriesWf, execQstat, hw]

end Sys2Proof.Machine
end

