-- ==== Sys2Proof/Laws/Canon/Barrier.lean ====
section
/-! SUPPORT. The operations of Machine/Barrier.lean keep every memory in canonical form. -/

namespace Sys2Proof.Machine

set_option linter.unusedSimpArgs false
set_option linter.unusedVariables false

@[simp] theorem State.performStore_wf {s : State} (c : Nat) (st : StoreRec) (level : Nat) (hw : s.memoriesWf) :
    (State.performStore s c st level).memoriesWf := by
  unfold State.performStore
  (repeat' (first | with_reducible assumption | (simp (maxDischargeDepth := 40) [State.memoriesWf, *]; done) | refine foldl_wf _ ?_ _ ?_ | intro _ | refine wf_ite ?_ ?_ | refine Out.wf_ite ?_ ?_ | refine wf_ite_fst ?_ ?_ | refine State.withRun_wf _ (by assumption) ?_ | refine State.uform_wf _ _ _ (by assumption) ?_ | refine State.vform_wf _ _ _ _ (by assumption) ?_ | refine State.ucommit_wf _ _ _ _ (by assumption) ?_ | refine State.vcommit_wf _ _ _ (by assumption) ?_ | extract_lets | split))

@[simp] theorem State.captureLoads_wf {s : State} (c : Nat) (id : Nat) (l : Loc) (n : Nat) (hw : s.memoriesWf) :
    (State.captureLoads s c id l n).memoriesWf := by
  unfold State.captureLoads
  (repeat' (first | with_reducible assumption | (simp (maxDischargeDepth := 40) [State.memoriesWf, *]; done) | refine foldl_wf _ ?_ _ ?_ | intro _ | refine wf_ite ?_ ?_ | refine Out.wf_ite ?_ ?_ | refine wf_ite_fst ?_ ?_ | refine State.withRun_wf _ (by assumption) ?_ | refine State.uform_wf _ _ _ (by assumption) ?_ | refine State.vform_wf _ _ _ _ (by assumption) ?_ | refine State.ucommit_wf _ _ _ _ (by assumption) ?_ | refine State.vcommit_wf _ _ _ (by assumption) ?_ | extract_lets | split))

@[simp] theorem State.setBarrier_wf {s : State} (l : Loc) (b : BarrierWords) (hw : s.memoriesWf) :
    (State.setBarrier s l b).memoriesWf := by
  simp (maxDischargeDepth := 40) [State.memoriesWf, State.setBarrier, hw]

@[simp] theorem State.credit_wf {s : State} (object : Loc) (places : List (Loc × Nat)) (hw : s.memoriesWf) :
    (State.credit s object places).memoriesWf := by
  unfold State.credit
  (repeat' (first | with_reducible assumption | (simp (maxDischargeDepth := 40) [State.memoriesWf, *]; done) | refine foldl_wf _ ?_ _ ?_ | intro _ | refine wf_ite ?_ ?_ | refine Out.wf_ite ?_ ?_ | refine wf_ite_fst ?_ ?_ | refine State.withRun_wf _ (by assumption) ?_ | refine State.uform_wf _ _ _ (by assumption) ?_ | refine State.vform_wf _ _ _ _ (by assumption) ?_ | refine State.ucommit_wf _ _ _ _ (by assumption) ?_ | refine State.vcommit_wf _ _ _ (by assumption) ?_ | extract_lets | split))

@[simp] theorem State.updateBarrier_wf {s : State} (l : Loc) (b : BarrierWords) (new : BarrierWords) (hw : s.memoriesWf) :
    (State.updateBarrier s l b new).memoriesWf := by
  unfold State.updateBarrier
  (repeat' (first | with_reducible assumption | (simp (maxDischargeDepth := 40) [State.memoriesWf, *]; done) | refine foldl_wf _ ?_ _ ?_ | intro _ | refine wf_ite ?_ ?_ | refine Out.wf_ite ?_ ?_ | refine wf_ite_fst ?_ ?_ | refine State.withRun_wf _ (by assumption) ?_ | refine State.uform_wf _ _ _ (by assumption) ?_ | refine State.vform_wf _ _ _ _ (by assumption) ?_ | refine State.ucommit_wf _ _ _ _ (by assumption) ?_ | refine State.vcommit_wf _ _ _ (by assumption) ?_ | extract_lets | split))

@[simp] theorem State.acquireCredits_wf {s : State} (c : Nat) (object : Loc) (hw : s.memoriesWf) :
    (State.acquireCredits s c object).memoriesWf := by
  unfold State.acquireCredits
  (repeat' (first | with_reducible assumption | (simp (maxDischargeDepth := 40) [State.memoriesWf, *]; done) | refine foldl_wf _ ?_ _ ?_ | intro _ | refine wf_ite ?_ ?_ | refine Out.wf_ite ?_ ?_ | refine wf_ite_fst ?_ ?_ | refine State.withRun_wf _ (by assumption) ?_ | refine State.uform_wf _ _ _ (by assumption) ?_ | refine State.vform_wf _ _ _ _ (by assumption) ?_ | refine State.ucommit_wf _ _ _ _ (by assumption) ?_ | refine State.vcommit_wf _ _ _ (by assumption) ?_ | extract_lets | split))

@[simp] theorem State.rereadOne_wf {s : State} (c g : Nat) (hw : s.memoriesWf) :
    (State.rereadOne s c g).memoriesWf := by
  unfold State.rereadOne
  (repeat' (first | with_reducible assumption | (simp (maxDischargeDepth := 40) [State.memoriesWf, *]; done) | refine foldl_wf _ ?_ _ ?_ | intro _ | refine wf_ite ?_ ?_ | refine Out.wf_ite ?_ ?_ | refine wf_ite_fst ?_ ?_ | refine State.withRun_wf _ (by assumption) ?_ | refine State.uform_wf _ _ _ (by assumption) ?_ | refine State.vform_wf _ _ _ _ (by assumption) ?_ | refine State.ucommit_wf _ _ _ _ (by assumption) ?_ | refine State.vcommit_wf _ _ _ (by assumption) ?_ | extract_lets | split))

@[simp] theorem State.reread_wf {s : State} (hw : s.memoriesWf) :
    (State.reread s).memoriesWf := by
  unfold State.reread
  (repeat' (first | with_reducible assumption | (simp (maxDischargeDepth := 40) [State.memoriesWf, *]; done) | refine foldl_wf _ ?_ _ ?_ | intro _ | refine wf_ite ?_ ?_ | refine Out.wf_ite ?_ ?_ | refine wf_ite_fst ?_ ?_ | refine State.withRun_wf _ (by assumption) ?_ | refine State.uform_wf _ _ _ (by assumption) ?_ | refine State.vform_wf _ _ _ _ (by assumption) ?_ | refine State.ucommit_wf _ _ _ _ (by assumption) ?_ | refine State.vcommit_wf _ _ _ (by assumption) ?_ | extract_lets | split))

@[simp] theorem State.settleStores_wf {s : State} (c : Nat) (l : Loc) (n : Nat) (hw : s.memoriesWf) :
    (State.settleStores s c l n).memoriesWf :=
  foldl_wf _ (fun _ _ h => State.reread_wf (State.performStore_wf _ _ _ (State.captureLoads_wf _ _ _ _ h))) _ hw

@[simp] theorem State.subtractBytes_wf {s : State} (l : Loc) (n : Nat) (places : List (Loc × Nat)) (hw : s.memoriesWf) :
    (State.subtractBytes s l n places).1.memoriesWf := by
  unfold State.subtractBytes
  (repeat' (first | with_reducible assumption | (simp (maxDischargeDepth := 40) [State.memoriesWf, *]; done) | refine foldl_wf _ ?_ _ ?_ | intro _ | refine wf_ite ?_ ?_ | refine Out.wf_ite ?_ ?_ | refine wf_ite_fst ?_ ?_ | refine State.withRun_wf _ (by assumption) ?_ | refine State.uform_wf _ _ _ (by assumption) ?_ | refine State.vform_wf _ _ _ _ (by assumption) ?_ | refine State.ucommit_wf _ _ _ _ (by assumption) ?_ | refine State.vcommit_wf _ _ _ (by assumption) ?_ | extract_lets | split))

@[simp] theorem State.countArrival_wf {s : State} (launch : Nat) (l : Loc) (hw : s.memoriesWf) :
    (State.countArrival s launch l).memoriesWf := by
  unfold State.countArrival
  (repeat' (first | with_reducible assumption | (simp (maxDischargeDepth := 40) [State.memoriesWf, *]; done) | refine foldl_wf _ ?_ _ ?_ | intro _ | refine wf_ite ?_ ?_ | refine Out.wf_ite ?_ ?_ | refine wf_ite_fst ?_ ?_ | refine State.withRun_wf _ (by assumption) ?_ | refine State.uform_wf _ _ _ (by assumption) ?_ | refine State.vform_wf _ _ _ _ (by assumption) ?_ | refine State.ucommit_wf _ _ _ _ (by assumption) ?_ | refine State.vcommit_wf _ _ _ (by assumption) ?_ | extract_lets | split))

@[simp] theorem State.barrierOp_wf {s : State} (i : Instr) (n : Bool) (d ca : Code) (uses : List Use)
    (bytes : Ctx → Word) (hw : s.memoriesWf) : Out.wf (s.barrierOp i n d ca uses bytes) := by
  unfold State.barrierOp
  refine State.uform_wf _ _ _ hw fun x => ?_
  split
  · exact State.trapPath_wf _ _ _ hw
  · rename_i l _
    have h1 := State.settleStores_wf x.c l 16 hw
    exact Out.wf_ite (State.reread_wf (State.trapPath_wf _ _ _ h1)) (Out.wf_ite (State.finishCommit_wf _ _ hw)
      (State.reread_wf (State.finishCommit_wf _ _ (State.updateBarrier_wf _ _ _ h1))))

theorem execBexp_wf (n : Bool) (d ca cb : Code) {s : State} (hw : s.memoriesWf) : Out.wf (execBexp n d ca cb s) :=
  State.barrierOp_wf _ _ _ _ _ _ hw

theorem execBarv_wf (n : Bool) (d ca : Code) {s : State} (hw : s.memoriesWf) : Out.wf (execBarv n d ca s) :=
  State.barrierOp_wf _ _ _ _ _ _ hw

theorem execBwait_wf (ca : Code) (im : BitVec 8) {s : State} (hw : s.memoriesWf) : Out.wf (execBwait ca im s) := by
  unfold execBwait
  refine State.uform_wf _ _ _ hw fun x => ?_
  extract_lets a
  split
  · exact State.trapPath_wf _ _ _ hw
  · rename_i l _
    have h1 := State.settleStores_wf x.c l 16 hw
    exact Out.wf_ite (State.reread_wf (State.trapPath_wf _ _ _ h1))
      (Out.wf_ite (State.reread_wf (State.finishCommit_wf _ _ (State.acquireCredits_wf _ _ h1)))
        (State.reread_wf (State.holdGroup_wf _ _ h1)))

end Sys2Proof.Machine
end

