-- ==== Sys2Proof/Laws/Canon/Spdm.lean ====
section
/-! SUPPORT. The operations of Machine/Spdm.lean keep every memory in canonical form. -/

namespace Sys2Proof.Machine

set_option linter.unusedSimpArgs false
set_option linter.unusedVariables false

@[simp] theorem State.partWrite_wf {s : State} (p a : Nat) (bs : List Byte) (hw : s.memoriesWf) :
    (s.partWrite p a bs).memoriesWf := by
  induction bs generalizing s a with
  | nil => exact hw
  | cons b bs ih =>
    simp only [State.partWrite]
    apply ih
    (repeat' split) <;> first | exact hw | exact State.setBytes_wf _ _ hw

@[simp] theorem State.spdmDone_wf {s : State} (r : SpdmRequest) (resp : List Byte) (hw : s.memoriesWf) :
    (s.spdmDone r resp).memoriesWf := by
  unfold State.spdmDone
  split
  · exact State.setBytes_wf _ _ hw
  · exact State.partWrite_wf _ _ _ hw

@[simp] theorem State.reply_wf {s : State} (r : SpdmRequest) (resp : List Byte) (hw : s.memoriesWf) :
    (State.reply s r resp).memoriesWf := by
  unfold State.reply
  (repeat' (first | with_reducible assumption | (simp (maxDischargeDepth := 40) [State.memoriesWf, *]; done) | refine foldl_wf _ ?_ _ ?_ | intro _ | refine wf_ite ?_ ?_ | refine Out.wf_ite ?_ ?_ | refine wf_ite_fst ?_ ?_ | refine State.withRun_wf _ (by assumption) ?_ | refine State.uform_wf _ _ _ (by assumption) ?_ | refine State.vform_wf _ _ _ _ (by assumption) ?_ | refine State.ucommit_wf _ _ _ _ (by assumption) ?_ | refine State.vcommit_wf _ _ _ (by assumption) ?_ | extract_lets | split))

@[simp] theorem State.spdmBody_wf {s : State} (r : SpdmRequest) (material : List Byte) (hw : s.memoriesWf) :
    (State.spdmBody s r material).memoriesWf := by
  unfold State.spdmBody
  (repeat' split) <;> simp_all

@[simp] theorem State.spdmError_wf {s : State} (r : SpdmRequest) (code : Nat) (data : Nat) (hw : s.memoriesWf) :
    (State.spdmError s r code data).memoriesWf := by
  unfold State.spdmError
  (repeat' (first | with_reducible assumption | (simp (maxDischargeDepth := 40) [State.memoriesWf, *]; done) | refine foldl_wf _ ?_ _ ?_ | intro _ | refine wf_ite ?_ ?_ | refine Out.wf_ite ?_ ?_ | refine wf_ite_fst ?_ ?_ | refine State.withRun_wf _ (by assumption) ?_ | refine State.uform_wf _ _ _ (by assumption) ?_ | refine State.vform_wf _ _ _ _ (by assumption) ?_ | refine State.ucommit_wf _ _ _ _ (by assumption) ?_ | refine State.vcommit_wf _ _ _ (by assumption) ?_ | extract_lets | split))

@[simp] theorem State.serveVersion_wf {s : State} (r : SpdmRequest) (hw : s.memoriesWf) :
    (State.serveVersion s r).memoriesWf := by
  unfold State.serveVersion
  (repeat' (first | with_reducible assumption | (simp (maxDischargeDepth := 40) [State.memoriesWf, *]; done) | refine foldl_wf _ ?_ _ ?_ | intro _ | refine wf_ite ?_ ?_ | refine Out.wf_ite ?_ ?_ | refine wf_ite_fst ?_ ?_ | refine State.withRun_wf _ (by assumption) ?_ | refine State.uform_wf _ _ _ (by assumption) ?_ | refine State.vform_wf _ _ _ _ (by assumption) ?_ | refine State.ucommit_wf _ _ _ _ (by assumption) ?_ | refine State.vcommit_wf _ _ _ (by assumption) ?_ | extract_lets | split))

@[simp] theorem State.serveCapabilities_wf {s : State} (r : SpdmRequest) (hw : s.memoriesWf) :
    (State.serveCapabilities s r).memoriesWf := by
  unfold State.serveCapabilities
  (repeat' (first | with_reducible assumption | (simp (maxDischargeDepth := 40) [State.memoriesWf, *]; done) | refine foldl_wf _ ?_ _ ?_ | intro _ | refine wf_ite ?_ ?_ | refine Out.wf_ite ?_ ?_ | refine wf_ite_fst ?_ ?_ | refine State.withRun_wf _ (by assumption) ?_ | refine State.uform_wf _ _ _ (by assumption) ?_ | refine State.vform_wf _ _ _ _ (by assumption) ?_ | refine State.ucommit_wf _ _ _ _ (by assumption) ?_ | refine State.vcommit_wf _ _ _ (by assumption) ?_ | extract_lets | split))

@[simp] theorem State.serveAlgorithms_wf {s : State} (r : SpdmRequest) (hw : s.memoriesWf) :
    (State.serveAlgorithms s r).memoriesWf := by
  unfold State.serveAlgorithms
  (repeat' (first | with_reducible assumption | (simp (maxDischargeDepth := 40) [State.memoriesWf, *]; done) | refine foldl_wf _ ?_ _ ?_ | intro _ | refine wf_ite ?_ ?_ | refine Out.wf_ite ?_ ?_ | refine wf_ite_fst ?_ ?_ | refine State.withRun_wf _ (by assumption) ?_ | refine State.uform_wf _ _ _ (by assumption) ?_ | refine State.vform_wf _ _ _ _ (by assumption) ?_ | refine State.ucommit_wf _ _ _ _ (by assumption) ?_ | refine State.vcommit_wf _ _ _ (by assumption) ?_ | extract_lets | split))

@[simp] theorem State.serveDigests_wf {s : State} (r : SpdmRequest) (hw : s.memoriesWf) :
    (State.serveDigests s r).memoriesWf := by
  unfold State.serveDigests
  (repeat' (first | with_reducible assumption | (simp (maxDischargeDepth := 40) [State.memoriesWf, *]; done) | refine foldl_wf _ ?_ _ ?_ | intro _ | refine wf_ite ?_ ?_ | refine Out.wf_ite ?_ ?_ | refine wf_ite_fst ?_ ?_ | refine State.withRun_wf _ (by assumption) ?_ | refine State.uform_wf _ _ _ (by assumption) ?_ | refine State.vform_wf _ _ _ _ (by assumption) ?_ | refine State.ucommit_wf _ _ _ _ (by assumption) ?_ | refine State.vcommit_wf _ _ _ (by assumption) ?_ | extract_lets | split))

@[simp] theorem State.serveCertificate_wf {s : State} (r : SpdmRequest) (hw : s.memoriesWf) :
    (State.serveCertificate s r).memoriesWf := by
  unfold State.serveCertificate
  (repeat' (first | with_reducible assumption | (simp (maxDischargeDepth := 40) [State.memoriesWf, *]; done) | refine foldl_wf _ ?_ _ ?_ | intro _ | refine wf_ite ?_ ?_ | refine Out.wf_ite ?_ ?_ | refine wf_ite_fst ?_ ?_ | refine State.withRun_wf _ (by assumption) ?_ | refine State.uform_wf _ _ _ (by assumption) ?_ | refine State.vform_wf _ _ _ _ (by assumption) ?_ | refine State.ucommit_wf _ _ _ _ (by assumption) ?_ | refine State.vcommit_wf _ _ _ (by assumption) ?_ | extract_lets | split))

@[simp] theorem State.serveChallenge_wf {s : State} (r : SpdmRequest) (hw : s.memoriesWf) :
    (State.serveChallenge s r).memoriesWf := by
  unfold State.serveChallenge
  dsimp only
  split
  · exact hw
  · rw [State.setPartition_wf]; exact hw

@[simp] theorem State.serveMeasurements_wf {s : State} (r : SpdmRequest) (hw : s.memoriesWf) :
    (State.serveMeasurements s r).memoriesWf := by
  unfold State.serveMeasurements
  (repeat' (first | with_reducible assumption | (simp (maxDischargeDepth := 40) [State.memoriesWf, *]; done) | refine foldl_wf _ ?_ _ ?_ | intro _ | refine wf_ite ?_ ?_ | refine Out.wf_ite ?_ ?_ | refine wf_ite_fst ?_ ?_ | refine State.withRun_wf _ (by assumption) ?_ | refine State.uform_wf _ _ _ (by assumption) ?_ | refine State.vform_wf _ _ _ _ (by assumption) ?_ | refine State.ucommit_wf _ _ _ _ (by assumption) ?_ | refine State.vcommit_wf _ _ _ (by assumption) ?_ | extract_lets | split))

@[simp] theorem State.setSession_wf {s : State} (r : SpdmRequest) (isOpen : Bool) (secret : List Byte) (hw : s.memoriesWf) :
    (State.setSession s r isOpen secret).memoriesWf := by
  unfold State.setSession
  (repeat' (first | with_reducible assumption | (simp (maxDischargeDepth := 40) [State.memoriesWf, *]; done) | refine foldl_wf _ ?_ _ ?_ | intro _ | refine wf_ite ?_ ?_ | refine Out.wf_ite ?_ ?_ | refine wf_ite_fst ?_ ?_ | refine State.withRun_wf _ (by assumption) ?_ | refine State.uform_wf _ _ _ (by assumption) ?_ | refine State.vform_wf _ _ _ _ (by assumption) ?_ | refine State.ucommit_wf _ _ _ _ (by assumption) ?_ | refine State.vcommit_wf _ _ _ (by assumption) ?_ | extract_lets | split))

@[simp] theorem State.serveKeyExchange_wf {s : State} (r : SpdmRequest) (hw : s.memoriesWf) :
    (State.serveKeyExchange s r).memoriesWf := by
  unfold State.serveKeyExchange
  (repeat' (first | with_reducible assumption | (simp (maxDischargeDepth := 40) [State.memoriesWf, *]; done) | refine foldl_wf _ ?_ _ ?_ | intro _ | refine wf_ite ?_ ?_ | refine Out.wf_ite ?_ ?_ | refine wf_ite_fst ?_ ?_ | refine State.withRun_wf _ (by assumption) ?_ | refine State.uform_wf _ _ _ (by assumption) ?_ | refine State.vform_wf _ _ _ _ (by assumption) ?_ | refine State.ucommit_wf _ _ _ _ (by assumption) ?_ | refine State.vcommit_wf _ _ _ (by assumption) ?_ | extract_lets | split))

@[simp] theorem State.inSession_wf {s : State} (r : SpdmRequest) (needsOpen : Bool) (k : State) (hw : s.memoriesWf) (hk : k.memoriesWf) :
    (State.inSession s r needsOpen k).memoriesWf := by
  unfold State.inSession
  (repeat' (first | with_reducible assumption | (simp (maxDischargeDepth := 40) [State.memoriesWf, *]; done) | refine foldl_wf _ ?_ _ ?_ | intro _ | refine wf_ite ?_ ?_ | refine Out.wf_ite ?_ ?_ | refine wf_ite_fst ?_ ?_ | refine State.withRun_wf _ (by assumption) ?_ | refine State.uform_wf _ _ _ (by assumption) ?_ | refine State.vform_wf _ _ _ _ (by assumption) ?_ | refine State.ucommit_wf _ _ _ _ (by assumption) ?_ | refine State.vcommit_wf _ _ _ (by assumption) ?_ | extract_lets | split))

@[simp] theorem State.serveFinish_wf {s : State} (r : SpdmRequest) (hw : s.memoriesWf) :
    (State.serveFinish s r).memoriesWf := by
  unfold State.serveFinish
  (repeat' (first | with_reducible assumption | (simp (maxDischargeDepth := 40) [State.memoriesWf, *]; done) | refine foldl_wf _ ?_ _ ?_ | intro _ | refine wf_ite ?_ ?_ | refine Out.wf_ite ?_ ?_ | refine wf_ite_fst ?_ ?_ | refine State.withRun_wf _ (by assumption) ?_ | refine State.uform_wf _ _ _ (by assumption) ?_ | refine State.vform_wf _ _ _ _ (by assumption) ?_ | refine State.ucommit_wf _ _ _ _ (by assumption) ?_ | refine State.vcommit_wf _ _ _ (by assumption) ?_ | extract_lets | split))

@[simp] theorem State.serveKeyUpdate_wf {s : State} (r : SpdmRequest) (hw : s.memoriesWf) :
    (State.serveKeyUpdate s r).memoriesWf := by
  unfold State.serveKeyUpdate
  (repeat' (first | with_reducible assumption | (simp (maxDischargeDepth := 40) [State.memoriesWf, *]; done) | refine foldl_wf _ ?_ _ ?_ | intro _ | refine wf_ite ?_ ?_ | refine Out.wf_ite ?_ ?_ | refine wf_ite_fst ?_ ?_ | refine State.withRun_wf _ (by assumption) ?_ | refine State.uform_wf _ _ _ (by assumption) ?_ | refine State.vform_wf _ _ _ _ (by assumption) ?_ | refine State.ucommit_wf _ _ _ _ (by assumption) ?_ | refine State.vcommit_wf _ _ _ (by assumption) ?_ | extract_lets | split))

@[simp] theorem State.serveHeartbeat_wf {s : State} (r : SpdmRequest) (hw : s.memoriesWf) :
    (State.serveHeartbeat s r).memoriesWf := by
  unfold State.serveHeartbeat
  (repeat' (first | with_reducible assumption | (simp (maxDischargeDepth := 40) [State.memoriesWf, *]; done) | refine foldl_wf _ ?_ _ ?_ | intro _ | refine wf_ite ?_ ?_ | refine Out.wf_ite ?_ ?_ | refine wf_ite_fst ?_ ?_ | refine State.withRun_wf _ (by assumption) ?_ | refine State.uform_wf _ _ _ (by assumption) ?_ | refine State.vform_wf _ _ _ _ (by assumption) ?_ | refine State.ucommit_wf _ _ _ _ (by assumption) ?_ | refine State.vcommit_wf _ _ _ (by assumption) ?_ | extract_lets | split))

@[simp] theorem State.serveEndSession_wf {s : State} (r : SpdmRequest) (hw : s.memoriesWf) :
    (State.serveEndSession s r).memoriesWf := by
  unfold State.serveEndSession
  (repeat' (first | with_reducible assumption | (simp (maxDischargeDepth := 40) [State.memoriesWf, *]; done) | refine foldl_wf _ ?_ _ ?_ | intro _ | refine wf_ite ?_ ?_ | refine Out.wf_ite ?_ ?_ | refine wf_ite_fst ?_ ?_ | refine State.withRun_wf _ (by assumption) ?_ | refine State.uform_wf _ _ _ (by assumption) ?_ | refine State.vform_wf _ _ _ _ (by assumption) ?_ | refine State.ucommit_wf _ _ _ _ (by assumption) ?_ | refine State.vcommit_wf _ _ _ (by assumption) ?_ | extract_lets | split))

@[simp] theorem State.spdmEvent_wf {s : State} (r : SpdmRequest) (code : Nat) (k : State) (hw : s.memoriesWf) (hk : k.memoriesWf) :
    Out.wf (State.spdmEvent s r code k) := by
  unfold State.spdmEvent
  (repeat' (first | with_reducible assumption | (simp (maxDischargeDepth := 40) [State.memoriesWf, *]; done) | refine foldl_wf _ ?_ _ ?_ | intro _ | refine wf_ite ?_ ?_ | refine Out.wf_ite ?_ ?_ | refine wf_ite_fst ?_ ?_ | refine State.withRun_wf _ (by assumption) ?_ | refine State.uform_wf _ _ _ (by assumption) ?_ | refine State.vform_wf _ _ _ _ (by assumption) ?_ | refine State.ucommit_wf _ _ _ _ (by assumption) ?_ | refine State.vcommit_wf _ _ _ (by assumption) ?_ | extract_lets | split))

theorem execGetVersion_wf (r : SpdmRequest) {s : State} (hw : s.memoriesWf) :
    Out.wf (execGetVersion r s) := by
  simp (maxDischargeDepth := 40) [State.memoriesWf, execGetVersion, hw]

theorem execGetCapabilities_wf (r : SpdmRequest) {s : State} (hw : s.memoriesWf) :
    Out.wf (execGetCapabilities r s) := by
  simp (maxDischargeDepth := 40) [State.memoriesWf, execGetCapabilities, hw]

theorem execNegotiateAlgorithms_wf (r : SpdmRequest) {s : State} (hw : s.memoriesWf) :
    Out.wf (execNegotiateAlgorithms r s) := by
  simp (maxDischargeDepth := 40) [State.memoriesWf, execNegotiateAlgorithms, hw]

theorem execGetDigests_wf (r : SpdmRequest) {s : State} (hw : s.memoriesWf) :
    Out.wf (execGetDigests r s) := by
  simp (maxDischargeDepth := 40) [State.memoriesWf, execGetDigests, hw]

theorem execGetCertificate_wf (r : SpdmRequest) {s : State} (hw : s.memoriesWf) :
    Out.wf (execGetCertificate r s) := by
  unfold execGetCertificate
  (repeat' split) <;> simp_all

theorem execChallenge_wf (r : SpdmRequest) {s : State} (hw : s.memoriesWf) :
    Out.wf (execChallenge r s) := by
  unfold execChallenge
  exact State.spdmEvent_wf _ _ _ hw (State.serveChallenge_wf _ hw)

theorem execGetMeasurements_wf (r : SpdmRequest) {s : State} (hw : s.memoriesWf) :
    Out.wf (execGetMeasurements r s) := by
  simp (maxDischargeDepth := 40) [State.memoriesWf, execGetMeasurements, hw]

theorem execKeyExchange_wf (r : SpdmRequest) {s : State} (hw : s.memoriesWf) :
    Out.wf (execKeyExchange r s) := by
  simp (maxDischargeDepth := 40) [State.memoriesWf, execKeyExchange, hw]

theorem execFinish_wf (r : SpdmRequest) {s : State} (hw : s.memoriesWf) :
    Out.wf (execFinish r s) := by
  simp (maxDischargeDepth := 40) [State.memoriesWf, execFinish, hw]

theorem execKeyUpdate_wf (r : SpdmRequest) {s : State} (hw : s.memoriesWf) :
    Out.wf (execKeyUpdate r s) := by
  simp (maxDischargeDepth := 40) [State.memoriesWf, execKeyUpdate, hw]

theorem execHeartbeat_wf (r : SpdmRequest) {s : State} (hw : s.memoriesWf) :
    Out.wf (execHeartbeat r s) := by
  simp (maxDischargeDepth := 40) [State.memoriesWf, execHeartbeat, hw]

theorem execEndSession_wf (r : SpdmRequest) {s : State} (hw : s.memoriesWf) :
    Out.wf (execEndSession r s) := by
  simp (maxDischargeDepth := 40) [State.memoriesWf, execEndSession, hw]

theorem State.sendChallengeAuth_wf {s : State} (hw : s.memoriesWf) :
    ∀ t, State.sendChallengeAuth s = some t → t.memoriesWf := by
  unfold State.sendChallengeAuth
  (repeat' split) <;> simp_all

theorem execChallengeTimeout_wf {s : State} (hw : s.memoriesWf) :
    Out.wf (execChallengeTimeout s) := by
  unfold execChallengeTimeout
  dsimp only
  (repeat' (first | with_reducible assumption | (simp (maxDischargeDepth := 40) [State.memoriesWf, *]; done) | refine foldl_wf _ ?_ _ ?_ | intro _ | refine wf_ite ?_ ?_ | refine Out.wf_ite ?_ ?_ | refine wf_ite_fst ?_ ?_ | refine State.withRun_wf _ (by assumption) ?_ | refine State.uform_wf _ _ _ (by assumption) ?_ | refine State.vform_wf _ _ _ _ (by assumption) ?_ | refine State.ucommit_wf _ _ _ _ (by assumption) ?_ | refine State.vcommit_wf _ _ _ (by assumption) ?_ | extract_lets | split))

@[simp] theorem State.respond_wf {s : State} (r : SpdmRequest) (hw : s.memoriesWf) : (s.respond r).memoriesWf := by
  unfold State.respond
  split
  · exact State.serveVersion_wf _ hw
  · exact State.serveCapabilities_wf _ hw
  · exact State.serveAlgorithms_wf _ hw
  · exact State.serveDigests_wf _ hw
  · exact State.serveCertificate_wf _ hw
  · exact State.serveChallenge_wf _ hw
  · exact State.serveMeasurements_wf _ hw
  · exact State.serveKeyExchange_wf _ hw
  · exact State.serveFinish_wf _ hw
  · exact State.serveKeyUpdate_wf _ hw
  · exact State.serveHeartbeat_wf _ hw
  · exact State.serveEndSession_wf _ hw
  · exact State.spdmError_wf _ _ _ hw

end Sys2Proof.Machine
end

