-- ==== Sys2Proof/Laws/Canon/Command.lean ====
section
/-! SUPPORT. The operations of Machine/Command.lean keep every memory in canonical form. -/

namespace Sys2Proof.Machine

set_option linter.unusedSimpArgs false
set_option linter.unusedVariables false

@[simp] theorem State.pcmdDone_wf {s : State} (p : Nat) (a : Word) (hw : s.memoriesWf) :
    (State.pcmdDone s p a).memoriesWf := by
  simp (maxDischargeDepth := 40) [State.memoriesWf, State.pcmdDone, hw]

@[simp] theorem State.createKey_wf {s : State} (p : Nat) (d : List Byte) (hw : s.memoriesWf) :
    (s.createKey p d).memoriesWf := by
  unfold State.createKey
  split
  · exact State.pcmdDone_wf _ _ hw
  · extract_lets q
    split
    · exact State.pcmdDone_wf _ _ hw
    · exact State.pcmdDone_wf _ _ hw

@[simp] theorem State.bindKey_wf {s : State} (p : Nat) (d : List Byte) (hw : s.memoriesWf) :
    (State.bindKey s p d).memoriesWf := by
  unfold State.bindKey
  (repeat' (first | with_reducible assumption | (simp (maxDischargeDepth := 40) [State.memoriesWf, *]; done) | refine foldl_wf _ ?_ _ ?_ | intro _ | refine wf_ite ?_ ?_ | refine Out.wf_ite ?_ ?_ | refine wf_ite_fst ?_ ?_ | refine State.withRun_wf _ (by assumption) ?_ | refine State.uform_wf _ _ _ (by assumption) ?_ | refine State.vform_wf _ _ _ _ (by assumption) ?_ | refine State.ucommit_wf _ _ _ _ (by assumption) ?_ | refine State.vcommit_wf _ _ _ (by assumption) ?_ | extract_lets | split))

@[simp] theorem State.destroyKey_wf {s : State} (p : Nat) (d : List Byte) (hw : s.memoriesWf) :
    (State.destroyKey s p d).memoriesWf := by
  unfold State.destroyKey
  (repeat' (first | with_reducible assumption | (simp (maxDischargeDepth := 40) [State.memoriesWf, *]; done) | refine foldl_wf _ ?_ _ ?_ | intro _ | refine wf_ite ?_ ?_ | refine Out.wf_ite ?_ ?_ | refine wf_ite_fst ?_ ?_ | refine State.withRun_wf _ (by assumption) ?_ | refine State.uform_wf _ _ _ (by assumption) ?_ | refine State.vform_wf _ _ _ _ (by assumption) ?_ | refine State.ucommit_wf _ _ _ _ (by assumption) ?_ | refine State.vcommit_wf _ _ _ (by assumption) ?_ | extract_lets | split))

@[simp] theorem State.createCollective_wf {s : State} (p : Nat) (d : List Byte) (hw : s.memoriesWf) :
    (State.createCollective s p d).memoriesWf := by
  unfold State.createCollective
  (repeat' (first | with_reducible assumption | (simp (maxDischargeDepth := 40) [State.memoriesWf, *]; done) | refine foldl_wf _ ?_ _ ?_ | intro _ | refine wf_ite ?_ ?_ | refine Out.wf_ite ?_ ?_ | refine wf_ite_fst ?_ ?_ | refine State.withRun_wf _ (by assumption) ?_ | refine State.uform_wf _ _ _ (by assumption) ?_ | refine State.vform_wf _ _ _ _ (by assumption) ?_ | refine State.ucommit_wf _ _ _ _ (by assumption) ?_ | refine State.vcommit_wf _ _ _ (by assumption) ?_ | extract_lets | split))

@[simp] theorem State.endCollectives_wf {s : State} (hw : s.memoriesWf) :
    (State.endCollectives s).memoriesWf := by
  unfold State.endCollectives
  (repeat' (first | with_reducible assumption | (simp (maxDischargeDepth := 40) [State.memoriesWf, *]; done) | refine foldl_wf _ ?_ _ ?_ | intro _ | refine wf_ite ?_ ?_ | refine Out.wf_ite ?_ ?_ | refine wf_ite_fst ?_ ?_ | refine State.withRun_wf _ (by assumption) ?_ | refine State.uform_wf _ _ _ (by assumption) ?_ | refine State.vform_wf _ _ _ _ (by assumption) ?_ | refine State.ucommit_wf _ _ _ _ (by assumption) ?_ | refine State.vcommit_wf _ _ _ (by assumption) ?_ | extract_lets | split))

@[simp] theorem State.destroyCollective_wf {s : State} (p : Nat) (d : List Byte) (hw : s.memoriesWf) :
    (State.destroyCollective s p d).memoriesWf := by
  unfold State.destroyCollective
  (repeat' (first | with_reducible assumption | (simp (maxDischargeDepth := 40) [State.memoriesWf, *]; done) | refine foldl_wf _ ?_ _ ?_ | intro _ | refine wf_ite ?_ ?_ | refine Out.wf_ite ?_ ?_ | refine wf_ite_fst ?_ ?_ | refine State.withRun_wf _ (by assumption) ?_ | refine State.uform_wf _ _ _ (by assumption) ?_ | refine State.vform_wf _ _ _ _ (by assumption) ?_ | refine State.ucommit_wf _ _ _ _ (by assumption) ?_ | refine State.vcommit_wf _ _ _ (by assumption) ?_ | extract_lets | split))

@[simp] theorem State.defineLayer_wf {s : State} (p : Nat) (d : List Byte) (hw : s.memoriesWf) :
    (State.defineLayer s p d).memoriesWf := by
  unfold State.defineLayer
  (repeat' (first | with_reducible assumption | (simp (maxDischargeDepth := 40) [State.memoriesWf, *]; done) | refine foldl_wf _ ?_ _ ?_ | intro _ | refine wf_ite ?_ ?_ | refine Out.wf_ite ?_ ?_ | refine wf_ite_fst ?_ ?_ | refine State.withRun_wf _ (by assumption) ?_ | refine State.uform_wf _ _ _ (by assumption) ?_ | refine State.vform_wf _ _ _ _ (by assumption) ?_ | refine State.ucommit_wf _ _ _ _ (by assumption) ?_ | refine State.vcommit_wf _ _ _ (by assumption) ?_ | extract_lets | split))

@[simp] theorem State.retireLayer_wf {s : State} (p : Nat) (d : List Byte) (hw : s.memoriesWf) :
    (State.retireLayer s p d).memoriesWf := by
  unfold State.retireLayer
  (repeat' (first | with_reducible assumption | (simp (maxDischargeDepth := 40) [State.memoriesWf, *]; done) | refine foldl_wf _ ?_ _ ?_ | intro _ | refine wf_ite ?_ ?_ | refine Out.wf_ite ?_ ?_ | refine wf_ite_fst ?_ ?_ | refine State.withRun_wf _ (by assumption) ?_ | refine State.uform_wf _ _ _ (by assumption) ?_ | refine State.vform_wf _ _ _ _ (by assumption) ?_ | refine State.ucommit_wf _ _ _ _ (by assumption) ?_ | refine State.vcommit_wf _ _ _ (by assumption) ?_ | extract_lets | split))

@[simp] theorem State.partSpdm_wf {s : State} (p : Nat) (d : List Byte) (hw : s.memoriesWf) :
    (State.partSpdm s p d).memoriesWf := by
  unfold State.partSpdm
  (repeat' (first | with_reducible assumption | (simp (maxDischargeDepth := 40) [State.memoriesWf, *]; done) | refine foldl_wf _ ?_ _ ?_ | intro _ | refine wf_ite ?_ ?_ | refine Out.wf_ite ?_ ?_ | refine wf_ite_fst ?_ ?_ | refine State.withRun_wf _ (by assumption) ?_ | refine State.uform_wf _ _ _ (by assumption) ?_ | refine State.vform_wf _ _ _ _ (by assumption) ?_ | refine State.ucommit_wf _ _ _ _ (by assumption) ?_ | refine State.vcommit_wf _ _ _ (by assumption) ?_ | extract_lets | split))

@[simp] theorem State.pcmd_wf {s : State} (p desc : Nat) (hw : s.memoriesWf) :
    (State.pcmd s p desc).memoriesWf := by
  unfold State.pcmd
  (repeat' (first | with_reducible assumption | (simp (maxDischargeDepth := 40) [State.memoriesWf, *]; done) | refine foldl_wf _ ?_ _ ?_ | intro _ | refine wf_ite ?_ ?_ | refine Out.wf_ite ?_ ?_ | refine wf_ite_fst ?_ ?_ | refine State.withRun_wf _ (by assumption) ?_ | refine State.uform_wf _ _ _ (by assumption) ?_ | refine State.vform_wf _ _ _ _ (by assumption) ?_ | refine State.ucommit_wf _ _ _ _ (by assumption) ?_ | refine State.vcommit_wf _ _ _ (by assumption) ?_ | extract_lets | split))

@[simp] theorem State.answerBusy_wf {s : State} (w : Writer) (off : Nat) (hw : s.memoriesWf) :
    (State.answerBusy s w off).memoriesWf := by
  unfold State.answerBusy
  (repeat' (first | with_reducible assumption | (simp (maxDischargeDepth := 40) [State.memoriesWf, *]; done) | refine foldl_wf _ ?_ _ ?_ | intro _ | refine wf_ite ?_ ?_ | refine Out.wf_ite ?_ ?_ | refine wf_ite_fst ?_ ?_ | refine State.withRun_wf _ (by assumption) ?_ | refine State.uform_wf _ _ _ (by assumption) ?_ | refine State.vform_wf _ _ _ _ (by assumption) ?_ | refine State.ucommit_wf _ _ _ _ (by assumption) ?_ | refine State.vcommit_wf _ _ _ (by assumption) ?_ | extract_lets | split))

@[simp] theorem State.writePcmd_wf {s : State} (w : Writer) (p desc : Nat) (hw : s.memoriesWf) :
    (State.writePcmd s w p desc).memoriesWf := by
  unfold State.writePcmd
  (repeat' split) <;> simp_all

@[simp] theorem State.pcmdEvent_wf {s : State} (w : Writer) (p desc c : Nat) (hw : s.memoriesWf) :
    Out.wf (State.pcmdEvent s w p desc c) := by
  unfold State.pcmdEvent
  (repeat' (first | with_reducible assumption | (simp (maxDischargeDepth := 40) [State.memoriesWf, *]; done) | refine foldl_wf _ ?_ _ ?_ | intro _ | refine wf_ite ?_ ?_ | refine Out.wf_ite ?_ ?_ | refine wf_ite_fst ?_ ?_ | refine State.withRun_wf _ (by assumption) ?_ | refine State.uform_wf _ _ _ (by assumption) ?_ | refine State.vform_wf _ _ _ _ (by assumption) ?_ | refine State.ucommit_wf _ _ _ _ (by assumption) ?_ | refine State.vcommit_wf _ _ _ (by assumption) ?_ | extract_lets | split))

theorem execPcmdCreateKeyHandle_wf (w : Writer) (p desc : Nat) {s : State} (hw : s.memoriesWf) :
    Out.wf (execPcmdCreateKeyHandle w p desc s) := by
  simp (maxDischargeDepth := 40) [State.memoriesWf, execPcmdCreateKeyHandle, hw]

theorem execPcmdBindKeyHandle_wf (w : Writer) (p desc : Nat) {s : State} (hw : s.memoriesWf) :
    Out.wf (execPcmdBindKeyHandle w p desc s) := by
  simp (maxDischargeDepth := 40) [State.memoriesWf, execPcmdBindKeyHandle, hw]

theorem execPcmdDestroyKeyHandle_wf (w : Writer) (p desc : Nat) {s : State} (hw : s.memoriesWf) :
    Out.wf (execPcmdDestroyKeyHandle w p desc s) := by
  simp (maxDischargeDepth := 40) [State.memoriesWf, execPcmdDestroyKeyHandle, hw]

theorem execPcmdCreateCollective_wf (w : Writer) (p desc : Nat) {s : State} (hw : s.memoriesWf) :
    Out.wf (execPcmdCreateCollective w p desc s) := by
  simp (maxDischargeDepth := 40) [State.memoriesWf, execPcmdCreateCollective, hw]

theorem execPcmdDestroyCollective_wf (w : Writer) (p desc : Nat) {s : State} (hw : s.memoriesWf) :
    Out.wf (execPcmdDestroyCollective w p desc s) := by
  simp (maxDischargeDepth := 40) [State.memoriesWf, execPcmdDestroyCollective, hw]

theorem execPcmdDefineLayer_wf (w : Writer) (p desc : Nat) {s : State} (hw : s.memoriesWf) :
    Out.wf (execPcmdDefineLayer w p desc s) := by
  simp (maxDischargeDepth := 40) [State.memoriesWf, execPcmdDefineLayer, hw]

theorem execPcmdRetireLayer_wf (w : Writer) (p desc : Nat) {s : State} (hw : s.memoriesWf) :
    Out.wf (execPcmdRetireLayer w p desc s) := by
  simp (maxDischargeDepth := 40) [State.memoriesWf, execPcmdRetireLayer, hw]

theorem execPcmdSpdm_wf (w : Writer) (p desc : Nat) {s : State} (hw : s.memoriesWf) :
    Out.wf (execPcmdSpdm w p desc s) := by
  simp (maxDischargeDepth := 40) [State.memoriesWf, execPcmdSpdm, hw]

end Sys2Proof.Machine
end

