-- ==== Sys2Proof/Laws/Canon/Arrays.lean ====
section
/-! SUPPORT. The operations of Machine/Arrays.lean keep every memory in canonical form. -/

namespace Sys2Proof.Machine

set_option linter.unusedSimpArgs false
set_option linter.unusedVariables false

@[simp] theorem State.decay_wf {s : State} (die : Nat) (a : Nat) (row : Option Nat) (kind : Nat) (hw : s.memoriesWf) :
    (State.decay s die a row kind).memoriesWf := by
  unfold State.decay
  (repeat' (first | with_reducible assumption | (simp (maxDischargeDepth := 40) [State.memoriesWf, *]; done) | refine foldl_wf _ ?_ _ ?_ | intro _ | refine wf_ite ?_ ?_ | refine Out.wf_ite ?_ ?_ | refine wf_ite_fst ?_ ?_ | refine State.withRun_wf _ (by assumption) ?_ | refine State.uform_wf _ _ _ (by assumption) ?_ | refine State.vform_wf _ _ _ _ (by assumption) ?_ | refine State.ucommit_wf _ _ _ _ (by assumption) ?_ | refine State.vcommit_wf _ _ _ (by assumption) ?_ | extract_lets | split))

@[simp] theorem State.logEvent_wf {s : State} (kind : Nat) (part : Word) (d0 d1 : Dword) (hw : s.memoriesWf) :
    (State.logEvent s kind part d0 d1).memoriesWf := by
  simp (maxDischargeDepth := 40) [State.memoriesWf, State.logEvent, hw]

@[simp] theorem State.writePort_wf {s : State} (p die off : Nat) (v : Word) (hw : s.memoriesWf) :
    (State.writePort s p die off v).memoriesWf := by
  unfold State.writePort
  (repeat' (first | with_reducible assumption | (simp (maxDischargeDepth := 40) [State.memoriesWf, *]; done) | refine foldl_wf _ ?_ _ ?_ | intro _ | refine wf_ite ?_ ?_ | refine Out.wf_ite ?_ ?_ | refine wf_ite_fst ?_ ?_ | refine State.withRun_wf _ (by assumption) ?_ | refine State.uform_wf _ _ _ (by assumption) ?_ | refine State.vform_wf _ _ _ _ (by assumption) ?_ | refine State.ucommit_wf _ _ _ _ (by assumption) ?_ | refine State.vcommit_wf _ _ _ (by assumption) ?_ | extract_lets | split))

@[simp] theorem State.tellOutcome_wf {s : State} (die : Nat) (closed : Nat) (failed : Nat) (hw : s.memoriesWf) :
    (State.tellOutcome s die closed failed).memoriesWf := by
  unfold State.tellOutcome
  (repeat' (first | with_reducible assumption | (simp (maxDischargeDepth := 40) [State.memoriesWf, *]; done) | refine foldl_wf _ ?_ _ ?_ | intro _ | refine wf_ite ?_ ?_ | refine Out.wf_ite ?_ ?_ | refine wf_ite_fst ?_ ?_ | refine State.withRun_wf _ (by assumption) ?_ | refine State.uform_wf _ _ _ (by assumption) ?_ | refine State.vform_wf _ _ _ _ (by assumption) ?_ | refine State.ucommit_wf _ _ _ _ (by assumption) ?_ | refine State.vcommit_wf _ _ _ (by assumption) ?_ | extract_lets | split))

@[simp] theorem State.jobEvent_wf {s : State} (die : Nat) (a : Nat) (failed : Bool) (n : Nat) (hw : s.memoriesWf) :
    (State.jobEvent s die a failed n).memoriesWf := by
  unfold State.jobEvent
  (repeat' (first | with_reducible assumption | (simp (maxDischargeDepth := 40) [State.memoriesWf, *]; done) | refine foldl_wf _ ?_ _ ?_ | intro _ | refine wf_ite ?_ ?_ | refine Out.wf_ite ?_ ?_ | refine wf_ite_fst ?_ ?_ | refine State.withRun_wf _ (by assumption) ?_ | refine State.uform_wf _ _ _ (by assumption) ?_ | refine State.vform_wf _ _ _ _ (by assumption) ?_ | refine State.ucommit_wf _ _ _ _ (by assumption) ?_ | refine State.vcommit_wf _ _ _ (by assumption) ?_ | extract_lets | (simp +zetaDelta (maxDischargeDepth := 40) [State.memoriesWf, *]; done) | split))

@[simp] theorem State.jobEvents_wf {s : State} (die : Nat) (a : Nat) (failed : Bool) (hw : s.memoriesWf) :
    (State.jobEvents s die a failed).memoriesWf := by
  unfold State.jobEvents
  (repeat' (first | with_reducible assumption | (simp (maxDischargeDepth := 40) [State.memoriesWf, *]; done) | refine foldl_wf _ ?_ _ ?_ | intro _ | refine wf_ite ?_ ?_ | refine Out.wf_ite ?_ ?_ | refine wf_ite_fst ?_ ?_ | refine State.withRun_wf _ (by assumption) ?_ | refine State.uform_wf _ _ _ (by assumption) ?_ | refine State.vform_wf _ _ _ _ (by assumption) ?_ | refine State.ucommit_wf _ _ _ _ (by assumption) ?_ | refine State.vcommit_wf _ _ _ (by assumption) ?_ | extract_lets | split))

@[simp] theorem State.zeroFill_wf {s : State} (hw : s.memoriesWf) :
    (State.zeroFill s).memoriesWf := by
  exact ⟨hw.1, hw.2.1, rfl, hw.2.2.2⟩

@[simp] theorem State.endBringUp_wf {s : State} (hw : s.memoriesWf) :
    (State.endBringUp s).memoriesWf := by
  unfold State.endBringUp
  split
  · exact hw
  · refine wf_ite hw ?_
    have h1 : s.zeroFill.memoriesWf := State.zeroFill_wf hw
    exact wf_ite h1 h1

@[simp] theorem State.abortArray_wf {s : State} (die a : Nat) (hw : s.memoriesWf) :
    (State.abortArray s die a).memoriesWf := by
  simp (maxDischargeDepth := 40) [State.memoriesWf, State.abortArray, hw]

@[simp] theorem State.dropFits_wf {s : State} (die a : Nat) (hw : s.memoriesWf) :
    (State.dropFits s die a).memoriesWf := by
  simp (maxDischargeDepth := 40) [State.memoriesWf, State.dropFits, hw]

@[simp] theorem State.closeArray_wf {s : State} (die a : Nat) (hw : s.memoriesWf) :
    (State.closeArray s die a).memoriesWf := by
  simp (maxDischargeDepth := 40) [State.memoriesWf, State.closeArray, hw]

@[simp] theorem State.replayNext_wf {s : State} (die a : Nat) (hw : s.memoriesWf) : (s.replayNext die a).memoriesWf := by
  unfold State.replayNext
  extract_lets
  split
  · exact State.closeArray_wf _ _ hw
  · exact wf_ite hw (State.endBringUp_wf ((State.setDie_wf _ _ _).mpr hw))

theorem execApgo_wf (n : Bool) (d ca : Code) {s : State} (hw : s.memoriesWf) :
    Out.wf (execApgo n d ca s) := by
  unfold execApgo
  (repeat' (first | with_reducible assumption | (simp (maxDischargeDepth := 40) [State.memoriesWf, *]; done) | refine foldl_wf _ ?_ _ ?_ | intro _ | refine wf_ite ?_ ?_ | refine Out.wf_ite ?_ ?_ | refine wf_ite_fst ?_ ?_ | refine State.withRun_wf _ (by assumption) ?_ | refine State.uform_wf _ _ _ (by assumption) ?_ | refine State.vform_wf _ _ _ _ (by assumption) ?_ | refine State.ucommit_wf _ _ _ _ (by assumption) ?_ | refine State.vcommit_wf _ _ _ (by assumption) ?_ | extract_lets | split))

theorem execApgoAnswer_wf (c g : Nat) {s : State} (hw : s.memoriesWf) :
    Out.wf (execApgoAnswer c g s) := by
  unfold execApgoAnswer
  dsimp only
  (repeat' (first | with_reducible assumption | (simp (maxDischargeDepth := 40) [State.memoriesWf, *]; done) | refine foldl_wf _ ?_ _ ?_ | intro _ | refine wf_ite ?_ ?_ | refine Out.wf_ite ?_ ?_ | refine wf_ite_fst ?_ ?_ | refine State.withRun_wf _ (by assumption) ?_ | refine State.uform_wf _ _ _ (by assumption) ?_ | refine State.vform_wf _ _ _ _ (by assumption) ?_ | refine State.ucommit_wf _ _ _ _ (by assumption) ?_ | refine State.vcommit_wf _ _ _ (by assumption) ?_ | extract_lets | split))

theorem execRowStage_wf (die a row : Nat) {s : State} (hw : s.memoriesWf) :
    Out.wf (execRowStage die a row s) := by
  unfold execRowStage
  dsimp only
  (repeat' (first | with_reducible assumption | (simp (maxDischargeDepth := 40) [State.memoriesWf, *]; done) | refine foldl_wf _ ?_ _ ?_ | intro _ | refine wf_ite ?_ ?_ | refine Out.wf_ite ?_ ?_ | refine wf_ite_fst ?_ ?_ | refine State.withRun_wf _ (by assumption) ?_ | refine State.uform_wf _ _ _ (by assumption) ?_ | refine State.vform_wf _ _ _ _ (by assumption) ?_ | refine State.ucommit_wf _ _ _ _ (by assumption) ?_ | refine State.vcommit_wf _ _ _ (by assumption) ?_ | extract_lets | split))

theorem execRowWriteComplete_wf (die a row : Nat) (ok : Bool) {s : State} (hw : s.memoriesWf) :
    Out.wf (execRowWriteComplete die a row ok s) := by
  unfold execRowWriteComplete
  extract_lets
  refine Out.wf_ite trivial (Out.wf_ite ?_ (Out.wf_ite hw (Out.wf_ite ?_ hw)))
  · exact State.replayNext_wf (s := State.setDie s _ _) _ _ hw
  · exact State.abortArray_wf (s := State.setDie s _ _) _ _ hw

@[simp] theorem State.flushAe_wf {s : State} (c slot n : Nat) (hw : s.memoriesWf) : (s.flushAe c slot n).memoriesWf := by
  induction n generalizing s with
  | zero => exact hw
  | succ n ih =>
    unfold State.flushAe
    extract_lets
    split
    · exact hw
    · exact wf_ite (ih (State.post_wf (s := State.setCore s _ _) _ _ _ _ _ _ hw)) hw

@[simp] theorem State.flushAes_wf {s : State} (c : Nat) (hw : s.memoriesWf) : (s.flushAes c).memoriesWf := by
  unfold State.flushAes
  exact foldl_wf _ (fun s g h => State.flushAe_wf _ _ _ h) _ hw

@[simp] theorem State.failAnalogue_wf {s : State} (c die : Nat) (hw : s.memoriesWf) :
    (State.failAnalogue s c die).memoriesWf := by
  unfold State.failAnalogue
  (repeat' (first | with_reducible assumption | (simp (maxDischargeDepth := 40) [State.memoriesWf, *]; done) | refine foldl_wf _ ?_ _ ?_ | intro _ | refine wf_ite ?_ ?_ | refine Out.wf_ite ?_ ?_ | refine wf_ite_fst ?_ ?_ | refine State.withRun_wf _ (by assumption) ?_ | refine State.uform_wf _ _ _ (by assumption) ?_ | refine State.vform_wf _ _ _ _ (by assumption) ?_ | refine State.ucommit_wf _ _ _ _ (by assumption) ?_ | refine State.vcommit_wf _ _ _ (by assumption) ?_ | extract_lets | split))

@[simp] theorem State.dropDie_wf {s : State} (die : Nat) (hw : s.memoriesWf) :
    (State.dropDie s die).memoriesWf := by
  unfold State.dropDie
  (repeat' (first | with_reducible assumption | (simp (maxDischargeDepth := 40) [State.memoriesWf, *]; done) | refine foldl_wf _ ?_ _ ?_ | intro _ | refine wf_ite ?_ ?_ | refine Out.wf_ite ?_ ?_ | refine wf_ite_fst ?_ ?_ | refine State.withRun_wf _ (by assumption) ?_ | refine State.uform_wf _ _ _ (by assumption) ?_ | refine State.vform_wf _ _ _ _ (by assumption) ?_ | refine State.ucommit_wf _ _ _ _ (by assumption) ?_ | refine State.vcommit_wf _ _ _ (by assumption) ?_ | extract_lets | split))

@[simp] theorem State.replayDie_wf {s : State} (die : Nat) (hw : s.memoriesWf) : (s.replayDie die).memoriesWf := by
  unfold State.replayDie
  exact foldl_wf _ (fun s g h => wf_ite (State.replayNext_wf _ _ h) h) _ hw

@[simp] theorem State.resetDie_wf {s : State} (die : Nat) (hw : s.memoriesWf) :
    (State.resetDie s die).memoriesWf := by
  unfold State.resetDie
  (repeat' (first | with_reducible assumption | (simp (maxDischargeDepth := 40) [State.memoriesWf, *]; done) | refine foldl_wf _ ?_ _ ?_ | intro _ | refine wf_ite ?_ ?_ | refine Out.wf_ite ?_ ?_ | refine wf_ite_fst ?_ ?_ | refine State.withRun_wf _ (by assumption) ?_ | refine State.uform_wf _ _ _ (by assumption) ?_ | refine State.vform_wf _ _ _ _ (by assumption) ?_ | refine State.ucommit_wf _ _ _ _ (by assumption) ?_ | refine State.vcommit_wf _ _ _ (by assumption) ?_ | extract_lets | split))

theorem execDieReset_wf (die : Nat) {s : State} (hw : s.memoriesWf) :
    Out.wf (execDieReset die s) := by
  unfold execDieReset
  (repeat' (first | with_reducible assumption | (simp (maxDischargeDepth := 40) [State.memoriesWf, *]; done) | refine foldl_wf _ ?_ _ ?_ | intro _ | refine wf_ite ?_ ?_ | refine Out.wf_ite ?_ ?_ | refine wf_ite_fst ?_ ?_ | refine State.withRun_wf _ (by assumption) ?_ | refine State.uform_wf _ _ _ (by assumption) ?_ | refine State.vform_wf _ _ _ _ (by assumption) ?_ | refine State.ucommit_wf _ _ _ _ (by assumption) ?_ | refine State.vcommit_wf _ _ _ (by assumption) ?_ | extract_lets | split))

theorem execDieWatchdogExpiry_wf (die : Nat) {s : State} (hw : s.memoriesWf) :
    Out.wf (execDieWatchdogExpiry die s) := by
  unfold execDieWatchdogExpiry
  (repeat' (first | with_reducible assumption | (simp (maxDischargeDepth := 40) [State.memoriesWf, *]; done) | refine foldl_wf _ ?_ _ ?_ | intro _ | refine wf_ite ?_ ?_ | refine Out.wf_ite ?_ ?_ | refine wf_ite_fst ?_ ?_ | refine State.withRun_wf _ (by assumption) ?_ | refine State.uform_wf _ _ _ (by assumption) ?_ | refine State.vform_wf _ _ _ _ (by assumption) ?_ | refine State.ucommit_wf _ _ _ _ (by assumption) ?_ | refine State.vcommit_wf _ _ _ (by assumption) ?_ | extract_lets | split))

theorem execLinkFailure_wf (die : Nat) {s : State} (hw : s.memoriesWf) :
    Out.wf (execLinkFailure die s) := by
  unfold execLinkFailure
  (repeat' (first | with_reducible assumption | (simp (maxDischargeDepth := 40) [State.memoriesWf, *]; done) | refine foldl_wf _ ?_ _ ?_ | intro _ | refine wf_ite ?_ ?_ | refine Out.wf_ite ?_ ?_ | refine wf_ite_fst ?_ ?_ | refine State.withRun_wf _ (by assumption) ?_ | refine State.uform_wf _ _ _ (by assumption) ?_ | refine State.vform_wf _ _ _ _ (by assumption) ?_ | refine State.ucommit_wf _ _ _ _ (by assumption) ?_ | refine State.vcommit_wf _ _ _ (by assumption) ?_ | extract_lets | split))

theorem execLinkRateChangeRequest_wf (die rate : Nat) {s : State} (hw : s.memoriesWf) :
    Out.wf (execLinkRateChangeRequest die rate s) := by
  unfold execLinkRateChangeRequest
  (repeat' (first | with_reducible assumption | (simp (maxDischargeDepth := 40) [State.memoriesWf, *]; done) | refine foldl_wf _ ?_ _ ?_ | intro _ | refine wf_ite ?_ ?_ | refine Out.wf_ite ?_ ?_ | refine wf_ite_fst ?_ ?_ | refine State.withRun_wf _ (by assumption) ?_ | refine State.uform_wf _ _ _ (by assumption) ?_ | refine State.vform_wf _ _ _ _ (by assumption) ?_ | refine State.ucommit_wf _ _ _ _ (by assumption) ?_ | refine State.vcommit_wf _ _ _ (by assumption) ?_ | extract_lets | split))

theorem execLinkWidthChangeRequest_wf (die narrow : Nat) {s : State} (hw : s.memoriesWf) :
    Out.wf (execLinkWidthChangeRequest die narrow s) := by
  unfold execLinkWidthChangeRequest
  (repeat' (first | with_reducible assumption | (simp (maxDischargeDepth := 40) [State.memoriesWf, *]; done) | refine foldl_wf _ ?_ _ ?_ | intro _ | refine wf_ite ?_ ?_ | refine Out.wf_ite ?_ ?_ | refine wf_ite_fst ?_ ?_ | refine State.withRun_wf _ (by assumption) ?_ | refine State.uform_wf _ _ _ (by assumption) ?_ | refine State.vform_wf _ _ _ _ (by assumption) ?_ | refine State.ucommit_wf _ _ _ _ (by assumption) ?_ | refine State.vcommit_wf _ _ _ (by assumption) ?_ | extract_lets | split))

theorem execRetrainComplete_wf (die : Nat) (ok : Bool) {s : State} (hw : s.memoriesWf) :
    Out.wf (execRetrainComplete die ok s) := by
  unfold execRetrainComplete
  (repeat' (first | with_reducible assumption | (simp (maxDischargeDepth := 40) [State.memoriesWf, *]; done) | refine foldl_wf _ ?_ _ ?_ | intro _ | refine wf_ite ?_ ?_ | refine Out.wf_ite ?_ ?_ | refine wf_ite_fst ?_ ?_ | refine State.withRun_wf _ (by assumption) ?_ | refine State.uform_wf _ _ _ (by assumption) ?_ | refine State.vform_wf _ _ _ _ (by assumption) ?_ | refine State.ucommit_wf _ _ _ _ (by assumption) ?_ | refine State.vcommit_wf _ _ _ (by assumption) ?_ | extract_lets | split))

end Sys2Proof.Machine
end

