-- ==== Sys2Proof/Laws/Canon/Manage.lean ====
section
/-! SUPPORT. The operations of Machine/Manage.lean keep every memory in canonical form. -/

namespace Sys2Proof.Machine

set_option linter.unusedSimpArgs false
set_option linter.unusedVariables false

@[simp] theorem State.calibrateDie_wf {s : State} (r : BringUp) (die : Nat) (hw : s.memoriesWf) :
    (State.calibrateDie s r die).memoriesWf := by
  unfold State.calibrateDie
  (repeat' (first | with_reducible assumption | (simp (maxDischargeDepth := 40) [State.memoriesWf, *]; done) | refine foldl_wf _ ?_ _ ?_ | intro _ | refine wf_ite ?_ ?_ | refine Out.wf_ite ?_ ?_ | refine wf_ite_fst ?_ ?_ | refine State.withRun_wf _ (by assumption) ?_ | refine State.uform_wf _ _ _ (by assumption) ?_ | refine State.vform_wf _ _ _ _ (by assumption) ?_ | refine State.ucommit_wf _ _ _ _ (by assumption) ?_ | refine State.vcommit_wf _ _ _ (by assumption) ?_ | extract_lets | split))

@[simp] theorem State.trainLink_wf {s : State} (r : BringUp) (die : Nat) (hw : s.memoriesWf) :
    (State.trainLink s r die).memoriesWf := by
  unfold State.trainLink
  (repeat' (first | with_reducible assumption | (simp (maxDischargeDepth := 40) [State.memoriesWf, *]; done) | refine foldl_wf _ ?_ _ ?_ | intro _ | refine wf_ite ?_ ?_ | refine Out.wf_ite ?_ ?_ | refine wf_ite_fst ?_ ?_ | refine State.withRun_wf _ (by assumption) ?_ | refine State.uform_wf _ _ _ (by assumption) ?_ | refine State.vform_wf _ _ _ _ (by assumption) ?_ | refine State.ucommit_wf _ _ _ _ (by assumption) ?_ | refine State.vcommit_wf _ _ _ (by assumption) ?_ | extract_lets | split))

theorem execPowerGood_wf (r : BringUp) {s : State} (hw : s.memoriesWf) : Out.wf (execPowerGood r s) := by
  unfold execPowerGood
  refine Out.wf_ite trivial ?_
  extract_lets m0
  split
  · exact hw
  · refine Out.wf_ite hw ?_
    extract_lets s1 s2 s3 s4
    have h1 : s1.memoriesWf := State.logEvent_wf (s := { s with mgr := _ }) _ _ _ _ hw
    have h2 : s2.memoriesWf := foldl_wf _ (fun s d h => State.calibrateDie_wf _ _ h) _ h1
    have h3 : s3.memoriesWf := foldl_wf _ (fun s d h => State.trainLink_wf _ _ h) _ h2
    have h4 : s4.memoriesWf := foldl_wf _ (fun s d h => wf_ite (State.replayDie_wf _ h) h) _ h3
    clear_value s4
    clear_value s2
    exact Out.wf_ite h2 (State.endBringUp_wf h4)

theorem execPowerLoss_wf {s : State} (hw : s.memoriesWf) : Out.wf (execPowerLoss s) :=
  Out.wf_ite trivial ⟨rfl, hw.2.1, rfl, hw.2.2.2⟩

theorem execThermalStep_wf (sensor : Nat) (t : Int) {s : State} (hw : s.memoriesWf) :
    Out.wf (execThermalStep sensor t s) := by
  unfold execThermalStep
  (repeat' (first | with_reducible assumption | (simp (maxDischargeDepth := 40) [State.memoriesWf, *]; done) | refine foldl_wf _ ?_ _ ?_ | intro _ | refine wf_ite ?_ ?_ | refine Out.wf_ite ?_ ?_ | refine wf_ite_fst ?_ ?_ | refine State.withRun_wf _ (by assumption) ?_ | refine State.uform_wf _ _ _ (by assumption) ?_ | refine State.vform_wf _ _ _ _ (by assumption) ?_ | refine State.ucommit_wf _ _ _ _ (by assumption) ?_ | refine State.vcommit_wf _ _ _ (by assumption) ?_ | extract_lets | split))

@[simp] theorem State.zeroUnit_wf {s : State} (l : Loc) (level : ErrorLevel) (hw : s.memoriesWf) :
    (State.zeroUnit s l level).memoriesWf := by
  unfold State.zeroUnit
  (repeat' (first | with_reducible assumption | (simp (maxDischargeDepth := 40) [State.memoriesWf, *]; done) | refine foldl_wf _ ?_ _ ?_ | intro _ | refine wf_ite ?_ ?_ | refine Out.wf_ite ?_ ?_ | refine wf_ite_fst ?_ ?_ | refine State.withRun_wf _ (by assumption) ?_ | refine State.uform_wf _ _ _ (by assumption) ?_ | refine State.vform_wf _ _ _ _ (by assumption) ?_ | refine State.ucommit_wf _ _ _ _ (by assumption) ?_ | refine State.vcommit_wf _ _ _ (by assumption) ?_ | extract_lets | split))

@[simp] theorem State.countOwner_wf {s : State} (p : Option Nat) (lost : Bool) (hw : s.memoriesWf) :
    (State.countOwner s p lost).memoriesWf := by
  unfold State.countOwner
  (repeat' (first | with_reducible assumption | (simp (maxDischargeDepth := 40) [State.memoriesWf, *]; done) | refine foldl_wf _ ?_ _ ?_ | intro _ | refine wf_ite ?_ ?_ | refine Out.wf_ite ?_ ?_ | refine wf_ite_fst ?_ ?_ | refine State.withRun_wf _ (by assumption) ?_ | refine State.uform_wf _ _ _ (by assumption) ?_ | refine State.vform_wf _ _ _ _ (by assumption) ?_ | refine State.ucommit_wf _ _ _ _ (by assumption) ?_ | refine State.vcommit_wf _ _ _ (by assumption) ?_ | extract_lets | split))

@[simp] theorem State.logLoss_wf {s : State} (owner : Option Nat) (at_ : Nat × Nat) (hw : s.memoriesWf) :
    (State.logLoss s owner at_).memoriesWf := by
  unfold State.logLoss
  (repeat' (first | with_reducible assumption | (simp (maxDischargeDepth := 40) [State.memoriesWf, *]; done) | refine foldl_wf _ ?_ _ ?_ | intro _ | refine wf_ite ?_ ?_ | refine Out.wf_ite ?_ ?_ | refine wf_ite_fst ?_ ?_ | refine State.withRun_wf _ (by assumption) ?_ | refine State.uform_wf _ _ _ (by assumption) ?_ | refine State.vform_wf _ _ _ _ (by assumption) ?_ | refine State.ucommit_wf _ _ _ _ (by assumption) ?_ | refine State.vcommit_wf _ _ _ (by assumption) ?_ | extract_lets | split))

@[simp] theorem State.scrub_wf {s : State} (l : Loc) (level : ErrorLevel) (lost : Bool) (hw : s.memoriesWf) :
    (State.scrub s l level lost).memoriesWf := by
  unfold State.scrub
  (repeat' (first | with_reducible assumption | (simp (maxDischargeDepth := 40) [State.memoriesWf, *]; done) | refine foldl_wf _ ?_ _ ?_ | intro _ | refine wf_ite ?_ ?_ | refine Out.wf_ite ?_ ?_ | refine wf_ite_fst ?_ ?_ | refine State.withRun_wf _ (by assumption) ?_ | refine State.uform_wf _ _ _ (by assumption) ?_ | refine State.vform_wf _ _ _ _ (by assumption) ?_ | refine State.ucommit_wf _ _ _ _ (by assumption) ?_ | refine State.vcommit_wf _ _ _ (by assumption) ?_ | extract_lets | split))

@[simp] theorem State.zeroRegAt_wf {s : State} (c : Nat) (g : Nat) (x : Group) (r : RegPlace) (hw : s.memoriesWf) :
    (State.zeroRegAt s c g x r).memoriesWf := by
  unfold State.zeroRegAt
  (repeat' (first | with_reducible assumption | (simp (maxDischargeDepth := 40) [State.memoriesWf, *]; done) | refine foldl_wf _ ?_ _ ?_ | intro _ | refine wf_ite ?_ ?_ | refine Out.wf_ite ?_ ?_ | refine wf_ite_fst ?_ ?_ | refine State.withRun_wf _ (by assumption) ?_ | refine State.uform_wf _ _ _ (by assumption) ?_ | refine State.vform_wf _ _ _ _ (by assumption) ?_ | refine State.ucommit_wf _ _ _ _ (by assumption) ?_ | refine State.vcommit_wf _ _ _ (by assumption) ?_ | extract_lets | split))

theorem execScrubError_wf (loc : ErrorPlace) (lost : Bool) {s : State} (hw : s.memoriesWf) :
    Out.wf (execScrubError loc lost s) := by
  unfold execScrubError
  (repeat' (first | with_reducible assumption | (simp (maxDischargeDepth := 40) [State.memoriesWf, *]; done) | refine foldl_wf _ ?_ _ ?_ | intro _ | refine wf_ite ?_ ?_ | refine Out.wf_ite ?_ ?_ | refine wf_ite_fst ?_ ?_ | refine State.withRun_wf _ (by assumption) ?_ | refine State.uform_wf _ _ _ (by assumption) ?_ | refine State.vform_wf _ _ _ _ (by assumption) ?_ | refine State.ucommit_wf _ _ _ _ (by assumption) ?_ | refine State.vcommit_wf _ _ _ (by assumption) ?_ | extract_lets | split))

@[simp] theorem State.meetMemError_wf {s : State} (launch : Nat) (l : Loc) (level : ErrorLevel) (lost : Bool) (hw : s.memoriesWf) :
    (State.meetMemError s launch l level lost).memoriesWf := by
  unfold State.meetMemError
  (repeat' (first | with_reducible assumption | (simp (maxDischargeDepth := 40) [State.memoriesWf, *]; done) | refine foldl_wf _ ?_ _ ?_ | intro _ | refine wf_ite ?_ ?_ | refine Out.wf_ite ?_ ?_ | refine wf_ite_fst ?_ ?_ | refine State.withRun_wf _ (by assumption) ?_ | refine State.uform_wf _ _ _ (by assumption) ?_ | refine State.vform_wf _ _ _ _ (by assumption) ?_ | refine State.ucommit_wf _ _ _ _ (by assumption) ?_ | refine State.vcommit_wf _ _ _ (by assumption) ?_ | extract_lets | split))

@[simp] theorem State.meetRegError_wf {s : State} (c : Nat) (g : Nat) (r : RegPlace) (lost : Bool) (hw : s.memoriesWf) :
    (State.meetRegError s c g r lost).memoriesWf := by
  unfold State.meetRegError
  (repeat' (first | with_reducible assumption | (simp (maxDischargeDepth := 40) [State.memoriesWf, *]; done) | refine foldl_wf _ ?_ _ ?_ | intro _ | refine wf_ite ?_ ?_ | refine Out.wf_ite ?_ ?_ | refine wf_ite_fst ?_ ?_ | refine State.withRun_wf _ (by assumption) ?_ | refine State.uform_wf _ _ _ (by assumption) ?_ | refine State.vform_wf _ _ _ _ (by assumption) ?_ | refine State.ucommit_wf _ _ _ _ (by assumption) ?_ | refine State.vcommit_wf _ _ _ (by assumption) ?_ | extract_lets | split))

@[simp] theorem State.writeBack_wf {s : State} (sector : Nat) (hw : s.memoriesWf) :
    (State.writeBack s sector).memoriesWf := by
  unfold State.writeBack
  (repeat' (first | with_reducible assumption | (simp (maxDischargeDepth := 40) [State.memoriesWf, *]; done) | refine foldl_wf _ ?_ _ ?_ | intro _ | refine wf_ite ?_ ?_ | refine Out.wf_ite ?_ ?_ | refine wf_ite_fst ?_ ?_ | refine State.withRun_wf _ (by assumption) ?_ | refine State.uform_wf _ _ _ (by assumption) ?_ | refine State.vform_wf _ _ _ _ (by assumption) ?_ | refine State.ucommit_wf _ _ _ _ (by assumption) ?_ | refine State.vcommit_wf _ _ _ (by assumption) ?_ | extract_lets | split))

@[simp] theorem State.pageCopy_wf {s : State} (src : Loc) (dst : Loc) (n : Nat) (hw : s.memoriesWf) :
    Out.wf (State.pageCopy s src dst n) := by
  unfold State.pageCopy
  (repeat' (first | with_reducible assumption | (simp (maxDischargeDepth := 40) [State.memoriesWf, *]; done) | refine foldl_wf _ ?_ _ ?_ | intro _ | refine wf_ite ?_ ?_ | refine Out.wf_ite ?_ ?_ | refine wf_ite_fst ?_ ?_ | refine State.withRun_wf _ (by assumption) ?_ | refine State.uform_wf _ _ _ (by assumption) ?_ | refine State.vform_wf _ _ _ _ (by assumption) ?_ | refine State.ucommit_wf _ _ _ _ (by assumption) ?_ | refine State.vcommit_wf _ _ _ (by assumption) ?_ | extract_lets | split))

@[simp] theorem State.cacheError_wf {s : State} (c : Nat) (cache : CacheKind) (l : Loc) (hw : s.memoriesWf) :
    (State.cacheError s c cache l).memoriesWf := by
  cases cache <;> exact hw

@[simp] theorem State.smDone_wf {s : State} (a : Word) (hw : s.memoriesWf) :
    (State.smDone s a).memoriesWf := by
  simp (maxDischargeDepth := 40) [State.memoriesWf, State.smDone, hw]

@[simp] theorem State.doWriteImage_wf {s : State} (d : List Byte) (hw : s.memoriesWf) :
    (State.doWriteImage s d).memoriesWf := by
  unfold State.doWriteImage
  (repeat' (first | with_reducible assumption | (simp (maxDischargeDepth := 40) [State.memoriesWf, *]; done) | refine foldl_wf _ ?_ _ ?_ | intro _ | refine wf_ite ?_ ?_ | refine Out.wf_ite ?_ ?_ | refine wf_ite_fst ?_ ?_ | refine State.withRun_wf _ (by assumption) ?_ | refine State.uform_wf _ _ _ (by assumption) ?_ | refine State.vform_wf _ _ _ _ (by assumption) ?_ | refine State.ucommit_wf _ _ _ _ (by assumption) ?_ | refine State.vcommit_wf _ _ _ (by assumption) ?_ | extract_lets | split))

@[simp] theorem State.doActivate_wf {s : State} (hw : s.memoriesWf) :
    (State.doActivate s).memoriesWf := by
  unfold State.doActivate
  (repeat' (first | with_reducible assumption | (simp (maxDischargeDepth := 40) [State.memoriesWf, *]; done) | refine foldl_wf _ ?_ _ ?_ | intro _ | refine wf_ite ?_ ?_ | refine Out.wf_ite ?_ ?_ | refine wf_ite_fst ?_ ?_ | refine State.withRun_wf _ (by assumption) ?_ | refine State.uform_wf _ _ _ (by assumption) ?_ | refine State.vform_wf _ _ _ _ (by assumption) ?_ | refine State.ucommit_wf _ _ _ _ (by assumption) ?_ | refine State.vcommit_wf _ _ _ (by assumption) ?_ | extract_lets | split))

@[simp] theorem State.raiseCounter_wf {s : State} (hw : s.memoriesWf) :
    (State.raiseCounter s).memoriesWf := by
  unfold State.raiseCounter
  (repeat' (first | with_reducible assumption | (simp (maxDischargeDepth := 40) [State.memoriesWf, *]; done) | refine foldl_wf _ ?_ _ ?_ | intro _ | refine wf_ite ?_ ?_ | refine Out.wf_ite ?_ ?_ | refine wf_ite_fst ?_ ?_ | refine State.withRun_wf _ (by assumption) ?_ | refine State.uform_wf _ _ _ (by assumption) ?_ | refine State.vform_wf _ _ _ _ (by assumption) ?_ | refine State.ucommit_wf _ _ _ _ (by assumption) ?_ | refine State.vcommit_wf _ _ _ (by assumption) ?_ | extract_lets | split))

@[simp] theorem State.doConfirm_wf {s : State} (hw : s.memoriesWf) :
    (State.doConfirm s).memoriesWf := by
  unfold State.doConfirm
  (repeat' (first | with_reducible assumption | (simp (maxDischargeDepth := 40) [State.memoriesWf, *]; done) | refine foldl_wf _ ?_ _ ?_ | intro _ | refine wf_ite ?_ ?_ | refine Out.wf_ite ?_ ?_ | refine wf_ite_fst ?_ ?_ | refine State.withRun_wf _ (by assumption) ?_ | refine State.uform_wf _ _ _ (by assumption) ?_ | refine State.vform_wf _ _ _ _ (by assumption) ?_ | refine State.ucommit_wf _ _ _ _ (by assumption) ?_ | refine State.vcommit_wf _ _ _ (by assumption) ?_ | extract_lets | split))

@[simp] theorem State.doReadLog_wf {s : State} (d : List Byte) (hw : s.memoriesWf) :
    (State.doReadLog s d).memoriesWf := by
  unfold State.doReadLog
  (repeat' (first | with_reducible assumption | (simp (maxDischargeDepth := 40) [State.memoriesWf, *]; done) | refine foldl_wf _ ?_ _ ?_ | intro _ | refine wf_ite ?_ ?_ | refine Out.wf_ite ?_ ?_ | refine wf_ite_fst ?_ ?_ | refine State.withRun_wf _ (by assumption) ?_ | refine State.uform_wf _ _ _ (by assumption) ?_ | refine State.vform_wf _ _ _ _ (by assumption) ?_ | refine State.ucommit_wf _ _ _ _ (by assumption) ?_ | refine State.vcommit_wf _ _ _ (by assumption) ?_ | extract_lets | split))

@[simp] theorem State.doSpdm_wf {s : State} (port : Nat) (d : List Byte) (hw : s.memoriesWf) :
    (State.doSpdm s port d).memoriesWf := by
  simp (maxDischargeDepth := 40) [State.memoriesWf, State.doSpdm, hw]

@[simp] theorem State.doSetCert_wf {s : State} (d : List Byte) (hw : s.memoriesWf) :
    (State.doSetCert s d).memoriesWf := by
  unfold State.doSetCert
  (repeat' (first | with_reducible assumption | (simp (maxDischargeDepth := 40) [State.memoriesWf, *]; done) | refine foldl_wf _ ?_ _ ?_ | intro _ | refine wf_ite ?_ ?_ | refine Out.wf_ite ?_ ?_ | refine wf_ite_fst ?_ ?_ | refine State.withRun_wf _ (by assumption) ?_ | refine State.uform_wf _ _ _ (by assumption) ?_ | refine State.vform_wf _ _ _ _ (by assumption) ?_ | refine State.ucommit_wf _ _ _ _ (by assumption) ?_ | refine State.vcommit_wf _ _ _ (by assumption) ?_ | extract_lets | split))

@[simp] theorem State.doReadSensors_wf {s : State} (d : List Byte) (hw : s.memoriesWf) :
    (State.doReadSensors s d).memoriesWf := by
  simp (maxDischargeDepth := 40) [State.memoriesWf, State.doReadSensors, hw]

@[simp] theorem State.doSetCarveout_wf {s : State} (d : List Byte) (hw : s.memoriesWf) :
    (State.doSetCarveout s d).memoriesWf := by
  unfold State.doSetCarveout
  (repeat' (first | with_reducible assumption | (simp (maxDischargeDepth := 40) [State.memoriesWf, *]; done) | refine foldl_wf _ ?_ _ ?_ | intro _ | refine wf_ite ?_ ?_ | refine Out.wf_ite ?_ ?_ | refine wf_ite_fst ?_ ?_ | refine State.withRun_wf _ (by assumption) ?_ | refine State.uform_wf _ _ _ (by assumption) ?_ | refine State.vform_wf _ _ _ _ (by assumption) ?_ | refine State.ucommit_wf _ _ _ _ (by assumption) ?_ | refine State.vcommit_wf _ _ _ (by assumption) ?_ | extract_lets | split))

theorem execCarveoutChangeComplete_wf {s : State} (hw : s.memoriesWf) : Out.wf (execCarveoutChangeComplete s) := by
  unfold execCarveoutChangeComplete
  split
  · trivial
  · refine State.smDone_wf _ ?_
    exact ⟨hw.1, hw.2.1, Memory.wf_filter _ hw.2.2.1, hw.2.2.2⟩

@[simp] theorem State.smcmd_wf {s : State} (port desc : Nat) (hw : s.memoriesWf) :
    (State.smcmd s port desc).memoriesWf := by
  unfold State.smcmd
  refine wf_ite (State.answerBusy_wf _ _ hw) ?_
  split
  · exact State.smDone_wf _ hw
  · split
    · exact State.doWriteImage_wf _ hw
    · exact State.doActivate_wf hw
    · exact State.doConfirm_wf hw
    · exact State.doReadLog_wf _ hw
    · exact State.doSpdm_wf _ _ hw
    · exact State.doSetCert_wf _ hw
    · exact State.doReadSensors_wf _ hw
    · exact State.doSetCarveout_wf _ hw
    · exact State.smDone_wf _ hw

@[simp] theorem State.smEvent_wf {s : State} (port desc c : Nat) (hw : s.memoriesWf) :
    Out.wf (State.smEvent s port desc c) := by
  unfold State.smEvent
  refine Out.wf_ite trivial ?_
  split
  · trivial
  · exact Out.wf_ite (State.smcmd_wf _ _ hw) trivial

theorem execWriteImage_wf (port desc : Nat) {s : State} (hw : s.memoriesWf) :
    Out.wf (execWriteImage port desc s) := by
  simp (maxDischargeDepth := 40) [State.memoriesWf, execWriteImage, hw]

theorem execActivate_wf (port desc : Nat) {s : State} (hw : s.memoriesWf) :
    Out.wf (execActivate port desc s) := by
  simp (maxDischargeDepth := 40) [State.memoriesWf, execActivate, hw]

theorem execConfirm_wf (port desc : Nat) {s : State} (hw : s.memoriesWf) :
    Out.wf (execConfirm port desc s) := by
  exact Out.wf_ite (State.raiseCounter_wf hw) (State.smEvent_wf _ _ _ hw)

theorem execReadLog_wf (port desc : Nat) {s : State} (hw : s.memoriesWf) :
    Out.wf (execReadLog port desc s) := by
  simp (maxDischargeDepth := 40) [State.memoriesWf, execReadLog, hw]

theorem execSpdm_wf (port desc : Nat) {s : State} (hw : s.memoriesWf) :
    Out.wf (execSpdm port desc s) := by
  simp (maxDischargeDepth := 40) [State.memoriesWf, execSpdm, hw]

theorem execSetCert_wf (port desc : Nat) {s : State} (hw : s.memoriesWf) :
    Out.wf (execSetCert port desc s) := by
  simp (maxDischargeDepth := 40) [State.memoriesWf, execSetCert, hw]

theorem execReadSensors_wf (port desc : Nat) {s : State} (hw : s.memoriesWf) :
    Out.wf (execReadSensors port desc s) := by
  simp (maxDischargeDepth := 40) [State.memoriesWf, execReadSensors, hw]

theorem execSetCarveout_wf (port desc : Nat) {s : State} (hw : s.memoriesWf) :
    Out.wf (execSetCarveout port desc s) := by
  simp (maxDischargeDepth := 40) [State.memoriesWf, execSetCarveout, hw]

end Sys2Proof.Machine
end

