-- ==== Sys2Proof/Laws/Canon/Window.lean ====
section
/-! SUPPORT. The operations of Machine/Window.lean keep every memory in canonical form. -/

namespace Sys2Proof.Machine

set_option linter.unusedSimpArgs false
set_option linter.unusedVariables false

@[simp] theorem State.takeRange_wf {s : State} (p : Nat) (r : Nat × Nat) (hw : s.memoriesWf) :
    (s.takeRange p r).memoriesWf := by
  unfold State.takeRange
  extract_lets
  exact wf_ite hw ⟨Memory.wf_filter _ hw.1, hw.2⟩

@[simp] theorem State.takeClusters_wf {s : State} (q : Partition) (hw : s.memoriesWf) :
    (State.takeClusters s q).memoriesWf := by
  unfold State.takeClusters
  (repeat' (first | with_reducible assumption | (simp (maxDischargeDepth := 40) [State.memoriesWf, *]; done) | refine foldl_wf _ ?_ _ ?_ | intro _ | refine wf_ite ?_ ?_ | refine Out.wf_ite ?_ ?_ | refine wf_ite_fst ?_ ?_ | refine State.withRun_wf _ (by assumption) ?_ | refine State.uform_wf _ _ _ (by assumption) ?_ | refine State.vform_wf _ _ _ _ (by assumption) ?_ | refine State.ucommit_wf _ _ _ _ (by assumption) ?_ | refine State.vcommit_wf _ _ _ (by assumption) ?_ | extract_lets | split))

@[simp] theorem State.createPartition_wf {s : State} (p : Nat) (hw : s.memoriesWf) : (s.createPartition p).memoriesWf := by
  unfold State.createPartition
  extract_lets q s1 grant s2
  have h1 : s1.memoriesWf := foldl_wf _ (fun s r h => State.takeRange_wf _ _ h) _ hw
  exact ⟨h1.1, h1.2.1, Memory.wf_filter _ h1.2.2.1, h1.2.2.2⟩

@[simp] theorem State.dissolvePartition_wf {s : State} (p : Nat) (hw : s.memoriesWf) :
    (State.dissolvePartition s p).memoriesWf := by
  simp (maxDischargeDepth := 40) [State.memoriesWf, State.dissolvePartition, hw]

theorem State.writePctl_wf {s d : State} (p : Nat) (v : Word) (hw : s.memoriesWf) (hd : d.memoriesWf) :
    ((s.writePctl p v).getD d).memoriesWf := by
  unfold State.writePctl
  extract_lets q op act other s1
  have h1 : s1.memoriesWf := hw
  exact wf_ite_getD hd (wf_ite_getD (State.createPartition_wf _ h1) (wf_ite_getD (wf_ite_getD h1 hd) h1))

theorem State.writePriv_wf {s d : State} (p off : Nat) (v : Word) (hw : s.memoriesWf) (hd : d.memoriesWf) :
    ((s.writePriv p off v).getD d).memoriesWf := by
  unfold State.writePriv
  extract_lets q put r
  have hp : ∀ x, ((put x).getD d).memoriesWf := fun x => wf_ite_getD hd hw
  refine wf_ite_getD (State.writePctl_wf _ _ hw hd) ?_
  refine wf_ite_getD (hp _) (wf_ite_getD (hp _) (wf_ite_getD ?_ ?_))
  · extract_lets
    split
    · exact hp _
    · exact hp _
    · exact hp _
    · exact hw
  · exact wf_ite_getD (hp _) (wf_ite_getD (hp _) (wf_ite_getD (hp _) (wf_ite_getD hw (wf_ite_getD hw (wf_ite_getD hw hw)))))

@[simp] theorem State.doResolve_wf {s : State} (p : Nat) (hw : s.memoriesWf) :
    (State.doResolve s p).memoriesWf :=
  State.payOwed_wf (foldl_wf _ (fun _ _ h => State.supplyCore_wf _ (State.renew_wf _ _ h)) _
    ((State.setPartition_wf _ _ _).mpr hw))

@[simp] theorem State.doShoot_wf {s : State} (p va : Nat) (hw : s.memoriesWf) :
    (State.doShoot s p va).memoriesWf := by
  simp (maxDischargeDepth := 40) [State.memoriesWf, State.doShoot, hw]

@[simp] theorem State.dropLeaves_wf {s : State} (p va : Nat) (hw : s.memoriesWf) :
    (State.dropLeaves s p va).memoriesWf := by
  simp (maxDischargeDepth := 40) [State.memoriesWf, State.dropLeaves, hw]

theorem execShootdownComplete_wf (p : Nat) {s : State} (hw : s.memoriesWf) :
    Out.wf (execShootdownComplete p s) := by
  unfold execShootdownComplete
  (repeat' (first | with_reducible assumption | (simp (maxDischargeDepth := 40) [State.memoriesWf, *]; done) | refine foldl_wf _ ?_ _ ?_ | intro _ | refine wf_ite ?_ ?_ | refine Out.wf_ite ?_ ?_ | refine wf_ite_fst ?_ ?_ | refine State.withRun_wf _ (by assumption) ?_ | refine State.uform_wf _ _ _ (by assumption) ?_ | refine State.vform_wf _ _ _ _ (by assumption) ?_ | refine State.ucommit_wf _ _ _ _ (by assumption) ?_ | refine State.vcommit_wf _ _ _ (by assumption) ?_ | extract_lets | split))

@[simp] theorem State.deliverMail_wf {s : State} (p : Nat) (hw : s.memoriesWf) :
    (State.deliverMail s p).memoriesWf := by
  unfold State.deliverMail
  dsimp only
  (repeat' (first | with_reducible assumption | (simp (maxDischargeDepth := 40) [State.memoriesWf, *]; done) | refine foldl_wf _ ?_ _ ?_ | intro _ | refine wf_ite ?_ ?_ | refine Out.wf_ite ?_ ?_ | refine wf_ite_fst ?_ ?_ | refine State.withRun_wf _ (by assumption) ?_ | refine State.uform_wf _ _ _ (by assumption) ?_ | refine State.vform_wf _ _ _ _ (by assumption) ?_ | refine State.ucommit_wf _ _ _ _ (by assumption) ?_ | refine State.vcommit_wf _ _ _ (by assumption) ?_ | extract_lets | split))

theorem State.mailRecord_wf {s t : State} (p launch index grp : Nat) (e : Dword) (hw : s.memoriesWf)
    (h : s.mailRecord p launch index grp e = some t) : t.memoriesWf := by
  unfold State.mailRecord at h
  dsimp only at h
  split at h
  · cases h
  · cases h
    exact (State.setPartition_wf _ _ _).mpr (State.setBytes_wf _ _ hw)

theorem execMailboxOutRecord_wf (c g : Nat) {s : State} (hw : s.memoriesWf) :
    Out.wf (execMailboxOutRecord c g s) := by
  have hm := fun {t : State} p l i g e (h : s.mailRecord p l i g e = some t) => State.mailRecord_wf p l i g e hw h
  unfold execMailboxOutRecord
  refine Out.wf_ite ?_ ?_
  · split
    · trivial
    · refine Out.wf_ite trivial ?_
      split
      · trivial
      · rename_i h
        have h1 := hm _ _ _ _ _ h
        exact h1
  · (repeat' split) <;> first | trivial | skip
    rename_i h
    have h1 := hm _ _ _ _ _ h
    exact h1

@[simp] theorem State.writePart_wf {s : State} (w : Writer) (p off : Nat) (v : Word) (hw : s.memoriesWf) :
    (State.writePart s w p off v).memoriesWf := by
  unfold State.writePart
  dsimp only
  (repeat' (first | with_reducible assumption | (simp (maxDischargeDepth := 40) [State.memoriesWf, *]; done) | refine foldl_wf _ ?_ _ ?_ | intro _ | refine wf_ite ?_ ?_ | refine Out.wf_ite ?_ ?_ | refine wf_ite_fst ?_ ?_ | refine State.withRun_wf _ (by assumption) ?_ | refine State.uform_wf _ _ _ (by assumption) ?_ | refine State.vform_wf _ _ _ _ (by assumption) ?_ | refine State.ucommit_wf _ _ _ _ (by assumption) ?_ | refine State.vcommit_wf _ _ _ (by assumption) ?_ | extract_lets | split))

@[simp] theorem State.unbindIdle_wf {s : State} (i : Nat) (hw : s.memoriesWf) :
    (State.unbindIdle s i).memoriesWf := by
  unfold State.unbindIdle
  (repeat' (first | with_reducible assumption | (simp (maxDischargeDepth := 40) [State.memoriesWf, *]; done) | refine foldl_wf _ ?_ _ ?_ | intro _ | refine wf_ite ?_ ?_ | refine Out.wf_ite ?_ ?_ | refine wf_ite_fst ?_ ?_ | refine State.withRun_wf _ (by assumption) ?_ | refine State.uform_wf _ _ _ (by assumption) ?_ | refine State.vform_wf _ _ _ _ (by assumption) ?_ | refine State.ucommit_wf _ _ _ _ (by assumption) ?_ | refine State.vcommit_wf _ _ _ (by assumption) ?_ | extract_lets | split))

@[simp] theorem State.writeIfaceReg_wf {s : State} (i off : Nat) (v : Word) (hw : s.memoriesWf) :
    (State.writeIfaceReg s i off v).memoriesWf := by
  unfold State.writeIfaceReg
  (repeat' (first | with_reducible assumption | (simp (maxDischargeDepth := 40) [State.memoriesWf, *]; done) | refine foldl_wf _ ?_ _ ?_ | intro _ | refine wf_ite ?_ ?_ | refine Out.wf_ite ?_ ?_ | refine wf_ite_fst ?_ ?_ | refine State.withRun_wf _ (by assumption) ?_ | refine State.uform_wf _ _ _ (by assumption) ?_ | refine State.vform_wf _ _ _ _ (by assumption) ?_ | refine State.ucommit_wf _ _ _ _ (by assumption) ?_ | refine State.vcommit_wf _ _ _ (by assumption) ?_ | extract_lets | split))

@[simp] theorem State.writeIface_wf {s : State} (i off : Nat) (v : Word) (hw : s.memoriesWf) :
    (State.writeIface s i off v).memoriesWf := by
  simp (maxDischargeDepth := 40) [State.memoriesWf, State.writeIface, hw]

@[simp] theorem State.writeSem_wf {s : State} (port : Nat) (req : Bool) (hw : s.memoriesWf) :
    (State.writeSem s port req).memoriesWf := by
  unfold State.writeSem
  (repeat' (first | with_reducible assumption | (simp (maxDischargeDepth := 40) [State.memoriesWf, *]; done) | refine foldl_wf _ ?_ _ ?_ | intro _ | refine wf_ite ?_ ?_ | refine Out.wf_ite ?_ ?_ | refine wf_ite_fst ?_ ?_ | refine State.withRun_wf _ (by assumption) ?_ | refine State.uform_wf _ _ _ (by assumption) ?_ | refine State.vform_wf _ _ _ _ (by assumption) ?_ | refine State.ucommit_wf _ _ _ _ (by assumption) ?_ | refine State.vcommit_wf _ _ _ (by assumption) ?_ | extract_lets | split))

@[simp] theorem State.portWrite_wf {s : State} (port off : Nat) (v : Word) (hw : s.memoriesWf) :
    (s.portWrite port off v).memoriesWf := by
  have hb := State.answerBusy_wf (.port port) off hw
  unfold State.portWrite
  refine wf_ite hw ?_
  split
  · exact State.writeSem_wf _ _ hw
  · exact wf_ite hw (State.answerBusy_wf _ _ hw)
  · exact State.smcmd_wf _ _ hw
  · exact hw
  · exact wf_ite (wf_ite (State.writePriv_wf _ _ _ hw hb) hb) (State.writePart_wf _ _ _ _ hw)
  · exact State.writeIface_wf _ _ _ hw
  · exact State.writePort_wf _ _ _ _ hw
  · exact hw

@[simp] theorem State.coreWrite_wf {s : State} (p off : Nat) (v : Word) (hw : s.memoriesWf) :
    (State.coreWrite s p off v).memoriesWf := by
  unfold State.coreWrite
  (repeat' (first | with_reducible assumption | (simp (maxDischargeDepth := 40) [State.memoriesWf, *]; done) | refine foldl_wf _ ?_ _ ?_ | intro _ | refine wf_ite ?_ ?_ | refine Out.wf_ite ?_ ?_ | refine wf_ite_fst ?_ ?_ | refine State.withRun_wf _ (by assumption) ?_ | refine State.uform_wf _ _ _ (by assumption) ?_ | refine State.vform_wf _ _ _ _ (by assumption) ?_ | refine State.ucommit_wf _ _ _ _ (by assumption) ?_ | refine State.vcommit_wf _ _ _ (by assumption) ?_ | extract_lets | split))

@[simp] theorem State.writeWindow_wf {s : State} (w : Writer) (off width value : Nat) (hw : s.memoriesWf) :
    (s.writeWindow w off width value).memoriesWf := by
  unfold State.writeWindow
  extract_lets one s1
  have h1 : ∀ t o v, t.memoriesWf → (one t o v).memoriesWf := by
    intro t o v h
    cases w
    · exact State.portWrite_wf _ _ _ h
    · exact State.coreWrite_wf _ _ _ h
  exact wf_ite (wf_ite (h1 _ _ _ (h1 _ _ _ hw)) (h1 _ _ _ (h1 _ _ _ hw))) (h1 _ _ _ hw)

theorem execControlRegisterWrite_wf (w : Writer) (off width value : Nat) {s : State} (hw : s.memoriesWf) :
    Out.wf (execControlRegisterWrite w off width value s) := by
  unfold execControlRegisterWrite
  (repeat' split) <;> simp_all

theorem execIfcmdLock_wf (w : Writer) (i : Nat) {s : State} (hw : s.memoriesWf) :
    Out.wf (execIfcmdLock w i s) := by
  unfold execIfcmdLock
  (repeat' split) <;> simp_all

theorem execIfcmdStart_wf (w : Writer) (i : Nat) {s : State} (hw : s.memoriesWf) :
    Out.wf (execIfcmdStart w i s) := by
  unfold execIfcmdStart
  (repeat' split) <;> simp_all

theorem execIfcmdStop_wf (w : Writer) (i : Nat) {s : State} (hw : s.memoriesWf) :
    Out.wf (execIfcmdStop w i s) := by
  unfold execIfcmdStop
  (repeat' split) <;> simp_all

theorem execIfcmdNone_wf (w : Writer) (i : Nat) {s : State} (hw : s.memoriesWf) :
    Out.wf (execIfcmdNone w i s) := by
  unfold execIfcmdNone
  (repeat' split) <;> simp_all

theorem execDoorbell_wf (w : Writer) (i n : Nat) {s : State} (hw : s.memoriesWf) :
    Out.wf (execDoorbell w i n s) := by
  unfold execDoorbell
  (repeat' split) <;> simp_all

theorem execResolve_wf (w : Writer) (p : Nat) {s : State} (hw : s.memoriesWf) :
    Out.wf (execResolve w p s) := by
  unfold execResolve
  (repeat' split) <;> simp_all

theorem execShoot_wf (w : Writer) (p va : Nat) {s : State} (hw : s.memoriesWf) :
    Out.wf (execShoot w p va s) := by
  unfold execShoot
  (repeat' split) <;> simp_all

theorem execMboxinDeliver_wf (w : Writer) (p : Nat) {s : State} (hw : s.memoriesWf) :
    Out.wf (execMboxinDeliver w p s) := by
  unfold execMboxinDeliver
  (repeat' split) <;> simp_all

theorem execPrivsemTake_wf (port : Nat) {s : State} (hw : s.memoriesWf) :
    Out.wf (execPrivsemTake port s) := by
  unfold execPrivsemTake
  (repeat' (first | with_reducible assumption | (simp (maxDischargeDepth := 40) [State.memoriesWf, *]; done) | refine foldl_wf _ ?_ _ ?_ | intro _ | refine wf_ite ?_ ?_ | refine Out.wf_ite ?_ ?_ | refine wf_ite_fst ?_ ?_ | refine State.withRun_wf _ (by assumption) ?_ | refine State.uform_wf _ _ _ (by assumption) ?_ | refine State.vform_wf _ _ _ _ (by assumption) ?_ | refine State.ucommit_wf _ _ _ _ (by assumption) ?_ | refine State.vcommit_wf _ _ _ (by assumption) ?_ | extract_lets | split))

theorem execPrivsemGive_wf (port : Nat) {s : State} (hw : s.memoriesWf) :
    Out.wf (execPrivsemGive port s) := by
  unfold execPrivsemGive
  (repeat' (first | with_reducible assumption | (simp (maxDischargeDepth := 40) [State.memoriesWf, *]; done) | refine foldl_wf _ ?_ _ ?_ | intro _ | refine wf_ite ?_ ?_ | refine Out.wf_ite ?_ ?_ | refine wf_ite_fst ?_ ?_ | refine State.withRun_wf _ (by assumption) ?_ | refine State.uform_wf _ _ _ (by assumption) ?_ | refine State.vform_wf _ _ _ _ (by assumption) ?_ | refine State.ucommit_wf _ _ _ _ (by assumption) ?_ | refine State.vcommit_wf _ _ _ (by assumption) ?_ | extract_lets | split))

theorem execHostLinkDown_wf (port : Nat) {s : State} (hw : s.memoriesWf) :
    Out.wf (execHostLinkDown port s) := by
  unfold execHostLinkDown
  (repeat' (first | with_reducible assumption | (simp (maxDischargeDepth := 40) [State.memoriesWf, *]; done) | refine foldl_wf _ ?_ _ ?_ | intro _ | refine wf_ite ?_ ?_ | refine Out.wf_ite ?_ ?_ | refine wf_ite_fst ?_ ?_ | refine State.withRun_wf _ (by assumption) ?_ | refine State.uform_wf _ _ _ (by assumption) ?_ | refine State.vform_wf _ _ _ _ (by assumption) ?_ | refine State.ucommit_wf _ _ _ _ (by assumption) ?_ | refine State.vcommit_wf _ _ _ (by assumption) ?_ | extract_lets | split))

theorem execPartitionCreate_wf (port p : Nat) {s : State} (hw : s.memoriesWf) : Out.wf (execPartitionCreate port p s) :=
  Out.wf_ite trivial (State.portWrite_wf _ _ _ hw)

theorem execPartitionDissolve_wf (port p : Nat) {s : State} (hw : s.memoriesWf) : Out.wf (execPartitionDissolve port p s) :=
  Out.wf_ite trivial (State.portWrite_wf _ _ _ hw)

theorem execFaultRecordPost_wf (p : Nat) {s : State} (hw : s.memoriesWf) :
    Out.wf (execFaultRecordPost p s) := by
  unfold execFaultRecordPost
  (repeat' (first | with_reducible assumption | (simp (maxDischargeDepth := 40) [State.memoriesWf, *]; done) | refine foldl_wf _ ?_ _ ?_ | intro _ | refine wf_ite ?_ ?_ | refine Out.wf_ite ?_ ?_ | refine wf_ite_fst ?_ ?_ | refine State.withRun_wf _ (by assumption) ?_ | refine State.uform_wf _ _ _ (by assumption) ?_ | refine State.vform_wf _ _ _ _ (by assumption) ?_ | refine State.ucommit_wf _ _ _ _ (by assumption) ?_ | refine State.vcommit_wf _ _ _ (by assumption) ?_ | extract_lets | split))

@[simp] theorem State.drop_wf {s : State} (hw : s.memoriesWf) :
    (State.drop s).memoriesWf := by
  simp (maxDischargeDepth := 40) [State.memoriesWf, State.drop, hw]

@[simp] theorem State.hostPut_wf {s : State} (part i va : Nat) (bs : List Byte) (hw : s.memoriesWf) :
    (s.hostPut part i va bs).memoriesWf := by
  induction bs generalizing s va with
  | nil => exact hw
  | cons b bs ih =>
    simp only [State.hostPut]
    apply ih
    (repeat' split) <;> first | exact hw | exact State.setBytes_wf _ _ hw

@[simp] theorem State.answer_wf {s : State} (a : Answer) (hw : s.memoriesWf) :
    (State.answer s a).memoriesWf := by
  unfold State.answer
  (repeat' (first | with_reducible assumption | (simp (maxDischargeDepth := 40) [State.memoriesWf, *]; done) | refine foldl_wf _ ?_ _ ?_ | intro _ | refine wf_ite ?_ ?_ | refine Out.wf_ite ?_ ?_ | refine wf_ite_fst ?_ ?_ | refine State.withRun_wf _ (by assumption) ?_ | refine State.uform_wf _ _ _ (by assumption) ?_ | refine State.vform_wf _ _ _ _ (by assumption) ?_ | refine State.ucommit_wf _ _ _ _ (by assumption) ?_ | refine State.vcommit_wf _ _ _ (by assumption) ?_ | extract_lets | split))

theorem execHostMemoryAccess_wf (acc : HostAccess) {s : State} (hw : s.memoriesWf) :
    Out.wf (execHostMemoryAccess acc s) := by
  unfold execHostMemoryAccess
  refine Out.wf_ite hw ?_
  split
  · exact hw
  · extract_lets
    have h1 := fun i f => State.unbindIdle_wf i ((State.setIface_wf s i f).mpr hw)
    exact Out.wf_ite (wf_ite (h1 _ _) (State.answer_wf _ (h1 _ _)))
      (Out.wf_ite (State.reread_wf (State.hostPut_wf _ _ _ _ hw)) (State.answer_wf _ hw))

end Sys2Proof.Machine
end

