-- ==== Sys2Proof/Laws/Canon/LoadStore.lean ====
section
/-! SUPPORT. The operations of Machine/LoadStore.lean keep every memory in canonical form. -/

namespace Sys2Proof.Machine

set_option linter.unusedSimpArgs false
set_option linter.unusedVariables false

@[simp] theorem State.accessTrap_wf {s : State} (x : Ctx) (i : Instr) (f : Nat × Nat) (hw : s.memoriesWf) :
    (State.accessTrap s x i f).memoriesWf := by
  unfold State.accessTrap
  (repeat' (first | with_reducible assumption | (simp (maxDischargeDepth := 40) [State.memoriesWf, *]; done) | refine foldl_wf _ ?_ _ ?_ | intro _ | refine wf_ite ?_ ?_ | refine Out.wf_ite ?_ ?_ | refine wf_ite_fst ?_ ?_ | refine State.withRun_wf _ (by assumption) ?_ | refine State.uform_wf _ _ _ (by assumption) ?_ | refine State.vform_wf _ _ _ _ (by assumption) ?_ | refine State.ucommit_wf _ _ _ _ (by assumption) ?_ | refine State.vcommit_wf _ _ _ (by assumption) ?_ | extract_lets | split))

@[simp] theorem State.noteLanes_wf {s : State} (launch kind : Nat) (as : List LaneAcc) (hw : s.memoriesWf) :
    (State.noteLanes s launch kind as).memoriesWf := by
  unfold State.noteLanes
  (repeat' (first | with_reducible assumption | (simp (maxDischargeDepth := 40) [State.memoriesWf, *]; done) | refine foldl_wf _ ?_ _ ?_ | intro _ | refine wf_ite ?_ ?_ | refine Out.wf_ite ?_ ?_ | refine wf_ite_fst ?_ ?_ | refine State.withRun_wf _ (by assumption) ?_ | refine State.uform_wf _ _ _ (by assumption) ?_ | refine State.vform_wf _ _ _ _ (by assumption) ?_ | refine State.ucommit_wf _ _ _ _ (by assumption) ?_ | refine State.vcommit_wf _ _ _ (by assumption) ?_ | extract_lets | split))

@[simp] theorem State.cacheLanes_wf {s : State} (c launch : Nat) (as : List LaneAcc) (hw : s.memoriesWf) :
    (State.cacheLanes s c launch as).memoriesWf := by
  unfold State.cacheLanes
  (repeat' (first | with_reducible assumption | (simp (maxDischargeDepth := 40) [State.memoriesWf, *]; done) | refine foldl_wf _ ?_ _ ?_ | intro _ | refine wf_ite ?_ ?_ | refine Out.wf_ite ?_ ?_ | refine wf_ite_fst ?_ ?_ | refine State.withRun_wf _ (by assumption) ?_ | refine State.uform_wf _ _ _ (by assumption) ?_ | refine State.vform_wf _ _ _ _ (by assumption) ?_ | refine State.ucommit_wf _ _ _ _ (by assumption) ?_ | refine State.vcommit_wf _ _ _ (by assumption) ?_ | extract_lets | split))

@[simp] theorem State.issueLoads_wf {s : State} (x : Ctx) (e n : Bool) (d : Code) (size : Nat) (sg : Bool) (as : List LaneAcc) (hw : s.memoriesWf) :
    (State.issueLoads s x e n d size sg as).memoriesWf := by
  simp (maxDischargeDepth := 40) [State.memoriesWf, State.issueLoads, hw]

@[simp] theorem State.loadOp_wf {s : State} (i : Instr) (e n : Bool) (d ca : Code) (o : BitVec 8) (size : Nat) (sg : Bool)
    (hw : s.memoriesWf) : Out.wf (s.loadOp i e n d ca o size sg) := by
  unfold State.loadOp
  refine State.vform_wf _ _ _ _ hw fun x => ?_
  extract_lets
  split
  · exact State.accessTrap_wf _ _ _ hw
  · exact State.issueLoads_wf _ _ _ _ _ _ _ hw

theorem execLd8_wf (e n : Bool) (d ca : Code) (o : BitVec 8) {s : State} (hw : s.memoriesWf) : Out.wf (execLd8 e n d ca o s) :=
  State.loadOp_wf _ _ _ _ _ _ _ _ hw

theorem execLd8s_wf (e n : Bool) (d ca : Code) (o : BitVec 8) {s : State} (hw : s.memoriesWf) : Out.wf (execLd8s e n d ca o s) :=
  State.loadOp_wf _ _ _ _ _ _ _ _ hw

theorem execLd16_wf (e n : Bool) (d ca : Code) (o : BitVec 8) {s : State} (hw : s.memoriesWf) : Out.wf (execLd16 e n d ca o s) :=
  State.loadOp_wf _ _ _ _ _ _ _ _ hw

theorem execLd16s_wf (e n : Bool) (d ca : Code) (o : BitVec 8) {s : State} (hw : s.memoriesWf) : Out.wf (execLd16s e n d ca o s) :=
  State.loadOp_wf _ _ _ _ _ _ _ _ hw

theorem execLd32_wf (e n : Bool) (d ca : Code) (o : BitVec 8) {s : State} (hw : s.memoriesWf) : Out.wf (execLd32 e n d ca o s) :=
  State.loadOp_wf _ _ _ _ _ _ _ _ hw

theorem execLd64_wf (e n : Bool) (d ca : Code) (o : BitVec 8) {s : State} (hw : s.memoriesWf) : Out.wf (execLd64 e n d ca o s) :=
  State.loadOp_wf _ _ _ _ _ _ _ _ hw

theorem execLd128_wf (e n : Bool) (d ca : Code) (o : BitVec 8) {s : State} (hw : s.memoriesWf) : Out.wf (execLd128 e n d ca o s) :=
  State.loadOp_wf _ _ _ _ _ _ _ _ hw

@[simp] theorem State.loadWaits_wf {s : State} (c k : Nat) (r : LoadRec) (hw : s.memoriesWf) :
    (State.loadWaits s c k r).memoriesWf := by
  simp (maxDischargeDepth := 40) [State.memoriesWf, State.loadWaits, hw]

@[simp] theorem State.deliverVals_wf {s : State} (c : Nat) (slot : Nat) (vals : List (Nat × Nat × Word)) (hw : s.memoriesWf) :
    (State.deliverVals s c slot vals).memoriesWf := by
  unfold State.deliverVals
  (repeat' (first | with_reducible assumption | (simp (maxDischargeDepth := 40) [State.memoriesWf, *]; done) | refine foldl_wf _ ?_ _ ?_ | intro _ | refine wf_ite ?_ ?_ | refine Out.wf_ite ?_ ?_ | refine wf_ite_fst ?_ ?_ | refine State.withRun_wf _ (by assumption) ?_ | refine State.uform_wf _ _ _ (by assumption) ?_ | refine State.vform_wf _ _ _ _ (by assumption) ?_ | refine State.ucommit_wf _ _ _ _ (by assumption) ?_ | refine State.vcommit_wf _ _ _ (by assumption) ?_ | extract_lets | split))

@[simp] theorem State.serveLine_wf {s : State} (c : Nat) (r : LoadRec) (l : Loc) (cst stale : Bool) (hw : s.memoriesWf) :
    (s.serveLine c r l cst stale).1.memoriesWf := by
  unfold State.serveLine
  dsimp only
  refine wf_ite_fst hw ?_
  split
  · exact State.takeLoads_wf _ _ hw
  · exact (State.setCore_wf _ _ _).mpr hw

theorem execLoadReturn_wf (c : Nat) (ret : Bool) (k : Nat) (stale : Bool) {s : State} (hw : s.memoriesWf) :
    Out.wf (execLoadReturn c ret k stale s) := by
  have h0 := fun c k => (State.setCore_wf s c k).mpr hw
  unfold execLoadReturn
  dsimp only
  refine Out.wf_ite ?_ ?_
  · split
    · trivial
    · split
      · exact h0 _ _
      · exact Out.wf_ite trivial (State.putGroup_wf _ _ _ (h0 _ _))
  · split
    · trivial
    · split
      · exact h0 _ _
      · refine Out.wf_ite trivial ?_
        split
        · exact State.loadWaits_wf _ _ _ (State.noteFault_wf _ _ _ _ hw)
        · exact State.loadWaits_wf _ _ _ (State.noteFault_wf _ _ _ _ hw)
        · trivial
        · exact Out.wf_ite trivial (State.deliverVals_wf _ _ _ (State.touch_wf _ (State.loadFor_wf _ _ _ _ _ _
            (State.serveLine_wf _ _ _ _ _ (h0 _ _)))))

@[simp] theorem State.storeWindow_wf {s : State} (part size : Nat) (data : Nat → List Byte) (as : List LaneAcc)
    (hw : s.memoriesWf) : (s.storeWindow part size data as).memoriesWf := by
  induction as generalizing s with
  | nil => exact hw
  | cons a as ih =>
    unfold State.storeWindow
    refine ih ?_
    split
    · exact wf_ite hw (State.writeWindow_wf _ _ _ _ hw)
    · exact hw

@[simp] theorem State.issueStores_wf {s : State} (x : Ctx) (e : Bool) (size : Nat) (data : Nat → List Byte)
    (as logged : List LaneAcc) (hw : s.memoriesWf) : (s.issueStores x e size data as logged).memoriesWf := by
  unfold State.issueStores
  extract_lets s1 core entries s2 s3
  have h1 : s1.memoriesWf :=
    State.finish_wf _ _ _ _ (State.cacheLanes_wf _ _ _ (State.noteLanes_wf _ _ _ hw))
  clear_value s1
  have h2 : s2.memoriesWf := h1
  have h3 : s3.memoriesWf := by
    refine foldl_wf _ (fun s a h => ?_) _ h2
    split
    · exact State.issueStore_wf _ _ _ _ _ h
    · exact h
  exact State.storeWindow_wf _ _ _ _ h3

@[simp] theorem State.storeOp_wf {s : State} (i : Instr) (e : Bool) (use : Use) (ca : Code) (o : BitVec 8) (size : Nat)
    (data : Ctx → Nat → List Byte) (hw : s.memoriesWf) : Out.wf (s.storeOp i e use ca o size data) := by
  unfold State.storeOp
  refine State.vform_wf _ _ _ _ hw fun x => ?_
  extract_lets
  split
  · exact State.accessTrap_wf _ _ _ hw
  · split
    · exact State.trapPath_wf _ _ _ hw
    · exact State.issueStores_wf _ _ _ _ _ _ hw

theorem execSt8_wf (e : Bool) (d ca : Code) (o : BitVec 8) {s : State} (hw : s.memoriesWf) : Out.wf (execSt8 e d ca o s) :=
  State.storeOp_wf _ _ _ _ _ _ _ hw

theorem execSt16_wf (e : Bool) (d ca : Code) (o : BitVec 8) {s : State} (hw : s.memoriesWf) : Out.wf (execSt16 e d ca o s) :=
  State.storeOp_wf _ _ _ _ _ _ _ hw

theorem execSt32_wf (e : Bool) (d ca : Code) (o : BitVec 8) {s : State} (hw : s.memoriesWf) : Out.wf (execSt32 e d ca o s) :=
  State.storeOp_wf _ _ _ _ _ _ _ hw

theorem execSt64_wf (e : Bool) (d ca : Code) (o : BitVec 8) {s : State} (hw : s.memoriesWf) : Out.wf (execSt64 e d ca o s) :=
  State.storeOp_wf _ _ _ _ _ _ _ hw

theorem execSt128_wf (e : Bool) (d ca : Code) (o : BitVec 8) {s : State} (hw : s.memoriesWf) : Out.wf (execSt128 e d ca o s) :=
  State.storeOp_wf _ _ _ _ _ _ _ hw

theorem execStorePerform_wf (c k scope : Nat) {s : State} (hw : s.memoriesWf) :
    Out.wf (execStorePerform c k scope s) := by
  unfold execStorePerform
  (repeat' (first | with_reducible assumption | (simp (maxDischargeDepth := 40) [State.memoriesWf, *]; done) | refine foldl_wf _ ?_ _ ?_ | intro _ | refine wf_ite ?_ ?_ | refine Out.wf_ite ?_ ?_ | refine wf_ite_fst ?_ ?_ | refine State.withRun_wf _ (by assumption) ?_ | refine State.uform_wf _ _ _ (by assumption) ?_ | refine State.vform_wf _ _ _ _ (by assumption) ?_ | refine State.ucommit_wf _ _ _ _ (by assumption) ?_ | refine State.vcommit_wf _ _ _ (by assumption) ?_ | extract_lets | split))

@[simp] theorem State.applyAtom_wf {s : State} (c : Nat) (a : AtomRec) (l : Loc) (hw : s.memoriesWf) :
    (s.applyAtom c a l).memoriesWf := by
  unfold State.applyAtom
  extract_lets old
  split
  extract_lets s1 core live s2
  have h1 : s1.memoriesWf := State.setBytes_wf _ _ hw
  have h2 : s2.memoriesWf := h1
  exact State.reread_wf (State.touch_wf _ (foldl_wf _ (fun s p h => State.countEvents_wf _ _ _ h) _ h2))

@[simp] theorem State.atomAcquire_wf {s : State} (c : Nat) (a : AtomRec) (hw : s.memoriesWf) :
    (State.atomAcquire s c a).memoriesWf := by
  unfold State.atomAcquire
  (repeat' (first | with_reducible assumption | (simp (maxDischargeDepth := 40) [State.memoriesWf, *]; done) | refine foldl_wf _ ?_ _ ?_ | intro _ | refine wf_ite ?_ ?_ | refine Out.wf_ite ?_ ?_ | refine wf_ite_fst ?_ ?_ | refine State.withRun_wf _ (by assumption) ?_ | refine State.uform_wf _ _ _ (by assumption) ?_ | refine State.vform_wf _ _ _ _ (by assumption) ?_ | refine State.ucommit_wf _ _ _ _ (by assumption) ?_ | refine State.vcommit_wf _ _ _ (by assumption) ?_ | extract_lets | split))

@[simp] theorem State.issueAtoms_wf {s : State} (x : Ctx) (aop : Nat) (n : Bool) (d : Code) (sc r : Nat) (as logged : List LaneAcc) (hw : s.memoriesWf) :
    (State.issueAtoms s x aop n d sc r as logged).memoriesWf := by
  unfold State.issueAtoms
  (repeat' (first | with_reducible assumption | (simp (maxDischargeDepth := 40) [State.memoriesWf, *]; done) | refine foldl_wf _ ?_ _ ?_ | intro _ | refine wf_ite ?_ ?_ | refine Out.wf_ite ?_ ?_ | refine wf_ite_fst ?_ ?_ | refine State.withRun_wf _ (by assumption) ?_ | refine State.uform_wf _ _ _ (by assumption) ?_ | refine State.vform_wf _ _ _ _ (by assumption) ?_ | refine State.ucommit_wf _ _ _ _ (by assumption) ?_ | refine State.vcommit_wf _ _ _ (by assumption) ?_ | extract_lets | split))

@[simp] theorem State.atomOp_wf {s : State} (i : Instr) (aop : Nat) (n : Bool) (d ca : Code) (sc r : BitVec 2)
    (hw : s.memoriesWf) : Out.wf (s.atomOp i aop n d ca sc r) := by
  unfold State.atomOp
  refine State.vcommit_wf _ _ _ hw fun x => ?_
  extract_lets
  split
  · exact State.accessTrap_wf _ _ _ hw
  · split
    · exact State.trapPath_wf _ _ _ hw
    · exact State.issueAtoms_wf _ _ _ _ _ _ _ _ hw

theorem execAadd_wf (n : Bool) (d ca : Code) (sc r : BitVec 2) {s : State} (hw : s.memoriesWf) :
    Out.wf (execAadd n d ca sc r s) := State.atomOp_wf _ _ _ _ _ _ _ hw

theorem execAaddf_wf (n : Bool) (d ca : Code) (sc r : BitVec 2) {s : State} (hw : s.memoriesWf) :
    Out.wf (execAaddf n d ca sc r s) := State.atomOp_wf _ _ _ _ _ _ _ hw

theorem execAaddb2_wf (n : Bool) (d ca : Code) (sc r : BitVec 2) {s : State} (hw : s.memoriesWf) :
    Out.wf (execAaddb2 n d ca sc r s) := State.atomOp_wf _ _ _ _ _ _ _ hw

theorem execAmin_wf (n : Bool) (d ca : Code) (sc r : BitVec 2) {s : State} (hw : s.memoriesWf) :
    Out.wf (execAmin n d ca sc r s) := State.atomOp_wf _ _ _ _ _ _ _ hw

theorem execAmax_wf (n : Bool) (d ca : Code) (sc r : BitVec 2) {s : State} (hw : s.memoriesWf) :
    Out.wf (execAmax n d ca sc r s) := State.atomOp_wf _ _ _ _ _ _ _ hw

theorem execAminn_wf (n : Bool) (d ca : Code) (sc r : BitVec 2) {s : State} (hw : s.memoriesWf) :
    Out.wf (execAminn n d ca sc r s) := State.atomOp_wf _ _ _ _ _ _ _ hw

theorem execAmaxn_wf (n : Bool) (d ca : Code) (sc r : BitVec 2) {s : State} (hw : s.memoriesWf) :
    Out.wf (execAmaxn n d ca sc r s) := State.atomOp_wf _ _ _ _ _ _ _ hw

theorem execAand_wf (n : Bool) (d ca : Code) (sc r : BitVec 2) {s : State} (hw : s.memoriesWf) :
    Out.wf (execAand n d ca sc r s) := State.atomOp_wf _ _ _ _ _ _ _ hw

theorem execAor_wf (n : Bool) (d ca : Code) (sc r : BitVec 2) {s : State} (hw : s.memoriesWf) :
    Out.wf (execAor n d ca sc r s) := State.atomOp_wf _ _ _ _ _ _ _ hw

theorem execAxor_wf (n : Bool) (d ca : Code) (sc r : BitVec 2) {s : State} (hw : s.memoriesWf) :
    Out.wf (execAxor n d ca sc r s) := State.atomOp_wf _ _ _ _ _ _ _ hw

theorem execAxch_wf (n : Bool) (d ca : Code) (sc r : BitVec 2) {s : State} (hw : s.memoriesWf) :
    Out.wf (execAxch n d ca sc r s) := State.atomOp_wf _ _ _ _ _ _ _ hw

theorem execAcas_wf (n : Bool) (d ca : Code) (sc r : BitVec 2) {s : State} (hw : s.memoriesWf) :
    Out.wf (execAcas n d ca sc r s) := State.atomOp_wf _ _ _ _ _ _ _ hw

theorem execAaddx_wf (n : Bool) (d ca : Code) (sc r : BitVec 2) {s : State} (hw : s.memoriesWf) :
    Out.wf (execAaddx n d ca sc r s) := State.atomOp_wf _ _ _ _ _ _ _ hw

theorem execAxchx_wf (n : Bool) (d ca : Code) (sc r : BitVec 2) {s : State} (hw : s.memoriesWf) :
    Out.wf (execAxchx n d ca sc r s) := State.atomOp_wf _ _ _ _ _ _ _ hw

theorem execAcasx_wf (n : Bool) (d ca : Code) (sc r : BitVec 2) {s : State} (hw : s.memoriesWf) :
    Out.wf (execAcasx n d ca sc r s) := State.atomOp_wf _ _ _ _ _ _ _ hw

theorem execAtomicPerform_wf (c k : Nat) {s : State} (hw : s.memoriesWf) : Out.wf (execAtomicPerform c k s) := by
  unfold execAtomicPerform
  extract_lets core
  split
  · trivial
  · extract_lets hold
    refine Out.wf_ite trivial ?_
    split
    · exact State.noteFault_wf _ _ _ _ hw
    · exact State.noteFault_wf _ _ _ _ hw
    · trivial
    · refine Out.wf_ite trivial ?_
      exact State.renew_wf _ _ (State.wakeJumps_wf _ (State.atomAcquire_wf _ _
        (State.applyAtom_wf (s := State.setCore s _ _) _ _ _ hw)))

@[simp] theorem State.replayWrite_wf {s : State} (c : Nat) (e : SideEntry) (w : Nat × List Byte) (hw : s.memoriesWf) :
    (State.replayWrite s c e w).memoriesWf := by
  unfold State.replayWrite
  split
  · extract_lets s1 k
    have h1 : s1.memoriesWf := State.touch_wf _ (wf_ite (State.setBytes_wf _ _ hw) hw)
    exact h1
  · exact hw

@[simp] theorem State.replayAtom_wf {s : State} (c : Nat) (e : SideEntry) (a : AtomRec) (hw : s.memoriesWf) :
    (s.replayAtom c e a).memoriesWf := by
  unfold State.replayAtom
  split
  · exact State.atomAcquire_wf _ _ (State.applyAtom_wf _ _ _ hw)
  · exact hw

theorem execSideLogReplay_wf (c k : Nat) {s : State} (hw : s.memoriesWf) : Out.wf (execSideLogReplay c k s) := by
  unfold execSideLogReplay
  extract_lets core
  split
  · trivial
  · extract_lets hold
    refine Out.wf_ite trivial ?_
    split
    · exact State.noteFault_wf _ _ _ _ hw
    · exact State.noteFault_wf _ _ _ _ hw
    · refine Out.wf_ite trivial (State.renew_wf _ _ (State.wakeJumps_wf _ (State.supplyCore_wf _ (State.reread_wf ?_))))
      exact foldl_wf _ (fun s w h => State.replayAtom_wf _ _ _ h) _
        (foldl_wf _ (fun s w h => State.replayWrite_wf _ _ _ h) _ hw)

@[simp] theorem State.markReady_wf {s : State} (why : ReleaseFor) (hw : s.memoriesWf) :
    (State.markReady s why).memoriesWf := by
  unfold State.markReady
  (repeat' (first | with_reducible assumption | (simp (maxDischargeDepth := 40) [State.memoriesWf, *]; done) | refine foldl_wf _ ?_ _ ?_ | intro _ | refine wf_ite ?_ ?_ | refine Out.wf_ite ?_ ?_ | refine wf_ite_fst ?_ ?_ | refine State.withRun_wf _ (by assumption) ?_ | refine State.uform_wf _ _ _ (by assumption) ?_ | refine State.vform_wf _ _ _ _ (by assumption) ?_ | refine State.ucommit_wf _ _ _ _ (by assumption) ?_ | refine State.vcommit_wf _ _ _ (by assumption) ?_ | extract_lets | split))

theorem execReleaseComplete_wf (c k : Nat) {s : State} (hw : s.memoriesWf) :
    Out.wf (execReleaseComplete c k s) := by
  unfold execReleaseComplete
  dsimp only
  (repeat' (first | with_reducible assumption | (simp (maxDischargeDepth := 40) [State.memoriesWf, *]; done) | refine foldl_wf _ ?_ _ ?_ | intro _ | refine wf_ite ?_ ?_ | refine Out.wf_ite ?_ ?_ | refine wf_ite_fst ?_ ?_ | refine State.withRun_wf _ (by assumption) ?_ | refine State.uform_wf _ _ _ (by assumption) ?_ | refine State.vform_wf _ _ _ _ (by assumption) ?_ | refine State.ucommit_wf _ _ _ _ (by assumption) ?_ | refine State.vcommit_wf _ _ _ (by assumption) ?_ | extract_lets | split))

@[simp] theorem State.prefetch_wf {s : State} (c hint : Nat) (l : Loc) (hw : s.memoriesWf) :
    (State.prefetch s c hint l).memoriesWf := by
  unfold State.prefetch
  (repeat' (first | with_reducible assumption | (simp (maxDischargeDepth := 40) [State.memoriesWf, *]; done) | refine foldl_wf _ ?_ _ ?_ | intro _ | refine wf_ite ?_ ?_ | refine Out.wf_ite ?_ ?_ | refine wf_ite_fst ?_ ?_ | refine State.withRun_wf _ (by assumption) ?_ | refine State.uform_wf _ _ _ (by assumption) ?_ | refine State.vform_wf _ _ _ _ (by assumption) ?_ | refine State.ucommit_wf _ _ _ _ (by assumption) ?_ | refine State.vcommit_wf _ _ _ (by assumption) ?_ | extract_lets | split))

@[simp] theorem State.prefetchOp_wf {s : State} (i : Instr) (e : Bool) (ca : Code) (o : BitVec 8) (hint : Nat) (hw : s.memoriesWf) :
    Out.wf (State.prefetchOp s i e ca o hint) := by
  unfold State.prefetchOp
  (repeat' (first | with_reducible assumption | (simp (maxDischargeDepth := 40) [State.memoriesWf, *]; done) | refine foldl_wf _ ?_ _ ?_ | intro _ | refine wf_ite ?_ ?_ | refine Out.wf_ite ?_ ?_ | refine wf_ite_fst ?_ ?_ | refine State.withRun_wf _ (by assumption) ?_ | refine State.uform_wf _ _ _ (by assumption) ?_ | refine State.vform_wf _ _ _ _ (by assumption) ?_ | refine State.ucommit_wf _ _ _ _ (by assumption) ?_ | refine State.vcommit_wf _ _ _ (by assumption) ?_ | extract_lets | split))

theorem execPfNormal_wf (e : Bool) (ca : Code) (o : BitVec 8) {s : State} (hw : s.memoriesWf) :
    Out.wf (execPfNormal e ca o s) := by
  simp (maxDischargeDepth := 40) [State.memoriesWf, execPfNormal, hw]

theorem execPfEvictFirst_wf (e : Bool) (ca : Code) (o : BitVec 8) {s : State} (hw : s.memoriesWf) :
    Out.wf (execPfEvictFirst e ca o s) := by
  simp (maxDischargeDepth := 40) [State.memoriesWf, execPfEvictFirst, hw]

theorem execPfEvictLast_wf (e : Bool) (ca : Code) (o : BitVec 8) {s : State} (hw : s.memoriesWf) :
    Out.wf (execPfEvictLast e ca o s) := by
  simp (maxDischargeDepth := 40) [State.memoriesWf, execPfEvictLast, hw]

theorem execPfLlcOnly_wf (e : Bool) (ca : Code) (o : BitVec 8) {s : State} (hw : s.memoriesWf) :
    Out.wf (execPfLlcOnly e ca o s) := by
  simp (maxDischargeDepth := 40) [State.memoriesWf, execPfLlcOnly, hw]

theorem execPeerAccess_wf (acc : PeerAccess) {s : State} (hw : s.memoriesWf) :
    Out.wf (execPeerAccess acc s) := by
  unfold execPeerAccess
  extract_lets
  refine Out.wf_ite trivial (Out.wf_ite (wf_ite (State.answer_wf _ hw) hw) ?_)
  split
  · extract_lets
    exact State.answer_wf _ (State.touch_wf _ (State.setBytes_wf _ _ hw))
  · exact Out.wf_ite (State.touch_wf _ (State.setBytes_wf _ _ hw)) (State.answer_wf _ (State.touch_wf _ hw))

end Sys2Proof.Machine
end

