-- ==== Sys2Proof/Laws/Canon/Stitch.lean ====
section
/-! SUPPORT. The operations of Machine/Stitch.lean keep every memory in canonical form. -/

namespace Sys2Proof.Machine

set_option linter.unusedSimpArgs false
set_option linter.unusedVariables false

theorem execStad_wf (e n : Bool) (d ca cb : Code) {s : State} (hw : s.memoriesWf) : Out.wf (execStad e n d ca cb s) := by
  unfold execStad
  refine State.vform_wf _ _ _ _ hw fun x => ?_
  extract_lets
  split
  · exact State.trapPath_wf _ _ _ hw
  · split
    · exact State.noteUnit_wf _ _ _ hw
    · split
      · exact State.trapPath_wf _ _ _ hw
      · exact State.finish_wf _ _ _ _ hw

theorem execSplice_wf (n : Bool) (d ca cb : Code) {s : State} (hw : s.memoriesWf) :
    Out.wf (execSplice n d ca cb s) := by
  simp (maxDischargeDepth := 40) [State.memoriesWf, execSplice, hw]

theorem execPin_wf (n : Bool) (d ca : Code) {s : State} (hw : s.memoriesWf) :
    Out.wf (execPin n d ca s) := by
  simp (maxDischargeDepth := 40) [State.memoriesWf, execPin, hw]

theorem execUnpin_wf (n : Bool) (d ca : Code) {s : State} (hw : s.memoriesWf) : Out.wf (execUnpin n d ca s) := by
  unfold execUnpin
  refine State.ucommit_wf _ _ _ _ hw fun x => ?_
  extract_lets slot
  split
  · exact State.trapPath_wf _ _ _ hw
  · refine State.askManager_wf (s := State.setCore _ _ _) _ _ _ _ ?_
    exact State.finishCommit_wf x (x.awaits d n) hw

@[simp] theorem State.answerConsist_wf {s : State} (k : Nat) (r : ConsistReq) (v : Word) (hw : s.memoriesWf) :
    (State.answerConsist s k r v).memoriesWf := by
  unfold State.answerConsist
  dsimp only
  (repeat' (first | with_reducible assumption | (simp (maxDischargeDepth := 40) [State.memoriesWf, *]; done) | refine foldl_wf _ ?_ _ ?_ | intro _ | refine wf_ite ?_ ?_ | refine Out.wf_ite ?_ ?_ | refine wf_ite_fst ?_ ?_ | refine State.withRun_wf _ (by assumption) ?_ | refine State.uform_wf _ _ _ (by assumption) ?_ | refine State.vform_wf _ _ _ _ (by assumption) ?_ | refine State.ucommit_wf _ _ _ _ (by assumption) ?_ | refine State.vcommit_wf _ _ _ (by assumption) ?_ | extract_lets | split))

@[simp] theorem State.spliceAt_wf {s : State} (k : Nat) (r : ConsistReq) (d : SpliceDesc) (list : List Byte)
    (hw : s.memoriesWf) : Out.wf (s.spliceAt k r d list) := by
  rw [State.spliceAt]
  generalize pieceList list d.count = p
  generalize (s.headerGot r.who r.header fun k => s.spliceNeed k d.row d.remove d.count) = q
  cases q with
  | waits v => exact State.waitPage_wf _ _ _ hw
  | held => trivial
  | refused => exact State.answerConsist_wf _ _ _ hw
  | key h area =>
    dsimp only
    generalize hr : ((s.hasRead r.who (BitVec.ofNat 64 r.desc) 32).hasRead r.who d.list (16 * d.count)).hasRead r.who
      (BitVec.ofNat 64 r.header) 64 = t
    have ht : t.memoriesWf := by
      rw [← hr]
      exact State.hasRead_wf _ _ _ (State.hasRead_wf _ _ _ (State.hasRead_wf _ _ _ hw))
    have h1 := State.splice_wf h area d.row d.remove d.expect p.1 p.2 (r.launch, r.block, r.grp) ht
    generalize t.splice h area d.row d.remove d.expect p.1 p.2 (r.launch, r.block, r.grp) = x at h1 ⊢
    exact State.answerConsist_wf _ _ _ h1

theorem execSplicePerform_wf (k : Nat) {s : State} (hw : s.memoriesWf) : Out.wf (execSplicePerform k s) := by
  unfold execSplicePerform
  split
  · trivial
  · refine Out.wf_ite trivial ?_
    split
    · trivial
    · exact State.waitPage_wf _ _ _ hw
    · exact State.answerConsist_wf _ _ _ hw
    · extract_lets
      refine Out.wf_ite (State.answerConsist_wf _ _ _ hw) ?_
      split
      · trivial
      · exact State.waitPage_wf _ _ _ hw
      · exact State.answerConsist_wf _ _ _ hw
      · exact State.spliceAt_wf _ _ _ _ hw

@[simp] theorem State.setPin_wf {s : State} (r : ConsistReq) (p : Option Pin) (hw : s.memoriesWf) :
    (State.setPin s r p).memoriesWf := by
  simp (maxDischargeDepth := 40) [State.memoriesWf, State.setPin, hw]

theorem execPinPerform_wf (k : Nat) {s : State} (hw : s.memoriesWf) : Out.wf (execPinPerform k s) := by
  unfold execPinPerform
  split
  · trivial
  · extract_lets bad
    have hb : ∀ t : State, t.memoriesWf → (bad t).memoriesWf := fun t h => State.answerConsist_wf _ _ _ (State.setPin_wf _ _ h)
    refine Out.wf_ite trivial (Out.wf_ite hw ?_)
    split
    · exact State.waitPage_wf _ _ _ hw
    · trivial
    · exact hb _ hw
    · rename_i h area _
      have hp := State.pinCurrent_wf h area hw
      split <;> rename_i heq <;> rw [heq] at hp
      · exact hb _ hp
      · exact State.answerConsist_wf _ _ _ (State.acquire_wf _ (State.setPin_wf _ _ hp))

theorem execUnpinPerform_wf (k : Nat) {s : State} (hw : s.memoriesWf) : Out.wf (execUnpinPerform k s) := by
  unfold execUnpinPerform
  split
  · trivial
  · refine Out.wf_ite trivial ?_
    split
    · exact State.waitPage_wf _ _ _ hw
    · trivial
    · exact State.answerConsist_wf _ _ _ hw
    · rename_i r _ h area _
      exact State.answerConsist_wf _ _ _ (State.unpin_wf h _ area hw)

theorem execReclaimRecordDelivery_wf (k : Nat) {s : State} (hw : s.memoriesWf) :
    Out.wf (execReclaimRecordDelivery k s) := by
  unfold execReclaimRecordDelivery
  split
  · trivial
  · split
    · trivial
    · exact State.layWord_wf _ _ ((State.setGroup_wf _ _ _ _).mpr (State.setConsist_wf _ _ hw))

end Sys2Proof.Machine
end

