-- ==== Sys2Proof/Laws/Canon/Engine.lean ====
section
/-! SUPPORT. The operations of Machine/Engine.lean keep every memory in canonical form. -/

namespace Sys2Proof.Machine

set_option linter.unusedSimpArgs false
set_option linter.unusedVariables false

@[simp] theorem State.engineWrite_wf {s : State} (w : Who) (fuel : Nat) (a : Dword) (bs : List Byte) (hw : s.memoriesWf) :
    (s.engineWrite w fuel a bs).1.memoriesWf := by
  induction fuel generalizing s a bs with
  | zero => exact hw
  | succ n ih =>
    unfold State.engineWrite
    refine wf_ite_fst hw ?_
    dsimp only
    refine ih _ _ ?_
    split
    · have h1 := fun l => State.settleStores_wf w.core l (pieceLen a bs.length) hw
      exact State.touch_wf _ (wf_ite (State.setBytes_wf _ _ (h1 _)) (h1 _))
    · exact hw

@[simp] theorem State.hasReadAll_wf {s : State} (w : Who) (rs : List (Dword × Nat)) (hw : s.memoriesWf) :
    (State.hasReadAll s w rs).memoriesWf := foldl_wf _ (fun _ _ h => State.hasRead_wf _ _ _ h) _ hw

@[simp] theorem State.countMany_wf {s : State} (launch fmt ev n : Nat) (hw : s.memoriesWf) :
    (s.countMany launch fmt ev n).memoriesWf := by
  induction n generalizing s with
  | zero => exact hw
  | succ n ih => exact ih (State.countEvents_wf _ _ _ hw)

end Sys2Proof.Machine
end

