-- ==== Sys2Proof/Laws/Canon/Matrix.lean ====
section
/-! SUPPORT. The operations of Machine/Matrix.lean keep every memory in canonical form. -/

namespace Sys2Proof.Machine

set_option linter.unusedSimpArgs false
set_option linter.unusedVariables false

@[simp] theorem State.noteBlockWait_wf {s : State} (c q n : Nat) (hw : s.memoriesWf) :
    Out.wf (State.noteBlockWait s c q n) := by
  unfold State.noteBlockWait
  (repeat' (first | with_reducible assumption | (simp (maxDischargeDepth := 40) [State.memoriesWf, *]; done) | refine foldl_wf _ ?_ _ ?_ | intro _ | refine wf_ite ?_ ?_ | refine Out.wf_ite ?_ ?_ | refine wf_ite_fst ?_ ?_ | refine State.withRun_wf _ (by assumption) ?_ | refine State.uform_wf _ _ _ (by assumption) ?_ | refine State.vform_wf _ _ _ _ (by assumption) ?_ | refine State.ucommit_wf _ _ _ _ (by assumption) ?_ | refine State.vcommit_wf _ _ _ (by assumption) ?_ | extract_lets | split))

@[simp] theorem State.mxTake_wf {s : State} (c g : Nat) (x : Group) (got : Got) (hw : s.memoriesWf) :
    (State.mxTake s c g x got).memoriesWf := by
  unfold State.mxTake
  dsimp only
  (repeat' (first | with_reducible assumption | (simp (maxDischargeDepth := 40) [State.memoriesWf, *]; done) | refine foldl_wf _ ?_ _ ?_ | intro _ | refine wf_ite ?_ ?_ | refine Out.wf_ite ?_ ?_ | refine wf_ite_fst ?_ ?_ | refine State.withRun_wf _ (by assumption) ?_ | refine State.uform_wf _ _ _ (by assumption) ?_ | refine State.vform_wf _ _ _ _ (by assumption) ?_ | refine State.ucommit_wf _ _ _ _ (by assumption) ?_ | refine State.vcommit_wf _ _ _ (by assumption) ?_ | extract_lets | split))

theorem execMxAccept_wf (c : Nat) {s : State} (hw : s.memoriesWf) :
    Out.wf (execMxAccept c s) := by
  unfold execMxAccept
  (repeat' (first | with_reducible assumption | (simp (maxDischargeDepth := 40) [State.memoriesWf, *]; done) | refine foldl_wf _ ?_ _ ?_ | intro _ | refine wf_ite ?_ ?_ | refine Out.wf_ite ?_ ?_ | refine wf_ite_fst ?_ ?_ | refine State.withRun_wf _ (by assumption) ?_ | refine State.uform_wf _ _ _ (by assumption) ?_ | refine State.vform_wf _ _ _ _ (by assumption) ?_ | refine State.ucommit_wf _ _ _ _ (by assumption) ?_ | refine State.vcommit_wf _ _ _ (by assumption) ?_ | extract_lets | split))

theorem execMxStart_wf (c k : Nat) {s : State} (hw : s.memoriesWf) :
    Out.wf (execMxStart c k s) := by
  unfold execMxStart
  (repeat' (first | with_reducible assumption | (simp (maxDischargeDepth := 40) [State.memoriesWf, *]; done) | refine foldl_wf _ ?_ _ ?_ | intro _ | refine wf_ite ?_ ?_ | refine Out.wf_ite ?_ ?_ | refine wf_ite_fst ?_ ?_ | refine State.withRun_wf _ (by assumption) ?_ | refine State.uform_wf _ _ _ (by assumption) ?_ | refine State.vform_wf _ _ _ _ (by assumption) ?_ | refine State.ucommit_wf _ _ _ _ (by assumption) ?_ | refine State.vcommit_wf _ _ _ (by assumption) ?_ | extract_lets | split))

@[simp] theorem State.writeRows_wf {s : State} (w : Who) (launch fmt : Nat) (img : Option Mem) (as : List Dword)
    (xs : List Word) (hw : s.memoriesWf) : (s.writeRows w launch fmt img as xs).1.memoriesWf := by
  induction as generalizing s xs with
  | nil => exact hw
  | cons a as ih =>
    unfold State.writeRows
    generalize outRow fmt img (xs.take 64) = p
    obtain ⟨bs, e1, e2⟩ := p
    dsimp only
    exact ih _ (State.engineWrite_wf _ _ _ _ (State.countEvents_wf _ _ _ (State.countEvents_wf _ _ _ hw)))

@[simp] theorem State.mxFinish_wf {s : State} (c k : Nat) (cmd : MxCmd) (bs : List Byte) (hw : s.memoriesWf) :
    (s.mxFinish c k cmd bs).memoriesWf := by
  unfold State.mxFinish
  extract_lets m d tile
  generalize m.product cmd.fmt d _ = p
  obtain ⟨xs, ev⟩ := p
  dsimp only
  have h2 : (((s.setBytes tile (xs.flatMap fun x => leBytes x.toNat 4)).countEvents cmd.launch 0 ev).countMany
      cmd.launch 3 0 d.reserved).memoriesWf := State.countMany_wf _ _ _ _ (State.countEvents_wf _ _ _ (State.setBytes_wf _ _ hw))
  refine State.reread_wf (State.post_wf (s := State.setCore _ _ _) _ _ _ _ _ _ ?_)
  exact wf_ite_fst (State.writeRows_wf _ _ _ _ _ _ h2) h2

theorem execMxCommandComplete_wf (c k : Nat) {s : State} (hw : s.memoriesWf) : Out.wf (execMxCommandComplete c k s) := by
  unfold execMxCommandComplete
  split
  · trivial
  · refine Out.wf_ite trivial ?_
    split
    · exact State.waitPage_wf _ _ _ hw
    · exact Out.wf_ite trivial (State.mxFinish_wf _ _ _ _ hw)

end Sys2Proof.Machine
end

