-- ==== Sys2Proof/Laws/Canon/Analogue.lean ====
section
/-! SUPPORT. The operations of Machine/Analogue.lean keep every memory in canonical form. -/

namespace Sys2Proof.Machine

set_option linter.unusedSimpArgs false
set_option linter.unusedVariables false

@[simp] theorem State.aeTake_wf {s : State} (c g : Nat) (x : Group) (got : Got) (hw : s.memoriesWf) :
    (State.aeTake s c g x got).memoriesWf := by
  unfold State.aeTake
  generalize x.takeHead 2 = p
  obtain ⟨h0, u, f⟩ := p
  dsimp -zeta only
  extract_lets _ _ _ _ _ _ verdict _ base s1 add
  have h1 : s1.memoriesWf := (State.setGroup_wf _ _ _ _).mpr (State.hasRead_wf _ _ _ hw)
  have ha : ∀ (t : State) a, t.memoriesWf → (add t a).memoriesWf := fun t a ht => ht
  clear_value s1 add verdict
  split
  · exact State.endBlock_wf _ (State.flushAes_wf _ (ha _ _ h1))
  · exact State.endBlock_wf _ ((State.setDie_wf _ _ _).mpr (ha _ _ (State.hasReadAll_wf _ _ h1)))

theorem execAeAccept_wf (c : Nat) {s : State} (hw : s.memoriesWf) :
    Out.wf (execAeAccept c s) := by
  unfold execAeAccept
  (repeat' (first | with_reducible assumption | (simp (maxDischargeDepth := 40) [State.memoriesWf, *]; done) | refine foldl_wf _ ?_ _ ?_ | intro _ | refine wf_ite ?_ ?_ | refine Out.wf_ite ?_ ?_ | refine wf_ite_fst ?_ ?_ | refine State.withRun_wf _ (by assumption) ?_ | refine State.uform_wf _ _ _ (by assumption) ?_ | refine State.vform_wf _ _ _ _ (by assumption) ?_ | refine State.ucommit_wf _ _ _ _ (by assumption) ?_ | refine State.vcommit_wf _ _ _ (by assumption) ?_ | extract_lets | split))

@[simp] theorem State.setAe_wf {s : State} (c k : Nat) (m : AeCmd) (hw : s.memoriesWf) :
    (State.setAe s c k m).memoriesWf := by
  simp (maxDischargeDepth := 40) [State.memoriesWf, State.setAe, hw]

theorem execArrayOperationStart_wf (die : Nat) {s : State} (hw : s.memoriesWf) :
    Out.wf (execArrayOperationStart die s) := by
  unfold execArrayOperationStart
  (repeat' (first | with_reducible assumption | (simp (maxDischargeDepth := 40) [State.memoriesWf, *]; done) | refine foldl_wf _ ?_ _ ?_ | intro _ | refine wf_ite ?_ ?_ | refine Out.wf_ite ?_ ?_ | refine wf_ite_fst ?_ ?_ | refine State.withRun_wf _ (by assumption) ?_ | refine State.uform_wf _ _ _ (by assumption) ?_ | refine State.vform_wf _ _ _ _ (by assumption) ?_ | refine State.ucommit_wf _ _ _ _ (by assumption) ?_ | refine State.vcommit_wf _ _ _ (by assumption) ?_ | extract_lets | split))

theorem execArrayOperationComplete_wf (die k : Nat) {s : State} (hw : s.memoriesWf) :
    Out.wf (execArrayOperationComplete die k s) := by
  unfold execArrayOperationComplete
  (repeat' (first | with_reducible assumption | (simp (maxDischargeDepth := 40) [State.memoriesWf, *]; done) | refine foldl_wf _ ?_ _ ?_ | intro _ | refine wf_ite ?_ ?_ | refine Out.wf_ite ?_ ?_ | refine wf_ite_fst ?_ ?_ | refine State.withRun_wf _ (by assumption) ?_ | refine State.uform_wf _ _ _ (by assumption) ?_ | refine State.vform_wf _ _ _ _ (by assumption) ?_ | refine State.ucommit_wf _ _ _ _ (by assumption) ?_ | refine State.vcommit_wf _ _ _ (by assumption) ?_ | extract_lets | split))

@[simp] theorem State.aeToken_wf {s : State} (cmd : AeCmd) (m : AeBlock) (d : AeData) (draws : Array Nat) (t : Nat) (hw : s.memoriesWf) :
    (State.aeToken s cmd m d draws t).memoriesWf := by
  unfold State.aeToken
  (repeat' (first | with_reducible assumption | (simp (maxDischargeDepth := 40) [State.memoriesWf, *]; done) | refine foldl_wf _ ?_ _ ?_ | intro _ | refine wf_ite ?_ ?_ | refine Out.wf_ite ?_ ?_ | refine wf_ite_fst ?_ ?_ | refine State.withRun_wf _ (by assumption) ?_ | refine State.uform_wf _ _ _ (by assumption) ?_ | refine State.vform_wf _ _ _ _ (by assumption) ?_ | refine State.ucommit_wf _ _ _ _ (by assumption) ?_ | refine State.vcommit_wf _ _ _ (by assumption) ?_ | extract_lets | split))

theorem execAeDigitalPartStart_wf (c k : Nat) {s : State} (hw : s.memoriesWf) :
    Out.wf (execAeDigitalPartStart c k s) := by
  unfold execAeDigitalPartStart
  (repeat' (first | with_reducible assumption | (simp (maxDischargeDepth := 40) [State.memoriesWf, *]; done) | refine foldl_wf _ ?_ _ ?_ | intro _ | refine wf_ite ?_ ?_ | refine Out.wf_ite ?_ ?_ | refine wf_ite_fst ?_ ?_ | refine State.withRun_wf _ (by assumption) ?_ | refine State.uform_wf _ _ _ (by assumption) ?_ | refine State.vform_wf _ _ _ _ (by assumption) ?_ | refine State.ucommit_wf _ _ _ _ (by assumption) ?_ | refine State.vcommit_wf _ _ _ (by assumption) ?_ | extract_lets | split))

@[simp] theorem State.aeFinish_wf {s : State} (c k : Nat) (cmd : AeCmd) (bs : List Byte) (hw : s.memoriesWf) :
    (s.aeFinish c k cmd bs).memoriesWf := by
  rw [State.aeFinish]
  refine State.reread_wf (State.flushAes_wf _ (State.setAe_wf _ _ _ (State.countMany_wf _ _ _ _ ?_)))
  exact foldl_wf _ (fun s t h => State.aeToken_wf _ _ _ _ _ h) _ hw

theorem execAeDigitalPartComplete_wf (c k : Nat) {s : State} (hw : s.memoriesWf) :
    Out.wf (execAeDigitalPartComplete c k s) := by
  unfold execAeDigitalPartComplete
  split
  · trivial
  · refine Out.wf_ite trivial ?_
    generalize State.supplyAe s c _ = p
    dsimp only
    split
    · exact State.aeFinish_wf _ _ _ _ (State.readPlaces_wf _ _ hw)
    · exact State.waitPage_wf _ _ _ hw
    · exact State.flushAes_wf _ (State.setAe_wf _ _ _ hw)
    · trivial

@[simp] theorem State.tellExceeded_wf {s : State} (die a : Nat) (transpose : Bool) (hw : s.memoriesWf) :
    (State.tellExceeded s die a transpose).memoriesWf := by
  unfold State.tellExceeded
  dsimp only
  (repeat' (first | with_reducible assumption | (simp (maxDischargeDepth := 40) [State.memoriesWf, *]; done) | refine foldl_wf _ ?_ _ ?_ | intro _ | refine wf_ite ?_ ?_ | refine Out.wf_ite ?_ ?_ | refine wf_ite_fst ?_ ?_ | refine State.withRun_wf _ (by assumption) ?_ | refine State.uform_wf _ _ _ (by assumption) ?_ | refine State.vform_wf _ _ _ _ (by assumption) ?_ | refine State.ucommit_wf _ _ _ _ (by assumption) ?_ | refine State.vcommit_wf _ _ _ (by assumption) ?_ | extract_lets | split))

theorem execOboeGroupFit_wf (die a : Nat) (transpose : Bool) {s : State} (hw : s.memoriesWf) :
    Out.wf (execOboeGroupFit die a transpose s) := by
  unfold execOboeGroupFit
  dsimp only
  (repeat' (first | with_reducible assumption | (simp (maxDischargeDepth := 40) [State.memoriesWf, *]; done) | refine foldl_wf _ ?_ _ ?_ | intro _ | refine wf_ite ?_ ?_ | refine Out.wf_ite ?_ ?_ | refine wf_ite_fst ?_ ?_ | refine State.withRun_wf _ (by assumption) ?_ | refine State.uform_wf _ _ _ (by assumption) ?_ | refine State.vform_wf _ _ _ _ (by assumption) ?_ | refine State.ucommit_wf _ _ _ _ (by assumption) ?_ | refine State.vcommit_wf _ _ _ (by assumption) ?_ | extract_lets | split))

@[simp] theorem State.tellOnline_wf {s : State} {s : State} (before : State) (die : Nat) (hw : s.memoriesWf) :
    (State.tellOnline s before die).memoriesWf := by
  unfold State.tellOnline
  (repeat' (first | with_reducible assumption | (simp (maxDischargeDepth := 40) [State.memoriesWf, *]; done) | refine foldl_wf _ ?_ _ ?_ | intro _ | refine wf_ite ?_ ?_ | refine Out.wf_ite ?_ ?_ | refine wf_ite_fst ?_ ?_ | refine State.withRun_wf _ (by assumption) ?_ | refine State.uform_wf _ _ _ (by assumption) ?_ | refine State.vform_wf _ _ _ _ (by assumption) ?_ | refine State.ucommit_wf _ _ _ _ (by assumption) ?_ | refine State.vcommit_wf _ _ _ (by assumption) ?_ | extract_lets | split))

theorem execOboePublish_wf (die : Nat) {s : State} (hw : s.memoriesWf) :
    Out.wf (execOboePublish die s) := by
  unfold execOboePublish
  (repeat' (first | with_reducible assumption | (simp (maxDischargeDepth := 40) [State.memoriesWf, *]; done) | refine foldl_wf _ ?_ _ ?_ | intro _ | refine wf_ite ?_ ?_ | refine Out.wf_ite ?_ ?_ | refine wf_ite_fst ?_ ?_ | refine State.withRun_wf _ (by assumption) ?_ | refine State.uform_wf _ _ _ (by assumption) ?_ | refine State.vform_wf _ _ _ _ (by assumption) ?_ | refine State.ucommit_wf _ _ _ _ (by assumption) ?_ | refine State.vcommit_wf _ _ _ (by assumption) ?_ | extract_lets | split))

theorem execOboeStarvationTimeout_wf (die : Nat) {s : State} (hw : s.memoriesWf) :
    Out.wf (execOboeStarvationTimeout die s) := by
  unfold execOboeStarvationTimeout
  (repeat' (first | with_reducible assumption | (simp (maxDischargeDepth := 40) [State.memoriesWf, *]; done) | refine foldl_wf _ ?_ _ ?_ | intro _ | refine wf_ite ?_ ?_ | refine Out.wf_ite ?_ ?_ | refine wf_ite_fst ?_ ?_ | refine State.withRun_wf _ (by assumption) ?_ | refine State.uform_wf _ _ _ (by assumption) ?_ | refine State.vform_wf _ _ _ _ (by assumption) ?_ | refine State.ucommit_wf _ _ _ _ (by assumption) ?_ | refine State.vcommit_wf _ _ _ (by assumption) ?_ | extract_lets | split))

end Sys2Proof.Machine
end

