-- ==== Sys2Proof/Laws/Canon/Copy.lean ====
section
/-! SUPPORT. The operations of Machine/Copy.lean keep every memory in canonical form. -/

namespace Sys2Proof.Machine

set_option linter.unusedSimpArgs false
set_option linter.unusedVariables false

@[simp] theorem State.performCego_wf {s : State} (c g : Nat) (eng : Bool) (seq : Word) (hw : s.memoriesWf) :
    (State.performCego s c g eng seq).memoriesWf := by
  unfold State.performCego
  (repeat' (first | with_reducible assumption | (simp (maxDischargeDepth := 40) [State.memoriesWf, *]; done) | refine foldl_wf _ ?_ _ ?_ | intro _ | refine wf_ite ?_ ?_ | refine Out.wf_ite ?_ ?_ | refine wf_ite_fst ?_ ?_ | refine State.withRun_wf _ (by assumption) ?_ | refine State.uform_wf _ _ _ (by assumption) ?_ | refine State.vform_wf _ _ _ _ (by assumption) ?_ | refine State.ucommit_wf _ _ _ _ (by assumption) ?_ | refine State.vcommit_wf _ _ _ (by assumption) ?_ | extract_lets | split))

@[simp] theorem State.copyTake_wf {s : State} (c g : Nat) (eng : Bool) (x : Group) (got : CopyGot) (hw : s.memoriesWf) :
    (s.copyTake c g eng x got).memoriesWf := by
  rw [State.copyTake]
  generalize x.takeHead (ceQueue eng) = p
  obtain ⟨h0, _, _⟩ := p
  generalize hq : h0.countCopy eng = q
  obtain ⟨h, seq⟩ := q
  simp only [hq]
  generalize hr : s.hasRead (engineWho c x.launch x.block) ((x.queue (ceQueue eng)).headD 0) 64 = t
  have ht : t.memoriesWf := by rw [← hr]; exact State.hasRead_wf _ _ _ hw
  have h3 : ∀ k, (((t.setGroup c g h).setCore c k).performCego c g eng seq).memoriesWf := fun k =>
    State.performCego_wf (s := State.setCore _ _ _) _ _ _ _ ht
  cases got with
  | block m words list =>
    refine State.endBlock_wf _ (foldl_wf _ (fun s l hs => State.setPresence_wf _ _ hs) _ ?_)
    exact (State.setCore_wf _ _ _).mpr (State.hasReadAll_wf _ _ (State.hasRead_wf _ _ _ (h3 _)))
  | fault f => exact State.endBlock_wf _ (State.post_wf _ _ _ _ _ _ (h3 _))
  | _ => exact hw

theorem execCeAccept_wf (c : Nat) (eng : Bool) {s : State} (hw : s.memoriesWf) : Out.wf (execCeAccept c eng s) := by
  unfold execCeAccept
  extract_lets k
  refine Out.wf_ite trivial ?_
  split
  · split
    · exact State.copyTake_wf _ _ _ _ _ hw
    · trivial
  · split
    · exact State.waitPage_wf _ _ _ hw
    · trivial

@[simp] theorem State.copySubtract_wf {s : State} (w : Who) (cmd : CopyCmd) (n : Nat) (hw : s.memoriesWf) :
    (State.copySubtract s w cmd n).1.memoriesWf := by
  unfold State.copySubtract
  (repeat' (first | with_reducible assumption | (simp (maxDischargeDepth := 40) [State.memoriesWf, *]; done) | refine foldl_wf _ ?_ _ ?_ | intro _ | refine wf_ite ?_ ?_ | refine Out.wf_ite ?_ ?_ | refine wf_ite_fst ?_ ?_ | refine State.withRun_wf _ (by assumption) ?_ | refine State.uform_wf _ _ _ (by assumption) ?_ | refine State.vform_wf _ _ _ _ (by assumption) ?_ | refine State.ucommit_wf _ _ _ _ (by assumption) ?_ | refine State.vcommit_wf _ _ _ (by assumption) ?_ | extract_lets | split))

@[simp] theorem State.copyEnd_wf {s : State} (c : Nat) (eng : Bool) (w : Who) (cmd : CopyCmd) (field result : Nat)
    (hw : s.memoriesWf) : (s.copyEnd c eng w cmd field result).memoriesWf := by
  rw [State.copyEnd]
  have h1 := State.copySubtract_wf w cmd (cmd.block_.total - cmd.counted) hw
  generalize hp : s.copySubtract w cmd (cmd.block_.total - cmd.counted) = p at h1
  obtain ⟨s1, last⟩ := p
  simp only
  exact State.post_wf (s := State.setCore _ _ _) _ _ _ _ _ _ (foldl_wf _ (fun s l hs => State.makePresent_wf _ hs) _ h1)

@[simp] theorem State.copyWrite_wf {s : State} (c : Nat) (eng : Bool) (w : Who) (cmd : CopyCmd) (k : Nat)
    (ch : Nat × Nat × Nat) (bs : List Byte) (hw : s.memoriesWf) : (s.copyWrite c eng w cmd k ch bs).memoriesWf := by
  rw [State.copyWrite]
  have h1 := State.engineWrite_wf w bs.length (cmd.block_.target ch) bs hw
  generalize hp : s.engineWrite w bs.length (cmd.block_.target ch) bs = p at h1
  obtain ⟨s1, bad⟩ := p
  simp only
  refine wf_ite (State.copyEnd_wf _ _ _ _ _ _ (State.reread_wf ?_)) ?_
  · split
    · exact wf_ite h1 (State.makePresent_wf _ h1)
    · exact h1
  · refine State.copySubtract_wf (s := State.reread _) _ _ _ (State.reread_wf ?_)
    split
    · exact wf_ite h1 (State.makePresent_wf _ h1)
    · exact h1

theorem execCeChunkWrite_wf (c : Nat) (eng : Bool) (k : Nat) {s : State} (hw : s.memoriesWf) :
    Out.wf (execCeChunkWrite c eng k s) := by
  unfold execCeChunkWrite
  split
  · trivial
  · split
    · trivial
    · extract_lets m w
      generalize State.supplyChunk s c _ _ _ = p
      dsimp -zeta only
      extract_lets open_
      split
      · trivial
      · exact State.waitPage_wf _ _ _ hw
      · exact State.copyEnd_wf _ _ _ _ _ _ hw
      · split
        · exact State.waitPage_wf _ _ _ hw
        · exact State.copyEnd_wf _ _ _ _ _ _ hw
        · exact Out.wf_ite trivial (State.copyWrite_wf _ _ _ _ _ _ _ (State.readPlaces_wf _ _ hw))

end Sys2Proof.Machine
end

