-- ==== Sys2Proof/Laws/Canon/Nmu.lean ====
section
/-! SUPPORT. The operations of Machine/Nmu.lean keep every memory in canonical form. -/

namespace Sys2Proof.Machine

set_option linter.unusedSimpArgs false
set_option linter.unusedVariables false

@[simp] theorem State.hasReadDrain_wf {s : State} (w : Who) (a : Dword) (words : List Word) (hw : s.memoriesWf) :
    (State.hasReadDrain s w a words).memoriesWf := by
  unfold State.hasReadDrain
  (repeat' (first | with_reducible assumption | (simp (maxDischargeDepth := 40) [State.memoriesWf, *]; done) | refine foldl_wf _ ?_ _ ?_ | intro _ | refine wf_ite ?_ ?_ | refine Out.wf_ite ?_ ?_ | refine wf_ite_fst ?_ ?_ | refine State.withRun_wf _ (by assumption) ?_ | refine State.uform_wf _ _ _ (by assumption) ?_ | refine State.vform_wf _ _ _ _ (by assumption) ?_ | refine State.ucommit_wf _ _ _ _ (by assumption) ?_ | refine State.vcommit_wf _ _ _ (by assumption) ?_ | extract_lets | split))

@[simp] theorem State.drainAccept_wf {s : State} (c : Nat) (g : Group) (seq : Word) (a : Dword) (got : DrainGot) (hw : s.memoriesWf) :
    (State.drainAccept s c g seq a got).memoriesWf := by
  unfold State.drainAccept
  (repeat' (first | with_reducible assumption | (simp (maxDischargeDepth := 40) [State.memoriesWf, *]; done) | refine foldl_wf _ ?_ _ ?_ | intro _ | refine wf_ite ?_ ?_ | refine Out.wf_ite ?_ ?_ | refine wf_ite_fst ?_ ?_ | refine State.withRun_wf _ (by assumption) ?_ | refine State.uform_wf _ _ _ (by assumption) ?_ | refine State.vform_wf _ _ _ _ (by assumption) ?_ | refine State.ucommit_wf _ _ _ _ (by assumption) ?_ | refine State.vcommit_wf _ _ _ (by assumption) ?_ | extract_lets | split))

theorem execDrain_wf (n : Bool) (d ca : Code) {s : State} (hw : s.memoriesWf) : Out.wf (execDrain n d ca s) := by
  unfold execDrain
  refine State.ucommit_wf _ _ _ _ hw fun x => ?_
  extract_lets a tiles
  split
  · exact State.holdGroup_wf _ _ (State.noteUnit_wf _ _ _ hw)
  · exact State.drainAccept_wf _ _ _ _ _ (State.finishCommit_wf _ _ hw)

theorem execDrainDeferredAccept_wf (c g : Nat) {s : State} (hw : s.memoriesWf) :
    Out.wf (execDrainDeferredAccept c g s) := by
  unfold execDrainDeferredAccept
  (repeat' (first | with_reducible assumption | (simp (maxDischargeDepth := 40) [State.memoriesWf, *]; done) | refine foldl_wf _ ?_ _ ?_ | intro _ | refine wf_ite ?_ ?_ | refine Out.wf_ite ?_ ?_ | refine wf_ite_fst ?_ ?_ | refine State.withRun_wf _ (by assumption) ?_ | refine State.uform_wf _ _ _ (by assumption) ?_ | refine State.vform_wf _ _ _ _ (by assumption) ?_ | refine State.ucommit_wf _ _ _ _ (by assumption) ?_ | refine State.vcommit_wf _ _ _ (by assumption) ?_ | extract_lets | split))

@[simp] theorem State.setDrain_wf {s : State} (k : Nat) (d : DrainCmd) (hw : s.memoriesWf) :
    (State.setDrain s k d).memoriesWf := by
  simp (maxDischargeDepth := 40) [State.memoriesWf, State.setDrain, hw]

@[simp] theorem State.drainRead_wf {s : State} (k : Nat) (d : DrainCmd) (a : Dword) (hw : s.memoriesWf) :
    Out.wf (State.drainRead s k d a) := by
  unfold State.drainRead
  (repeat' (first | with_reducible assumption | (simp (maxDischargeDepth := 40) [State.memoriesWf, *]; done) | refine foldl_wf _ ?_ _ ?_ | intro _ | refine wf_ite ?_ ?_ | refine Out.wf_ite ?_ ?_ | refine wf_ite_fst ?_ ?_ | refine State.withRun_wf _ (by assumption) ?_ | refine State.uform_wf _ _ _ (by assumption) ?_ | refine State.vform_wf _ _ _ _ (by assumption) ?_ | refine State.ucommit_wf _ _ _ _ (by assumption) ?_ | refine State.vcommit_wf _ _ _ (by assumption) ?_ | extract_lets | split))

theorem execDrainTileTake_wf (k : Nat) {s : State} (hw : s.memoriesWf) : Out.wf (execDrainTileTake k s) := by
  unfold execDrainTileTake
  split
  · trivial
  · split
    · exact State.drainRead_wf _ _ _ hw
    · split
      · trivial
      · refine Out.wf_ite trivial ?_
        rw [Out.wf_next]
        have h2 := fun d tile => State.setDrain_wf k d (State.setBytes_wf tile (List.replicate 16384 0) hw)
        exact wf_ite (State.countEvents_wf _ _ _ (h2 _ _)) (h2 _ _)

@[simp] theorem State.stepLine_wf {s : State} (launch : Nat) (t : TensorBlock) (o : Once) (w m v : Option Loc)
    (gs : List (Nat × Word)) (hw : s.memoriesWf) : (s.stepLine launch t o w m v gs).memoriesWf := by
  induction gs generalizing s with
  | nil => exact hw
  | cons p gs ih =>
    obtain ⟨i, g⟩ := p
    rw [State.stepLine]
    refine ih (State.countEvents_wf _ _ _ ?_)
    have hp : ∀ (s : State) (l : Option Loc) (x : Word), s.memoriesWf →
        (match l with | some y => s.setWord (y.add (4 * i)) x | none => s : State).memoriesWf := by
      intro s l x h
      cases l
      · exact h
      · exact State.setWord_wf _ _ h
    exact hp _ _ _ (hp _ _ _ (hp _ _ _ hw))

@[simp] theorem State.drainLine_wf {s : State} (k : Nat) (d : DrainCmd) (hw : s.memoriesWf) :
    (State.drainLine s k d).memoriesWf := by
  unfold State.drainLine
  (repeat' (first | with_reducible assumption | (simp (maxDischargeDepth := 40) [State.memoriesWf, *]; done) | refine foldl_wf _ ?_ _ ?_ | intro _ | refine wf_ite ?_ ?_ | refine Out.wf_ite ?_ ?_ | refine wf_ite_fst ?_ ?_ | refine State.withRun_wf _ (by assumption) ?_ | refine State.uform_wf _ _ _ (by assumption) ?_ | refine State.vform_wf _ _ _ _ (by assumption) ?_ | refine State.ucommit_wf _ _ _ _ (by assumption) ?_ | refine State.vcommit_wf _ _ _ (by assumption) ?_ | extract_lets | split))

@[simp] theorem State.beforeUpdate_wf {s : State} (l : Loc) (hw : s.memoriesWf) : (s.beforeUpdate l).memoriesWf :=
  foldl_wf _ (fun _ _ h => State.takeLoads_wf _ _ h) _ hw

theorem execNmuLineUpdate_wf (k line : Nat) {s : State} (hw : s.memoriesWf) : Out.wf (execNmuLineUpdate k line s) := by
  unfold execNmuLineUpdate
  split
  · trivial
  · extract_lets t
    refine Out.wf_ite trivial ?_
    extract_lets
    split
    · exact State.waitPage_wf _ _ _ hw
    · split
      · exact State.drainLine_wf _ _ hw
      · refine State.drainLine_wf _ _ (State.stepLine_wf _ _ _ _ _ _ _ (State.countEvents_wf _ _ _ ?_))
        exact foldl_wf _ (fun _ _ h => State.touch_wf _ (State.beforeUpdate_wf _ h)) _ hw

end Sys2Proof.Machine
end

