-- ==== Sys2Proof/Laws/Canon/Departure.lean ====
section
/-! SUPPORT. The operations of Machine/Departure.lean keep every memory in canonical form. -/

namespace Sys2Proof.Machine

set_option linter.unusedSimpArgs false
set_option linter.unusedVariables false

@[simp] theorem State.setRound_wf {s : State} (r : RoundState) (hw : s.memoriesWf) :
    (State.setRound s r).memoriesWf := by
  simp (maxDischargeDepth := 40) [State.memoriesWf, State.setRound, hw]

@[simp] theorem State.dropRounds_wf {s : State} (hw : s.memoriesWf) :
    (State.dropRounds s).memoriesWf := by
  simp (maxDischargeDepth := 40) [State.memoriesWf, State.dropRounds, hw]

theorem State.openRound_wf {s t : State} (r : RoundState) (hw : s.memoriesWf) (h : s.openRound r = some t) :
    t.memoriesWf := by
  unfold State.openRound at h
  extract_lets kept old at h
  clear_value old
  split at h
  · obtain rfl := Option.some.inj h
    exact hw
  · split at h
    · exact absurd h (by simp)
    · obtain rfl := Option.some.inj h
      exact State.dropRounds_wf hw

@[simp] theorem State.countOld_wf {s : State} (st : Nat) (id : Dword) (part : Nat) (hw : s.memoriesWf) :
    (State.countOld s st id part).memoriesWf := by
  unfold State.countOld
  (repeat' (first | with_reducible assumption | (simp (maxDischargeDepth := 40) [State.memoriesWf, *]; done) | refine foldl_wf _ ?_ _ ?_ | intro _ | refine wf_ite ?_ ?_ | refine Out.wf_ite ?_ ?_ | refine wf_ite_fst ?_ ?_ | refine State.withRun_wf _ (by assumption) ?_ | refine State.uform_wf _ _ _ (by assumption) ?_ | refine State.vform_wf _ _ _ _ (by assumption) ?_ | refine State.ucommit_wf _ _ _ _ (by assumption) ?_ | refine State.vcommit_wf _ _ _ (by assumption) ?_ | extract_lets | split))

@[simp] theorem State.sendPacket_wf {s : State} (c : Collective) (r : RoundState) (late : Bool) (as : List Arrival) (hw : s.memoriesWf) :
    (State.sendPacket s c r late as).memoriesWf := by
  unfold State.sendPacket
  (repeat' (first | with_reducible assumption | (simp (maxDischargeDepth := 40) [State.memoriesWf, *]; done) | refine foldl_wf _ ?_ _ ?_ | intro _ | refine wf_ite ?_ ?_ | refine Out.wf_ite ?_ ?_ | refine wf_ite_fst ?_ ?_ | refine State.withRun_wf _ (by assumption) ?_ | refine State.uform_wf _ _ _ (by assumption) ?_ | refine State.vform_wf _ _ _ _ (by assumption) ?_ | refine State.ucommit_wf _ _ _ _ (by assumption) ?_ | refine State.vcommit_wf _ _ _ (by assumption) ?_ | extract_lets | split))

@[simp] theorem State.sendLate_wf {s : State} (c : Collective) (r : RoundState) (hw : s.memoriesWf) :
    (State.sendLate s c r).memoriesWf := by
  simp (maxDischargeDepth := 40) [State.memoriesWf, State.sendLate, hw]

@[simp] theorem State.judgeLate_wf {s : State} (c : Collective) (r : RoundState) (expected : Nat) (fresh : Bool) (hw : s.memoriesWf) :
    (State.judgeLate s c r expected fresh).memoriesWf := by
  unfold State.judgeLate
  (repeat' (first | with_reducible assumption | (simp (maxDischargeDepth := 40) [State.memoriesWf, *]; done) | refine foldl_wf _ ?_ _ ?_ | intro _ | refine wf_ite ?_ ?_ | refine Out.wf_ite ?_ ?_ | refine wf_ite_fst ?_ ?_ | refine State.withRun_wf _ (by assumption) ?_ | refine State.uform_wf _ _ _ (by assumption) ?_ | refine State.vform_wf _ _ _ _ (by assumption) ?_ | refine State.ucommit_wf _ _ _ _ (by assumption) ?_ | refine State.vcommit_wf _ _ _ (by assumption) ?_ | extract_lets | split))

@[simp] theorem State.depart_wf {s : State} (c : Collective) (r : RoundState) (expected : Nat) (hw : s.memoriesWf) :
    (State.depart s c r expected).memoriesWf := by
  unfold State.depart
  (repeat' (first | with_reducible assumption | (simp (maxDischargeDepth := 40) [State.memoriesWf, *]; done) | refine foldl_wf _ ?_ _ ?_ | intro _ | refine wf_ite ?_ ?_ | refine Out.wf_ite ?_ ?_ | refine wf_ite_fst ?_ ?_ | refine State.withRun_wf _ (by assumption) ?_ | refine State.uform_wf _ _ _ (by assumption) ?_ | refine State.vform_wf _ _ _ _ (by assumption) ?_ | refine State.ucommit_wf _ _ _ _ (by assumption) ?_ | refine State.vcommit_wf _ _ _ (by assumption) ?_ | extract_lets | split))

@[simp] theorem State.takeArrival_wf {s : State} (c : Collective) (r0 : RoundState) (expected : Nat) (late : Bool) (a : Arrival) (hw : s.memoriesWf) :
    (State.takeArrival s c r0 expected late a).memoriesWf := by
  unfold State.takeArrival
  (repeat' (first | with_reducible assumption | (simp (maxDischargeDepth := 40) [State.memoriesWf, *]; done) | refine foldl_wf _ ?_ _ ?_ | intro _ | refine wf_ite ?_ ?_ | refine Out.wf_ite ?_ ?_ | refine wf_ite_fst ?_ ?_ | refine State.withRun_wf _ (by assumption) ?_ | refine State.uform_wf _ _ _ (by assumption) ?_ | refine State.vform_wf _ _ _ _ (by assumption) ?_ | refine State.ucommit_wf _ _ _ _ (by assumption) ?_ | refine State.vcommit_wf _ _ _ (by assumption) ?_ | extract_lets | split))

@[simp] theorem State.stationArrive_wf {s : State} (c : Collective) (st : Nat) (round deadline : Word) (late : Bool)
    (a : Arrival) (hw : s.memoriesWf) : (s.stationArrive c st round deadline late a).memoriesWf := by
  unfold State.stationArrive
  split
  · exact hw
  · split
    · exact wf_ite (State.setRound_wf _ hw) (State.takeArrival_wf _ _ _ _ _ hw)
    · extract_lets r
      split
      · exact State.countOld_wf _ _ _ hw
      · rename_i h
        exact State.takeArrival_wf _ _ _ _ _ (State.openRound_wf _ hw h)

@[simp] theorem State.rootInfo_wf {s : State} (c : Collective) (b : RegoBlock) (x : Group) (hw : s.memoriesWf) :
    (State.rootInfo s c b x).memoriesWf := by
  unfold State.rootInfo
  (repeat' (first | with_reducible assumption | (simp (maxDischargeDepth := 40) [State.memoriesWf, *]; done) | refine foldl_wf _ ?_ _ ?_ | intro _ | refine wf_ite ?_ ?_ | refine Out.wf_ite ?_ ?_ | refine wf_ite_fst ?_ ?_ | refine State.withRun_wf _ (by assumption) ?_ | refine State.uform_wf _ _ _ (by assumption) ?_ | refine State.vform_wf _ _ _ _ (by assumption) ?_ | refine State.ucommit_wf _ _ _ _ (by assumption) ?_ | refine State.vcommit_wf _ _ _ (by assumption) ?_ | extract_lets | split))

@[simp] theorem State.regoTake_wf {s : State} (c g : Nat) (x : Group) (got : RegoGot) (hw : s.memoriesWf) :
    (s.regoTake c g x got).memoriesWf := by
  unfold State.regoTake
  extract_lets w block read s1
  have h0 : block.memoriesWf := State.hasRead_wf _ _ _ hw
  have h1 : s1.memoriesWf := by
    refine (State.setGroup_wf _ _ _ _).mpr ?_
    cases got <;> first | exact State.hasRead_wf _ _ _ h0 | exact h0
  clear_value s1
  refine State.endBlock_wf _ ?_
  cases got with
  | fault f low => exact State.deliver_wf _ _ _ _ _ h1
  | ok k b data => exact State.rootInfo_wf _ _ _ (State.stationArrive_wf _ _ _ _ _ _ h1)
  | _ => exact h1

theorem execStationAcceptRego_wf (c g : Nat) {s : State} (hw : s.memoriesWf) :
    Out.wf (execStationAcceptRego c g s) := by
  unfold execStationAcceptRego
  (repeat' split) <;> simp_all

@[simp] theorem State.packetArrives_wf {s : State} (p : Packet) (within : Bool) (hw : s.memoriesWf) : (s.packetArrives p within).memoriesWf := by
  unfold State.packetArrives
  split
  · exact hw
  · exact wf_ite hw (State.stationArrive_wf _ _ _ _ _ _ hw)

theorem execStationPacketArrival_wf (src : PacketSource) {s : State} (hw : s.memoriesWf) :
    Out.wf (execStationPacketArrival src s) := by
  unfold execStationPacketArrival
  dsimp only
  (repeat' (first | with_reducible assumption | (simp (maxDischargeDepth := 40) [State.memoriesWf, *]; done) | refine foldl_wf _ ?_ _ ?_ | intro _ | refine wf_ite ?_ ?_ | refine Out.wf_ite ?_ ?_ | refine wf_ite_fst ?_ ?_ | refine State.withRun_wf _ (by assumption) ?_ | refine State.uform_wf _ _ _ (by assumption) ?_ | refine State.vform_wf _ _ _ _ (by assumption) ?_ | refine State.ucommit_wf _ _ _ _ (by assumption) ?_ | refine State.vcommit_wf _ _ _ (by assumption) ?_ | extract_lets | split))

theorem execStationDeadlineExpiry_wf (k : Nat) {s : State} (hw : s.memoriesWf) :
    Out.wf (execStationDeadlineExpiry k s) := by
  unfold execStationDeadlineExpiry
  (repeat' (first | with_reducible assumption | (simp (maxDischargeDepth := 40) [State.memoriesWf, *]; done) | refine foldl_wf _ ?_ _ ?_ | intro _ | refine wf_ite ?_ ?_ | refine Out.wf_ite ?_ ?_ | refine wf_ite_fst ?_ ?_ | refine State.withRun_wf _ (by assumption) ?_ | refine State.uform_wf _ _ _ (by assumption) ?_ | refine State.vform_wf _ _ _ _ (by assumption) ?_ | refine State.ucommit_wf _ _ _ _ (by assumption) ?_ | refine State.vcommit_wf _ _ _ (by assumption) ?_ | extract_lets | split))

theorem execLateCountdownExpiry_wf (k : Nat) {s : State} (hw : s.memoriesWf) :
    Out.wf (execLateCountdownExpiry k s) := by
  unfold execLateCountdownExpiry
  (repeat' (first | with_reducible assumption | (simp (maxDischargeDepth := 40) [State.memoriesWf, *]; done) | refine foldl_wf _ ?_ _ ?_ | intro _ | refine wf_ite ?_ ?_ | refine Out.wf_ite ?_ ?_ | refine wf_ite_fst ?_ ?_ | refine State.withRun_wf _ (by assumption) ?_ | refine State.uform_wf _ _ _ (by assumption) ?_ | refine State.vform_wf _ _ _ _ (by assumption) ?_ | refine State.ucommit_wf _ _ _ _ (by assumption) ?_ | refine State.vcommit_wf _ _ _ (by assumption) ?_ | extract_lets | split))

@[simp] theorem State.deliverRecord_wf {s : State} (k : Nat) (c : Collective) (rec : RootRecord) (r : RoundState) (a : Dword) (launch block grp : Nat) (refused : Bool) (hw : s.memoriesWf) :
    (State.deliverRecord s k c rec r a launch block grp refused).memoriesWf := by
  unfold State.deliverRecord
  (repeat' (first | with_reducible assumption | (simp (maxDischargeDepth := 40) [State.memoriesWf, *]; done) | refine foldl_wf _ ?_ _ ?_ | intro _ | refine wf_ite ?_ ?_ | refine Out.wf_ite ?_ ?_ | refine wf_ite_fst ?_ ?_ | refine State.withRun_wf _ (by assumption) ?_ | refine State.uform_wf _ _ _ (by assumption) ?_ | refine State.vform_wf _ _ _ _ (by assumption) ?_ | refine State.ucommit_wf _ _ _ _ (by assumption) ?_ | refine State.vcommit_wf _ _ _ (by assumption) ?_ | extract_lets | split))

theorem execRootRecordDelivery_wf (k : Nat) {s : State} (hw : s.memoriesWf) :
    Out.wf (execRootRecordDelivery k s) := by
  unfold execRootRecordDelivery
  (repeat' (first | with_reducible assumption | (simp (maxDischargeDepth := 40) [State.memoriesWf, *]; done) | refine foldl_wf _ ?_ _ ?_ | intro _ | refine wf_ite ?_ ?_ | refine Out.wf_ite ?_ ?_ | refine wf_ite_fst ?_ ?_ | refine State.withRun_wf _ (by assumption) ?_ | refine State.uform_wf _ _ _ (by assumption) ?_ | refine State.vform_wf _ _ _ _ (by assumption) ?_ | refine State.ucommit_wf _ _ _ _ (by assumption) ?_ | refine State.vcommit_wf _ _ _ (by assumption) ?_ | extract_lets | split))

end Sys2Proof.Machine
end

