-- ==== Sys2Proof/Laws/Canon/Junction.lean ====
section
/-! SUPPORT. The operations of Machine/Junction.lean keep every memory in canonical form. -/

namespace Sys2Proof.Machine

set_option linter.unusedSimpArgs false
set_option linter.unusedVariables false

@[simp] theorem State.asQueue_wf {s : State} (i : Nat) (hw : s.memoriesWf) :
    (State.asQueue s i).memoriesWf := by
  simp (maxDischargeDepth := 40) [State.memoriesWf, State.asQueue, hw]

theorem execQueueBind_wf (i : Nat) {s : State} (hw : s.memoriesWf) :
    Out.wf (execQueueBind i s) := by
  unfold execQueueBind
  (repeat' (first | with_reducible assumption | (simp (maxDischargeDepth := 40) [State.memoriesWf, *]; done) | refine foldl_wf _ ?_ _ ?_ | intro _ | refine wf_ite ?_ ?_ | refine Out.wf_ite ?_ ?_ | refine wf_ite_fst ?_ ?_ | refine State.withRun_wf _ (by assumption) ?_ | refine State.uform_wf _ _ _ (by assumption) ?_ | refine State.vform_wf _ _ _ _ (by assumption) ?_ | refine State.ucommit_wf _ _ _ _ (by assumption) ?_ | refine State.vcommit_wf _ _ _ (by assumption) ?_ | extract_lets | split))

@[simp] theorem State.countDone_wf {s : State} (n : Nat) (l : Launch) (hw : s.memoriesWf) :
    (State.countDone s n l).memoriesWf := by
  unfold State.countDone
  (repeat' (first | with_reducible assumption | (simp (maxDischargeDepth := 40) [State.memoriesWf, *]; done) | refine foldl_wf _ ?_ _ ?_ | intro _ | refine wf_ite ?_ ?_ | refine Out.wf_ite ?_ ?_ | refine wf_ite_fst ?_ ?_ | refine State.withRun_wf _ (by assumption) ?_ | refine State.uform_wf _ _ _ (by assumption) ?_ | refine State.vform_wf _ _ _ _ (by assumption) ?_ | refine State.ucommit_wf _ _ _ _ (by assumption) ?_ | refine State.vcommit_wf _ _ _ (by assumption) ?_ | extract_lets | split))

@[simp] theorem State.refuseLaunch_wf {s : State} (n : Nat) (l : Launch) (off : Nat) (hw : s.memoriesWf) :
    (State.refuseLaunch s n l off).memoriesWf := by
  unfold State.refuseLaunch
  (repeat' (first | with_reducible assumption | (simp (maxDischargeDepth := 40) [State.memoriesWf, *]; done) | refine foldl_wf _ ?_ _ ?_ | intro _ | refine wf_ite ?_ ?_ | refine Out.wf_ite ?_ ?_ | refine wf_ite_fst ?_ ?_ | refine State.withRun_wf _ (by assumption) ?_ | refine State.uform_wf _ _ _ (by assumption) ?_ | refine State.vform_wf _ _ _ _ (by assumption) ?_ | refine State.ucommit_wf _ _ _ _ (by assumption) ?_ | refine State.vcommit_wf _ _ _ (by assumption) ?_ | extract_lets | split))

@[simp] theorem State.takeRecord_wf {s : State} (i : Nat) (words : List Word) (hw : s.memoriesWf) :
    (State.takeRecord s i words).memoriesWf := by
  unfold State.takeRecord
  dsimp only
  (repeat' (first | with_reducible assumption | (simp (maxDischargeDepth := 40) [State.memoriesWf, *]; done) | refine foldl_wf _ ?_ _ ?_ | intro _ | refine wf_ite ?_ ?_ | refine Out.wf_ite ?_ ?_ | refine wf_ite_fst ?_ ?_ | refine State.withRun_wf _ (by assumption) ?_ | refine State.uform_wf _ _ _ (by assumption) ?_ | refine State.vform_wf _ _ _ _ (by assumption) ?_ | refine State.ucommit_wf _ _ _ _ (by assumption) ?_ | refine State.vcommit_wf _ _ _ (by assumption) ?_ | extract_lets | split))

theorem execLaunchTake_wf (i : Nat) {s : State} (hw : s.memoriesWf) :
    Out.wf (execLaunchTake i s) := by
  unfold execLaunchTake
  dsimp only
  (repeat' (first | with_reducible assumption | (simp (maxDischargeDepth := 40) [State.memoriesWf, *]; done) | refine foldl_wf _ ?_ _ ?_ | intro _ | refine wf_ite ?_ ?_ | refine Out.wf_ite ?_ ?_ | refine wf_ite_fst ?_ ?_ | refine State.withRun_wf _ (by assumption) ?_ | refine State.uform_wf _ _ _ (by assumption) ?_ | refine State.vform_wf _ _ _ _ (by assumption) ?_ | refine State.ucommit_wf _ _ _ _ (by assumption) ?_ | refine State.vcommit_wf _ _ _ (by assumption) ?_ | extract_lets | split))

@[simp] theorem State.clearWaits_wf {s : State} (n : Nat) (l : Launch) (hw : s.memoriesWf) :
    (s.clearWaits n l).1.memoriesWf := by
  unfold State.clearWaits
  extract_lets w
  generalize hp : (if l.waitMet || w = 0 then (s, true)
    else match s.chipObject l.part w with
      | none => (s, true)
      | some loc =>
        let b := s.barrierAt loc
        if !b.ok then (if (s.interrupts.any fun x => x.1 == .barrier n) then s else s.interrupt (.barrier n), false)
        else (s, b.phase.getLsbD 0 != (l.word 0x78).getLsbD 0) : State × Bool) = p
  have h1 : p.1.memoriesWf := by
    rw [← hp]
    refine wf_ite_fst hw ?_
    split
    · exact hw
    · exact wf_ite_fst (wf_ite hw hw) hw
  obtain ⟨s1, met⟩ := p
  dsimp only
  refine wf_ite_fst h1 (wf_ite_fst h1 ?_)
  split
  · exact h1
  · exact State.unbindIdle_wf _ (State.refuseLaunch_wf _ _ _ h1)
  · exact foldl_wf _ (fun s v h => State.noteUnit_wf _ _ _ h) _ h1

@[simp] theorem State.seatGroup_wf {s : State} (c : Nat) (g : Group) (hw : s.memoriesWf) :
    (State.seatGroup s c g).memoriesWf := by
  unfold State.seatGroup
  (repeat' (first | with_reducible assumption | (simp (maxDischargeDepth := 40) [State.memoriesWf, *]; done) | refine foldl_wf _ ?_ _ ?_ | intro _ | refine wf_ite ?_ ?_ | refine Out.wf_ite ?_ ?_ | refine wf_ite_fst ?_ ?_ | refine State.withRun_wf _ (by assumption) ?_ | refine State.uform_wf _ _ _ (by assumption) ?_ | refine State.vform_wf _ _ _ _ (by assumption) ?_ | refine State.ucommit_wf _ _ _ _ (by assumption) ?_ | refine State.vcommit_wf _ _ _ (by assumption) ?_ | extract_lets | split))

@[simp] theorem State.startBlock_wf {s : State} (n : Nat) (l : Launch) (cluster first r c : Nat) (hw : s.memoriesWf) :
    (State.startBlock s n l cluster first r c).memoriesWf := by
  unfold State.startBlock
  dsimp only
  (repeat' (first | with_reducible assumption | (simp (maxDischargeDepth := 40) [State.memoriesWf, *]; done) | refine foldl_wf _ ?_ _ ?_ | intro _ | refine wf_ite ?_ ?_ | refine Out.wf_ite ?_ ?_ | refine wf_ite_fst ?_ ?_ | refine State.withRun_wf _ (by assumption) ?_ | refine State.uform_wf _ _ _ (by assumption) ?_ | refine State.vform_wf _ _ _ _ (by assumption) ?_ | refine State.ucommit_wf _ _ _ _ (by assumption) ?_ | refine State.vcommit_wf _ _ _ (by assumption) ?_ | extract_lets | split))

@[simp] theorem State.startCluster_wf {s : State} (n : Nat) (l : Launch) (cs : List Nat) (hw : s.memoriesWf) :
    (State.startCluster s n l cs).memoriesWf := by
  unfold State.startCluster
  (repeat' (first | with_reducible assumption | (simp (maxDischargeDepth := 40) [State.memoriesWf, *]; done) | refine foldl_wf _ ?_ _ ?_ | intro _ | refine wf_ite ?_ ?_ | refine Out.wf_ite ?_ ?_ | refine wf_ite_fst ?_ ?_ | refine State.withRun_wf _ (by assumption) ?_ | refine State.uform_wf _ _ _ (by assumption) ?_ | refine State.vform_wf _ _ _ _ (by assumption) ?_ | refine State.ucommit_wf _ _ _ _ (by assumption) ?_ | refine State.vcommit_wf _ _ _ (by assumption) ?_ | extract_lets | split))

theorem execClusterDispatch_wf (n c0 : Nat) {s : State} (hw : s.memoriesWf) : Out.wf (execClusterDispatch n c0 s) := by
  unfold execClusterDispatch
  split
  · trivial
  · rename_i l0 _
    refine Out.wf_ite trivial ?_
    have h1 := State.clearWaits_wf n l0 hw
    generalize s.clearWaits n l0 = p at h1
    obtain ⟨s1, clear⟩ := p
    dsimp only
    have hwait : Out.wf (if s1 = s then .fault .notEnabled else .next s1) := Out.wf_ite trivial h1
    split
    · exact hwait
    · refine Out.wf_ite hwait ?_
      split
      · exact hwait
      · exact State.startCluster_wf _ _ _ h1

@[simp] theorem State.unseal_wf {s : State} (l : Launch) (hw : s.memoriesWf) : (s.unseal l).memoriesWf := by
  unfold State.unseal
  split
  · exact hw
  · split
    · exact hw
    · exact ⟨Memory.wf_filter _ hw.1, hw.2⟩

theorem execLaunchEnd_wf (n : Nat) {s : State} (hw : s.memoriesWf) : Out.wf (execLaunchEnd n s) := by
  unfold execLaunchEnd
  split
  · trivial
  · refine Out.wf_ite trivial ?_
    exact State.unbindIdle_wf _ (State.countDone_wf _ _ (State.unseal_wf (s := State.setLaunch _ _ _) _ hw))

theorem execLaunch_wf (n : Bool) (d ca cb : Code) {s : State} (hw : s.memoriesWf) :
    Out.wf (execLaunch n d ca cb s) := by
  simp (maxDischargeDepth := 40) [State.memoriesWf, execLaunch, hw]

@[simp] theorem State.answerLaunch_wf {s : State} (k : Nat) (r : LaunchReq) (v : Word) (hw : s.memoriesWf) :
    (State.answerLaunch s k r v).memoriesWf := by
  unfold State.answerLaunch
  dsimp only
  (repeat' (first | with_reducible assumption | (simp (maxDischargeDepth := 40) [State.memoriesWf, *]; done) | refine foldl_wf _ ?_ _ ?_ | intro _ | refine wf_ite ?_ ?_ | refine Out.wf_ite ?_ ?_ | refine wf_ite_fst ?_ ?_ | refine State.withRun_wf _ (by assumption) ?_ | refine State.uform_wf _ _ _ (by assumption) ?_ | refine State.vform_wf _ _ _ _ (by assumption) ?_ | refine State.ucommit_wf _ _ _ _ (by assumption) ?_ | refine State.vcommit_wf _ _ _ (by assumption) ?_ | extract_lets | split))

@[simp] theorem State.appendRecord_wf {s : State} (i : Nat) (bytes : List Byte) (hw : s.memoriesWf) :
    (State.appendRecord s i bytes).memoriesWf := by
  simp (maxDischargeDepth := 40) [State.memoriesWf, State.appendRecord, hw]

theorem execLaunchAppend_wf (k : Nat) {s : State} (hw : s.memoriesWf) :
    Out.wf (execLaunchAppend k s) := by
  unfold execLaunchAppend
  dsimp only
  (repeat' (first | with_reducible assumption | (simp (maxDischargeDepth := 40) [State.memoriesWf, *]; done) | refine foldl_wf _ ?_ _ ?_ | intro _ | refine wf_ite ?_ ?_ | refine Out.wf_ite ?_ ?_ | refine wf_ite_fst ?_ ?_ | refine State.withRun_wf _ (by assumption) ?_ | refine State.uform_wf _ _ _ (by assumption) ?_ | refine State.vform_wf _ _ _ _ (by assumption) ?_ | refine State.ucommit_wf _ _ _ _ (by assumption) ?_ | refine State.vcommit_wf _ _ _ (by assumption) ?_ | extract_lets | split))

@[simp] theorem State.saveBlock_wf {s : State} (b : Nat) (hw : s.memoriesWf) :
    (State.saveBlock s b).1.memoriesWf := by
  unfold State.saveBlock
  (repeat' (first | with_reducible assumption | (simp (maxDischargeDepth := 40) [State.memoriesWf, *]; done) | refine foldl_wf _ ?_ _ ?_ | intro _ | refine wf_ite ?_ ?_ | refine Out.wf_ite ?_ ?_ | refine wf_ite_fst ?_ ?_ | refine State.withRun_wf _ (by assumption) ?_ | refine State.uform_wf _ _ _ (by assumption) ?_ | refine State.vform_wf _ _ _ _ (by assumption) ?_ | refine State.ucommit_wf _ _ _ _ (by assumption) ?_ | refine State.vcommit_wf _ _ _ (by assumption) ?_ | extract_lets | split))

@[simp] theorem State.saveBlocks_wf {s : State} (bs : List Nat) (hw : s.memoriesWf) : (s.saveBlocks bs).1.memoriesWf := by
  induction bs generalizing s with
  | nil => exact hw
  | cons b bs ih => exact ih (State.saveBlock_wf b hw)

@[simp] theorem State.stopCluster_wf {s : State} (bs : List (Nat × Nat)) (hw : s.memoriesWf) :
    (State.stopCluster s bs).memoriesWf := by
  unfold State.stopCluster
  (repeat' (first | with_reducible assumption | (simp (maxDischargeDepth := 40) [State.memoriesWf, *]; done) | refine foldl_wf _ ?_ _ ?_ | intro _ | refine wf_ite ?_ ?_ | refine Out.wf_ite ?_ ?_ | refine wf_ite_fst ?_ ?_ | refine State.withRun_wf _ (by assumption) ?_ | refine State.uform_wf _ _ _ (by assumption) ?_ | refine State.vform_wf _ _ _ _ (by assumption) ?_ | refine State.ucommit_wf _ _ _ _ (by assumption) ?_ | refine State.vcommit_wf _ _ _ (by assumption) ?_ | extract_lets | split))

theorem execPreempt_wf (n k : Nat) {s : State} (hw : s.memoriesWf) : Out.wf (execPreempt n k s) := by
  unfold execPreempt
  split
  · trivial
  · extract_lets bs
    split
    · trivial
    · refine Out.wf_ite trivial (Out.wf_ite (Out.wf_ite (State.stopCluster_wf _ hw) trivial) (Out.wf_ite trivial ?_))
      have h1 := State.saveBlocks_wf (bs.map (·.1)) hw
      generalize s.saveBlocks (bs.map (·.1)) = p at h1 ⊢
      exact foldl_wf _ (fun s b h => State.restop_wf _ h) _ h1

@[simp] theorem State.restoreBlock_wf {s : State} (x : SavedBlock) (c : Nat) (hw : s.memoriesWf) :
    (State.restoreBlock s x c).memoriesWf := by
  unfold State.restoreBlock
  (repeat' (first | with_reducible assumption | (simp (maxDischargeDepth := 40) [State.memoriesWf, *]; done) | refine foldl_wf _ ?_ _ ?_ | intro _ | refine wf_ite ?_ ?_ | refine Out.wf_ite ?_ ?_ | refine wf_ite_fst ?_ ?_ | refine State.withRun_wf _ (by assumption) ?_ | refine State.uform_wf _ _ _ (by assumption) ?_ | refine State.vform_wf _ _ _ _ (by assumption) ?_ | refine State.ucommit_wf _ _ _ _ (by assumption) ?_ | refine State.vcommit_wf _ _ _ (by assumption) ?_ | extract_lets | split))

theorem execRestart_wf (k c0 : Nat) {s : State} (hw : s.memoriesWf) :
    Out.wf (execRestart k c0 s) := by
  unfold execRestart
  (repeat' (first | with_reducible assumption | (simp (maxDischargeDepth := 40) [State.memoriesWf, *]; done) | refine foldl_wf _ ?_ _ ?_ | intro _ | refine wf_ite ?_ ?_ | refine Out.wf_ite ?_ ?_ | refine wf_ite_fst ?_ ?_ | refine State.withRun_wf _ (by assumption) ?_ | refine State.uform_wf _ _ _ (by assumption) ?_ | refine State.vform_wf _ _ _ _ (by assumption) ?_ | refine State.ucommit_wf _ _ _ _ (by assumption) ?_ | refine State.vcommit_wf _ _ _ (by assumption) ?_ | extract_lets | split))

theorem execTimeSliceExpiry_wf (p prio : Nat) {s : State} (hw : s.memoriesWf) :
    Out.wf (execTimeSliceExpiry p prio s) := by
  unfold execTimeSliceExpiry
  (repeat' (first | with_reducible assumption | (simp (maxDischargeDepth := 40) [State.memoriesWf, *]; done) | refine foldl_wf _ ?_ _ ?_ | intro _ | refine wf_ite ?_ ?_ | refine Out.wf_ite ?_ ?_ | refine wf_ite_fst ?_ ?_ | refine State.withRun_wf _ (by assumption) ?_ | refine State.uform_wf _ _ _ (by assumption) ?_ | refine State.vform_wf _ _ _ _ (by assumption) ?_ | refine State.ucommit_wf _ _ _ _ (by assumption) ?_ | refine State.vcommit_wf _ _ _ (by assumption) ?_ | extract_lets | split))

end Sys2Proof.Machine
end

