-- ==== Sys2Proof/Laws/Canon/Events.lean ====
section
/-! SUPPORT. The part's own events, in their default order, keep every memory in canonical form. -/

namespace Sys2Proof.Machine

/-- An event that keeps the canonical form. -/
def KeepsWf (f : State → Out) : Prop := ∀ s : State, s.memoriesWf → Out.wf (f s)

theorem State.firstDue_wf {s t : State} (fs : List (State → Out)) (hf : ∀ f ∈ fs, KeepsWf f) (hw : s.memoriesWf)
    (h : s.firstDue fs = some t) : t.memoriesWf := by
  induction fs with
  | nil => exact absurd h (by simp [State.firstDue])
  | cons f fs ih =>
    unfold State.firstDue at h
    have h1 := hf f (by simp) s hw
    cases ho : f s with
    | next u =>
      rw [ho] at h h1
      obtain rfl := Option.some.inj h
      exact h1
    | fault r => rw [ho] at h; exact ih (fun g hg => hf g (by simp [hg])) h
    | refused r => rw [ho] at h; exact ih (fun g hg => hf g (by simp [hg])) h

theorem eachUpTo_wf (n : Nat) (f : Nat → State → Out) (hf : ∀ k, KeepsWf (f k)) : ∀ g ∈ eachUpTo n f, KeepsWf g := by
  intro g hg
  simp only [eachUpTo, List.mem_map] at hg
  obtain ⟨k, _, rfl⟩ := hg
  exact hf k

theorem append_keeps {fs gs : List (State → Out)} (h : ∀ f ∈ fs, KeepsWf f) (h' : ∀ f ∈ gs, KeepsWf f) :
    ∀ f ∈ fs ++ gs, KeepsWf f := by
  intro f hf
  rcases List.mem_append.mp hf with h1 | h1
  · exact h f h1
  · exact h' f h1

theorem flatMap_keeps {α : Type} {l : List α} {f : α → List (State → Out)} (h : ∀ a, ∀ g ∈ f a, KeepsWf g) :
    ∀ g ∈ l.flatMap f, KeepsWf g := by
  intro g hg
  obtain ⟨a, _, ha⟩ := List.mem_flatMap.mp hg
  exact h a g ha

theorem map_keeps {α : Type} {l : List α} {f : α → State → Out} (h : ∀ a, KeepsWf (f a)) :
    ∀ g ∈ l.map f, KeepsWf g := by
  intro g hg
  obtain ⟨a, _, rfl⟩ := List.mem_map.mp hg
  exact h a

theorem cons_keeps {f : State → Out} {fs : List (State → Out)} (h : KeepsWf f) (h' : ∀ f ∈ fs, KeepsWf f) :
    ∀ g ∈ f :: fs, KeepsWf g := by
  intro g hg
  rcases List.mem_cons.mp hg with rfl | h1
  · exact h
  · exact h' g h1

theorem nil_keeps : ∀ g ∈ ([] : List (State → Out)), KeepsWf g := by intro g hg; cases hg

theorem filterMap_keeps {α : Type} {l : List α} {f : α → Option (State → Out)}
    (h : ∀ a g, f a = some g → KeepsWf g) : ∀ g ∈ l.filterMap f, KeepsWf g := by
  intro g hg
  obtain ⟨a, _, ha⟩ := List.mem_filterMap.mp hg
  exact h a g ha

theorem groupEvents_wf (c : Nat) : ∀ f ∈ groupEvents c, KeepsWf f := by
  unfold groupEvents
  refine flatMap_keeps fun g => ?_
  exact cons_keeps (fun _ h => execTrapEntry_wf _ _ h) <| cons_keeps (fun _ h => execQueueEntryAppend_wf _ _ h) <|
    cons_keeps (fun _ h => execQueueEntryTake_wf _ _ h) <| cons_keeps (fun _ h => execMtsrComplete_wf _ _ h) <|
    cons_keeps (fun _ h => execTbldBankSwap_wf _ _ h) <| cons_keeps (fun _ h => execApgoAnswer_wf _ _ h) <|
    cons_keeps (fun _ h => execDrainDeferredAccept_wf _ _ h) <| cons_keeps (fun _ h => execMailboxOutRecord_wf _ _ h) <|
    cons_keeps (fun _ h => execStationAcceptRego_wf _ _ h) nil_keeps

theorem Core.events_wf (k : Core) (c : Nat) : ∀ f ∈ k.events c, KeepsWf f := by
  unfold Core.events
  refine append_keeps (append_keeps (append_keeps (append_keeps (append_keeps (append_keeps (append_keeps (append_keeps
    (append_keeps (append_keeps (append_keeps (append_keeps (append_keeps (append_keeps ?_ ?_) ?_) ?_) ?_) ?_) ?_) ?_)
    ?_) ?_) ?_) ?_) ?_) ?_) ?_
  · exact groupEvents_wf c
  · exact eachUpTo_wf _ _ fun k _ h => execLoadReturn_wf _ _ _ _ h
  · exact eachUpTo_wf _ _ fun k _ h => execLoadReturn_wf _ _ _ _ h
  · exact eachUpTo_wf _ _ fun k _ h => execStorePerform_wf _ _ _ h
  · exact eachUpTo_wf _ _ fun k _ h => execAtomicPerform_wf _ _ h
  · exact eachUpTo_wf _ _ fun k _ h => execSideLogReplay_wf _ _ h
  · exact eachUpTo_wf _ _ fun k _ h => execReleaseComplete_wf _ _ h
  · exact cons_keeps (fun _ h => execMxAccept_wf _ h) nil_keeps
  · exact eachUpTo_wf _ _ fun k _ h => execMxStart_wf _ _ h
  · exact eachUpTo_wf _ _ fun k _ h => execMxCommandComplete_wf _ _ h
  · exact cons_keeps (fun _ h => execAeAccept_wf _ h) nil_keeps
  · exact eachUpTo_wf _ _ fun k _ h => execAeDigitalPartStart_wf _ _ h
  · exact eachUpTo_wf _ _ fun k _ h => execAeDigitalPartComplete_wf _ _ h
  · exact cons_keeps (fun _ h => execCeAccept_wf _ _ h) <| cons_keeps (fun _ h => execCeAccept_wf _ _ h) <|
      cons_keeps (fun _ h => execCeChunkWrite_wf _ _ _ h) <| cons_keeps (fun _ h => execCeChunkWrite_wf _ _ _ h) nil_keeps
  · exact eachUpTo_wf _ _ fun k _ h => execRunIssue_wf _ _ h

theorem State.unitEvents_wf (s : State) : ∀ f ∈ s.unitEvents, KeepsWf f := by
  unfold State.unitEvents
  refine append_keeps (append_keeps (append_keeps (append_keeps (append_keeps (append_keeps (append_keeps (append_keeps
    (append_keeps (append_keeps (append_keeps (append_keeps ?_ ?_) ?_) ?_) ?_) ?_) ?_) ?_) ?_) ?_) ?_) ?_) ?_
  · exact eachUpTo_wf _ _ fun k _ h => execSplicePerform_wf _ h
  · exact eachUpTo_wf _ _ fun k _ h => execPinPerform_wf _ h
  · exact eachUpTo_wf _ _ fun k _ h => execUnpinPerform_wf _ h
  · exact eachUpTo_wf _ _ fun k _ h => execReclaimRecordDelivery_wf _ h
  · exact eachUpTo_wf _ _ fun k _ h => execStatusEntryDelivery_wf _ h
  · exact eachUpTo_wf _ _ fun k _ h => execDrainTileTake_wf _ h
  · refine flatMap_keeps fun k => ?_
    split
    · exact map_keeps fun line _ h => execNmuLineUpdate_wf _ _ h
    · exact nil_keeps
  · exact eachUpTo_wf _ _ fun k _ h => execStationPacketArrival_wf _ h
  · exact eachUpTo_wf _ _ fun k _ h => execRootRecordDelivery_wf _ h
  · exact cons_keeps (fun _ h => execCarveoutChangeComplete_wf h) nil_keeps
  · exact eachUpTo_wf _ _ fun k _ h => execMailboxOutRecord_wf _ _ h
  · split
    · exact cons_keeps (fun _ h => execConfirm_wf _ _ h) nil_keeps
    · exact nil_keeps
  · exact flatMap_keeps fun p => cons_keeps (fun _ h => execFaultRecordPost_wf _ h) <|
      cons_keeps (fun _ h => execShootdownComplete_wf _ h) nil_keeps

theorem State.dieEvents_wf (s : State) : ∀ f ∈ s.dieEvents, KeepsWf f := by
  unfold State.dieEvents
  refine flatMap_keeps fun p => append_keeps (append_keeps ?_ ?_) ?_
  · exact cons_keeps (fun _ h => execArrayOperationStart_wf _ h) <|
      cons_keeps (fun _ h => execArrayOperationComplete_wf _ _ h) <| cons_keeps (fun _ h => execOboePublish_wf _ h) <|
      cons_keeps (fun _ h => execRetrainComplete_wf _ _ h) nil_keeps
  · exact map_keeps fun x _ h => execRowStage_wf _ _ _ h
  · refine filterMap_keeps fun a g hg => ?_
    obtain ⟨r, _, rfl⟩ := Option.map_eq_some_iff.mp hg
    exact fun _ h => execRowWriteComplete_wf _ _ _ _ h

theorem State.junctionEvents_wf (s : State) : ∀ f ∈ s.junctionEvents, KeepsWf f := by
  unfold State.junctionEvents
  refine append_keeps (append_keeps (append_keeps (append_keeps (append_keeps ?_ ?_) ?_) ?_) ?_) ?_
  · exact eachUpTo_wf _ _ fun k _ h => execLaunchAppend_wf _ h
  · exact map_keeps fun x _ h => execLaunchEnd_wf _ h
  · exact flatMap_keeps fun x => cons_keeps (fun _ h => execQueueBind_wf _ h) <|
      cons_keeps (fun _ h => execLaunchTake_wf _ h) nil_keeps
  · exact flatMap_keeps fun k => eachUpTo_wf _ _ fun c _ h => execRestart_wf _ _ h
  · exact flatMap_keeps fun k => eachUpTo_wf _ _ fun c _ h => execClusterDispatch_wf _ _ h
  · refine filterMap_keeps fun a g hg => ?_
    obtain ⟨r, _, rfl⟩ := Option.map_eq_some_iff.mp hg
    exact fun _ h => execPreempt_wf _ _ h

theorem State.timerEvents_wf (s : State) : ∀ f ∈ s.timerEvents, KeepsWf f := by
  unfold State.timerEvents
  refine append_keeps (append_keeps (append_keeps ?_ ?_) ?_) ?_
  · exact eachUpTo_wf _ _ fun k _ h => execStationDeadlineExpiry_wf _ h
  · exact eachUpTo_wf _ _ fun k _ h => execLateCountdownExpiry_wf _ h
  · exact flatMap_keeps fun p => eachUpTo_wf _ _ fun k _ h => execTimeSliceExpiry_wf _ _ h
  · exact flatMap_keeps fun p => flatMap_keeps fun a => cons_keeps (fun _ h => execOboeGroupFit_wf _ _ _ h) <|
      cons_keeps (fun _ h => execOboeGroupFit_wf _ _ _ h) nil_keeps

/-- What the part does of itself keeps the canonical form. -/
theorem State.auto_wf {s : State} (hw : s.memoriesWf) : s.auto.memoriesWf := by
  unfold State.auto
  split
  · rename_i t h
    exact State.sendChallengeAuth_wf hw t h
  · have h1 : ∀ fs, (∀ f ∈ fs, KeepsWf f) → ∀ t, s.firstDue fs = some t → t.memoriesWf :=
      fun fs hf t h => State.firstDue_wf fs hf hw h
    have hu := h1 _ (append_keeps (State.unitEvents_wf s) (State.dieEvents_wf s))
    have hc := h1 _ (flatMap_keeps (l := s.cores) fun p => Core.events_wf p.2 p.1)
    have hj := h1 _ (State.junctionEvents_wf s)
    have ht := h1 _ (State.timerEvents_wf s)
    cases e1 : s.firstDue (s.unitEvents ++ s.dieEvents) with
    | some t => exact hu t e1
    | none => cases e2 : s.firstDue (s.cores.flatMap fun p => p.2.events p.1) with
      | some t => exact hc t e2
      | none => cases e3 : s.firstDue s.junctionEvents with
        | some t => exact hj t e3
        | none => cases e4 : s.firstDue s.timerEvents with
          | some t => exact ht t e4
          | none => exact hw

end Sys2Proof.Machine
end

