-- ==== Sys2Proof/Laws/Canon/Uniform.lean ====
section
/-! SUPPORT. The operations of Machine/Uniform.lean keep every memory in canonical form. -/

namespace Sys2Proof.Machine

set_option linter.unusedSimpArgs false
set_option linter.unusedVariables false

@[simp] theorem State.uni2_wf {s : State} (i : Instr) (e n : Bool) (d ca cb : Code) (f : Word → Word → Word) (hw : s.memoriesWf) :
    Out.wf (State.uni2 s i e n d ca cb f) := by
  simp (maxDischargeDepth := 40) [State.memoriesWf, State.uni2, hw]

@[simp] theorem State.uni1_wf {s : State} (i : Instr) (e n : Bool) (d ca : Code) (f : Word → Word) (hw : s.memoriesWf) :
    Out.wf (State.uni1 s i e n d ca f) := by
  simp (maxDischargeDepth := 40) [State.memoriesWf, State.uni1, hw]

theorem execUadd_wf (e n : Bool) (d ca cb : Code) {s : State} (hw : s.memoriesWf) :
    Out.wf (execUadd e n d ca cb s) := by
  simp (maxDischargeDepth := 40) [State.memoriesWf, execUadd, hw]

theorem execUsub_wf (e n : Bool) (d ca cb : Code) {s : State} (hw : s.memoriesWf) :
    Out.wf (execUsub e n d ca cb s) := by
  simp (maxDischargeDepth := 40) [State.memoriesWf, execUsub, hw]

theorem execUmul_wf (e n : Bool) (d ca cb : Code) {s : State} (hw : s.memoriesWf) :
    Out.wf (execUmul e n d ca cb s) := by
  simp (maxDischargeDepth := 40) [State.memoriesWf, execUmul, hw]

theorem execUand_wf (e n : Bool) (d ca cb : Code) {s : State} (hw : s.memoriesWf) :
    Out.wf (execUand e n d ca cb s) := by
  simp (maxDischargeDepth := 40) [State.memoriesWf, execUand, hw]

theorem execUor_wf (e n : Bool) (d ca cb : Code) {s : State} (hw : s.memoriesWf) :
    Out.wf (execUor e n d ca cb s) := by
  simp (maxDischargeDepth := 40) [State.memoriesWf, execUor, hw]

theorem execUxor_wf (e n : Bool) (d ca cb : Code) {s : State} (hw : s.memoriesWf) :
    Out.wf (execUxor e n d ca cb s) := by
  simp (maxDischargeDepth := 40) [State.memoriesWf, execUxor, hw]

theorem execUshl_wf (e n : Bool) (d ca cb : Code) {s : State} (hw : s.memoriesWf) :
    Out.wf (execUshl e n d ca cb s) := by
  simp (maxDischargeDepth := 40) [State.memoriesWf, execUshl, hw]

theorem execUshr_wf (e n : Bool) (d ca cb : Code) {s : State} (hw : s.memoriesWf) :
    Out.wf (execUshr e n d ca cb s) := by
  simp (maxDischargeDepth := 40) [State.memoriesWf, execUshr, hw]

theorem execUsar_wf (e n : Bool) (d ca cb : Code) {s : State} (hw : s.memoriesWf) :
    Out.wf (execUsar e n d ca cb s) := by
  simp (maxDischargeDepth := 40) [State.memoriesWf, execUsar, hw]

theorem execUmin_wf (e n : Bool) (d ca cb : Code) {s : State} (hw : s.memoriesWf) :
    Out.wf (execUmin e n d ca cb s) := by
  simp (maxDischargeDepth := 40) [State.memoriesWf, execUmin, hw]

theorem execUmax_wf (e n : Bool) (d ca cb : Code) {s : State} (hw : s.memoriesWf) :
    Out.wf (execUmax e n d ca cb s) := by
  simp (maxDischargeDepth := 40) [State.memoriesWf, execUmax, hw]

theorem execUcmpeq_wf (e n : Bool) (d ca cb : Code) {s : State} (hw : s.memoriesWf) :
    Out.wf (execUcmpeq e n d ca cb s) := by
  simp (maxDischargeDepth := 40) [State.memoriesWf, execUcmpeq, hw]

theorem execUcmpne_wf (e n : Bool) (d ca cb : Code) {s : State} (hw : s.memoriesWf) :
    Out.wf (execUcmpne e n d ca cb s) := by
  simp (maxDischargeDepth := 40) [State.memoriesWf, execUcmpne, hw]

theorem execUcmplt_wf (e n : Bool) (d ca cb : Code) {s : State} (hw : s.memoriesWf) :
    Out.wf (execUcmplt e n d ca cb s) := by
  simp (maxDischargeDepth := 40) [State.memoriesWf, execUcmplt, hw]

theorem execUcmpltn_wf (e n : Bool) (d ca cb : Code) {s : State} (hw : s.memoriesWf) :
    Out.wf (execUcmpltn e n d ca cb s) := by
  simp (maxDischargeDepth := 40) [State.memoriesWf, execUcmpltn, hw]

theorem execUmov_wf (e n : Bool) (d ca : Code) {s : State} (hw : s.memoriesWf) :
    Out.wf (execUmov e n d ca s) := by
  simp (maxDischargeDepth := 40) [State.memoriesWf, execUmov, hw]

theorem execUnot_wf (e n : Bool) (d ca : Code) {s : State} (hw : s.memoriesWf) :
    Out.wf (execUnot e n d ca s) := by
  simp (maxDischargeDepth := 40) [State.memoriesWf, execUnot, hw]

theorem execUneg_wf (e n : Bool) (d ca : Code) {s : State} (hw : s.memoriesWf) :
    Out.wf (execUneg e n d ca s) := by
  simp (maxDischargeDepth := 40) [State.memoriesWf, execUneg, hw]

theorem execUclz_wf (e n : Bool) (d ca : Code) {s : State} (hw : s.memoriesWf) :
    Out.wf (execUclz e n d ca s) := by
  simp (maxDischargeDepth := 40) [State.memoriesWf, execUclz, hw]

theorem execUpopc_wf (e n : Bool) (d ca : Code) {s : State} (hw : s.memoriesWf) :
    Out.wf (execUpopc e n d ca s) := by
  simp (maxDischargeDepth := 40) [State.memoriesWf, execUpopc, hw]

theorem execUaddi_wf (e n : Bool) (d ca : Code) (i : BitVec 8) {s : State} (hw : s.memoriesWf) :
    Out.wf (execUaddi e n d ca i s) := by
  simp (maxDischargeDepth := 40) [State.memoriesWf, execUaddi, hw]

theorem execUandi_wf (e n : Bool) (d ca : Code) (i : BitVec 8) {s : State} (hw : s.memoriesWf) :
    Out.wf (execUandi e n d ca i s) := by
  simp (maxDischargeDepth := 40) [State.memoriesWf, execUandi, hw]

theorem execUori_wf (e n : Bool) (d ca : Code) (i : BitVec 8) {s : State} (hw : s.memoriesWf) :
    Out.wf (execUori e n d ca i s) := by
  simp (maxDischargeDepth := 40) [State.memoriesWf, execUori, hw]

theorem execUshli_wf (e n : Bool) (d ca : Code) (i : BitVec 8) {s : State} (hw : s.memoriesWf) :
    Out.wf (execUshli e n d ca i s) := by
  simp (maxDischargeDepth := 40) [State.memoriesWf, execUshli, hw]

theorem execUshri_wf (e n : Bool) (d ca : Code) (i : BitVec 8) {s : State} (hw : s.memoriesWf) :
    Out.wf (execUshri e n d ca i s) := by
  simp (maxDischargeDepth := 40) [State.memoriesWf, execUshri, hw]

theorem execUaddx_wf (e n : Bool) (d ca cb : Code) {s : State} (hw : s.memoriesWf) :
    Out.wf (execUaddx e n d ca cb s) := by
  simp (maxDischargeDepth := 40) [State.memoriesWf, execUaddx, hw]

theorem execUmulwx_wf (e n : Bool) (d ca cb : Code) {s : State} (hw : s.memoriesWf) :
    Out.wf (execUmulwx e n d ca cb s) := by
  simp (maxDischargeDepth := 40) [State.memoriesWf, execUmulwx, hw]

theorem execUaddxi_wf (e n : Bool) (d ca : Code) (i : BitVec 8) {s : State} (hw : s.memoriesWf) :
    Out.wf (execUaddxi e n d ca i s) := by
  simp (maxDischargeDepth := 40) [State.memoriesWf, execUaddxi, hw]

theorem execUcmpltx_wf (e n : Bool) (d ca cb : Code) {s : State} (hw : s.memoriesWf) :
    Out.wf (execUcmpltx e n d ca cb s) := by
  simp (maxDischargeDepth := 40) [State.memoriesWf, execUcmpltx, hw]

theorem execUldi_wf (e : Bool) (d : Code) (i : BitVec 16) {s : State} (hw : s.memoriesWf) :
    Out.wf (execUldi e d i s) := by
  simp (maxDischargeDepth := 40) [State.memoriesWf, execUldi, hw]

theorem execUldh_wf (e : Bool) (d : Code) (i : BitVec 16) {s : State} (hw : s.memoriesWf) :
    Out.wf (execUldh e d i s) := by
  simp (maxDischargeDepth := 40) [State.memoriesWf, execUldh, hw]

theorem execRdl_wf (e n : Bool) (d ca : Code) {s : State} (hw : s.memoriesWf) :
    Out.wf (execRdl e n d ca s) := by
  simp (maxDischargeDepth := 40) [State.memoriesWf, execRdl, hw]

end Sys2Proof.Machine
end

