-- ==== Sys2Proof/Laws/Exits.lean ====
section
/-! SUPPORT. What judging masks and barriers, and the exits of threads, leave alone: a thread that does not wait is
as it was, in every group. -/

namespace Sys2Proof.Machine

/-- Every thread of `a` that does not wait stands in `b` as it was; the trap registers, the s registers, the queues too. -/
structure KeepsGroup (a b : Group) : Prop where
  rest : ∃ ts ps hs ar si, b = { a with threads := ts, paths := ps, handler := hs, arrived := ar, since := si }
  th : ∀ l, l < 32 → (a.th l).standing.waiting = false → b.th l = a.th l

theorem KeepsGroup.refl (a : Group) : KeepsGroup a a := ⟨⟨_, _, _, _, _, rfl⟩, fun _ _ _ => rfl⟩
theorem KeepsGroup.trans {a b c : Group} (h : KeepsGroup a b) (k : KeepsGroup b c) : KeepsGroup a c where
  rest := by
    obtain ⟨_, _, _, _, _, rfl⟩ := h.rest
    obtain ⟨ts, ps, hs, ar, si, rfl⟩ := k.rest
    exact ⟨ts, ps, hs, ar, si, rfl⟩
  th l hl hw := by
    have := h.th l hl hw
    rw [k.th l hl (by rw [this]; exact hw), this]
theorem KeepsGroup.since (a : Group) (n : Nat) : KeepsGroup a { a with since := n } := ⟨⟨_, _, _, _, _, rfl⟩, fun _ _ _ => rfl⟩

/-- Release: the threads of `m` go on at PC + 4, in a new region; they are listed, unless a run is in progress. -/
theorem Group.release_spec (g : Group) (m : LaneMask) : ∃ ps hs, g.release m =
    { g.mapLanes m fun _ t => { t with standing := .ready, pc := t.pc + 4, regionStart := t.pc + 4 } with
      paths := ps, handler := hs } := by
  unfold Group.release
  generalize (g.mapLanes m fun _ t => { t with standing := .ready, pc := t.pc + 4, regionStart := t.pc + 4 }) = a
  cases g.run.isSome with
  | true => exact ⟨a.paths, a.handler, rfl⟩
  | false =>
    rw [if_neg (by decide)]
    exact ⟨_, _, rfl⟩

theorem Group.release_th (g : Group) (m : LaneMask) {l : Nat} (h : l < 32) : (g.release m).th l =
    if m.getLsbD l then { g.th l with standing := .ready, pc := (g.th l).pc + 4, regionStart := (g.th l).pc + 4 } else g.th l := by
  obtain ⟨ps, hs, e⟩ := Group.release_spec g m
  have e2 : (g.release m).threads = (g.mapLanes m fun _ t => { t with standing := .ready, pc := t.pc + 4, regionStart := t.pc + 4 }).threads := by
    rw [e]
  rw [Group.th_congr e2, Group.th_mapLanes g m _ h]

theorem Group.release_keeps (g : Group) (m : LaneMask)
    (h : ∀ l, l < 32 → m.getLsbD l → (g.th l).standing.waiting = true) : KeepsGroup g (g.release m) where
  rest := by
    obtain ⟨ps, hs, e⟩ := Group.release_spec g m
    have e2 : (g.mapLanes m fun _ t => { t with standing := .ready, pc := t.pc + 4, regionStart := t.pc + 4 }) =
        { g with threads := (g.mapLanes m fun _ t => { t with standing := .ready, pc := t.pc + 4, regionStart := t.pc + 4 }).threads } := rfl
    generalize (g.mapLanes m fun _ t => { t with standing := .ready, pc := t.pc + 4, regionStart := t.pc + 4 }) = a at e e2
    generalize a.threads = ts at e2
    subst e2
    exact ⟨ts, ps, hs, g.arrived, g.since, e⟩
  th l hl hw := by
    rw [Group.release_th g m hl]
    by_cases hm : m.getLsbD l
    · rw [h l hl hm] at hw; cases hw
    · simp [hm]

theorem bitsOf_succ (p : Nat → Bool) (n : Nat) : bitsOf p (n + 1) = 2 ^ n * (p n).toNat + bitsOf p n := by
  rw [bitsOf]; cases p n <;> simp [Nat.add_comm]

theorem bitsOf_lt (p : Nat → Bool) : ∀ n, bitsOf p n < 2 ^ n
  | 0 => Nat.one_pos
  | n + 1 => by
    have := bitsOf_lt p n
    rw [bitsOf_succ, Nat.pow_succ]
    cases p n <;> simp <;> omega

/-- The bits of `bitsOf`: the highest by the last step, the others by the steps before. -/
theorem bitsOf_testBit (p : Nat → Bool) : ∀ n i, (bitsOf p n).testBit i = (decide (i < n) && p i)
  | 0, i => by rw [bitsOf]; simp
  | n + 1, i => by
    rw [bitsOf_succ, Nat.testBit_two_pow_mul_add _ (bitsOf_lt p n), bitsOf_testBit p n i]
    by_cases h : i < n
    · simp [h, Nat.lt_succ_of_lt h]
    · rw [if_neg h]
      by_cases e : i = n
      · rw [e]; cases p n <;> simp
      · have hi : (p n).toNat.testBit (i - n) = false :=
          Nat.testBit_lt_two_pow (Nat.lt_of_lt_of_le (by cases p n <;> decide) (Nat.pow_le_pow_right (n := 2) Nat.two_pos (by omega : 1 ≤ i - n)))
        rw [hi, decide_eq_false (by omega : ¬ i < n + 1), Bool.false_and]

theorem maskOf_getLsbD (p : Nat → Bool) {l : Nat} (h : l < 32) : (maskOf p).getLsbD l = p l := by
  rw [maskOf, BitVec.getLsbD_ofNat]; simp [h, bitsOf_testBit]

theorem Group.lanesWith_getLsbD (g : Group) (p : Thread → Bool) {l : Nat} (h : l < 32) :
    (g.lanesWith p).getLsbD l = p (g.th l) := maskOf_getLsbD _ h

theorem Group.judge_eq (g : Group) (i : Nat) : g.judge i =
    if (g.rejoin i &&& ~~~((g.arrived[i]?.getD 0) ||| g.exitedMask)) = 0 then
      if g.arrived[i]?.getD 0 = 0 then g
      else { g.release ((g.arrived[i]?.getD 0) &&& g.lanesWith fun t => t.standing == .waits i) with
        arrived := g.arrived.setIfInBounds i 0 }
    else g := rfl

theorem Group.judge_keeps (g : Group) (i : Nat) : KeepsGroup g (g.judge i) := by
  rw [Group.judge_eq]
  split
  · split
    · exact .refl g
    · have h := Group.release_keeps g ((g.arrived[i]?.getD 0) &&& g.lanesWith fun t => t.standing == .waits i) fun l hl hm => by
        simp only [BitVec.getLsbD_and, Group.lanesWith_getLsbD _ _ hl, Bool.and_eq_true, beq_iff_eq] at hm
        rw [hm.2]; rfl
      generalize g.release ((g.arrived[i]?.getD 0) &&& g.lanesWith fun t => t.standing == .waits i) = a at h ⊢
      obtain ⟨⟨ts, ps, hs, ar, si, e⟩, ht⟩ := h
      refine ⟨⟨ts, ps, hs, g.arrived.setIfInBounds i 0, si, by rw [e]⟩, fun l hl hw => Eq.trans (Group.th_congr (b := a) rfl l) (ht l hl hw)⟩
  · exact .refl g

theorem Group.judgeAll_keeps (g : Group) : KeepsGroup g g.judgeAll := by
  unfold Group.judgeAll
  generalize List.range 16 = is
  induction is generalizing g with
  | nil => exact .refl g
  | cons i is ih => exact (g.judge_keeps i).trans (ih _)

theorem Group.releaseAt_keeps (g : Group) (st : Standing) (h : st.waiting = true) : KeepsGroup g (g.releaseAt st) := by
  unfold Group.releaseAt
  extract_lets m
  split
  · exact .refl g
  · exact Group.release_keeps g _ fun l hl hm => by
      rw [Group.lanesWith_getLsbD _ _ hl, beq_iff_eq] at hm; rw [hm]; exact h

/-- Every group stands, its threads that do not wait as they were. -/
def KeepsThreads (s t : State) : Prop := ∀ c g a, s.group c g = some a → ∃ b, t.group c g = some b ∧ KeepsGroup a b

theorem KeepsThreads.refl (s : State) : KeepsThreads s s := fun _ _ a h => ⟨a, h, .refl a⟩
theorem KeepsThreads.trans {s t u : State} (h : KeepsThreads s t) (k : KeepsThreads t u) : KeepsThreads s u := by
  intro c g a ha
  obtain ⟨b, hb, hab⟩ := h c g a ha
  obtain ⟨d, hd, hbd⟩ := k c g b hb
  exact ⟨d, hd, hab.trans hbd⟩
theorem KeepsThreads.of_group {s t : State} (h : ∀ c g, t.group c g = s.group c g) : KeepsThreads s t :=
  fun c g a ha => ⟨a, by rw [h, ha], .refl a⟩

theorem KeepsThreads.setGroup {s : State} {c g : Nat} {x y : Group} (hx : s.group c g = some x) (h : KeepsGroup x y) :
    KeepsThreads s (s.setGroup c g y) := by
  intro c' g' a ha
  by_cases e : c = c' ∧ g = g'
  · obtain ⟨rfl, rfl⟩ := e
    rw [hx] at ha; cases ha
    exact ⟨y, State.group_setGroup_same .., h⟩
  · exact ⟨a, by rw [State.group_setGroup_ne s y e, ha], .refl a⟩

theorem KeepsThreads.foldl {α : Type} (f : State → α → State) (h : ∀ s a, KeepsThreads s (f s a)) (as : List α) (s : State) :
    KeepsThreads s (as.foldl f s) := by
  induction as generalizing s with
  | nil => exact .refl s
  | cons a as ih => exact (h s a).trans (ih _)

theorem KeepsThreads.putGroup {s : State} {c g : Nat} {x y : Group} (hx : s.group c g = some x) (h : KeepsGroup x y) :
    KeepsThreads s (s.putGroup c g y) := by
  unfold State.putGroup
  extract_lets k was
  refine .setGroup hx ?_
  cases was
  · exact h.trans (.since y _)
  · exact h

theorem State.mapGroups_keeps (s : State) (bs : List (Nat × Nat)) (f : Group → Group) (h : ∀ g, KeepsGroup g (f g)) :
    KeepsThreads s (s.mapGroups bs f) := by
  refine .foldl _ (fun s p => .foldl _ (fun s g => ?_) _ s) bs s
  split
  · exact .putGroup ‹_› (h _)
  · exact .refl s

/-- A core that holds the groups it held: every group of the machine stands. -/
theorem State.group_setCore (s : State) (c : Nat) (k : Core) (h : k.groups = (s.core c).groups) (c' g : Nat) :
    (s.setCore c k).group c' g = s.group c' g := by
  unfold State.group Core.group
  by_cases e : c = c'
  · subst e; rw [State.core_setCore_same, h]
  · rw [State.core_setCore_ne _ _ e]

theorem State.acquireAt_keeps (s : State) (c scope : Nat) : KeepsThreads s (s.acquireAt c scope) := by
  refine .of_group fun c' g => ?_
  unfold State.acquireAt
  extract_lets
  split
  · exact State.group_setCore s c _ (by rfl) c' g
  · exact State.group_setCore s c _ (by rfl) c' g

theorem State.judgeBar_keeps (s : State) (b : Nat) : KeepsThreads s (s.judgeBar b) := by
  unfold State.judgeBar
  split
  · exact .refl s
  · extract_lets bs owed
    split
    · exact (State.acquireAt_keeps s _ 0).trans (State.mapGroups_keeps _ _ _ fun g => g.releaseAt_keeps _ rfl)
    · exact .refl s

theorem State.judgeBarc_keeps (s : State) (k : Nat) : KeepsThreads s (s.judgeBarc k) := by
  unfold State.judgeBarc
  extract_lets bs owed
  split
  · exact (KeepsThreads.foldl _ (fun (s : State) (p : Nat × Nat) => s.acquireAt_keeps p.2 1) _ s).trans
      (State.mapGroups_keeps _ _ _ fun g => g.releaseAt_keeps _ rfl)
  · exact .refl s

theorem State.judgeBarriers_keeps (s : State) (b : Nat) : KeepsThreads s (s.judgeBarriers b) := by
  unfold State.judgeBarriers
  split
  · exact .refl s
  · exact (s.judgeBar_keeps b).trans (State.judgeBarc_keeps _ _)

theorem State.startRelease_group (s : State) (c part scope : Nat) (why : ReleaseFor) (c' g : Nat) :
    (s.startRelease c part scope why).group c' g = s.group c' g := by
  unfold State.startRelease
  extract_lets k
  split
  · rfl
  · exact (State.group_setCore s c _ (by rfl) c' g)

theorem State.startRelease_keeps (s : State) (c part scope : Nat) (why : ReleaseFor) :
    KeepsThreads s (s.startRelease c part scope why) := .of_group fun c' g => State.startRelease_group s c part scope why c' g

/-! ## The end of a block -/

theorem State.dropPin_group (s : State) (c slot : Nat) (p : Pin) (c' g : Nat) :
    (s.dropPin c slot p).group c' g = s.group c' g := by
  unfold State.dropPin State.askManager
  extract_lets core met s1
  rw [if_pos rfl, State.startRelease_group]
  rfl

theorem State.releasePins_group (s : State) (c b c' g' : Nat) : (s.releasePins c b).group c' g' = s.group c' g' := by
  unfold State.releasePins
  generalize List.range 256 = is
  induction is generalizing s with
  | nil => rfl
  | cons i is ih =>
    rw [List.foldl_cons, ih]
    split
    · split
      · rw [State.dropPin_group]
        exact (State.group_setCore s c _ (by rfl) c' g')
      · rfl
    · rfl

theorem State.freeSlot_group (s : State) {c g c' g' : Nat} (h : ¬(c = c' ∧ g = g')) :
    (s.setCore c ((s.core c).freeSlot g)).group c' g' = s.group c' g' := by
  unfold State.group
  by_cases hc : c = c'
  · subst hc
    rw [State.core_setCore_same]
    exact Core.group_setGroup_ne (s.core c) none fun e => h ⟨rfl, e⟩
  · rw [State.core_setCore_ne _ _ hc]

/-- A group put back stands as it is, but for when its wait began (R141). -/
theorem State.putGroup_group (s : State) (c g : Nat) (x : Group) :
    ∃ n, (s.putGroup c g x).group c g = some { x with since := n } := by
  unfold State.putGroup
  extract_lets k was
  rw [State.group_setGroup_same]
  cases was
  · exact ⟨_, rfl⟩
  · exact ⟨x.since, rfl⟩

/-- No other group is touched. -/
theorem State.putGroup_group_ne (s : State) {c g i j : Nat} (x : Group) (h : ¬(c = i ∧ g = j)) :
    (s.putGroup c g x).group i j = s.group i j := State.group_setGroup_ne _ _ h

/-- A block that ends on a core may let the core's other groups begin runs again, and changes nothing else of them. -/
theorem State.restop_group (s : State) (c : Nat) {c' g : Nat} {a : Group} (h : s.group c' g = some a) :
    ∃ st n, (s.restop c).group c' g = some { a with stopped := st, since := n } := by
  unfold State.restop
  extract_lets stops
  clear_value stops
  generalize List.range 32 = is
  have hk : ∀ u : State, (∃ st n, u.group c' g = some { a with stopped := st, since := n }) →
      ∃ st n, (is.foldl (fun s g => match s.group c g with
        | some x => s.putGroup c g { x with stopped := stops x.launch }
        | none => s) u).group c' g = some { a with stopped := st, since := n } := by
    induction is with
    | nil => exact fun u hu => hu
    | cons i is ih =>
      intro u hu
      refine ih _ ?_
      obtain ⟨st, n, hu⟩ := hu
      cases hx : u.group c i with
      | none => exact ⟨st, n, by simpa only [hx] using hu⟩
      | some x =>
        simp only [hx]
        by_cases e : c = c' ∧ i = g
        · obtain ⟨rfl, rfl⟩ := e
          cases hx.symm.trans hu
          exact ⟨_, State.putGroup_group ..⟩
        · exact ⟨st, n, (State.putGroup_group_ne u _ e).trans hu⟩
  exact hk s ⟨a.stopped, a.since, h⟩

/-- A group that is not spent stands when a block ends. -/
theorem State.endBlock_group (s : State) (b : Nat) {c g : Nat} {a : Group} (h : s.group c g = some a) (hs : a.spent = false) :
    ∃ st n, (s.endBlock b).group c g = some { a with stopped := st, since := n } := by
  unfold State.endBlock
  split
  · exact ⟨_, _, h⟩
  · rename_i blk _
    extract_lets slots spent s1 s2 s3
    split
    · exact ⟨_, _, h⟩
    · rename_i hend
      have hsp : spent = true := by
        cases hb : blk.ended <;> cases hc : spent <;> simp [hb, hc] at hend ⊢
      have hne : ∀ i ∈ slots, ¬(blk.core = c ∧ i = g) := by
        rintro i hi ⟨hc, hg⟩
        have := (List.all_eq_true.mp hsp) i hi
        rw [hc, hg, h] at this
        simp only [hs] at this
        cases this
      have h2 : s2.group c g = some a := by
        have hk : ∀ is : List Nat, (∀ i ∈ is, i ∈ slots) → ∀ u : State, u.group c g = some a →
            (is.foldl (fun s g =>
              let t := match s.group blk.core g with
                | some x => s.leaveMail x (s.blockIndex b)
                | none => s
              t.setCore blk.core ((t.core blk.core).freeSlot g)) u).group c g = some a := by
          intro is
          induction is with
          | nil => intro _ u hu; exact hu
          | cons i is ih =>
            intro hm u hu
            refine ih (fun j hj => hm j (List.mem_cons_of_mem _ hj)) _ ?_
            refine (State.freeSlot_group _ (hne i (hm i (List.mem_cons_self ..)))).trans ?_
            split
            · exact hu
            · exact hu
        exact hk slots (fun _ hi => hi) s1 ((State.releasePins_group ..).trans h)
      have h3 : ∃ st n, s3.group c g = some { a with stopped := st, since := n } := State.restop_group _ _ h2
      clear_value s3
      split
      · exact h3
      · exact h3

/-- A thread that stands ready keeps its group from being over. -/
theorem Group.not_over {g : Group} {l : Nat} (hl : l < 32) (hk : (g.th l).kind ≠ .absent) (hs : (g.th l).standing = .ready) :
    g.over = false := by
  unfold Group.over
  rw [beq_eq_false_iff_ne]
  intro e
  have := congrArg (fun v : LaneMask => v.getLsbD l) e
  simp only [BitVec.getLsbD_and, BitVec.getLsbD_not, Group.presentMask, Group.lanesWith_getLsbD _ _ hl, hs, hl] at this
  simp [hk] at this

theorem Group.settle_th (g : Group) (l : Nat) : g.settle.th l = g.th l := rfl

/-- After exits: a group with a thread that stands ready stands, and its threads that do not wait are as they were. -/
theorem State.afterExit_keeps (s : State) (c g : Nat) {a : Group} (h : s.group c g = some a)
    (hr : ∃ l, l < 32 ∧ (a.th l).kind ≠ .absent ∧ (a.th l).standing = .ready) :
    ∃ b, (s.afterExit c g).group c g = some b ∧
      (∀ l, l < 32 → (a.th l).standing.waiting = false → b.th l = a.th l) ∧
      b.trapCause = a.trapCause ∧ b.trapPc = a.trapPc ∧ b.trapMask = a.trapMask ∧ b.trapVal = a.trapVal ∧ b.s = a.s := by
  obtain ⟨l0, hl0, hk0, hs0⟩ := hr
  unfold State.afterExit
  rw [h]
  simp only
  have k1 : KeepsGroup a.settle a.settle.judgeAll := Group.judgeAll_keeps _
  generalize hj : a.settle.judgeAll = j at k1
  have hth : ∀ l, l < 32 → (a.th l).standing.waiting = false → j.th l = a.th l := fun l hl hw => k1.th l hl hw
  have hregs : j.trapCause = a.trapCause ∧ j.trapPc = a.trapPc ∧ j.trapMask = a.trapMask ∧ j.trapVal = a.trapVal ∧ j.s = a.s := by
    obtain ⟨⟨ts, ps, hs, ar, si, e⟩, _⟩ := k1
    rw [e]; exact ⟨rfl, rfl, rfl, rfl, rfl⟩
  have hj0 : j.th l0 = a.th l0 := hth l0 hl0 (by rw [hs0]; rfl)
  have hover : j.over = false := Group.not_over hl0 (by rw [hj0]; exact hk0) (by rw [hj0]; exact hs0)
  rw [hover]
  simp only [Bool.false_eq_true, if_false]
  generalize hu : s.setCore c (((s.core c).dropReturns g (j.lanesWith fun t => t.standing == .exited)).setGroup g (some j)) = u
  have hug : u.group c g = some j := by
    rw [← hu, State.group, State.core_setCore_same, Core.group_setGroup_same]
  obtain ⟨b, hb, kb⟩ := State.judgeBarriers_keeps u a.block c g j hug
  have hb0 : b.th l0 = a.th l0 := (kb.th l0 hl0 (by rw [hj0, hs0]; rfl)).trans hj0
  have hspent : b.spent = false := by
    have : b.over = false := Group.not_over hl0 (by rw [hb0]; exact hk0) (by rw [hb0]; exact hs0)
    rw [Group.spent, this]; rfl
  obtain ⟨st, n, he⟩ := State.endBlock_group (u.judgeBarriers a.block) a.block hb hspent
  refine ⟨_, he, fun l hl hw => ?_, ?_⟩
  · have e : ({ b with stopped := st, since := n } : Group).th l = b.th l := rfl
    rw [e, kb.th l hl (by rw [hth l hl hw]; exact hw), hth l hl hw]
  · obtain ⟨⟨ts, ps, hs, ar, si, e⟩, _⟩ := kb
    rw [e]; exact hregs

end Sys2Proof.Machine
end

