-- ==== Sys2Proof/Laws/Forms.lean ====
section
/-! SUPPORT. What each shape of an encoded instruction does, in the terms of the claims: the run goes on or ends, the
path's lanes change as the form says, everything else stands. -/

namespace Sys2Proof.Machine

/-! ## One group changes -/

theorem State.ctx_group {s : State} {x : Ctx} (h : s.ctx = some x) :
    s.focus = some (x.c, x.g) ∧ (s.core x.c).group x.g = some x.grp ∧ x.grp.run = some x.run ∧ x.core = s.core x.c := by
  unfold State.ctx at h
  split at h
  · cases h
  · split at h
    · cases h
    · split at h
      · cases h
      · cases h; exact ⟨‹_›, ‹_›, ‹_›, rfl⟩

theorem State.withRun_eq {s : State} {x : Ctx} (h : s.ctx = some x) (k : Ctx → Out) : s.withRun k = k x := by
  simp [State.withRun, h]

theorem State.byteAt_setCore (s : State) (c : Nat) (k : Core) (l : Loc) : (s.setCore c k).byteAt l = s.byteAt l := rfl

theorem SameMachine.refl (s : State) : SameMachine s s := ⟨rfl, fun _ => rfl⟩

theorem SameMachine.setGroup (s : State) (c g : Nat) (y : Group) : SameMachine s (s.setGroup c g y) :=
  ⟨rfl, fun _ => rfl⟩
theorem SameMachine.setGroup_unfocus (s : State) (c g : Nat) (y : Group) : SameMachine s (s.setGroup c g y).unfocus :=
  ⟨rfl, fun _ => rfl⟩

theorem SameCores.setGroup (s : State) (c g : Nat) (y : Group) : SameCores s (s.setGroup c g y) c g where
  groups c' g' h := State.group_setGroup_ne s y fun e => h (by rw [e.1, e.2])
  rest c' := by
    by_cases hc : c = c'
    · subst hc; simp only [State.setGroup, State.core_setCore_same]; rfl
    · rw [State.setGroup, State.core_setCore_ne _ _ hc]
theorem SameCores.setGroup_unfocus (s : State) (c g : Nat) (y : Group) : SameCores s (s.setGroup c g y).unfocus c g :=
  ⟨(SameCores.setGroup s c g y).groups, (SameCores.setGroup s c g y).rest⟩

/-! ## Closing a run -/

theorem Group.relist_eq (g : Group) (ps : List PathRec) : g.relist ps = { g with paths := (g.relist ps).paths } := rfl

theorem Group.closeRun_eq (g : Group) (ran : LaneMask) (back : List LaneMask) :
    g.closeRun ran back = { g with
      run := none, paths := (g.closeRun ran back).paths, handler := (g.closeRun ran back).handler,
      handlerNext := !((ran &&& g.handlerSet) != 0) } := by
  unfold Group.closeRun
  cases (ran &&& g.handlerSet) != 0 <;> rfl

/-- The end of a run whose group has changed in threads and s registers alone: all the terms of `Closes`. -/
theorem Closes.of_closeRun {s t : State} (x : Ctx) (ts : Vector Thread 32) (sv : Vector Word 32) (back : List LaneMask)
    (hf : t.focus = none) : ∃ y, y = { ({ x.grp with threads := ts, s := sv } : Group).closeRun x.run.mask back with since := s.tick } ∧
      SameGroup x.grp y ∧ y.threads = ts ∧ y.s = sv ∧ Closes s t x y back := by
  refine ⟨_, rfl, ?_⟩
  have hc := Group.closeRun_eq { x.grp with threads := ts, s := sv } x.run.mask back
  generalize hp : (({ x.grp with threads := ts, s := sv } : Group).closeRun x.run.mask back).paths = ps at hc
  generalize hh : (({ x.grp with threads := ts, s := sv } : Group).closeRun x.run.mask back).handler = hs at hc
  rw [hc]
  exact ⟨rfl, rfl, rfl, ⟨hf, rfl, rfl, hp.symm, hh.symm, rfl⟩⟩

/-! ## The end of an instruction -/

/-- A group of which the path's threads have moved on: nothing but threads has changed. -/
theorem Group.mapLanes_eq (g : Group) (m : LaneMask) (f : Nat → Thread → Thread) :
    g.mapLanes m f = { g with threads := (g.mapLanes m f).threads } := rfl

/-- An instruction whose path goes on at PC + 4: of its group only the path's threads and the s registers change. -/
theorem State.finish_ran {s : State} {x : Ctx} {e : Bool} {b : Latch} {f : Nat → Thread → Thread} {grp : Group}
    {sv : Vector Word 32} (hg : grp = { x.grp with threads := grp.threads, s := sv })
    (ht : ∀ l, l < 32 → grp.th l = if x.run.mask.getLsbD l then f l (x.grp.th l) else x.grp.th l) :
    Ran s (s.finish x grp e b) x e b (fun l t => (f l t).next) sv := by
  have hth : ∀ l, l < 32 → (grp.mapLanes x.run.mask fun _ t => { t with pc := t.pc + 4 }).th l =
      if x.run.mask.getLsbD l then (f l (x.grp.th l)).next else x.grp.th l := by
    intro l hl
    rw [Group.th_mapLanes _ _ _ hl, ht l hl]
    cases x.run.mask.getLsbD l <;> rfl
  have hm := Group.mapLanes_eq grp x.run.mask fun _ t => { t with pc := t.pc + 4 }
  unfold State.finish State.goOn
  generalize (grp.mapLanes x.run.mask fun _ t => { t with pc := t.pc + 4 }) = m at hm hth ⊢
  generalize m.threads = mt at hm
  generalize grp.threads = ts at hg
  subst hg hm
  cases e
  · exact ⟨.setGroup .., .setGroup .., _, State.group_setGroup_same .., rfl, ⟨rfl, hth⟩, ⟨rfl, rfl, rfl, rfl, rfl, rfl⟩⟩
  · obtain ⟨y, hy, h1, h2, h3, h4⟩ := Closes.of_closeRun (s := s) (t := (s.setGroup x.c x.g
      { ({ x.grp with threads := mt, s := sv } : Group).closeRun x.run.mask [x.run.mask] with since := s.tick }).unfocus) x mt sv [x.run.mask] rfl
    refine ⟨.setGroup_unfocus .., .setGroup_unfocus .., y, ?_, h1, ⟨h3, fun l hl => ?_⟩, h4⟩
    · rw [hy]; exact State.group_setGroup_same ..
    · exact (Group.th_congr (b := { x.grp with threads := mt, s := sv }) h2 l).trans (hth l hl)

/-! ## The shapes -/

theorem lanewise_getD {α : Type} (z : α) (m : LaneMask) (f : Nat → α) {l : Nat} (h : l < 32) :
    (lanewise z m f)[l]?.getD z = if m.getLsbD l then f l else z := by
  simp [lanewise, h]

theorem State.vform_eq {s : State} {x : Ctx} {i : Instr} {e : Bool} {uses : List Use} (h : LaneReady s x uses)
    (k : Ctx → Out) : s.vform i e uses k = k x := by
  rw [State.vform, State.withRun_eq h.1, if_neg h.2.1, h.2.2]

theorem State.uform_eq {s : State} {x : Ctx} {i : Instr} {uses : List Use} (h : UniformReady s x uses)
    (k : Ctx → Out) : s.uform i uses k = k x := by
  simp [State.uform, State.withRun_eq h.1, h.2]

theorem latch_eq (x : Ctx) (f : Nat → Word) :
    latch32 (lanewise 0 x.run.mask f) = laneEntry x fun l => (f l).setWidth 64 := by
  refine congrArg Latch.lanes (Vector.ext fun i hi => ?_)
  simp only [lanewise, Vector.getElem_map, Vector.getElem_ofFn]
  cases x.run.mask.getLsbD i <;> rfl

theorem latchBool_eq (x : Ctx) (f : Nat → Bool) :
    latchBool (lanewise false x.run.mask f) = laneEntry x fun l => if f l then 1 else 0 := by
  refine congrArg Latch.lanes (Vector.ext fun i hi => ?_)
  simp only [lanewise, Vector.getElem_map, Vector.getElem_ofFn]
  cases x.run.mask.getLsbD i <;> rfl

theorem Ran.congr {s t : State} {x : Ctx} {e : Bool} {b : Latch} {f f' : Nat → Thread → Thread} {sv : Vector Word 32}
    (h : Ran s t x e b f sv) (hf : ∀ l th, l < 32 → x.run.mask.getLsbD l → f l th = f' l th) : Ran s t x e b f' sv := by
  obtain ⟨h1, h2, y, h3, h4, ⟨h5, h6⟩, h7⟩ := h
  refine ⟨h1, h2, y, h3, h4, ⟨h5, fun l hl => ?_⟩, h7⟩
  rw [h6 l hl]
  split
  · exact hf l _ hl ‹_›
  · rfl

/-- The finish of a 32-bit result. -/
theorem State.finish_lanes {s : State} {x : Ctx} (e n : Bool) (d : Code) (f : Nat → Word) :
    Writes32 s (s.finish x (x.grp.writeLanes x.run.mask n d (lanewise 0 x.run.mask f)) e
      (latch32 (lanewise 0 x.run.mask f))) x e n d f := by
  rw [latch_eq]
  refine (State.finish_ran (f := fun l th => { th with v := if n then th.v else th.v.setIfInBounds d.toNat (f l) }) ?_ ?_)
  · cases n <;> rfl
  · intro l hl
    cases n
    · simp only [Group.writeLanes, Bool.false_eq_true, if_false]
      rw [Group.th_mapLanes _ _ _ hl, lanewise_getD _ _ _ hl]
      cases x.run.mask.getLsbD l <;> rfl
    · simp [Group.writeLanes]

theorem State.laneOp_writes {s : State} {x : Ctx} {i : Instr} {e n : Bool} {d : Code} {uses : List Use}
    (h : LaneReady s x (uses ++ [.dst d n])) (f : Ctx → Nat → Word) :
    ∃ t, s.laneOp i e n d uses f = .next t ∧ Writes32 s t x e n d (f x) :=
  ⟨_, State.vform_eq h _, State.finish_lanes e n d (f x)⟩

theorem State.laneOp64_writes {s : State} {x : Ctx} {i : Instr} {e n : Bool} {d : Code} {uses : List Use}
    (h : LaneReady s x (uses ++ [.dstPair d n])) (f : Ctx → Nat → Dword) :
    ∃ t, s.laneOp64 i e n d uses f = .next t ∧ Writes64 s t x e n d (f x) := by
  refine ⟨_, State.vform_eq h _, ?_⟩
  refine (State.finish_ran (f := fun l th => { th with v := if n then th.v else
      (th.v.setIfInBounds d.toNat ((f x l).setWidth 32)).setIfInBounds (d.toNat + 1) ((f x l).extractLsb' 32 32) }) ?_ ?_)
  · cases n <;> rfl
  · intro l hl
    cases n
    · simp only [Group.writePairs, Bool.false_eq_true, if_false]
      rw [Group.th_mapLanes _ _ _ hl, lanewise_getD _ _ _ hl]
      cases x.run.mask.getLsbD l <;> rfl
    · simp [Group.writePairs]

theorem State.lanePred_writes {s : State} {x : Ctx} {i : Instr} {e : Bool} {kd : Code} {uses : List Use}
    (h : LaneReady s x uses) (f : Ctx → Nat → Bool) :
    ∃ t, s.lanePred i e kd uses f = .next t ∧ WritesPred s t x e kd (f x) := by
  refine ⟨_, State.vform_eq h _, ?_⟩
  rw [latchBool_eq]
  refine (State.finish_ran (f := fun l th => { th with k := setBit th.k kd.toNat (f x l) }) ?_ ?_)
  · rfl
  · intro l hl
    simp only [Group.writePreds]
    rw [Group.th_mapLanes _ _ _ hl, lanewise_getD _ _ _ hl]
    cases x.run.mask.getLsbD l <;> rfl

theorem State.finish_uniform {s : State} {x : Ctx} (e n : Bool) (d : Code) (v : Word) :
    WritesS s (s.finish x (x.grp.writeS n d v) e (.uniform (v.setWidth 64))) x e n d v := by
  refine State.finish_ran (f := fun _ th => th) ?_ ?_
  · cases n <;> rfl
  · intro l hl; cases n <;> simp [Group.writeS, Group.setSreg, Group.th]

theorem State.finish_uniform64 {s : State} {x : Ctx} (e n : Bool) (d : Code) (v : Dword) :
    WritesS64 s (s.finish x (x.grp.writeS2 n d v) e (.uniform v)) x e n d v := by
  refine State.finish_ran (f := fun _ th => th) ?_ ?_
  · cases n <;> rfl
  · intro l hl; cases n <;> simp [Group.writeS2, Group.setSreg, Group.th]

theorem State.uniOp_writes {s : State} {x : Ctx} {i : Instr} {e n : Bool} {d : Code} {uses : List Use}
    (h : UniformReady s x (uses ++ [.dst d n])) (f : Ctx → Word) :
    ∃ t, s.uniOp i e n d uses f = .next t ∧ WritesS s t x e n d (f x) :=
  ⟨_, State.uform_eq h _, State.finish_uniform e n d (f x)⟩

theorem State.uniOp64_writes {s : State} {x : Ctx} {i : Instr} {e n : Bool} {d : Code} {uses : List Use}
    (h : UniformReady s x (uses ++ [.dstPair d n])) (f : Ctx → Dword) :
    ∃ t, s.uniOp64 i e n d uses f = .next t ∧ WritesS64 s t x e n d (f x) :=
  ⟨_, State.uform_eq h _, State.finish_uniform64 e n d (f x)⟩

/-! ## Branches and traps -/

theorem State.branch_moves {s : State} {x : Ctx} {grp : Group} {f : Nat → Thread → Thread} {sv : Vector Word 32}
    {back : Group → List LaneMask} (hg : grp = { x.grp with threads := grp.threads, s := sv })
    (ht : ∀ l, l < 32 → grp.th l = if x.run.mask.getLsbD l then f l (x.grp.th l) else x.grp.th l) :
    Moves s (s.branch x grp (back { x.grp with threads := grp.threads })) x f sv back := by
  generalize grp.threads = ts at hg ⊢
  subst hg
  obtain ⟨y, hy, h1, h2, h3, h4⟩ := Closes.of_closeRun (s := s) (t := s.branch x { x.grp with threads := ts, s := sv }
    (back { x.grp with threads := ts })) x ts sv (back { x.grp with threads := ts }) rfl
  refine ⟨.setGroup_unfocus .., .setGroup_unfocus .., y, ?_, h1, ⟨h3, fun l hl => ?_⟩, ?_⟩
  · rw [hy]; exact State.group_setGroup_same ..
  · exact (Group.th_congr (b := { x.grp with threads := ts, s := sv }) h2 l).trans (ht l hl)
  · rw [h2]; exact h4

theorem lowestLane_eq (m : LaneMask) (h : m ≠ 0) : lowestLane m < 32 ∧ m.getLsbD (lowestLane m) := by
  unfold lowestLane laneNumbers
  cases hf : (List.range 32).find? fun l => m.getLsbD l with
  | some l => exact ⟨List.mem_range.mp (List.mem_of_find?_eq_some hf), by simpa using List.find?_some hf⟩
  | none =>
    exfalso; apply h
    rw [List.find?_eq_none] at hf
    apply BitVec.eq_of_getLsbD_eq
    intro i hi
    simpa using hf i (List.mem_range.mpr hi)

theorem SameCores.trans {s t u : State} {c g : Nat} (h : SameCores s t c g) (k : SameCores t u c g) : SameCores s u c g :=
  ⟨fun c' g' e => (k.groups c' g' e).trans (h.groups c' g' e), fun c' => (k.rest c').trans (h.rest c')⟩
theorem SameMachine.trans {s t u : State} (h : SameMachine s t) (k : SameMachine t u) : SameMachine s u :=
  ⟨k.rest.trans h.rest, fun l => (k.bytes l).trans (h.bytes l)⟩

/-- A group whose wait begins at this moment is put back as it is. -/
theorem State.putGroup_now {s : State} {c g : Nat} {x : Group} (h : x.since = s.tick) : s.putGroup c g x = s.setGroup c g x := by
  have e : ({ x with since := s.tick } : Group) = x := by rw [← h]
  unfold State.putGroup
  extract_lets k was
  rw [e]
  cases was <;> rfl

/-- No lanes stand at no place. -/
theorem Group.placesOf_zero (g : Group) : g.placesOf 0 = [] := by
  unfold Group.placesOf
  rw [show lanesOf 0 = [] by decide]
  rfl
theorem Group.addHandlers_zero (g : Group) : g.addHandlers 0 = g := by
  unfold Group.addHandlers
  rw [Group.placesOf_zero]
  rfl

/-- Outside a handler, the end of a run orders the service list. -/
theorem Group.closeRun_list (g : Group) (ran : LaneMask) (back : List LaneMask) (h : g.handlerSet = 0) :
    ∃ ps, g.closeRun ran back = { g with run := none, paths := ps, handlerNext := true } := by
  unfold Group.closeRun
  extract_lets h1 free listed
  have e : h1.addHandlers (free &&& h1.handlerSet) = h1 := by
    have : h1.handlerSet = 0 := h
    have hz : free &&& (0 : LaneMask) = 0 := BitVec.and_zero
    rw [this, hz, Group.addHandlers_zero]
  rw [if_neg (by simp [h])]
  show ∃ ps, ({ (h1.addHandlers (free &&& h1.handlerSet)).endRunPaths ran (listed ++ back) with handlerNext := true } : Group) = _
  rw [e]
  exact ⟨_, rfl⟩

theorem Group.enterTrap_spec (g : Group) (h : HeldTrap) (vec : Dword) : ∃ ts : Vector Thread 32, g.enterTrap h vec = { g with
      threads := ts, trapCause := BitVec.ofNat 32 h.cause,
      trapPc := (g.th (lowestLane h.mask)).pc &&& ~~~3, trapMask := h.mask, trapVal := h.value,
      savedBase := (g.th (lowestLane h.mask)).codeBase, handlerSet := g.handlerSet ||| h.mask,
      handler := g.handler ++ [h.mask] } ∧
    ∀ l, l < 32 → ts[l]?.getD Thread.reset = if h.mask.getLsbD l then
      { g.th l with plvl := (g.th l).lvl, lvl := true, pc := 0, codeBase := vec, standing := .ready } else g.th l := by
  have h1 := fun l hl => Group.th_mapLanes g h.mask
    (fun _ t => { t with plvl := t.lvl, lvl := true, pc := 0, codeBase := vec, standing := .ready }) (l := l) hl
  unfold Group.enterTrap
  generalize hm : (g.mapLanes h.mask fun _ t => { t with plvl := t.lvl, lvl := true, pc := 0, codeBase := vec, standing := .ready }) = a at h1 ⊢
  have e : a = { g with threads := a.threads } := by rw [← hm]; simp only [Group.mapLanes]
  refine ⟨a.threads, ?_, h1⟩
  generalize a.threads = ts at e
  subst e
  rfl

theorem Group.holdSets_spec (g : Group) (h : HeldTrap) : ∃ ts : Vector Thread 32, g.holdSets [h] = { g with threads := ts } ∧
    ∀ l, l < 32 → ts[l]?.getD Thread.reset = if h.mask.getLsbD l then { g.th l with standing := .held } else g.th l := by
  have e : ([h].foldl (fun m (h : HeldTrap) => m ||| h.mask) (0 : LaneMask)) = h.mask := by simp
  unfold Group.holdSets
  rw [e]
  exact ⟨_, rfl, fun l hl => Group.th_mapLanes g h.mask (fun _ t => { t with standing := .held }) hl⟩

theorem lowestLane_lt (m : LaneMask) : lowestLane m < 32 := by
  by_cases h : m = 0
  · subst h; decide
  · exact (lowestLane_eq m h).1

/-- A trap of the whole path, where a handler answers it. -/
theorem State.trapPath_enters {s : State} {x : Ctx} (h : TrapFree s x) (cause : Nat) (value : Word) :
    EntersTrap s (s.trapPath x cause value) x cause value := by
  obtain ⟨h1, h2, h3, la, h4, h5⟩ := h
  generalize hT : ({ mask := x.run.mask, cause := cause, value := value, before := 0 } : HeldTrap) = T
  obtain ⟨ts, e1, e2⟩ := Group.holdSets_spec x.grp T
  rw [show T.mask = x.run.mask by rw [← hT]] at e2
  obtain ⟨ps, hc⟩ := Group.closeRun_list { x.grp with threads := ts } x.run.mask [] h1
  have hlvl : ∀ l, l < 32 → x.run.mask.getLsbD l → (ts[l]?.getD Thread.reset).lvl = false := by
    intro l hl hm
    rw [e2 l hl, if_pos hm]; exact h3 l hl hm
  -- no lane traps at supervisor level
  have hno : ([T].find? fun h => (lanesOf h.mask).any fun l => ((({ x.grp with threads := ts } : Group).closeRun x.run.mask []).th l).lvl) = none := by
    rw [List.find?_eq_none]
    intro h hm
    rw [List.mem_singleton] at hm; subst hm
    rw [hc, ← hT]
    simp only [Bool.not_eq_true, List.any_eq_false, lanesOf, laneNumbers, List.mem_filter, List.mem_range]
    intro l hl
    exact hlvl l hl.1 hl.2
  rw [hc] at hno
  unfold State.trapPath State.takeTrap State.raise
  rw [hT, e1, hc, hno]
  simp only [h2, List.nil_append]
  generalize hs1 : s.setGroup x.c x.g _ = s1
  have hg1 := State.group_setGroup_same s x.c x.g _ ▸ congrArg (fun z : State => z.group x.c x.g) hs1.symm
  unfold State.enterTrap
  rw [hg1]
  have hl1 : s1.launch x.grp.launch = some la := by rw [← hs1]; exact h4
  have hp1 : s1.partition la.part = s.partition la.part := by rw [← hs1]; rfl
  simp only [h1, ne_eq, not_true_eq_false, if_false, hl1, hp1, h5, Bool.false_eq_true]
  have htick : s1.tick = s.tick := by rw [← hs1]; rfl
  have hm : SameMachine s s1 := by rw [← hs1]; exact .setGroup ..
  have hcores : SameCores s s1 x.c x.g := by rw [← hs1]; exact .setGroup ..
  clear hg1 hs1 hno hc
  generalize hg : ({ x.grp with threads := ts, handlerSet := 0, handlerNext := true, heldTraps := [], paths := ps, run := none, since := s.tick } : Group) = g0
  have hth : ∀ l, g0.th l = ts[l]?.getD Thread.reset := fun l => by rw [← hg]; rfl
  obtain ⟨ts', e3, e4⟩ := Group.enterTrap_spec g0 T (s.partition la.part).trapVec
  rw [State.putGroup_now (by rw [htick, e3, ← hg])]
  have hlow : (g0.th (lowestLane x.run.mask)).pc = x.pc ∧
      (g0.th (lowestLane x.run.mask)).codeBase = (x.grp.th (lowestLane x.run.mask)).codeBase := by
    rw [hth, e2 _ (lowestLane_lt _), Ctx.pc]; split <;> exact ⟨rfl, rfl⟩
  rw [← hT] at e3 e4
  simp only [hlow.1, hlow.2] at e3
  refine ⟨hm.trans (.setGroup_unfocus ..), hcores.trans (.setGroup_unfocus ..), rfl, _, la, h4,
    State.group_setGroup_same .., ?_, fun l hl => ?_⟩
  · rw [← hT, e3, ← hg, ← h2]
    simp only [BitVec.ofNat_eq_ofNat, BitVec.zero_or, Ctx.pc]
  · rw [← hT, e3]
    refine (e4 l hl).trans ?_
    rw [hth, e2 l hl]
    by_cases hb : x.run.mask.getLsbD l
    · have h0 := h3 l hl hb
      simp only [hb, if_true, h0]
    · simp only [hb, if_false, Bool.false_eq_true]

end Sys2Proof.Machine
end

