-- ==== Sys2Proof/Laws/PerInstr.lean ====
section
/-! SUPPORT. One law for each instruction, about its word: bit 30 is its E bit (R30, R62). The forms without an E field
always end the run, and their words hold 1 there; an event has no word. -/

namespace Sys2Proof.Laws

/-- The E bit of the forms that have one, 1 for the other encoded forms, none for an event (R30, R62). -/
def endBit : Instr → Option Bool
  | .add e _ _ _ _ => some e
  | .sub e _ _ _ _ => some e
  | .mul e _ _ _ _ => some e
  | .mulh e _ _ _ _ => some e
  | .mulhn e _ _ _ _ => some e
  | .and e _ _ _ _ => some e
  | .or e _ _ _ _ => some e
  | .xor e _ _ _ _ => some e
  | .andn e _ _ _ _ => some e
  | .shl e _ _ _ _ => some e
  | .shr e _ _ _ _ => some e
  | .sar e _ _ _ _ => some e
  | .min e _ _ _ _ => some e
  | .max e _ _ _ _ => some e
  | .minn e _ _ _ _ => some e
  | .maxn e _ _ _ _ => some e
  | .addsat e _ _ _ _ => some e
  | .subsat e _ _ _ _ => some e
  | .addsatn e _ _ _ _ => some e
  | .subsatn e _ _ _ _ => some e
  | .absd e _ _ _ _ => some e
  | .bfx e _ _ _ _ => some e
  | .bfxn e _ _ _ _ => some e
  | .bfi e _ _ _ _ => some e
  | .sel e _ _ _ _ => some e
  | .mov e _ _ _ => some e
  | .not e _ _ _ => some e
  | .neg e _ _ _ => some e
  | .abs e _ _ _ => some e
  | .clz e _ _ _ => some e
  | .popc e _ _ _ => some e
  | .brev e _ _ _ => some e
  | .sextb e _ _ _ => some e
  | .sexth e _ _ _ => some e
  | .zextb e _ _ _ => some e
  | .zexth e _ _ _ => some e
  | .addx e _ _ _ _ => some e
  | .subx e _ _ _ _ => some e
  | .mulwx e _ _ _ _ => some e
  | .mulwxn e _ _ _ _ => some e
  | .leax e _ _ _ _ => some e
  | .addxi e _ _ _ _ => some e
  | .addi e _ _ _ _ => some e
  | .andi e _ _ _ _ => some e
  | .ori e _ _ _ _ => some e
  | .xori e _ _ _ _ => some e
  | .shli e _ _ _ _ => some e
  | .shri e _ _ _ _ => some e
  | .sari e _ _ _ _ => some e
  | .muli e _ _ _ _ => some e
  | .ldi e _ _ => some e
  | .ldh e _ _ => some e
  | .cmpeq e _ _ _ => some e
  | .cmpne e _ _ _ => some e
  | .cmplt e _ _ _ => some e
  | .cmple e _ _ _ => some e
  | .cmpltn e _ _ _ => some e
  | .cmplen e _ _ _ => some e
  | .cmpeqi e _ _ _ => some e
  | .cmplti e _ _ _ => some e
  | .cmpltni e _ _ _ => some e
  | .cmpltx e _ _ _ => some e
  | .cmpeqx e _ _ _ => some e
  | .kand e _ _ _ => some e
  | .kor e _ _ _ => some e
  | .kxor e _ _ _ => some e
  | .kandn e _ _ _ => some e
  | .kset e _ _ _ => some e
  | .kget e _ _ _ => some e
  | .fadd e _ _ _ _ => some e
  | .fsub e _ _ _ _ => some e
  | .fmul e _ _ _ _ => some e
  | .ffma e _ _ _ _ => some e
  | .fmin e _ _ _ _ => some e
  | .fmax e _ _ _ _ => some e
  | .faddz e _ _ _ _ => some e
  | .fmulz e _ _ _ _ => some e
  | .ffmaz e _ _ _ _ => some e
  | .fcmpeq e _ _ _ => some e
  | .fcmplt e _ _ _ => some e
  | .fcmple e _ _ _ => some e
  | .fcmpun e _ _ _ => some e
  | .fabs e _ _ _ => some e
  | .fneg e _ _ _ => some e
  | .ffloor e _ _ _ => some e
  | .fceil e _ _ _ => some e
  | .frint e _ _ _ => some e
  | .ftrunc e _ _ _ => some e
  | .fexp2 e _ _ _ => some e
  | .flog2 e _ _ _ => some e
  | .frcp e _ _ _ => some e
  | .frsq e _ _ _ => some e
  | .fsqrt e _ _ _ => some e
  | .fsinp e _ _ _ => some e
  | .fcosp e _ _ _ => some e
  | .ftanh e _ _ _ => some e
  | .fsig e _ _ _ => some e
  | .cvtfi e _ _ _ => some e
  | .cvtfiz e _ _ _ => some e
  | .cvtfn e _ _ _ => some e
  | .cvtif e _ _ _ => some e
  | .cvtnf e _ _ _ => some e
  | .cvtbf e _ _ _ => some e
  | .cvtbfh e _ _ _ => some e
  | .cvthf e _ _ _ => some e
  | .cvthfh e _ _ _ => some e
  | .cvtfb e _ _ _ _ => some e
  | .cvtfbs e _ _ _ _ => some e
  | .cvtfh e _ _ _ _ => some e
  | .badd2 e _ _ _ _ => some e
  | .bmul2 e _ _ _ _ => some e
  | .bfma2 e _ _ _ _ => some e
  | .bmax2 e _ _ _ _ => some e
  | .bmin2 e _ _ _ _ => some e
  | .qntf8 e _ _ _ _ => some e
  | .qntf6 e _ _ _ _ => some e
  | .qntf4 e _ _ _ _ => some e
  | .qnti8 e _ _ _ _ => some e
  | .dqn e _ _ _ _ => some e
  | .rnd e _ _ _ _ => some e
  | .shfl e _ _ _ _ => some e
  | .shflu e _ _ _ _ => some e
  | .shfld e _ _ _ _ => some e
  | .shflx e _ _ _ _ => some e
  | .qex e _ _ _ _ => some e
  | .voteb e _ _ _ => some e
  | .votean e _ _ => some e
  | .voteal e _ _ => some e
  | .gred e _ _ _ _ => some e
  | .gscan e _ _ _ _ => some e
  | .brk _ _ _ => some true
  | .jmpi _ => some true
  | .jmpt _ _ _ => some true
  | .calli _ _ _ => some true
  | .wait _ => some true
  | .exit => some true
  | .ld8 e _ _ _ _ => some e
  | .ld8s e _ _ _ _ => some e
  | .ld16 e _ _ _ _ => some e
  | .ld16s e _ _ _ _ => some e
  | .ld32 e _ _ _ _ => some e
  | .ld64 e _ _ _ _ => some e
  | .ld128 e _ _ _ _ => some e
  | .st8 e _ _ _ => some e
  | .st16 e _ _ _ => some e
  | .st32 e _ _ _ => some e
  | .st64 e _ _ _ => some e
  | .st128 e _ _ _ => some e
  | .aadd _ _ _ _ _ => some true
  | .aaddf _ _ _ _ _ => some true
  | .aaddb2 _ _ _ _ _ => some true
  | .amin _ _ _ _ _ => some true
  | .amax _ _ _ _ _ => some true
  | .aminn _ _ _ _ _ => some true
  | .amaxn _ _ _ _ _ => some true
  | .aand _ _ _ _ _ => some true
  | .aor _ _ _ _ _ => some true
  | .axor _ _ _ _ _ => some true
  | .axch _ _ _ _ _ => some true
  | .acas _ _ _ _ _ => some true
  | .aaddx _ _ _ _ _ => some true
  | .axchx _ _ _ _ _ => some true
  | .acasx _ _ _ _ _ => some true
  | .pfNormal e _ _ => some e
  | .pfEvictFirst e _ _ => some e
  | .pfEvictLast e _ _ => some e
  | .pfLlcOnly e _ _ => some e
  | .stad e _ _ _ _ => some e
  | .mxgo _ _ => some true
  | .aego _ _ => some true
  | .uadd e _ _ _ _ => some e
  | .usub e _ _ _ _ => some e
  | .umul e _ _ _ _ => some e
  | .uand e _ _ _ _ => some e
  | .uor e _ _ _ _ => some e
  | .uxor e _ _ _ _ => some e
  | .ushl e _ _ _ _ => some e
  | .ushr e _ _ _ _ => some e
  | .usar e _ _ _ _ => some e
  | .umin e _ _ _ _ => some e
  | .umax e _ _ _ _ => some e
  | .umov e _ _ _ => some e
  | .unot e _ _ _ => some e
  | .uneg e _ _ _ => some e
  | .uclz e _ _ _ => some e
  | .upopc e _ _ _ => some e
  | .uaddx e _ _ _ _ => some e
  | .umulwx e _ _ _ _ => some e
  | .uaddi e _ _ _ _ => some e
  | .uandi e _ _ _ _ => some e
  | .uori e _ _ _ _ => some e
  | .ushli e _ _ _ _ => some e
  | .ushri e _ _ _ _ => some e
  | .uaddxi e _ _ _ _ => some e
  | .uldi e _ _ => some e
  | .uldh e _ _ => some e
  | .ucmpeq e _ _ _ _ => some e
  | .ucmpne e _ _ _ _ => some e
  | .ucmplt e _ _ _ _ => some e
  | .ucmpltn e _ _ _ _ => some e
  | .ucmpltx e _ _ _ _ => some e
  | .rdl e _ _ _ => some e
  | .ubra _ => some true
  | .ubz _ _ => some true
  | .ubnz _ _ => some true
  | .ucall _ => some true
  | .uret _ => some true
  | .region => some true
  | .mset e _ => some e
  | .mclr e _ => some e
  | .uexit => some true
  | .bar => some true
  | .barc => some true
  | .phase _ _ => some true
  | .ifence => some true
  | .unop e => some e
  | .push _ _ => some true
  | .pop _ _ _ => some true
  | .qtry _ _ _ => some true
  | .qstat e _ _ _ => some e
  | .bwait _ _ => some true
  | .bexp _ _ _ _ => some true
  | .barv _ _ _ => some true
  | .cego _ _ _ _ => some true
  | .rego _ _ _ => some true
  | .splice _ _ _ _ => some true
  | .pin _ _ _ => some true
  | .unpin _ _ _ => some true
  | .drain _ _ _ => some true
  | .launch _ _ _ _ => some true
  | .trap _ => some true
  | .eret => some true
  | .mfsr e _ _ _ => some e
  | .mtsr _ _ => some true
  | .fpev e _ _ _ => some e
  | .errc e _ _ _ => some e
  | .cyc e _ => some e
  | .bkpt _ => some true
  | .apgo _ _ _ => some true
  | .tbld _ _ _ _ => some true
  | .runIssue _ _ => none
  | .loadReturn _ _ _ _ => none
  | .atomicPerform _ _ => none
  | .storePerform _ _ _ => none
  | .sideLogReplay _ _ => none
  | .releaseComplete _ _ => none
  | .queueEntryAppend _ _ => none
  | .queueEntryTake _ _ => none
  | .trapEntry _ _ => none
  | .faultRecordPost _ => none
  | .tbldBankSwap _ _ => none
  | .mxAccept _ => none
  | .mxStart _ _ => none
  | .mxCommandComplete _ _ => none
  | .aeAccept _ => none
  | .arrayOperationStart _ => none
  | .arrayOperationComplete _ _ => none
  | .aeDigitalPartStart _ _ => none
  | .aeDigitalPartComplete _ _ => none
  | .ceAccept _ _ => none
  | .ceChunkWrite _ _ _ => none
  | .drainDeferredAccept _ _ => none
  | .drainTileTake _ => none
  | .nmuLineUpdate _ _ => none
  | .splicePerform _ => none
  | .pinPerform _ => none
  | .unpinPerform _ => none
  | .reclaimRecordDelivery _ => none
  | .statusEntryDelivery _ => none
  | .stationAcceptRego _ _ => none
  | .stationPacketArrival _ => none
  | .stationDeadlineExpiry _ => none
  | .lateCountdownExpiry _ => none
  | .rootRecordDelivery _ => none
  | .oboeGroupFit _ _ _ => none
  | .oboePublish _ => none
  | .oboeStarvationTimeout _ => none
  | .queueBind _ => none
  | .launchTake _ => none
  | .clusterDispatch _ _ => none
  | .launchEnd _ => none
  | .launchAppend _ => none
  | .preempt _ _ => none
  | .restart _ _ => none
  | .timeSliceExpiry _ _ => none
  | .apgoAnswer _ _ => none
  | .rowStage _ _ _ => none
  | .rowWriteComplete _ _ _ _ => none
  | .dieReset _ => none
  | .dieWatchdogExpiry _ => none
  | .linkFailure _ => none
  | .linkRateChangeRequest _ _ => none
  | .linkWidthChangeRequest _ _ => none
  | .retrainComplete _ _ => none
  | .powerGood _ => none
  | .powerLoss => none
  | .thermalStep _ _ => none
  | .scrubError _ _ => none
  | .hostMemoryAccess _ => none
  | .peerAccess _ => none
  | .hostLinkDown _ => none
  | .privsemTake _ => none
  | .privsemGive _ => none
  | .ifcmdLock _ _ => none
  | .ifcmdStart _ _ => none
  | .ifcmdStop _ _ => none
  | .ifcmdNone _ _ => none
  | .doorbell _ _ _ => none
  | .resolve _ _ => none
  | .shoot _ _ _ => none
  | .shootdownComplete _ => none
  | .pcmdCreateKeyHandle _ _ _ => none
  | .pcmdBindKeyHandle _ _ _ => none
  | .pcmdDestroyKeyHandle _ _ _ => none
  | .pcmdCreateCollective _ _ _ => none
  | .pcmdDestroyCollective _ _ _ => none
  | .pcmdDefineLayer _ _ _ => none
  | .pcmdRetireLayer _ _ _ => none
  | .pcmdSpdm _ _ _ => none
  | .mboxinDeliver _ _ => none
  | .mailboxOutRecord _ _ => none
  | .partitionCreate _ _ => none
  | .partitionDissolve _ _ => none
  | .controlRegisterWrite _ _ _ _ => none
  | .writeImage _ _ => none
  | .activate _ _ => none
  | .confirm _ _ => none
  | .readLog _ _ => none
  | .spdm _ _ => none
  | .setCert _ _ => none
  | .readSensors _ _ => none
  | .setCarveout _ _ => none
  | .getVersion _ => none
  | .getCapabilities _ => none
  | .negotiateAlgorithms _ => none
  | .getDigests _ => none
  | .getCertificate _ => none
  | .challenge _ => none
  | .getMeasurements _ => none
  | .keyExchange _ => none
  | .finish _ => none
  | .keyUpdate _ => none
  | .heartbeat _ => none
  | .endSession _ => none
  | .challengeTimeout => none
  | .carveoutChangeComplete => none
  | .mtsrComplete _ _ => none
theorem bit30_of_7_1_7_7_4_2_2 (s : BitVec 1) (e : BitVec 1) (x0 : BitVec 7) (x1 : BitVec 1) (x2 : BitVec 7) (x3 : BitVec 7) (x4 : BitVec 4) (x5 : BitVec 2) (x6 : BitVec 2) :
    bitAt (s ++ e ++ x0 ++ x1 ++ x2 ++ x3 ++ x4 ++ x5 ++ x6) 30 = e.getLsbD 0 := by
  unfold bitAt; simp only [BitVec.getLsbD_append]; simp
theorem bit30_of_7_1_7_7_5_3 (s : BitVec 1) (e : BitVec 1) (x0 : BitVec 7) (x1 : BitVec 1) (x2 : BitVec 7) (x3 : BitVec 7) (x4 : BitVec 5) (x5 : BitVec 3) :
    bitAt (s ++ e ++ x0 ++ x1 ++ x2 ++ x3 ++ x4 ++ x5) 30 = e.getLsbD 0 := by
  unfold bitAt; simp only [BitVec.getLsbD_append]; simp
theorem bit30_of_7_1_7_7_7_1 (s : BitVec 1) (e : BitVec 1) (x0 : BitVec 7) (x1 : BitVec 1) (x2 : BitVec 7) (x3 : BitVec 7) (x4 : BitVec 7) (x5 : BitVec 1) :
    bitAt (s ++ e ++ x0 ++ x1 ++ x2 ++ x3 ++ x4 ++ x5) 30 = e.getLsbD 0 := by
  unfold bitAt; simp only [BitVec.getLsbD_append]; simp
theorem bit30_of_7_1_7_7_8 (s : BitVec 1) (e : BitVec 1) (x0 : BitVec 7) (x1 : BitVec 1) (x2 : BitVec 7) (x3 : BitVec 7) (x4 : BitVec 8) :
    bitAt (s ++ e ++ x0 ++ x1 ++ x2 ++ x3 ++ x4) 30 = e.getLsbD 0 := by
  unfold bitAt; simp only [BitVec.getLsbD_append]; simp
theorem bit30_of_7_1_7_15 (s : BitVec 1) (e : BitVec 1) (x0 : BitVec 7) (x1 : BitVec 1) (x2 : BitVec 7) (x3 : BitVec 15) :
    bitAt (s ++ e ++ x0 ++ x1 ++ x2 ++ x3) 30 = e.getLsbD 0 := by
  unfold bitAt; simp only [BitVec.getLsbD_append]; simp
theorem bit30_of_7_7_1_15 (s : BitVec 1) (e : BitVec 1) (x0 : BitVec 7) (x1 : BitVec 7) (x2 : BitVec 1) (x3 : BitVec 15) :
    bitAt (s ++ e ++ x0 ++ x1 ++ x2 ++ x3) 30 = e.getLsbD 0 := by
  unfold bitAt; simp only [BitVec.getLsbD_append]; simp
theorem bit30_of_7_7_7_2_5_2 (s : BitVec 1) (e : BitVec 1) (x0 : BitVec 7) (x1 : BitVec 7) (x2 : BitVec 7) (x3 : BitVec 2) (x4 : BitVec 5) (x5 : BitVec 2) :
    bitAt (s ++ e ++ x0 ++ x1 ++ x2 ++ x3 ++ x4 ++ x5) 30 = e.getLsbD 0 := by
  unfold bitAt; simp only [BitVec.getLsbD_append]; simp
theorem bit30_of_7_7_7_7_2 (s : BitVec 1) (e : BitVec 1) (x0 : BitVec 7) (x1 : BitVec 7) (x2 : BitVec 7) (x3 : BitVec 7) (x4 : BitVec 2) :
    bitAt (s ++ e ++ x0 ++ x1 ++ x2 ++ x3 ++ x4) 30 = e.getLsbD 0 := by
  unfold bitAt; simp only [BitVec.getLsbD_append]; simp
theorem bit30_of_7_7_7_9 (s : BitVec 1) (e : BitVec 1) (x0 : BitVec 7) (x1 : BitVec 7) (x2 : BitVec 7) (x3 : BitVec 9) :
    bitAt (s ++ e ++ x0 ++ x1 ++ x2 ++ x3) 30 = e.getLsbD 0 := by
  unfold bitAt; simp only [BitVec.getLsbD_append]; simp
theorem bit30_of_7_7_16 (s : BitVec 1) (e : BitVec 1) (x0 : BitVec 7) (x1 : BitVec 7) (x2 : BitVec 16) :
    bitAt (s ++ e ++ x0 ++ x1 ++ x2) 30 = e.getLsbD 0 := by
  unfold bitAt; simp only [BitVec.getLsbD_append]; simp
theorem bit30_of_7_8_7_5_3 (s : BitVec 1) (e : BitVec 1) (x0 : BitVec 7) (x1 : BitVec 8) (x2 : BitVec 7) (x3 : BitVec 5) (x4 : BitVec 3) :
    bitAt (s ++ e ++ x0 ++ x1 ++ x2 ++ x3 ++ x4) 30 = e.getLsbD 0 := by
  unfold bitAt; simp only [BitVec.getLsbD_append]; simp
theorem bit30_of_7_8_7_7_1 (s : BitVec 1) (e : BitVec 1) (x0 : BitVec 7) (x1 : BitVec 8) (x2 : BitVec 7) (x3 : BitVec 7) (x4 : BitVec 1) :
    bitAt (s ++ e ++ x0 ++ x1 ++ x2 ++ x3 ++ x4) 30 = e.getLsbD 0 := by
  unfold bitAt; simp only [BitVec.getLsbD_append]; simp
theorem bit30_of_7_8_7_8 (s : BitVec 1) (e : BitVec 1) (x0 : BitVec 7) (x1 : BitVec 8) (x2 : BitVec 7) (x3 : BitVec 8) :
    bitAt (s ++ e ++ x0 ++ x1 ++ x2 ++ x3) 30 = e.getLsbD 0 := by
  unfold bitAt; simp only [BitVec.getLsbD_append]; simp
theorem bit30_of_7_15_8 (s : BitVec 1) (e : BitVec 1) (x0 : BitVec 7) (x1 : BitVec 15) (x2 : BitVec 8) :
    bitAt (s ++ e ++ x0 ++ x1 ++ x2) 30 = e.getLsbD 0 := by
  unfold bitAt; simp only [BitVec.getLsbD_append]; simp
theorem bit30_of_7_18_3_2 (s : BitVec 1) (e : BitVec 1) (x0 : BitVec 7) (x1 : BitVec 18) (x2 : BitVec 3) (x3 : BitVec 2) :
    bitAt (s ++ e ++ x0 ++ x1 ++ x2 ++ x3) 30 = e.getLsbD 0 := by
  unfold bitAt; simp only [BitVec.getLsbD_append]; simp
theorem bit30_of_7_23 (s : BitVec 1) (e : BitVec 1) (x0 : BitVec 7) (x1 : BitVec 23) :
    bitAt (s ++ e ++ x0 ++ x1) 30 = e.getLsbD 0 := by
  unfold bitAt; simp only [BitVec.getLsbD_append]; simp
theorem ofBool_bit0 (e : Bool) : (BitVec.ofBool e).getLsbD 0 = e := by cases e <;> rfl

/-- The word of an instruction holds its E bit at bit 30. -/
def EBit.Statement (i : Instr) : Prop := (encode i).map (bitAt · 30) = endBit i

theorem EBit.add (e n : Bool) (d a b : BitVec 7) : EBit.Statement (.add e n d a b) :=
  congrArg some ((bit30_of_7_1_7_7_7_1 ..).trans (ofBool_bit0 e))
theorem EBit.sub (e n : Bool) (d a b : BitVec 7) : EBit.Statement (.sub e n d a b) :=
  congrArg some ((bit30_of_7_1_7_7_7_1 ..).trans (ofBool_bit0 e))
theorem EBit.mul (e n : Bool) (d a b : BitVec 7) : EBit.Statement (.mul e n d a b) :=
  congrArg some ((bit30_of_7_1_7_7_7_1 ..).trans (ofBool_bit0 e))
theorem EBit.mulh (e n : Bool) (d a b : BitVec 7) : EBit.Statement (.mulh e n d a b) :=
  congrArg some ((bit30_of_7_1_7_7_7_1 ..).trans (ofBool_bit0 e))
theorem EBit.mulhn (e n : Bool) (d a b : BitVec 7) : EBit.Statement (.mulhn e n d a b) :=
  congrArg some ((bit30_of_7_1_7_7_7_1 ..).trans (ofBool_bit0 e))
theorem EBit.and (e n : Bool) (d a b : BitVec 7) : EBit.Statement (.and e n d a b) :=
  congrArg some ((bit30_of_7_1_7_7_7_1 ..).trans (ofBool_bit0 e))
theorem EBit.or (e n : Bool) (d a b : BitVec 7) : EBit.Statement (.or e n d a b) :=
  congrArg some ((bit30_of_7_1_7_7_7_1 ..).trans (ofBool_bit0 e))
theorem EBit.xor (e n : Bool) (d a b : BitVec 7) : EBit.Statement (.xor e n d a b) :=
  congrArg some ((bit30_of_7_1_7_7_7_1 ..).trans (ofBool_bit0 e))
theorem EBit.andn (e n : Bool) (d a b : BitVec 7) : EBit.Statement (.andn e n d a b) :=
  congrArg some ((bit30_of_7_1_7_7_7_1 ..).trans (ofBool_bit0 e))
theorem EBit.shl (e n : Bool) (d a b : BitVec 7) : EBit.Statement (.shl e n d a b) :=
  congrArg some ((bit30_of_7_1_7_7_7_1 ..).trans (ofBool_bit0 e))
theorem EBit.shr (e n : Bool) (d a b : BitVec 7) : EBit.Statement (.shr e n d a b) :=
  congrArg some ((bit30_of_7_1_7_7_7_1 ..).trans (ofBool_bit0 e))
theorem EBit.sar (e n : Bool) (d a b : BitVec 7) : EBit.Statement (.sar e n d a b) :=
  congrArg some ((bit30_of_7_1_7_7_7_1 ..).trans (ofBool_bit0 e))
theorem EBit.min (e n : Bool) (d a b : BitVec 7) : EBit.Statement (.min e n d a b) :=
  congrArg some ((bit30_of_7_1_7_7_7_1 ..).trans (ofBool_bit0 e))
theorem EBit.max (e n : Bool) (d a b : BitVec 7) : EBit.Statement (.max e n d a b) :=
  congrArg some ((bit30_of_7_1_7_7_7_1 ..).trans (ofBool_bit0 e))
theorem EBit.minn (e n : Bool) (d a b : BitVec 7) : EBit.Statement (.minn e n d a b) :=
  congrArg some ((bit30_of_7_1_7_7_7_1 ..).trans (ofBool_bit0 e))
theorem EBit.maxn (e n : Bool) (d a b : BitVec 7) : EBit.Statement (.maxn e n d a b) :=
  congrArg some ((bit30_of_7_1_7_7_7_1 ..).trans (ofBool_bit0 e))
theorem EBit.addsat (e n : Bool) (d a b : BitVec 7) : EBit.Statement (.addsat e n d a b) :=
  congrArg some ((bit30_of_7_1_7_7_7_1 ..).trans (ofBool_bit0 e))
theorem EBit.subsat (e n : Bool) (d a b : BitVec 7) : EBit.Statement (.subsat e n d a b) :=
  congrArg some ((bit30_of_7_1_7_7_7_1 ..).trans (ofBool_bit0 e))
theorem EBit.addsatn (e n : Bool) (d a b : BitVec 7) : EBit.Statement (.addsatn e n d a b) :=
  congrArg some ((bit30_of_7_1_7_7_7_1 ..).trans (ofBool_bit0 e))
theorem EBit.subsatn (e n : Bool) (d a b : BitVec 7) : EBit.Statement (.subsatn e n d a b) :=
  congrArg some ((bit30_of_7_1_7_7_7_1 ..).trans (ofBool_bit0 e))
theorem EBit.absd (e n : Bool) (d a b : BitVec 7) : EBit.Statement (.absd e n d a b) :=
  congrArg some ((bit30_of_7_1_7_7_7_1 ..).trans (ofBool_bit0 e))
theorem EBit.bfx (e n : Bool) (d a b : BitVec 7) : EBit.Statement (.bfx e n d a b) :=
  congrArg some ((bit30_of_7_1_7_7_7_1 ..).trans (ofBool_bit0 e))
theorem EBit.bfxn (e n : Bool) (d a b : BitVec 7) : EBit.Statement (.bfxn e n d a b) :=
  congrArg some ((bit30_of_7_1_7_7_7_1 ..).trans (ofBool_bit0 e))
theorem EBit.bfi (e n : Bool) (d a b : BitVec 7) : EBit.Statement (.bfi e n d a b) :=
  congrArg some ((bit30_of_7_1_7_7_7_1 ..).trans (ofBool_bit0 e))
theorem EBit.sel (e n : Bool) (d a p : BitVec 7) : EBit.Statement (.sel e n d a p) :=
  congrArg some ((bit30_of_7_1_7_7_7_1 ..).trans (ofBool_bit0 e))
theorem EBit.mov (e n : Bool) (d a : BitVec 7) : EBit.Statement (.mov e n d a) :=
  congrArg some ((bit30_of_7_1_7_7_8 ..).trans (ofBool_bit0 e))
theorem EBit.not (e n : Bool) (d a : BitVec 7) : EBit.Statement (.not e n d a) :=
  congrArg some ((bit30_of_7_1_7_7_8 ..).trans (ofBool_bit0 e))
theorem EBit.neg (e n : Bool) (d a : BitVec 7) : EBit.Statement (.neg e n d a) :=
  congrArg some ((bit30_of_7_1_7_7_8 ..).trans (ofBool_bit0 e))
theorem EBit.abs (e n : Bool) (d a : BitVec 7) : EBit.Statement (.abs e n d a) :=
  congrArg some ((bit30_of_7_1_7_7_8 ..).trans (ofBool_bit0 e))
theorem EBit.clz (e n : Bool) (d a : BitVec 7) : EBit.Statement (.clz e n d a) :=
  congrArg some ((bit30_of_7_1_7_7_8 ..).trans (ofBool_bit0 e))
theorem EBit.popc (e n : Bool) (d a : BitVec 7) : EBit.Statement (.popc e n d a) :=
  congrArg some ((bit30_of_7_1_7_7_8 ..).trans (ofBool_bit0 e))
theorem EBit.brev (e n : Bool) (d a : BitVec 7) : EBit.Statement (.brev e n d a) :=
  congrArg some ((bit30_of_7_1_7_7_8 ..).trans (ofBool_bit0 e))
theorem EBit.sextb (e n : Bool) (d a : BitVec 7) : EBit.Statement (.sextb e n d a) :=
  congrArg some ((bit30_of_7_1_7_7_8 ..).trans (ofBool_bit0 e))
theorem EBit.sexth (e n : Bool) (d a : BitVec 7) : EBit.Statement (.sexth e n d a) :=
  congrArg some ((bit30_of_7_1_7_7_8 ..).trans (ofBool_bit0 e))
theorem EBit.zextb (e n : Bool) (d a : BitVec 7) : EBit.Statement (.zextb e n d a) :=
  congrArg some ((bit30_of_7_1_7_7_8 ..).trans (ofBool_bit0 e))
theorem EBit.zexth (e n : Bool) (d a : BitVec 7) : EBit.Statement (.zexth e n d a) :=
  congrArg some ((bit30_of_7_1_7_7_8 ..).trans (ofBool_bit0 e))
theorem EBit.addx (e n : Bool) (d a b : BitVec 7) : EBit.Statement (.addx e n d a b) :=
  congrArg some ((bit30_of_7_1_7_7_7_1 ..).trans (ofBool_bit0 e))
theorem EBit.subx (e n : Bool) (d a b : BitVec 7) : EBit.Statement (.subx e n d a b) :=
  congrArg some ((bit30_of_7_1_7_7_7_1 ..).trans (ofBool_bit0 e))
theorem EBit.mulwx (e n : Bool) (d a b : BitVec 7) : EBit.Statement (.mulwx e n d a b) :=
  congrArg some ((bit30_of_7_1_7_7_7_1 ..).trans (ofBool_bit0 e))
theorem EBit.mulwxn (e n : Bool) (d a b : BitVec 7) : EBit.Statement (.mulwxn e n d a b) :=
  congrArg some ((bit30_of_7_1_7_7_7_1 ..).trans (ofBool_bit0 e))
theorem EBit.leax (e n : Bool) (d a b : BitVec 7) : EBit.Statement (.leax e n d a b) :=
  congrArg some ((bit30_of_7_1_7_7_7_1 ..).trans (ofBool_bit0 e))
theorem EBit.addxi (e n : Bool) (d a : BitVec 7) (i : BitVec 8) : EBit.Statement (.addxi e n d a i) :=
  congrArg some ((bit30_of_7_1_7_7_8 ..).trans (ofBool_bit0 e))
theorem EBit.addi (e n : Bool) (d a : BitVec 7) (i : BitVec 8) : EBit.Statement (.addi e n d a i) :=
  congrArg some ((bit30_of_7_1_7_7_8 ..).trans (ofBool_bit0 e))
theorem EBit.andi (e n : Bool) (d a : BitVec 7) (i : BitVec 8) : EBit.Statement (.andi e n d a i) :=
  congrArg some ((bit30_of_7_1_7_7_8 ..).trans (ofBool_bit0 e))
theorem EBit.ori (e n : Bool) (d a : BitVec 7) (i : BitVec 8) : EBit.Statement (.ori e n d a i) :=
  congrArg some ((bit30_of_7_1_7_7_8 ..).trans (ofBool_bit0 e))
theorem EBit.xori (e n : Bool) (d a : BitVec 7) (i : BitVec 8) : EBit.Statement (.xori e n d a i) :=
  congrArg some ((bit30_of_7_1_7_7_8 ..).trans (ofBool_bit0 e))
theorem EBit.shli (e n : Bool) (d a : BitVec 7) (i : BitVec 8) : EBit.Statement (.shli e n d a i) :=
  congrArg some ((bit30_of_7_1_7_7_8 ..).trans (ofBool_bit0 e))
theorem EBit.shri (e n : Bool) (d a : BitVec 7) (i : BitVec 8) : EBit.Statement (.shri e n d a i) :=
  congrArg some ((bit30_of_7_1_7_7_8 ..).trans (ofBool_bit0 e))
theorem EBit.sari (e n : Bool) (d a : BitVec 7) (i : BitVec 8) : EBit.Statement (.sari e n d a i) :=
  congrArg some ((bit30_of_7_1_7_7_8 ..).trans (ofBool_bit0 e))
theorem EBit.muli (e n : Bool) (d a : BitVec 7) (i : BitVec 8) : EBit.Statement (.muli e n d a i) :=
  congrArg some ((bit30_of_7_1_7_7_8 ..).trans (ofBool_bit0 e))
theorem EBit.ldi (e : Bool) (d : BitVec 7) (i : BitVec 16) : EBit.Statement (.ldi e d i) :=
  congrArg some ((bit30_of_7_7_16 ..).trans (ofBool_bit0 e))
theorem EBit.ldh (e : Bool) (d : BitVec 7) (i : BitVec 16) : EBit.Statement (.ldh e d i) :=
  congrArg some ((bit30_of_7_7_16 ..).trans (ofBool_bit0 e))
theorem EBit.cmpeq (e : Bool) (k a b : BitVec 7) : EBit.Statement (.cmpeq e k a b) :=
  congrArg some ((bit30_of_7_7_7_7_2 ..).trans (ofBool_bit0 e))
theorem EBit.cmpne (e : Bool) (k a b : BitVec 7) : EBit.Statement (.cmpne e k a b) :=
  congrArg some ((bit30_of_7_7_7_7_2 ..).trans (ofBool_bit0 e))
theorem EBit.cmplt (e : Bool) (k a b : BitVec 7) : EBit.Statement (.cmplt e k a b) :=
  congrArg some ((bit30_of_7_7_7_7_2 ..).trans (ofBool_bit0 e))
theorem EBit.cmple (e : Bool) (k a b : BitVec 7) : EBit.Statement (.cmple e k a b) :=
  congrArg some ((bit30_of_7_7_7_7_2 ..).trans (ofBool_bit0 e))
theorem EBit.cmpltn (e : Bool) (k a b : BitVec 7) : EBit.Statement (.cmpltn e k a b) :=
  congrArg some ((bit30_of_7_7_7_7_2 ..).trans (ofBool_bit0 e))
theorem EBit.cmplen (e : Bool) (k a b : BitVec 7) : EBit.Statement (.cmplen e k a b) :=
  congrArg some ((bit30_of_7_7_7_7_2 ..).trans (ofBool_bit0 e))
theorem EBit.cmpeqi (e : Bool) (k a i : BitVec 7) : EBit.Statement (.cmpeqi e k a i) :=
  congrArg some ((bit30_of_7_7_7_7_2 ..).trans (ofBool_bit0 e))
theorem EBit.cmplti (e : Bool) (k a i : BitVec 7) : EBit.Statement (.cmplti e k a i) :=
  congrArg some ((bit30_of_7_7_7_7_2 ..).trans (ofBool_bit0 e))
theorem EBit.cmpltni (e : Bool) (k a i : BitVec 7) : EBit.Statement (.cmpltni e k a i) :=
  congrArg some ((bit30_of_7_7_7_7_2 ..).trans (ofBool_bit0 e))
theorem EBit.cmpltx (e : Bool) (k a b : BitVec 7) : EBit.Statement (.cmpltx e k a b) :=
  congrArg some ((bit30_of_7_7_7_7_2 ..).trans (ofBool_bit0 e))
theorem EBit.cmpeqx (e : Bool) (k a b : BitVec 7) : EBit.Statement (.cmpeqx e k a b) :=
  congrArg some ((bit30_of_7_7_7_7_2 ..).trans (ofBool_bit0 e))
theorem EBit.kand (e : Bool) (k a b : BitVec 7) : EBit.Statement (.kand e k a b) :=
  congrArg some ((bit30_of_7_7_7_7_2 ..).trans (ofBool_bit0 e))
theorem EBit.kor (e : Bool) (k a b : BitVec 7) : EBit.Statement (.kor e k a b) :=
  congrArg some ((bit30_of_7_7_7_7_2 ..).trans (ofBool_bit0 e))
theorem EBit.kxor (e : Bool) (k a b : BitVec 7) : EBit.Statement (.kxor e k a b) :=
  congrArg some ((bit30_of_7_7_7_7_2 ..).trans (ofBool_bit0 e))
theorem EBit.kandn (e : Bool) (k a b : BitVec 7) : EBit.Statement (.kandn e k a b) :=
  congrArg some ((bit30_of_7_7_7_7_2 ..).trans (ofBool_bit0 e))
theorem EBit.kset (e : Bool) (k a : BitVec 7) (i : BitVec 5) : EBit.Statement (.kset e k a i) :=
  congrArg some ((bit30_of_7_7_7_2_5_2 ..).trans (ofBool_bit0 e))
theorem EBit.kget (e n : Bool) (d k : BitVec 7) : EBit.Statement (.kget e n d k) :=
  congrArg some ((bit30_of_7_1_7_7_8 ..).trans (ofBool_bit0 e))
theorem EBit.fadd (e n : Bool) (d a b : BitVec 7) : EBit.Statement (.fadd e n d a b) :=
  congrArg some ((bit30_of_7_1_7_7_7_1 ..).trans (ofBool_bit0 e))
theorem EBit.fsub (e n : Bool) (d a b : BitVec 7) : EBit.Statement (.fsub e n d a b) :=
  congrArg some ((bit30_of_7_1_7_7_7_1 ..).trans (ofBool_bit0 e))
theorem EBit.fmul (e n : Bool) (d a b : BitVec 7) : EBit.Statement (.fmul e n d a b) :=
  congrArg some ((bit30_of_7_1_7_7_7_1 ..).trans (ofBool_bit0 e))
theorem EBit.ffma (e n : Bool) (d a b : BitVec 7) : EBit.Statement (.ffma e n d a b) :=
  congrArg some ((bit30_of_7_1_7_7_7_1 ..).trans (ofBool_bit0 e))
theorem EBit.fmin (e n : Bool) (d a b : BitVec 7) : EBit.Statement (.fmin e n d a b) :=
  congrArg some ((bit30_of_7_1_7_7_7_1 ..).trans (ofBool_bit0 e))
theorem EBit.fmax (e n : Bool) (d a b : BitVec 7) : EBit.Statement (.fmax e n d a b) :=
  congrArg some ((bit30_of_7_1_7_7_7_1 ..).trans (ofBool_bit0 e))
theorem EBit.faddz (e n : Bool) (d a b : BitVec 7) : EBit.Statement (.faddz e n d a b) :=
  congrArg some ((bit30_of_7_1_7_7_7_1 ..).trans (ofBool_bit0 e))
theorem EBit.fmulz (e n : Bool) (d a b : BitVec 7) : EBit.Statement (.fmulz e n d a b) :=
  congrArg some ((bit30_of_7_1_7_7_7_1 ..).trans (ofBool_bit0 e))
theorem EBit.ffmaz (e n : Bool) (d a b : BitVec 7) : EBit.Statement (.ffmaz e n d a b) :=
  congrArg some ((bit30_of_7_1_7_7_7_1 ..).trans (ofBool_bit0 e))
theorem EBit.fcmpeq (e : Bool) (k a b : BitVec 7) : EBit.Statement (.fcmpeq e k a b) :=
  congrArg some ((bit30_of_7_7_7_7_2 ..).trans (ofBool_bit0 e))
theorem EBit.fcmplt (e : Bool) (k a b : BitVec 7) : EBit.Statement (.fcmplt e k a b) :=
  congrArg some ((bit30_of_7_7_7_7_2 ..).trans (ofBool_bit0 e))
theorem EBit.fcmple (e : Bool) (k a b : BitVec 7) : EBit.Statement (.fcmple e k a b) :=
  congrArg some ((bit30_of_7_7_7_7_2 ..).trans (ofBool_bit0 e))
theorem EBit.fcmpun (e : Bool) (k a b : BitVec 7) : EBit.Statement (.fcmpun e k a b) :=
  congrArg some ((bit30_of_7_7_7_7_2 ..).trans (ofBool_bit0 e))
theorem EBit.fabs (e n : Bool) (d a : BitVec 7) : EBit.Statement (.fabs e n d a) :=
  congrArg some ((bit30_of_7_1_7_7_8 ..).trans (ofBool_bit0 e))
theorem EBit.fneg (e n : Bool) (d a : BitVec 7) : EBit.Statement (.fneg e n d a) :=
  congrArg some ((bit30_of_7_1_7_7_8 ..).trans (ofBool_bit0 e))
theorem EBit.ffloor (e n : Bool) (d a : BitVec 7) : EBit.Statement (.ffloor e n d a) :=
  congrArg some ((bit30_of_7_1_7_7_8 ..).trans (ofBool_bit0 e))
theorem EBit.fceil (e n : Bool) (d a : BitVec 7) : EBit.Statement (.fceil e n d a) :=
  congrArg some ((bit30_of_7_1_7_7_8 ..).trans (ofBool_bit0 e))
theorem EBit.frint (e n : Bool) (d a : BitVec 7) : EBit.Statement (.frint e n d a) :=
  congrArg some ((bit30_of_7_1_7_7_8 ..).trans (ofBool_bit0 e))
theorem EBit.ftrunc (e n : Bool) (d a : BitVec 7) : EBit.Statement (.ftrunc e n d a) :=
  congrArg some ((bit30_of_7_1_7_7_8 ..).trans (ofBool_bit0 e))
theorem EBit.fexp2 (e n : Bool) (d a : BitVec 7) : EBit.Statement (.fexp2 e n d a) :=
  congrArg some ((bit30_of_7_1_7_7_8 ..).trans (ofBool_bit0 e))
theorem EBit.flog2 (e n : Bool) (d a : BitVec 7) : EBit.Statement (.flog2 e n d a) :=
  congrArg some ((bit30_of_7_1_7_7_8 ..).trans (ofBool_bit0 e))
theorem EBit.frcp (e n : Bool) (d a : BitVec 7) : EBit.Statement (.frcp e n d a) :=
  congrArg some ((bit30_of_7_1_7_7_8 ..).trans (ofBool_bit0 e))
theorem EBit.frsq (e n : Bool) (d a : BitVec 7) : EBit.Statement (.frsq e n d a) :=
  congrArg some ((bit30_of_7_1_7_7_8 ..).trans (ofBool_bit0 e))
theorem EBit.fsqrt (e n : Bool) (d a : BitVec 7) : EBit.Statement (.fsqrt e n d a) :=
  congrArg some ((bit30_of_7_1_7_7_8 ..).trans (ofBool_bit0 e))
theorem EBit.fsinp (e n : Bool) (d a : BitVec 7) : EBit.Statement (.fsinp e n d a) :=
  congrArg some ((bit30_of_7_1_7_7_8 ..).trans (ofBool_bit0 e))
theorem EBit.fcosp (e n : Bool) (d a : BitVec 7) : EBit.Statement (.fcosp e n d a) :=
  congrArg some ((bit30_of_7_1_7_7_8 ..).trans (ofBool_bit0 e))
theorem EBit.ftanh (e n : Bool) (d a : BitVec 7) : EBit.Statement (.ftanh e n d a) :=
  congrArg some ((bit30_of_7_1_7_7_8 ..).trans (ofBool_bit0 e))
theorem EBit.fsig (e n : Bool) (d a : BitVec 7) : EBit.Statement (.fsig e n d a) :=
  congrArg some ((bit30_of_7_1_7_7_8 ..).trans (ofBool_bit0 e))
theorem EBit.cvtfi (e n : Bool) (d a : BitVec 7) : EBit.Statement (.cvtfi e n d a) :=
  congrArg some ((bit30_of_7_1_7_7_8 ..).trans (ofBool_bit0 e))
theorem EBit.cvtfiz (e n : Bool) (d a : BitVec 7) : EBit.Statement (.cvtfiz e n d a) :=
  congrArg some ((bit30_of_7_1_7_7_8 ..).trans (ofBool_bit0 e))
theorem EBit.cvtfn (e n : Bool) (d a : BitVec 7) : EBit.Statement (.cvtfn e n d a) :=
  congrArg some ((bit30_of_7_1_7_7_8 ..).trans (ofBool_bit0 e))
theorem EBit.cvtif (e n : Bool) (d a : BitVec 7) : EBit.Statement (.cvtif e n d a) :=
  congrArg some ((bit30_of_7_1_7_7_8 ..).trans (ofBool_bit0 e))
theorem EBit.cvtnf (e n : Bool) (d a : BitVec 7) : EBit.Statement (.cvtnf e n d a) :=
  congrArg some ((bit30_of_7_1_7_7_8 ..).trans (ofBool_bit0 e))
theorem EBit.cvtbf (e n : Bool) (d a : BitVec 7) : EBit.Statement (.cvtbf e n d a) :=
  congrArg some ((bit30_of_7_1_7_7_8 ..).trans (ofBool_bit0 e))
theorem EBit.cvtbfh (e n : Bool) (d a : BitVec 7) : EBit.Statement (.cvtbfh e n d a) :=
  congrArg some ((bit30_of_7_1_7_7_8 ..).trans (ofBool_bit0 e))
theorem EBit.cvthf (e n : Bool) (d a : BitVec 7) : EBit.Statement (.cvthf e n d a) :=
  congrArg some ((bit30_of_7_1_7_7_8 ..).trans (ofBool_bit0 e))
theorem EBit.cvthfh (e n : Bool) (d a : BitVec 7) : EBit.Statement (.cvthfh e n d a) :=
  congrArg some ((bit30_of_7_1_7_7_8 ..).trans (ofBool_bit0 e))
theorem EBit.cvtfb (e n : Bool) (d a b : BitVec 7) : EBit.Statement (.cvtfb e n d a b) :=
  congrArg some ((bit30_of_7_1_7_7_7_1 ..).trans (ofBool_bit0 e))
theorem EBit.cvtfbs (e n : Bool) (d a b : BitVec 7) : EBit.Statement (.cvtfbs e n d a b) :=
  congrArg some ((bit30_of_7_1_7_7_7_1 ..).trans (ofBool_bit0 e))
theorem EBit.cvtfh (e n : Bool) (d a b : BitVec 7) : EBit.Statement (.cvtfh e n d a b) :=
  congrArg some ((bit30_of_7_1_7_7_7_1 ..).trans (ofBool_bit0 e))
theorem EBit.badd2 (e n : Bool) (d a b : BitVec 7) : EBit.Statement (.badd2 e n d a b) :=
  congrArg some ((bit30_of_7_1_7_7_7_1 ..).trans (ofBool_bit0 e))
theorem EBit.bmul2 (e n : Bool) (d a b : BitVec 7) : EBit.Statement (.bmul2 e n d a b) :=
  congrArg some ((bit30_of_7_1_7_7_7_1 ..).trans (ofBool_bit0 e))
theorem EBit.bfma2 (e n : Bool) (d a b : BitVec 7) : EBit.Statement (.bfma2 e n d a b) :=
  congrArg some ((bit30_of_7_1_7_7_7_1 ..).trans (ofBool_bit0 e))
theorem EBit.bmax2 (e n : Bool) (d a b : BitVec 7) : EBit.Statement (.bmax2 e n d a b) :=
  congrArg some ((bit30_of_7_1_7_7_7_1 ..).trans (ofBool_bit0 e))
theorem EBit.bmin2 (e n : Bool) (d a b : BitVec 7) : EBit.Statement (.bmin2 e n d a b) :=
  congrArg some ((bit30_of_7_1_7_7_7_1 ..).trans (ofBool_bit0 e))
theorem EBit.qntf8 (e n : Bool) (d a b : BitVec 7) : EBit.Statement (.qntf8 e n d a b) :=
  congrArg some ((bit30_of_7_1_7_7_7_1 ..).trans (ofBool_bit0 e))
theorem EBit.qntf6 (e n : Bool) (d a b : BitVec 7) : EBit.Statement (.qntf6 e n d a b) :=
  congrArg some ((bit30_of_7_1_7_7_7_1 ..).trans (ofBool_bit0 e))
theorem EBit.qntf4 (e n : Bool) (d a b : BitVec 7) : EBit.Statement (.qntf4 e n d a b) :=
  congrArg some ((bit30_of_7_1_7_7_7_1 ..).trans (ofBool_bit0 e))
theorem EBit.qnti8 (e n : Bool) (d a b : BitVec 7) : EBit.Statement (.qnti8 e n d a b) :=
  congrArg some ((bit30_of_7_1_7_7_7_1 ..).trans (ofBool_bit0 e))
theorem EBit.dqn (e n : Bool) (d a : BitVec 7) (i : BitVec 8) : EBit.Statement (.dqn e n d a i) :=
  congrArg some ((bit30_of_7_1_7_7_8 ..).trans (ofBool_bit0 e))
theorem EBit.rnd (e n : Bool) (d a b : BitVec 7) : EBit.Statement (.rnd e n d a b) :=
  congrArg some ((bit30_of_7_1_7_7_7_1 ..).trans (ofBool_bit0 e))
theorem EBit.shfl (e n : Bool) (d a b : BitVec 7) : EBit.Statement (.shfl e n d a b) :=
  congrArg some ((bit30_of_7_1_7_7_7_1 ..).trans (ofBool_bit0 e))
theorem EBit.shflu (e n : Bool) (d a : BitVec 7) (i : BitVec 8) : EBit.Statement (.shflu e n d a i) :=
  congrArg some ((bit30_of_7_1_7_7_8 ..).trans (ofBool_bit0 e))
theorem EBit.shfld (e n : Bool) (d a : BitVec 7) (i : BitVec 8) : EBit.Statement (.shfld e n d a i) :=
  congrArg some ((bit30_of_7_1_7_7_8 ..).trans (ofBool_bit0 e))
theorem EBit.shflx (e n : Bool) (d a : BitVec 7) (i : BitVec 8) : EBit.Statement (.shflx e n d a i) :=
  congrArg some ((bit30_of_7_1_7_7_8 ..).trans (ofBool_bit0 e))
theorem EBit.qex (e n : Bool) (d a : BitVec 7) (i : BitVec 8) : EBit.Statement (.qex e n d a i) :=
  congrArg some ((bit30_of_7_1_7_7_8 ..).trans (ofBool_bit0 e))
theorem EBit.voteb (e n : Bool) (d a : BitVec 7) : EBit.Statement (.voteb e n d a) :=
  congrArg some ((bit30_of_7_1_7_7_8 ..).trans (ofBool_bit0 e))
theorem EBit.votean (e : Bool) (k a : BitVec 7) : EBit.Statement (.votean e k a) :=
  congrArg some ((bit30_of_7_7_7_9 ..).trans (ofBool_bit0 e))
theorem EBit.voteal (e : Bool) (k a : BitVec 7) : EBit.Statement (.voteal e k a) :=
  congrArg some ((bit30_of_7_7_7_9 ..).trans (ofBool_bit0 e))
theorem EBit.gred (e n : Bool) (d a : BitVec 7) (i : BitVec 8) : EBit.Statement (.gred e n d a i) :=
  congrArg some ((bit30_of_7_1_7_7_8 ..).trans (ofBool_bit0 e))
theorem EBit.gscan (e n : Bool) (d a : BitVec 7) (i : BitVec 8) : EBit.Statement (.gscan e n d a i) :=
  congrArg some ((bit30_of_7_1_7_7_8 ..).trans (ofBool_bit0 e))
theorem EBit.brk (k : BitVec 7) (t : Bool) (d : BitVec 15) : EBit.Statement (.brk k t d) :=
  congrArg some (bit30_of_7_7_1_15 ..)
theorem EBit.jmpi (a : BitVec 7) : EBit.Statement (.jmpi a) :=
  congrArg some (bit30_of_7_8_7_8 ..)
theorem EBit.jmpt (d a : BitVec 7) (i : BitVec 8) : EBit.Statement (.jmpt d a i) :=
  congrArg some (bit30_of_7_1_7_7_8 ..)
theorem EBit.calli (n : Bool) (d a : BitVec 7) : EBit.Statement (.calli n d a) :=
  congrArg some (bit30_of_7_1_7_7_8 ..)
theorem EBit.wait (i : BitVec 8) : EBit.Statement (.wait i) :=
  congrArg some (bit30_of_7_15_8 ..)
theorem EBit.exit : EBit.Statement (.exit) :=
  congrArg some (bit30_of_7_23 ..)
theorem EBit.ld8 (e n : Bool) (d a : BitVec 7) (o : BitVec 8) : EBit.Statement (.ld8 e n d a o) :=
  congrArg some ((bit30_of_7_1_7_7_8 ..).trans (ofBool_bit0 e))
theorem EBit.ld8s (e n : Bool) (d a : BitVec 7) (o : BitVec 8) : EBit.Statement (.ld8s e n d a o) :=
  congrArg some ((bit30_of_7_1_7_7_8 ..).trans (ofBool_bit0 e))
theorem EBit.ld16 (e n : Bool) (d a : BitVec 7) (o : BitVec 8) : EBit.Statement (.ld16 e n d a o) :=
  congrArg some ((bit30_of_7_1_7_7_8 ..).trans (ofBool_bit0 e))
theorem EBit.ld16s (e n : Bool) (d a : BitVec 7) (o : BitVec 8) : EBit.Statement (.ld16s e n d a o) :=
  congrArg some ((bit30_of_7_1_7_7_8 ..).trans (ofBool_bit0 e))
theorem EBit.ld32 (e n : Bool) (d a : BitVec 7) (o : BitVec 8) : EBit.Statement (.ld32 e n d a o) :=
  congrArg some ((bit30_of_7_1_7_7_8 ..).trans (ofBool_bit0 e))
theorem EBit.ld64 (e n : Bool) (d a : BitVec 7) (o : BitVec 8) : EBit.Statement (.ld64 e n d a o) :=
  congrArg some ((bit30_of_7_1_7_7_8 ..).trans (ofBool_bit0 e))
theorem EBit.ld128 (e n : Bool) (d a : BitVec 7) (o : BitVec 8) : EBit.Statement (.ld128 e n d a o) :=
  congrArg some ((bit30_of_7_1_7_7_8 ..).trans (ofBool_bit0 e))
theorem EBit.st8 (e : Bool) (d a : BitVec 7) (o : BitVec 8) : EBit.Statement (.st8 e d a o) :=
  congrArg some ((bit30_of_7_1_7_7_8 ..).trans (ofBool_bit0 e))
theorem EBit.st16 (e : Bool) (d a : BitVec 7) (o : BitVec 8) : EBit.Statement (.st16 e d a o) :=
  congrArg some ((bit30_of_7_1_7_7_8 ..).trans (ofBool_bit0 e))
theorem EBit.st32 (e : Bool) (d a : BitVec 7) (o : BitVec 8) : EBit.Statement (.st32 e d a o) :=
  congrArg some ((bit30_of_7_1_7_7_8 ..).trans (ofBool_bit0 e))
theorem EBit.st64 (e : Bool) (d a : BitVec 7) (o : BitVec 8) : EBit.Statement (.st64 e d a o) :=
  congrArg some ((bit30_of_7_1_7_7_8 ..).trans (ofBool_bit0 e))
theorem EBit.st128 (e : Bool) (d a : BitVec 7) (o : BitVec 8) : EBit.Statement (.st128 e d a o) :=
  congrArg some ((bit30_of_7_1_7_7_8 ..).trans (ofBool_bit0 e))
theorem EBit.aadd (n : Bool) (d a : BitVec 7) (s r : BitVec 2) : EBit.Statement (.aadd n d a s r) :=
  congrArg some (bit30_of_7_1_7_7_4_2_2 ..)
theorem EBit.aaddf (n : Bool) (d a : BitVec 7) (s r : BitVec 2) : EBit.Statement (.aaddf n d a s r) :=
  congrArg some (bit30_of_7_1_7_7_4_2_2 ..)
theorem EBit.aaddb2 (n : Bool) (d a : BitVec 7) (s r : BitVec 2) : EBit.Statement (.aaddb2 n d a s r) :=
  congrArg some (bit30_of_7_1_7_7_4_2_2 ..)
theorem EBit.amin (n : Bool) (d a : BitVec 7) (s r : BitVec 2) : EBit.Statement (.amin n d a s r) :=
  congrArg some (bit30_of_7_1_7_7_4_2_2 ..)
theorem EBit.amax (n : Bool) (d a : BitVec 7) (s r : BitVec 2) : EBit.Statement (.amax n d a s r) :=
  congrArg some (bit30_of_7_1_7_7_4_2_2 ..)
theorem EBit.aminn (n : Bool) (d a : BitVec 7) (s r : BitVec 2) : EBit.Statement (.aminn n d a s r) :=
  congrArg some (bit30_of_7_1_7_7_4_2_2 ..)
theorem EBit.amaxn (n : Bool) (d a : BitVec 7) (s r : BitVec 2) : EBit.Statement (.amaxn n d a s r) :=
  congrArg some (bit30_of_7_1_7_7_4_2_2 ..)
theorem EBit.aand (n : Bool) (d a : BitVec 7) (s r : BitVec 2) : EBit.Statement (.aand n d a s r) :=
  congrArg some (bit30_of_7_1_7_7_4_2_2 ..)
theorem EBit.aor (n : Bool) (d a : BitVec 7) (s r : BitVec 2) : EBit.Statement (.aor n d a s r) :=
  congrArg some (bit30_of_7_1_7_7_4_2_2 ..)
theorem EBit.axor (n : Bool) (d a : BitVec 7) (s r : BitVec 2) : EBit.Statement (.axor n d a s r) :=
  congrArg some (bit30_of_7_1_7_7_4_2_2 ..)
theorem EBit.axch (n : Bool) (d a : BitVec 7) (s r : BitVec 2) : EBit.Statement (.axch n d a s r) :=
  congrArg some (bit30_of_7_1_7_7_4_2_2 ..)
theorem EBit.acas (n : Bool) (d a : BitVec 7) (s r : BitVec 2) : EBit.Statement (.acas n d a s r) :=
  congrArg some (bit30_of_7_1_7_7_4_2_2 ..)
theorem EBit.aaddx (n : Bool) (d a : BitVec 7) (s r : BitVec 2) : EBit.Statement (.aaddx n d a s r) :=
  congrArg some (bit30_of_7_1_7_7_4_2_2 ..)
theorem EBit.axchx (n : Bool) (d a : BitVec 7) (s r : BitVec 2) : EBit.Statement (.axchx n d a s r) :=
  congrArg some (bit30_of_7_1_7_7_4_2_2 ..)
theorem EBit.acasx (n : Bool) (d a : BitVec 7) (s r : BitVec 2) : EBit.Statement (.acasx n d a s r) :=
  congrArg some (bit30_of_7_1_7_7_4_2_2 ..)
theorem EBit.pfNormal (e : Bool) (a : BitVec 7) (o : BitVec 8) : EBit.Statement (.pfNormal e a o) :=
  congrArg some ((bit30_of_7_8_7_8 ..).trans (ofBool_bit0 e))
theorem EBit.pfEvictFirst (e : Bool) (a : BitVec 7) (o : BitVec 8) : EBit.Statement (.pfEvictFirst e a o) :=
  congrArg some ((bit30_of_7_8_7_8 ..).trans (ofBool_bit0 e))
theorem EBit.pfEvictLast (e : Bool) (a : BitVec 7) (o : BitVec 8) : EBit.Statement (.pfEvictLast e a o) :=
  congrArg some ((bit30_of_7_8_7_8 ..).trans (ofBool_bit0 e))
theorem EBit.pfLlcOnly (e : Bool) (a : BitVec 7) (o : BitVec 8) : EBit.Statement (.pfLlcOnly e a o) :=
  congrArg some ((bit30_of_7_8_7_8 ..).trans (ofBool_bit0 e))
theorem EBit.stad (e n : Bool) (d a b : BitVec 7) : EBit.Statement (.stad e n d a b) :=
  congrArg some ((bit30_of_7_1_7_7_7_1 ..).trans (ofBool_bit0 e))
theorem EBit.mxgo (a b : BitVec 7) : EBit.Statement (.mxgo a b) :=
  congrArg some (bit30_of_7_8_7_7_1 ..)
theorem EBit.aego (a b : BitVec 7) : EBit.Statement (.aego a b) :=
  congrArg some (bit30_of_7_8_7_7_1 ..)
theorem EBit.uadd (e n : Bool) (d a b : BitVec 7) : EBit.Statement (.uadd e n d a b) :=
  congrArg some ((bit30_of_7_1_7_7_7_1 ..).trans (ofBool_bit0 e))
theorem EBit.usub (e n : Bool) (d a b : BitVec 7) : EBit.Statement (.usub e n d a b) :=
  congrArg some ((bit30_of_7_1_7_7_7_1 ..).trans (ofBool_bit0 e))
theorem EBit.umul (e n : Bool) (d a b : BitVec 7) : EBit.Statement (.umul e n d a b) :=
  congrArg some ((bit30_of_7_1_7_7_7_1 ..).trans (ofBool_bit0 e))
theorem EBit.uand (e n : Bool) (d a b : BitVec 7) : EBit.Statement (.uand e n d a b) :=
  congrArg some ((bit30_of_7_1_7_7_7_1 ..).trans (ofBool_bit0 e))
theorem EBit.uor (e n : Bool) (d a b : BitVec 7) : EBit.Statement (.uor e n d a b) :=
  congrArg some ((bit30_of_7_1_7_7_7_1 ..).trans (ofBool_bit0 e))
theorem EBit.uxor (e n : Bool) (d a b : BitVec 7) : EBit.Statement (.uxor e n d a b) :=
  congrArg some ((bit30_of_7_1_7_7_7_1 ..).trans (ofBool_bit0 e))
theorem EBit.ushl (e n : Bool) (d a b : BitVec 7) : EBit.Statement (.ushl e n d a b) :=
  congrArg some ((bit30_of_7_1_7_7_7_1 ..).trans (ofBool_bit0 e))
theorem EBit.ushr (e n : Bool) (d a b : BitVec 7) : EBit.Statement (.ushr e n d a b) :=
  congrArg some ((bit30_of_7_1_7_7_7_1 ..).trans (ofBool_bit0 e))
theorem EBit.usar (e n : Bool) (d a b : BitVec 7) : EBit.Statement (.usar e n d a b) :=
  congrArg some ((bit30_of_7_1_7_7_7_1 ..).trans (ofBool_bit0 e))
theorem EBit.umin (e n : Bool) (d a b : BitVec 7) : EBit.Statement (.umin e n d a b) :=
  congrArg some ((bit30_of_7_1_7_7_7_1 ..).trans (ofBool_bit0 e))
theorem EBit.umax (e n : Bool) (d a b : BitVec 7) : EBit.Statement (.umax e n d a b) :=
  congrArg some ((bit30_of_7_1_7_7_7_1 ..).trans (ofBool_bit0 e))
theorem EBit.umov (e n : Bool) (d a : BitVec 7) : EBit.Statement (.umov e n d a) :=
  congrArg some ((bit30_of_7_1_7_7_8 ..).trans (ofBool_bit0 e))
theorem EBit.unot (e n : Bool) (d a : BitVec 7) : EBit.Statement (.unot e n d a) :=
  congrArg some ((bit30_of_7_1_7_7_8 ..).trans (ofBool_bit0 e))
theorem EBit.uneg (e n : Bool) (d a : BitVec 7) : EBit.Statement (.uneg e n d a) :=
  congrArg some ((bit30_of_7_1_7_7_8 ..).trans (ofBool_bit0 e))
theorem EBit.uclz (e n : Bool) (d a : BitVec 7) : EBit.Statement (.uclz e n d a) :=
  congrArg some ((bit30_of_7_1_7_7_8 ..).trans (ofBool_bit0 e))
theorem EBit.upopc (e n : Bool) (d a : BitVec 7) : EBit.Statement (.upopc e n d a) :=
  congrArg some ((bit30_of_7_1_7_7_8 ..).trans (ofBool_bit0 e))
theorem EBit.uaddx (e n : Bool) (d a b : BitVec 7) : EBit.Statement (.uaddx e n d a b) :=
  congrArg some ((bit30_of_7_1_7_7_7_1 ..).trans (ofBool_bit0 e))
theorem EBit.umulwx (e n : Bool) (d a b : BitVec 7) : EBit.Statement (.umulwx e n d a b) :=
  congrArg some ((bit30_of_7_1_7_7_7_1 ..).trans (ofBool_bit0 e))
theorem EBit.uaddi (e n : Bool) (d a : BitVec 7) (i : BitVec 8) : EBit.Statement (.uaddi e n d a i) :=
  congrArg some ((bit30_of_7_1_7_7_8 ..).trans (ofBool_bit0 e))
theorem EBit.uandi (e n : Bool) (d a : BitVec 7) (i : BitVec 8) : EBit.Statement (.uandi e n d a i) :=
  congrArg some ((bit30_of_7_1_7_7_8 ..).trans (ofBool_bit0 e))
theorem EBit.uori (e n : Bool) (d a : BitVec 7) (i : BitVec 8) : EBit.Statement (.uori e n d a i) :=
  congrArg some ((bit30_of_7_1_7_7_8 ..).trans (ofBool_bit0 e))
theorem EBit.ushli (e n : Bool) (d a : BitVec 7) (i : BitVec 8) : EBit.Statement (.ushli e n d a i) :=
  congrArg some ((bit30_of_7_1_7_7_8 ..).trans (ofBool_bit0 e))
theorem EBit.ushri (e n : Bool) (d a : BitVec 7) (i : BitVec 8) : EBit.Statement (.ushri e n d a i) :=
  congrArg some ((bit30_of_7_1_7_7_8 ..).trans (ofBool_bit0 e))
theorem EBit.uaddxi (e n : Bool) (d a : BitVec 7) (i : BitVec 8) : EBit.Statement (.uaddxi e n d a i) :=
  congrArg some ((bit30_of_7_1_7_7_8 ..).trans (ofBool_bit0 e))
theorem EBit.uldi (e : Bool) (d : BitVec 7) (i : BitVec 16) : EBit.Statement (.uldi e d i) :=
  congrArg some ((bit30_of_7_7_16 ..).trans (ofBool_bit0 e))
theorem EBit.uldh (e : Bool) (d : BitVec 7) (i : BitVec 16) : EBit.Statement (.uldh e d i) :=
  congrArg some ((bit30_of_7_7_16 ..).trans (ofBool_bit0 e))
theorem EBit.ucmpeq (e n : Bool) (d a b : BitVec 7) : EBit.Statement (.ucmpeq e n d a b) :=
  congrArg some ((bit30_of_7_1_7_7_7_1 ..).trans (ofBool_bit0 e))
theorem EBit.ucmpne (e n : Bool) (d a b : BitVec 7) : EBit.Statement (.ucmpne e n d a b) :=
  congrArg some ((bit30_of_7_1_7_7_7_1 ..).trans (ofBool_bit0 e))
theorem EBit.ucmplt (e n : Bool) (d a b : BitVec 7) : EBit.Statement (.ucmplt e n d a b) :=
  congrArg some ((bit30_of_7_1_7_7_7_1 ..).trans (ofBool_bit0 e))
theorem EBit.ucmpltn (e n : Bool) (d a b : BitVec 7) : EBit.Statement (.ucmpltn e n d a b) :=
  congrArg some ((bit30_of_7_1_7_7_7_1 ..).trans (ofBool_bit0 e))
theorem EBit.ucmpltx (e n : Bool) (d a b : BitVec 7) : EBit.Statement (.ucmpltx e n d a b) :=
  congrArg some ((bit30_of_7_1_7_7_7_1 ..).trans (ofBool_bit0 e))
theorem EBit.rdl (e n : Bool) (d a : BitVec 7) : EBit.Statement (.rdl e n d a) :=
  congrArg some ((bit30_of_7_1_7_7_8 ..).trans (ofBool_bit0 e))
theorem EBit.ubra (d : BitVec 23) : EBit.Statement (.ubra d) :=
  congrArg some (bit30_of_7_23 ..)
theorem EBit.ubz (a : BitVec 7) (d : BitVec 16) : EBit.Statement (.ubz a d) :=
  congrArg some (bit30_of_7_7_16 ..)
theorem EBit.ubnz (a : BitVec 7) (d : BitVec 16) : EBit.Statement (.ubnz a d) :=
  congrArg some (bit30_of_7_7_16 ..)
theorem EBit.ucall (d : BitVec 23) : EBit.Statement (.ucall d) :=
  congrArg some (bit30_of_7_23 ..)
theorem EBit.uret (a : BitVec 7) : EBit.Statement (.uret a) :=
  congrArg some (bit30_of_7_8_7_8 ..)
theorem EBit.region : EBit.Statement (.region) :=
  congrArg some (bit30_of_7_23 ..)
theorem EBit.mset (e : Bool) (i : BitVec 8) : EBit.Statement (.mset e i) :=
  congrArg some ((bit30_of_7_15_8 ..).trans (ofBool_bit0 e))
theorem EBit.mclr (e : Bool) (i : BitVec 8) : EBit.Statement (.mclr e i) :=
  congrArg some ((bit30_of_7_15_8 ..).trans (ofBool_bit0 e))
theorem EBit.uexit : EBit.Statement (.uexit) :=
  congrArg some (bit30_of_7_23 ..)
theorem EBit.bar : EBit.Statement (.bar) :=
  congrArg some (bit30_of_7_23 ..)
theorem EBit.barc : EBit.Statement (.barc) :=
  congrArg some (bit30_of_7_23 ..)
theorem EBit.phase (s : BitVec 3) (k : BitVec 2) : EBit.Statement (.phase s k) :=
  congrArg some (bit30_of_7_18_3_2 ..)
theorem EBit.ifence : EBit.Statement (.ifence) :=
  congrArg some (bit30_of_7_23 ..)
theorem EBit.unop (e : Bool) : EBit.Statement (.unop e) :=
  congrArg some ((bit30_of_7_23 ..).trans (ofBool_bit0 e))
theorem EBit.push (a : BitVec 7) (q : BitVec 5) : EBit.Statement (.push a q) :=
  congrArg some (bit30_of_7_8_7_5_3 ..)
theorem EBit.pop (n : Bool) (d : BitVec 7) (q : BitVec 5) : EBit.Statement (.pop n d q) :=
  congrArg some (bit30_of_7_1_7_7_5_3 ..)
theorem EBit.qtry (n : Bool) (d : BitVec 7) (q : BitVec 5) : EBit.Statement (.qtry n d q) :=
  congrArg some (bit30_of_7_1_7_7_5_3 ..)
theorem EBit.qstat (e n : Bool) (d : BitVec 7) (q : BitVec 5) : EBit.Statement (.qstat e n d q) :=
  congrArg some ((bit30_of_7_1_7_7_5_3 ..).trans (ofBool_bit0 e))
theorem EBit.bwait (a : BitVec 7) (i : BitVec 8) : EBit.Statement (.bwait a i) :=
  congrArg some (bit30_of_7_8_7_8 ..)
theorem EBit.bexp (n : Bool) (d a b : BitVec 7) : EBit.Statement (.bexp n d a b) :=
  congrArg some (bit30_of_7_1_7_7_7_1 ..)
theorem EBit.barv (n : Bool) (d a : BitVec 7) : EBit.Statement (.barv n d a) :=
  congrArg some (bit30_of_7_1_7_7_8 ..)
theorem EBit.cego (n : Bool) (d a : BitVec 7) (i : BitVec 8) : EBit.Statement (.cego n d a i) :=
  congrArg some (bit30_of_7_1_7_7_8 ..)
theorem EBit.rego (n : Bool) (d a : BitVec 7) : EBit.Statement (.rego n d a) :=
  congrArg some (bit30_of_7_1_7_7_8 ..)
theorem EBit.splice (n : Bool) (d a b : BitVec 7) : EBit.Statement (.splice n d a b) :=
  congrArg some (bit30_of_7_1_7_7_7_1 ..)
theorem EBit.pin (n : Bool) (d a : BitVec 7) : EBit.Statement (.pin n d a) :=
  congrArg some (bit30_of_7_1_7_7_8 ..)
theorem EBit.unpin (n : Bool) (d a : BitVec 7) : EBit.Statement (.unpin n d a) :=
  congrArg some (bit30_of_7_1_7_7_8 ..)
theorem EBit.drain (n : Bool) (d a : BitVec 7) : EBit.Statement (.drain n d a) :=
  congrArg some (bit30_of_7_1_7_7_8 ..)
theorem EBit.launch (n : Bool) (d a b : BitVec 7) : EBit.Statement (.launch n d a b) :=
  congrArg some (bit30_of_7_1_7_7_7_1 ..)
theorem EBit.trap (i : BitVec 8) : EBit.Statement (.trap i) :=
  congrArg some (bit30_of_7_15_8 ..)
theorem EBit.eret : EBit.Statement (.eret) :=
  congrArg some (bit30_of_7_23 ..)
theorem EBit.mfsr (e n : Bool) (d : BitVec 7) (i : BitVec 8) : EBit.Statement (.mfsr e n d i) :=
  congrArg some ((bit30_of_7_1_7_7_8 ..).trans (ofBool_bit0 e))
theorem EBit.mtsr (a : BitVec 7) (i : BitVec 8) : EBit.Statement (.mtsr a i) :=
  congrArg some (bit30_of_7_8_7_8 ..)
theorem EBit.fpev (e n : Bool) (d : BitVec 7) (i : BitVec 8) : EBit.Statement (.fpev e n d i) :=
  congrArg some ((bit30_of_7_1_7_7_8 ..).trans (ofBool_bit0 e))
theorem EBit.errc (e n : Bool) (d : BitVec 7) (i : BitVec 8) : EBit.Statement (.errc e n d i) :=
  congrArg some ((bit30_of_7_1_7_7_8 ..).trans (ofBool_bit0 e))
theorem EBit.cyc (e : Bool) (d : BitVec 7) : EBit.Statement (.cyc e d) :=
  congrArg some ((bit30_of_7_1_7_15 ..).trans (ofBool_bit0 e))
theorem EBit.bkpt (i : BitVec 8) : EBit.Statement (.bkpt i) :=
  congrArg some (bit30_of_7_15_8 ..)
theorem EBit.apgo (n : Bool) (d a : BitVec 7) : EBit.Statement (.apgo n d a) :=
  congrArg some (bit30_of_7_1_7_7_8 ..)
theorem EBit.tbld (n : Bool) (d a b : BitVec 7) : EBit.Statement (.tbld n d a b) :=
  congrArg some (bit30_of_7_1_7_7_7_1 ..)
theorem EBit.runIssue (c slot : Nat) : EBit.Statement (.runIssue c slot) :=
  rfl
theorem EBit.loadReturn (c : Nat) (ret : Bool) (k : Nat) (stale : Bool) : EBit.Statement (.loadReturn c ret k stale) :=
  rfl
theorem EBit.atomicPerform (c k : Nat) : EBit.Statement (.atomicPerform c k) :=
  rfl
theorem EBit.storePerform (c k scope : Nat) : EBit.Statement (.storePerform c k scope) :=
  rfl
theorem EBit.sideLogReplay (c k : Nat) : EBit.Statement (.sideLogReplay c k) :=
  rfl
theorem EBit.releaseComplete (c k : Nat) : EBit.Statement (.releaseComplete c k) :=
  rfl
theorem EBit.queueEntryAppend (c g : Nat) : EBit.Statement (.queueEntryAppend c g) :=
  rfl
theorem EBit.queueEntryTake (c g : Nat) : EBit.Statement (.queueEntryTake c g) :=
  rfl
theorem EBit.trapEntry (c g : Nat) : EBit.Statement (.trapEntry c g) :=
  rfl
theorem EBit.faultRecordPost (p : Nat) : EBit.Statement (.faultRecordPost p) :=
  rfl
theorem EBit.tbldBankSwap (c g : Nat) : EBit.Statement (.tbldBankSwap c g) :=
  rfl
theorem EBit.mxAccept (c : Nat) : EBit.Statement (.mxAccept c) :=
  rfl
theorem EBit.mxStart (c k : Nat) : EBit.Statement (.mxStart c k) :=
  rfl
theorem EBit.mxCommandComplete (c k : Nat) : EBit.Statement (.mxCommandComplete c k) :=
  rfl
theorem EBit.aeAccept (c : Nat) : EBit.Statement (.aeAccept c) :=
  rfl
theorem EBit.arrayOperationStart (die : Nat) : EBit.Statement (.arrayOperationStart die) :=
  rfl
theorem EBit.arrayOperationComplete (die k : Nat) : EBit.Statement (.arrayOperationComplete die k) :=
  rfl
theorem EBit.aeDigitalPartStart (c k : Nat) : EBit.Statement (.aeDigitalPartStart c k) :=
  rfl
theorem EBit.aeDigitalPartComplete (c k : Nat) : EBit.Statement (.aeDigitalPartComplete c k) :=
  rfl
theorem EBit.ceAccept (c : Nat) (eng : Bool) : EBit.Statement (.ceAccept c eng) :=
  rfl
theorem EBit.ceChunkWrite (c : Nat) (eng : Bool) (k : Nat) : EBit.Statement (.ceChunkWrite c eng k) :=
  rfl
theorem EBit.drainDeferredAccept (c g : Nat) : EBit.Statement (.drainDeferredAccept c g) :=
  rfl
theorem EBit.drainTileTake (k : Nat) : EBit.Statement (.drainTileTake k) :=
  rfl
theorem EBit.nmuLineUpdate (k line : Nat) : EBit.Statement (.nmuLineUpdate k line) :=
  rfl
theorem EBit.splicePerform (k : Nat) : EBit.Statement (.splicePerform k) :=
  rfl
theorem EBit.pinPerform (k : Nat) : EBit.Statement (.pinPerform k) :=
  rfl
theorem EBit.unpinPerform (k : Nat) : EBit.Statement (.unpinPerform k) :=
  rfl
theorem EBit.reclaimRecordDelivery (k : Nat) : EBit.Statement (.reclaimRecordDelivery k) :=
  rfl
theorem EBit.statusEntryDelivery (k : Nat) : EBit.Statement (.statusEntryDelivery k) :=
  rfl
theorem EBit.stationAcceptRego (c g : Nat) : EBit.Statement (.stationAcceptRego c g) :=
  rfl
theorem EBit.stationPacketArrival (src : PacketSource) : EBit.Statement (.stationPacketArrival src) :=
  rfl
theorem EBit.stationDeadlineExpiry (k : Nat) : EBit.Statement (.stationDeadlineExpiry k) :=
  rfl
theorem EBit.lateCountdownExpiry (k : Nat) : EBit.Statement (.lateCountdownExpiry k) :=
  rfl
theorem EBit.rootRecordDelivery (k : Nat) : EBit.Statement (.rootRecordDelivery k) :=
  rfl
theorem EBit.oboeGroupFit (die a : Nat) (transpose : Bool) : EBit.Statement (.oboeGroupFit die a transpose) :=
  rfl
theorem EBit.oboePublish (die : Nat) : EBit.Statement (.oboePublish die) :=
  rfl
theorem EBit.oboeStarvationTimeout (die : Nat) : EBit.Statement (.oboeStarvationTimeout die) :=
  rfl
theorem EBit.queueBind (i : Nat) : EBit.Statement (.queueBind i) :=
  rfl
theorem EBit.launchTake (i : Nat) : EBit.Statement (.launchTake i) :=
  rfl
theorem EBit.clusterDispatch (l c0 : Nat) : EBit.Statement (.clusterDispatch l c0) :=
  rfl
theorem EBit.launchEnd (l : Nat) : EBit.Statement (.launchEnd l) :=
  rfl
theorem EBit.launchAppend (k : Nat) : EBit.Statement (.launchAppend k) :=
  rfl
theorem EBit.preempt (l k : Nat) : EBit.Statement (.preempt l k) :=
  rfl
theorem EBit.restart (k c0 : Nat) : EBit.Statement (.restart k c0) :=
  rfl
theorem EBit.timeSliceExpiry (p prio : Nat) : EBit.Statement (.timeSliceExpiry p prio) :=
  rfl
theorem EBit.apgoAnswer (c g : Nat) : EBit.Statement (.apgoAnswer c g) :=
  rfl
theorem EBit.rowStage (die a row : Nat) : EBit.Statement (.rowStage die a row) :=
  rfl
theorem EBit.rowWriteComplete (die a row : Nat) (ok : Bool) : EBit.Statement (.rowWriteComplete die a row ok) :=
  rfl
theorem EBit.dieReset (die : Nat) : EBit.Statement (.dieReset die) :=
  rfl
theorem EBit.dieWatchdogExpiry (die : Nat) : EBit.Statement (.dieWatchdogExpiry die) :=
  rfl
theorem EBit.linkFailure (die : Nat) : EBit.Statement (.linkFailure die) :=
  rfl
theorem EBit.linkRateChangeRequest (die rate : Nat) : EBit.Statement (.linkRateChangeRequest die rate) :=
  rfl
theorem EBit.linkWidthChangeRequest (die narrow : Nat) : EBit.Statement (.linkWidthChangeRequest die narrow) :=
  rfl
theorem EBit.retrainComplete (die : Nat) (ok : Bool) : EBit.Statement (.retrainComplete die ok) :=
  rfl
theorem EBit.powerGood (r : BringUp) : EBit.Statement (.powerGood r) :=
  rfl
theorem EBit.powerLoss : EBit.Statement (.powerLoss) :=
  rfl
theorem EBit.thermalStep (sensor : Nat) (t : Int) : EBit.Statement (.thermalStep sensor t) :=
  rfl
theorem EBit.scrubError (loc : ErrorPlace) (lost : Bool) : EBit.Statement (.scrubError loc lost) :=
  rfl
theorem EBit.hostMemoryAccess (acc : HostAccess) : EBit.Statement (.hostMemoryAccess acc) :=
  rfl
theorem EBit.peerAccess (acc : PeerAccess) : EBit.Statement (.peerAccess acc) :=
  rfl
theorem EBit.hostLinkDown (port : Nat) : EBit.Statement (.hostLinkDown port) :=
  rfl
theorem EBit.privsemTake (port : Nat) : EBit.Statement (.privsemTake port) :=
  rfl
theorem EBit.privsemGive (port : Nat) : EBit.Statement (.privsemGive port) :=
  rfl
theorem EBit.ifcmdLock (w : Writer) (i : Nat) : EBit.Statement (.ifcmdLock w i) :=
  rfl
theorem EBit.ifcmdStart (w : Writer) (i : Nat) : EBit.Statement (.ifcmdStart w i) :=
  rfl
theorem EBit.ifcmdStop (w : Writer) (i : Nat) : EBit.Statement (.ifcmdStop w i) :=
  rfl
theorem EBit.ifcmdNone (w : Writer) (i : Nat) : EBit.Statement (.ifcmdNone w i) :=
  rfl
theorem EBit.doorbell (w : Writer) (i n : Nat) : EBit.Statement (.doorbell w i n) :=
  rfl
theorem EBit.resolve (w : Writer) (p : Nat) : EBit.Statement (.resolve w p) :=
  rfl
theorem EBit.shoot (w : Writer) (p va : Nat) : EBit.Statement (.shoot w p va) :=
  rfl
theorem EBit.shootdownComplete (p : Nat) : EBit.Statement (.shootdownComplete p) :=
  rfl
theorem EBit.pcmdCreateKeyHandle (w : Writer) (p desc : Nat) : EBit.Statement (.pcmdCreateKeyHandle w p desc) :=
  rfl
theorem EBit.pcmdBindKeyHandle (w : Writer) (p desc : Nat) : EBit.Statement (.pcmdBindKeyHandle w p desc) :=
  rfl
theorem EBit.pcmdDestroyKeyHandle (w : Writer) (p desc : Nat) : EBit.Statement (.pcmdDestroyKeyHandle w p desc) :=
  rfl
theorem EBit.pcmdCreateCollective (w : Writer) (p desc : Nat) : EBit.Statement (.pcmdCreateCollective w p desc) :=
  rfl
theorem EBit.pcmdDestroyCollective (w : Writer) (p desc : Nat) : EBit.Statement (.pcmdDestroyCollective w p desc) :=
  rfl
theorem EBit.pcmdDefineLayer (w : Writer) (p desc : Nat) : EBit.Statement (.pcmdDefineLayer w p desc) :=
  rfl
theorem EBit.pcmdRetireLayer (w : Writer) (p desc : Nat) : EBit.Statement (.pcmdRetireLayer w p desc) :=
  rfl
theorem EBit.pcmdSpdm (w : Writer) (p desc : Nat) : EBit.Statement (.pcmdSpdm w p desc) :=
  rfl
theorem EBit.mboxinDeliver (w : Writer) (p : Nat) : EBit.Statement (.mboxinDeliver w p) :=
  rfl
theorem EBit.mailboxOutRecord (c g : Nat) : EBit.Statement (.mailboxOutRecord c g) :=
  rfl
theorem EBit.partitionCreate (port p : Nat) : EBit.Statement (.partitionCreate port p) :=
  rfl
theorem EBit.partitionDissolve (port p : Nat) : EBit.Statement (.partitionDissolve port p) :=
  rfl
theorem EBit.controlRegisterWrite (w : Writer) (off width value : Nat) : EBit.Statement (.controlRegisterWrite w off width value) :=
  rfl
theorem EBit.writeImage (port desc : Nat) : EBit.Statement (.writeImage port desc) :=
  rfl
theorem EBit.activate (port desc : Nat) : EBit.Statement (.activate port desc) :=
  rfl
theorem EBit.confirm (port desc : Nat) : EBit.Statement (.confirm port desc) :=
  rfl
theorem EBit.readLog (port desc : Nat) : EBit.Statement (.readLog port desc) :=
  rfl
theorem EBit.spdm (port desc : Nat) : EBit.Statement (.spdm port desc) :=
  rfl
theorem EBit.setCert (port desc : Nat) : EBit.Statement (.setCert port desc) :=
  rfl
theorem EBit.readSensors (port desc : Nat) : EBit.Statement (.readSensors port desc) :=
  rfl
theorem EBit.setCarveout (port desc : Nat) : EBit.Statement (.setCarveout port desc) :=
  rfl
theorem EBit.getVersion (r : SpdmRequest) : EBit.Statement (.getVersion r) :=
  rfl
theorem EBit.getCapabilities (r : SpdmRequest) : EBit.Statement (.getCapabilities r) :=
  rfl
theorem EBit.negotiateAlgorithms (r : SpdmRequest) : EBit.Statement (.negotiateAlgorithms r) :=
  rfl
theorem EBit.getDigests (r : SpdmRequest) : EBit.Statement (.getDigests r) :=
  rfl
theorem EBit.getCertificate (r : SpdmRequest) : EBit.Statement (.getCertificate r) :=
  rfl
theorem EBit.challenge (r : SpdmRequest) : EBit.Statement (.challenge r) :=
  rfl
theorem EBit.getMeasurements (r : SpdmRequest) : EBit.Statement (.getMeasurements r) :=
  rfl
theorem EBit.keyExchange (r : SpdmRequest) : EBit.Statement (.keyExchange r) :=
  rfl
theorem EBit.finish (r : SpdmRequest) : EBit.Statement (.finish r) :=
  rfl
theorem EBit.keyUpdate (r : SpdmRequest) : EBit.Statement (.keyUpdate r) :=
  rfl
theorem EBit.heartbeat (r : SpdmRequest) : EBit.Statement (.heartbeat r) :=
  rfl
theorem EBit.endSession (r : SpdmRequest) : EBit.Statement (.endSession r) :=
  rfl
theorem EBit.challengeTimeout : EBit.Statement (.challengeTimeout) :=
  rfl
theorem EBit.carveoutChangeComplete : EBit.Statement (.carveoutChangeComplete) :=
  rfl
theorem EBit.mtsrComplete (c g : Nat) : EBit.Statement (.mtsrComplete c g) :=
  rfl

end Sys2Proof.Laws
end

