-- ==== Sys2Proof/Tests/Slice0.lean ====
section
/-! SUPPORT. Small tests: ill-formed terms, decoded words, single steps on small states, and for each statement with
hypotheses a state and operands that meet them. -/

open Sys2Proof Sys2Proof.Machine Sys2Proof.Claims

namespace Sys2Proof.Tests

set_option maxRecDepth 4000
set_option Elab.async false

/-! ## Ill-formed terms, one for each check, at the first value out of range (R66, R68, R2, R359) -/

theorem test_selectors_out_of_range_0 : (([.shli false false 0 0 32, .shri false false 0 0 32, .sari false false 0 0 32, .dqn false false 0 0 0,
   .dqn false false 0 0 5, .shflu false false 0 0 32, .shfld false false 0 0 32, .shflx false false 0 0 32,
   .qex false false 0 0 3, .gred false false 0 0 9, .gscan false false 0 0 3, .wait 16, .aadd false 0 0 1 0,
   .aaddf false 0 0 1 0, .aaddb2 false 0 0 1 0, .amin false 0 0 1 0, .amax false 0 0 1 0,
   .aminn false 0 0 1 0, .amaxn false 0 0 1 0, .aand false 0 0 1 0, .aor false 0 0 1 0, .axor false 0 0 1 0,
   .axch false 0 0 1 0, .acas false 0 0 1 0, .aaddx false 0 0 1 0, .axchx false 0 0 1 0,
   .acasx false 0 0 1 0, .ushli false false 0 0 32, .ushri false false 0 0 32, .mset false 16,
   .mclr false 16, .phase 5 1, .phase 0 0, .push 0 14, .pop false 0 14, .qtry false 0 14,
   .qstat false false 0 14, .bwait 0 2, .cego false 0 0 2, .mfsr false false 0 13] : List Instr).all fun i => !i.wellFormed) = true := by
  decide +kernel
theorem test_selectors_out_of_range_1 : (([.mtsr 0 13, .fpev false false 0 24, .errc false false 0 4] : List Instr).all fun i => !i.wellFormed) = true := by
  decide +kernel
theorem test_places_out_of_range_a : (([.runIssue 320 0, .runIssue 0 4, .loadReturn 320 false 0 false, .atomicPerform 320 0,
   .storePerform 320 0 0, .storePerform 0 0 5, .sideLogReplay 320 0, .releaseComplete 320 0,
   .queueEntryAppend 320 0, .queueEntryAppend 0 32, .queueEntryTake 320 0, .queueEntryTake 0 32,
   .trapEntry 320 0, .trapEntry 0 32, .faultRecordPost 32, .tbldBankSwap 320 0, .tbldBankSwap 0 32,
   .mxAccept 320, .mxStart 320 0, .mxCommandComplete 320 0, .aeAccept 320, .arrayOperationStart 16,
   .arrayOperationComplete 16 0, .aeDigitalPartStart 320 0, .aeDigitalPartComplete 320 0,
   .ceAccept 320 false, .ceChunkWrite 320 false 0, .drainDeferredAccept 320 0, .drainDeferredAccept 0 32,
   .stationAcceptRego 320 0, .stationAcceptRego 0 32, .oboeGroupFit 16 0 false, .oboeGroupFit 0 65536 false,
   .oboePublish 16, .oboeStarvationTimeout 16, .queueBind 4096, .launchTake 4096, .clusterDispatch 0 320,
   .restart 0 320, .timeSliceExpiry 32 0, .apgoAnswer 320 0, .apgoAnswer 0 32, .rowStage 16 0 0,
   .rowStage 0 65536 0, .rowStage 0 0 1024] : List Instr).all fun i => !i.wellFormed) = true := by
  decide +kernel
theorem test_places_out_of_range_b : (([.rowWriteComplete 16 0 0 false, .rowWriteComplete 0 65536 0 false, .rowWriteComplete 0 0 1024 false,
   .dieReset 16, .dieWatchdogExpiry 16, .linkFailure 16, .linkRateChangeRequest 16 0,
   .linkWidthChangeRequest 16 0, .retrainComplete 16 false, .hostLinkDown 2, .privsemTake 2, .privsemGive 2,
   .ifcmdLock (.port 0) 4096, .ifcmdStart (.port 0) 4096, .ifcmdStop (.port 0) 4096,
   .ifcmdNone (.port 0) 4096, .doorbell (.port 0) 4096 0, .resolve (.port 0) 32, .shoot (.port 0) 32 0,
   .shootdownComplete 32, .pcmdCreateKeyHandle (.port 0) 32 0, .pcmdBindKeyHandle (.port 0) 32 0,
   .pcmdDestroyKeyHandle (.port 0) 32 0, .pcmdCreateCollective (.port 0) 32 0,
   .pcmdDestroyCollective (.port 0) 32 0, .pcmdDefineLayer (.port 0) 32 0, .pcmdRetireLayer (.port 0) 32 0,
   .pcmdSpdm (.port 0) 32 0, .mboxinDeliver (.port 0) 32, .mailboxOutRecord 320 0, .mailboxOutRecord 0 32,
   .partitionCreate 2 0, .partitionCreate 0 32, .partitionDissolve 2 0, .partitionDissolve 0 32,
   .controlRegisterWrite (.port 0) 16777216 0 0, .writeImage 2 0, .activate 2 0, .confirm 2 0, .readLog 2 0,
   .spdm 2 0, .setCert 2 0, .readSensors 2 0, .setCarveout 2 0, .mtsrComplete 320 0] : List Instr).all fun i => !i.wellFormed) = true := by
  decide +kernel
theorem test_places_out_of_range_c : (([.mtsrComplete 0 32] : List Instr).all fun i => !i.wellFormed) = true := by
  decide +kernel

/-! ## Words written out from the formats of R61 to R70 and the opcode table: the fields of each row at their bits -/

theorem test_decode_integer_a : (([(0x0065F02A, .add false true 0x4b 0x70 0x15), (0x40A87534, .sub true false 0x50 0x75 0x1a),
   (0x016AFA3E, .mul false true 0x55 0x7a 0x1f), (0x41AD7F48, .mulh true false 0x5a 0x7f 0x24),
   (0x026F8452, .mulhn false true 0x5f 4 0x29), (0x42B2095C, .and true false 0x64 9 0x2e),
   (0x03748E66, .or false true 0x69 0xe 0x33), (0x43B71370, .xor true false 0x6e 0x13 0x38),
   (0x0479987A, .andn false true 0x73 0x18 0x3d), (0x44BC1D84, .shl true false 0x78 0x1d 0x42),
   (0x057EA28E, .shr false true 0x7d 0x22 0x47), (0x45812798, .sar true false 2 0x27 0x4c),
   (0x0643ACA2, .min false true 7 0x2c 0x51), (0x468631AC, .max true false 0xc 0x31 0x56),
   (0x0748B6B6, .minn false true 0x11 0x36 0x5b), (0x478B3BC0, .maxn true false 0x16 0x3b 0x60),
   (0x084DC0CA, .addsat false true 0x1b 0x40 0x65), (0x489045D4, .subsat true false 0x20 0x45 0x6a),
   (0x0952CADE, .addsatn false true 0x25 0x4a 0x6f), (0x49954FE8, .subsatn true false 0x2a 0x4f 0x74),
   (0x0A57D4F2, .absd false true 0x2f 0x54 0x79), (0x4A9A59FC, .bfx true false 0x34 0x59 0x7e),
   (0x0B5CDE06, .bfxn false true 0x39 0x5e 3), (0x4B9F6310, .bfi true false 0x3e 0x63 8),
   (0x0C61E81A, .sel false true 0x43 0x68 0xd), (0x4CA46D00, .mov true false 0x48 0x6d),
   (0x0CE6F202, .not false true 0x4d 0x72), (0x4CA97704, .neg true false 0x52 0x77),
   (0x0CEBFC06, .abs false true 0x57 0x7c), (0x4CAE0108, .clz true false 0x5c 1),
   (0x0CF0860A, .popc false true 0x61 6), (0x4CB30B0C, .brev true false 0x66 0xb),
   (0x0CF5900E, .sextb false true 0x6b 0x10), (0x4CB81510, .sexth true false 0x70 0x15),
   (0x0CFA9A12, .zextb false true 0x75 0x1a), (0x4CBD1F14, .zexth true false 0x7a 0x1f),
   (0x0D7FA492, .addx false true 0x7f 0x24 0x49), (0x4D82299C, .subx true false 4 0x29 0x4e),
   (0x0E44AEA6, .mulwx false true 9 0x2e 0x53), (0x4E8733B0, .mulwxn true false 0xe 0x33 0x58)] : List (Word × Instr)).all
    fun p => decide (decode p.1 = some p.2)) = true := by
  decide +kernel
theorem test_decode_integer_b : (([(0x0F49B8BA, .leax false true 0x13 0x38 0x5d), (0x4F8C3D28, .addxi true false 0x18 0x3d 0x28)] : List (Word × Instr)).all
    fun p => decide (decode p.1 = some p.2)) = true := by
  decide +kernel
theorem test_decode_immediates_and_compares : (([(0x104EC245, .addi false true 0x1d 0x42 0x45), (0x50914762, .andi true false 0x22 0x47 0x62),
   (0x1153CC7F, .ori false true 0x27 0x4c 0x7f), (0x5196519C, .xori true false 0x2c 0x51 0x9c),
   (0x1258D61F, .shli false true 0x31 0x56 0x1f), (0x529B5B1F, .shri true false 0x36 0x5b 0x1f),
   (0x135DE01F, .sari false true 0x3b 0x60 0x1f), (0x53A06510, .muli true false 0x40 0x65 0x10),
   (0x1420C63B, .ldi false 0x20 0xc63b), (0x54A5D63E, .ldh true 0x25 0xd63e),
   (0x182A9FD0, .cmpeq false 0x2a 0x4f 0x74), (0x58AFA9E4, .cmpne true 0x2f 0x54 0x79),
   (0x1934B3F8, .cmplt false 0x34 0x59 0x7e), (0x59B9BC0C, .cmple true 0x39 0x5e 3),
   (0x1A3EC620, .cmpltn false 0x3e 0x63 8), (0x5AC3D034, .cmplen true 0x43 0x68 0xd),
   (0x1B48DA48, .cmpeqi false 0x48 0x6d 0x12), (0x5BCDE45C, .cmplti true 0x4d 0x72 0x17),
   (0x1C52EE70, .cmpltni false 0x52 0x77 0x1c), (0x5CD7F884, .cmpltx true 0x57 0x7c 0x21),
   (0x1D5C0298, .cmpeqx false 0x5c 1 0x26), (0x5DE10CAC, .kand true 0x61 6 0x2b),
   (0x1DE616C1, .kor false 0x66 0xb 0x30), (0x5DEB20D6, .kxor true 0x6b 0x10 0x35),
   (0x1DF02AEB, .kandn false 0x70 0x15 0x3a), (0x5E753410, .kset true 0x75 0x1a 4),
   (0x1ECFC400, .kget false true 0x1f 0x44)] : List (Word × Instr)).all
    fun p => decide (decode p.1 = some p.2)) = true := by
  decide +kernel
theorem test_decode_floating_point_a : (([(0x601249DC, .fadd true false 0x24 0x49 0x6e), (0x20D4CEE6, .fsub false true 0x29 0x4e 0x73),
   (0x611753F0, .fmul true false 0x2e 0x53 0x78), (0x21D9D8FA, .ffma false true 0x33 0x58 0x7d),
   (0x621C5D04, .fmin true false 0x38 0x5d 2), (0x22DEE20E, .fmax false true 0x3d 0x62 7),
   (0x63216718, .faddz true false 0x42 0x67 0xc), (0x23E3EC22, .fmulz false true 0x47 0x6c 0x11),
   (0x6426712C, .ffmaz true false 0x4c 0x71 0x16), (0x24ACA3D8, .fcmpeq false 0x2c 0x51 0x76),
   (0x6531ADEC, .fcmplt true 0x31 0x56 0x7b), (0x25B6B600, .fcmple false 0x36 0x5b 0),
   (0x663BC014, .fcmpun true 0x3b 0x60 5), (0x26F28A00, .fabs false true 0x65 0xa),
   (0x66B50F02, .fneg true false 0x6a 0xf), (0x26F79404, .ffloor false true 0x6f 0x14),
   (0x66BA1906, .fceil true false 0x74 0x19), (0x26FC9E08, .frint false true 0x79 0x1e),
   (0x66BF230A, .ftrunc true false 0x7e 0x23), (0x26C1A810, .fexp2 false true 3 0x28),
   (0x66842D12, .flog2 true false 8 0x2d), (0x26C6B214, .frcp false true 0xd 0x32),
   (0x66893716, .frsq true false 0x12 0x37), (0x26CBBC18, .fsqrt false true 0x17 0x3c),
   (0x668E411A, .fsinp true false 0x1c 0x41), (0x26D0C61C, .fcosp false true 0x21 0x46),
   (0x66934B1E, .ftanh true false 0x26 0x4b), (0x26D5D020, .fsig false true 0x2b 0x50),
   (0x67185500, .cvtfi true false 0x30 0x55), (0x275ADA02, .cvtfiz false true 0x35 0x5a),
   (0x671D5F04, .cvtfn true false 0x3a 0x5f), (0x275FE406, .cvtif false true 0x3f 0x64),
   (0x67226908, .cvtnf true false 0x44 0x69), (0x2764EE0A, .cvtbf false true 0x49 0x6e),
   (0x6727730C, .cvtbfh true false 0x4e 0x73), (0x2769F80E, .cvthf false true 0x53 0x78),
   (0x672C7D10, .cvthfh true false 0x58 0x7d), (0x27EE824E, .cvtfb false true 0x5d 2 0x27),
   (0x68310758, .cvtfbs true false 0x62 7 0x2c), (0x28F38C62, .cvtfh false true 0x67 0xc 0x31)] : List (Word × Instr)).all
    fun p => decide (decode p.1 = some p.2)) = true := by
  decide +kernel
theorem test_decode_floating_point_b : (([(0x6936116C, .badd2 true false 0x6c 0x11 0x36), (0x29F89676, .bmul2 false true 0x71 0x16 0x3b),
   (0x6A3B1B80, .bfma2 true false 0x76 0x1b 0x40), (0x2AFDA08A, .bmax2 false true 0x7b 0x20 0x45),
   (0x6B002594, .bmin2 true false 0 0x25 0x4a), (0x2BC2AA9E, .qntf8 false true 5 0x2a 0x4f),
   (0x6C052FA8, .qntf6 true false 0xa 0x2f 0x54), (0x2CC7B4B2, .qntf4 false true 0xf 0x34 0x59),
   (0x6D0A39BC, .qnti8 true false 0x14 0x39 0x5e), (0x2DCCBE04, .dqn false true 0x19 0x3e 4),
   (0x6E0F43D0, .rnd true false 0x1e 0x43 0x68)] : List (Word × Instr)).all
    fun p => decide (decode p.1 = some p.2)) = true := by
  decide +kernel
theorem test_decode_lanes_and_memory_a : (([(0x3051C8DA, .shfl false true 0x23 0x48 0x6d), (0x70944D1F, .shflu true false 0x28 0x4d 0x1f),
   (0x3156D21F, .shfld false true 0x2d 0x52 0x1f), (0x7199571F, .shflx true false 0x32 0x57 0x1f),
   (0x325BDC02, .qex false true 0x37 0x5c 2), (0x729E6100, .voteb true false 0x3c 0x61),
   (0x331C8200, .votean false 0x1c 0x41), (0x73A18C00, .voteal true 0x21 0x46),
   (0x3465F008, .gred false true 0x4b 0x70 8), (0x74A87502, .gscan true false 0x50 0x75 2),
   (0x750BC72B, .brk 0xb true 0x472b), (0x75801000, .jmpi 0x10), (0x760ABA77, .jmpt 0x15 0x3a 0x77),
   (0x76DFE400, .calli true 0x3f 0x64), (0x7700000F, .wait 0xf), (0x77800000, .exit),
   (0x387998EB, .ld8 false true 0x73 0x18 0xeb), (0x78BC1D08, .ld8s true false 0x78 0x1d 8),
   (0x397EA225, .ld16 false true 0x7d 0x22 0x25), (0x79812742, .ld16s true false 2 0x27 0x42),
   (0x3A43AC5F, .ld32 false true 7 0x2c 0x5f), (0x7A86317C, .ld64 true false 0xc 0x31 0x7c),
   (0x3B48B699, .ld128 false true 0x11 0x36 0x99), (0x7BB896B6, .st8 true 0x71 0x16 0xb6),
   (0x3C3B1BD3, .st16 false 0x76 0x1b 0xd3), (0x7CBDA0F0, .st32 true 0x7b 0x20 0xf0),
   (0x3D00250D, .st64 false 0 0x25 0xd), (0x7D82AA2A, .st128 true 5 0x2a 0x2a),
   (0x7E052F0A, .aadd false 0xa 0x2f 2 2), (0x7E47B41B, .aaddf true 0xf 0x34 2 3),
   (0x7E0A3929, .aaddb2 false 0x14 0x39 2 1), (0x7E4CBE3A, .amin true 0x19 0x3e 2 2),
   (0x7E0F434B, .amax false 0x1e 0x43 2 3), (0x7E51C859, .aminn true 0x23 0x48 2 1),
   (0x7E144D6A, .amaxn false 0x28 0x4d 2 2), (0x7E56D27B, .aand true 0x2d 0x52 2 3),
   (0x7E195789, .aor false 0x32 0x57 2 1), (0x7E5BDC9A, .axor true 0x37 0x5c 2 2),
   (0x7E1E61AB, .axch false 0x3c 0x61 2 3), (0x7E60E6B9, .acas true 0x41 0x66 2 1)] : List (Word × Instr)).all
    fun p => decide (decode p.1 = some p.2)) = true := by
  decide +kernel
theorem test_decode_lanes_and_memory_b : (([(0x7E236BCA, .aaddx false 0x46 0x6b 2 2), (0x7E65F0DB, .axchx true 0x4b 0x70 2 3),
   (0x7E2875E9, .acasx false 0x50 0x75 2 1), (0x7E8055FA, .pfNormal true 0x55 0xfa),
   (0x3E80DA17, .pfEvictFirst false 0x5a 0x17), (0x7E815F34, .pfEvictLast true 0x5f 0x34),
   (0x3E81E451, .pfLlcOnly false 0x64 0x51), (0x7F0733B0, .stad true false 0xe 0x33 0x58),
   (0x7F8049DC, .mxgo 0x49 0x6e), (0x7F80CEE6, .aego 0x4e 0x73)] : List (Word × Instr)).all
    fun p => decide (decode p.1 = some p.2)) = true := by
  decide +kernel
theorem test_decode_uniform_integer : (([(0x804EC2CE, .uadd false true 0x1d 0x42 0x67), (0xC09147D8, .usub true false 0x22 0x47 0x6c),
   (0x8153CCE2, .umul false true 0x27 0x4c 0x71), (0xC19651EC, .uand true false 0x2c 0x51 0x76),
   (0x8258D6F6, .uor false true 0x31 0x56 0x7b), (0xC29B5B00, .uxor true false 0x36 0x5b 0),
   (0x835DE00A, .ushl false true 0x3b 0x60 5), (0xC3A06514, .ushr true false 0x40 0x65 0xa),
   (0x8462EA1E, .usar false true 0x45 0x6a 0xf), (0xC4A56F28, .umin true false 0x4a 0x6f 0x14),
   (0x8567F432, .umax false true 0x4f 0x74 0x19), (0xC5AA7900, .umov true false 0x54 0x79),
   (0x85ECFE02, .unot false true 0x59 0x7e), (0xC5AF0304, .uneg true false 0x5e 3),
   (0x85F18806, .uclz false true 0x63 8), (0xC5B40D08, .upopc true false 0x68 0xd),
   (0x8676926E, .uaddx false true 0x6d 0x12 0x37), (0xC6B91778, .umulwx true false 0x72 0x17 0x3c),
   (0x877B9CCF, .uaddi false true 0x77 0x1c 0xcf), (0xC7BE21EC, .uandi true false 0x7c 0x21 0xec),
   (0x8840A609, .uori false true 1 0x26 9), (0xC8832B1F, .ushli true false 6 0x2b 0x1f),
   (0x8945B01F, .ushri false true 0xb 0x30 0x1f), (0xC9883560, .uaddxi true false 0x10 0x35 0x60),
   (0x8A70C7EB, .uldi false 0x70 0xc7eb), (0xCAF5D7EE, .uldh true 0x75 0xd7ee),
   (0x8B4FC4D2, .ucmpeq false true 0x1f 0x44 0x69), (0xCB9249DC, .ucmpne true false 0x24 0x49 0x6e),
   (0x8C54CEE6, .ucmplt false true 0x29 0x4e 0x73), (0xCC9753F0, .ucmpltn true false 0x2e 0x53 0x78),
   (0x8D59D8FA, .ucmpltx false true 0x33 0x58 0x7d), (0xCD9C5D00, .rdl true false 0x38 0x5d)] : List (Word × Instr)).all
    fun p => decide (decode p.1 = some p.2)) = true := by
  decide +kernel
theorem test_decode_uniform_control_and_queues : (([(0xD0324803, .ubra 0x324803), (0xD0F85806, .ubz 0x78 0x5806), (0xD17D6809, .ubnz 0x7d 0x6809),
   (0xD1B2780C, .ucall 0x32780c), (0xD2000700, .uret 7), (0xD2800000, .region),
   (0x9300000F, .mset false 0xf), (0xD380000F, .mclr true 0xf), (0xD4000000, .uexit), (0xD4800000, .bar),
   (0xD5000000, .barc), (0xD5800013, .phase 4 3), (0xD6000000, .ifence), (0xD6800000, .unop true),
   (0xD8003968, .push 0x39 0xd), (0xD8F18068, .pop true 0x63 0xd), (0xD9340068, .qtry false 0x68 0xd),
   (0xD9890068, .qstat true false 0x12 0xd), (0xDA004D01, .bwait 0x4d 1),
   (0xDAFB9C82, .bexp true 0x77 0x1c 0x41), (0xDB3E2100, .barv false 0x7c 0x21),
   (0xDBC0A601, .cego true 1 0x26 1), (0xDC032B00, .rego false 6 0x2b),
   (0xDCC5B0AA, .splice true 0xb 0x30 0x55), (0xDD083500, .pin false 0x10 0x35),
   (0xDDCABA00, .unpin true 0x15 0x3a), (0xDE0D3F00, .drain false 0x1a 0x3f),
   (0xDECFC4D2, .launch true 0x1f 0x44 0x69)] : List (Word × Instr)).all
    fun p => decide (decode p.1 = some p.2)) = true := by
  decide +kernel
theorem test_decode_system : (([(0xE0000091, .trap 0x91), (0xE0800000, .eret), (0xA169800C, .mfsr false true 0x53 0xc),
   (0xE1800E0C, .mtsr 0xe 0xc), (0xA26E8017, .fpev false true 0x5d 0x17),
   (0xE2B10003, .errc true false 0x62 3), (0xA3210000, .cyc false 0x42), (0xE380005C, .bkpt 0x5c),
   (0xE4267100, .apgo false 0x4c 0x71), (0xE4E8F636, .tbld true 0x51 0x76 0x1b)] : List (Word × Instr)).all
    fun p => decide (decode p.1 = some p.2)) = true := by
  decide +kernel

/-! ## The worked encodings of the spec: 01, 02, 05, 06, 07, 09, 14, 18 -/

theorem test_decode_worked_words_a : (([(0x140003E8, .ldi false 0 1000), (0x14010002, .ldi false 1 2), (0x14810001, .ldh false 1 1),
   (0x00010002, .add false false 2 0 1), (0x1B81CC40, .cmplti false 1 102 16),
   (0x0E816602, .mulwxn false false 2 102 1), (0x0D024404, .addx false false 4 68 2),
   (0x1C82C118, .cmpltx false 2 96 70), (0x0B03040E, .bfxn false false 6 4 7),
   (0x0C040604, .sel false false 8 6 2), (0x2700E608, .cvtnf false false 1 102),
   (0x2B820388, .qntf8 false false 4 3 68), (0x2D828401, .dqn false false 5 4 1),
   (0x6083030A, .fsub true false 6 3 5), (0x32826000, .voteb false false 4 96),
   (0x3482E101, .gscan false false 5 97 1), (0x34030100, .gred false false 6 1 0),
   (0x31038101, .shfld false false 7 1 1), (0x32040102, .qex false false 8 1 2), (0x75028002, .brk 2 true 2),
   (0x75020002, .brk 2 false 2), (0x7404E600, .gred true false 9 102 0), (0x77000001, .wait 1),
   (0x30010106, .shfl false false 2 1 3), (0x30810104, .shflu false false 2 1 4),
   (0x31810110, .shflx false false 2 1 16), (0x33030200, .votean false 3 1), (0x33830200, .voteal false 3 1),
   (0x75800300, .jmpi 3), (0x76220204, .jmpt 68 2 4), (0x76830300, .calli false 6 3), (0x77800000, .exit),
   (0x388084FF, .ld8s false false 1 4 0xFF), (0x3B040402, .ld128 false false 8 4 2),
   (0x3C83C004, .st32 false 7 64 4), (0x7E030400, .aadd false 6 4 0 0), (0x7E0104B5, .acas false 2 4 1 1),
   (0x3E810402, .pfEvictLast false 4 2), (0x3F054806, .stad false false 10 72 3), (0x7F804C88, .mxgo 76 68)] : List (Word × Instr)).all
    fun p => decide (decode p.1 = some p.2)) = true := by
  decide +kernel
theorem test_decode_worked_words_b : (([(0x7F80CC88, .aego 76 68), (0xD143FFFE, .ubnz 67 0xFFFE), (0xDBA4C000, .cego false 73 64 0),
   (0xDA004600, .bwait 70 0), (0x8722E102, .uaddi false false 69 97 2), (0x8A44F000, .uldi false 68 0xF000),
   (0x8DA40400, .rdl false false 72 4), (0xD180000C, .ucall 12), (0xD2800000, .region),
   (0xA2230001, .fpev false false 70 1), (0xD2005F00, .uret 95), (0xD0000000, .ubra 0), (0xD4000000, .uexit),
   (0x96800000, .unop false), (0xE0000005, .trap 5), (0xE0800000, .eret), (0xE3800000, .bkpt 0),
   (0xA122000B, .mfsr false false 68 11), (0xE180440C, .mtsr 68 12), (0xA2A38000, .errc false false 71 0),
   (0xA3240000, .cyc false 72), (0xD6000000, .ifence), (0xE4A4C48C, .tbld false 73 68 70),
   (0x93000001, .mset false 1), (0x93800001, .mclr false 1), (0xD4800000, .bar), (0xD5000000, .barc),
   (0xD580000A, .phase 2 2), (0xDCA5448C, .splice false 74 68 70), (0xDD244400, .pin false 72 68),
   (0xDDA4C800, .unpin false 73 72), (0xDAA5428E, .bexp false 74 66 71),
   (0x89A24040, .uaddxi false false 68 64 0x40), (0xD8A70008, .pop false 78 1),
   (0xD92C0008, .qtry false 88 1), (0xD8004468, .push 68 13), (0x99A90038, .qstat false false 82 7)] : List (Word × Instr)).all
    fun p => decide (decode p.1 = some p.2)) = true := by
  decide +kernel

/-! ## The small states of the tests -/

/-- A group of 32 real threads of launch 0 on core 0, slot 0, its run about to issue its first instruction. -/
def demo : State := State.reset.withFetchWord 32 0

/-- The same with another group in its place. -/
def seated (g : Group) : State := demo.setCore 0 ((demo.core 0).setGroup 0 (some g))

/-- The run of a path that has issued nothing. -/
def runOf (m : LaneMask) : Run := { mask := m, count := 0, latches := [], logRoom := 32, words := [], refusal := 7 }

/-- The run in focus there. -/
def ctxOf (g : Group) : Ctx :=
  ⟨0, 0, (seated g).core 0, g, g.run.getD (runOf 0)⟩

def user : Group := Group.entered 0 0 []
/-- Registers: `v` gives those of a lane, in order from v0; `sv` the s registers from s0. -/
def holding (v : Nat → List Word) (sv : List Word) : Group :=
  { user with
    threads := Vector.ofFn fun i : Fin 32 => { Thread.entered with v := Vector.ofFn fun r : Fin 64 => (v i.val).getD r.val 0 }
    s := Vector.ofFn fun r : Fin 32 => sv.getD r.val 0 }
/-- At supervisor level. -/
def supervisor (g : Group) : Group := { g with threads := g.threads.map fun t => { t with lvl := true } }
/-- With lanes from 16 on in another path. -/
def half (g : Group) : Group := { g with run := some (runOf 0xFFFF) }
/-- A path of helper lanes only. -/
def helpers (g : Group) : Group := { g with threads := g.threads.map fun t => { t with kind := .helper } }

/-- The group after one instruction, where it answers a next state. -/
def ran (i : Instr) (g : Group) : Group :=
  match exec i (seated g) with
  | .next t => (t.group 0 0).getD Group.reset
  | _ => Group.reset
/-- Register `r` of a lane after one instruction, none where the instruction does not answer a next state. -/
def vAfter (i : Instr) (g : Group) (l r : Nat) : Option Word :=
  match exec i (seated g) with
  | .next t => (t.group 0 0).map fun g => (g.th l).v[r]?.getD 0
  | _ => none
def sAfter (i : Instr) (g : Group) (r : Nat) : Option Word :=
  match exec i (seated g) with
  | .next t => (t.group 0 0).map fun g => g.s[r]?.getD 0
  | _ => none
def kAfter (i : Instr) (g : Group) (l r : Nat) : Option Bool :=
  match exec i (seated g) with
  | .next t => (t.group 0 0).map fun g => (g.th l).k.getLsbD r
  | _ => none
def pcAfter (i : Instr) (g : Group) (l : Nat) : Option Word :=
  match exec i (seated g) with
  | .next t => (t.group 0 0).map fun g => (g.th l).pc
  | _ => none
def trapAfter (i : Instr) (g : Group) : Option (Word × Word × Word) :=
  match exec i (seated g) with
  | .next t => (t.group 0 0).map fun g => (g.trapCause, g.trapPc, g.trapVal)
  | _ => none
/-- Something of the state after one instruction. -/
def after {α : Type} (i : Instr) (s : State) (f : State → α) : Option α :=
  match exec i s with
  | .next t => some (f t)
  | _ => none

/-- Two words in every lane. -/
def pair (a b : Word) : Group := holding (fun _ => [a, b]) []

/-! ## Results taken from the tables and examples of the spec -/

-- 05, R81 to R83: sums wrap; the products' high halves; counts from 32 on; fields cut at bit 31.
theorem test_add_wraps : vAfter (.add false false 2 0 1) (pair 0xFFFFFFFF 2) 5 2 = some 1 := by decide +kernel
theorem test_sub_wraps : vAfter (.sub false false 2 0 1) (pair 0 1) 5 2 = some 0xFFFFFFFF := by decide +kernel
theorem test_mulh_signed : vAfter (.mulh false false 2 0 1) (pair 0xFFFFFFFF 2) 0 2 = some 0xFFFFFFFF := by decide +kernel
theorem test_mulhn_natural : vAfter (.mulhn false false 2 0 1) (pair 0xFFFFFFFF 2) 0 2 = some 1 := by decide +kernel
theorem test_andn : vAfter (.andn false false 2 0 1) (pair 0xFF 0x0F) 0 2 = some 0xF0 := by decide +kernel
theorem test_shl_by_32 : vAfter (.shl false false 2 0 1) (pair 1 32) 0 2 = some 0 := by decide +kernel
theorem test_sar_by_33 : vAfter (.sar false false 2 0 1) (pair 0x80000000 33) 0 2 = some 0xFFFFFFFF := by decide +kernel
theorem test_shr_by_31 : vAfter (.shr false false 2 0 1) (pair 0x80000000 31) 0 2 = some 1 := by decide +kernel
theorem test_addsat : vAfter (.addsat false false 2 0 1) (pair 0x7FFFFFFF 1) 0 2 = some 0x7FFFFFFF := by decide +kernel
theorem test_subsatn : vAfter (.subsatn false false 2 0 1) (pair 1 2) 0 2 = some 0 := by decide +kernel
theorem test_absd_of_extremes : vAfter (.absd false false 2 0 1) (pair 0x7FFFFFFF 0x80000000) 0 2 = some 0xFFFFFFFF := by decide +kernel
theorem test_bfx_cut_at_bit_31 : vAfter (.bfx false false 2 0 1) (pair 0xF0000000 0x0000081C) 0 2 = some 0xFFFFFFFF := by decide +kernel
theorem test_bfxn : vAfter (.bfxn false false 2 0 1) (pair 0xABCD1234 0x00000808) 0 2 = some 0x12 := by decide +kernel
theorem test_bfi_into_d : vAfter (.bfi false false 2 0 1) (holding (fun _ => [0xFF, 0x00000404, 0x11111111]) []) 0 2 = some 0x111111F1 := by decide +kernel
-- R84, R85: SEL keeps D where the predicate is 0; NEG and ABS of the least number; CLZ of 0.
theorem test_sel_keeps_d : vAfter (.sel false false 2 0 7) (holding (fun _ => [1, 2, 3]) []) 0 2 = some 3 := by decide +kernel
theorem test_neg_of_least : vAfter (.neg false false 2 0) (pair 0x80000000 0) 0 2 = some 0x80000000 := by decide +kernel
theorem test_clz_of_zero : vAfter (.clz false false 2 0) (pair 0 0) 0 2 = some 32 := by decide +kernel
theorem test_popc : vAfter (.popc false false 2 0) (pair 0xF0F0F0F0 0) 0 2 = some 16 := by decide +kernel
theorem test_brev : vAfter (.brev false false 2 0) (pair 1 0) 0 2 = some 0x80000000 := by decide +kernel
theorem test_sexth : vAfter (.sexth false false 2 0) (pair 0x00018000 0) 0 2 = some 0xFFFF8000 := by decide +kernel
-- R86: the lane 17 row of the worked example of 05.
theorem test_addx_carries : (ran (.addx false false 4 0 2) (holding (fun _ => [0xFFFFFFFF, 1, 1, 2]) [])).threads[0].v[5] = 4 := by decide +kernel
theorem test_mulwx_signed : vAfter (.mulwx false false 4 0 1) (pair 0xFFFFFFFF 2) 0 5 = some 0xFFFFFFFF := by decide +kernel
theorem test_leax_extends : vAfter (.leax false false 4 0 2) (holding (fun _ => [0, 1, 0xFFFFFFFC]) []) 0 5 = some 0 := by decide +kernel
-- R87, R88.
theorem test_addi_extends : vAfter (.addi false false 2 0 0xFF) (pair 0 0) 0 2 = some 0xFFFFFFFF := by decide +kernel
theorem test_andi_does_not : vAfter (.andi false false 2 0 0xFF) (pair 0xFFFFFFFF 0) 0 2 = some 0xFF := by decide +kernel
theorem test_ldi : vAfter (.ldi false 1 1000) (pair 0 0) 31 1 = some 1000 := by decide +kernel
theorem test_ldh_keeps_low : vAfter (.ldh false 1 1) (pair 0 2) 31 1 = some 0x00010002 := by decide +kernel
-- R89 to R94: signed against natural; the predicate forms; RDL's lowest lane.
theorem test_cmplt_signed : kAfter (.cmplt false 5 0 1) (pair 0xFFFFFFFF 0) 3 5 = some true := by decide +kernel
theorem test_cmpltn_natural : kAfter (.cmpltn false 5 0 1) (pair 0xFFFFFFFF 0) 3 5 = some false := by decide +kernel
theorem test_cmpltni_is_natural : kAfter (.cmpltni false 5 0 0x7F) (pair 100 0) 3 5 = some true := by decide +kernel
theorem test_kset_bit : kAfter (.kset false 5 0 31) (pair 0x80000000 0) 3 5 = some true := by decide +kernel
theorem test_kandn_of_equal : kAfter (.kandn false 5 6 6) (pair 0 0) 3 5 = some false := by decide +kernel
theorem test_kget : vAfter (.kget false false 2 6) { user with threads := user.threads.map fun t => { t with k := 64 } } 9 2 = some 1 := by decide +kernel
theorem test_uadd : sAfter (.uadd false false 70 64 65) (holding (fun _ => []) [7, 8]) 6 = some 15 := by decide +kernel
theorem test_ucmplt : sAfter (.ucmplt false false 70 64 65) (holding (fun _ => []) [0x80000000, 0]) 6 = some 1 := by decide +kernel
theorem test_rdl_lowest : sAfter (.rdl false false 70 0) (half (holding (fun l => [BitVec.ofNat 32 (l + 40)]) [])) 6 = some 40 := by decide +kernel

-- 07: canonical NaN, one rounding, ties to even, the order of the zeros, the clamps; 03, R45.
theorem test_fadd_nan : vAfter (.fadd false false 2 0 1) (pair 0xFFC12345 0x3F800000) 0 2 = some 0x7FC00000 := by decide +kernel
theorem test_ffma_once : vAfter (.ffma false false 2 0 1) (holding (fun _ => [0x3F800001, 0x3F800001, 0xBF800002]) []) 0 2 = some 0x28800000 := by decide +kernel
theorem test_fmulz_stays_finite : vAfter (.fmulz false false 2 0 1) (pair 0x7F7FFFFF 0x40000000) 0 2 = some 0x7F7FFFFF := by decide +kernel
theorem test_fmin_of_zeros : vAfter (.fmin false false 2 0 1) (pair 0 0x80000000) 0 2 = some 0x80000000 := by decide +kernel
theorem test_fceil_keeps_sign : vAfter (.fceil false false 2 0) (pair 0xBF000000 0) 0 2 = some 0x80000000 := by decide +kernel
theorem test_ffloor_of_minus_half : vAfter (.ffloor false false 2 0) (pair 0xBF000000 0) 0 2 = some 0xBF800000 := by decide +kernel
theorem test_cvtfn_clamps : vAfter (.cvtfn false false 2 0) (pair 0xBF19999A 0) 0 2 = some 0 := by decide +kernel
theorem test_cvtfi_of_nan : vAfter (.cvtfi false false 2 0) (pair 0x7FC00000 0) 0 2 = some 0 := by decide +kernel
theorem test_cvtbfh_high_half : vAfter (.cvtbfh false false 2 0) (pair 0x3F800000 0) 0 2 = some 0x3F800000 := by decide +kernel
theorem test_fexp2_of_one : vAfter (.fexp2 false false 2 0) (pair 0x3F800000 0) 0 2 = some 0x40000000 := by decide +kernel
theorem test_frcp_of_two : vAfter (.frcp false false 2 0) (pair 0x40000000 0) 0 2 = some 0x3F000000 := by decide +kernel
theorem test_fcmpeq_of_zeros : kAfter (.fcmpeq false 4 0 1) (pair 0 0x80000000) 0 4 = some true := by decide +kernel
theorem test_badd2_halves : vAfter (.badd2 false false 2 0 1) (pair 0x3F803F80 0x40003F80) 0 2 = some 0x40404000 := by decide +kernel
theorem test_rnd_of_zeros : vAfter (.rnd false false 2 0 1) (pair 0 0) 0 2 = some 0 := by decide +kernel
theorem test_dqn_of_nan_scale : vAfter (.dqn false false 2 0 1) (pair 0xFF000000 0) 0 2 = some 0x7FC00000 := by decide +kernel

-- 09: a lane outside the path is not read; votes of the real lanes; scans.
theorem test_shflu_outside : vAfter (.shfld false false 2 0 1) (half (holding (fun l => [BitVec.ofNat 32 l]) [])) 15 2 = some 15 := by decide +kernel
theorem test_shflx : vAfter (.shflx false false 2 0 16) (holding (fun l => [BitVec.ofNat 32 l]) []) 3 2 = some 19 := by decide +kernel
theorem test_voteb : vAfter (.voteb false false 2 0) (half (holding (fun l => [BitVec.ofNat 32 (l % 2)]) [])) 0 2 = some 0xAAAA := by decide +kernel
theorem test_gred_add : vAfter (.gred false false 2 0 0) (holding (fun l => [BitVec.ofNat 32 l]) []) 7 2 = some 496 := by decide +kernel
theorem test_gscan_exclusive : vAfter (.gscan false false 2 0 1) (holding (fun l => [BitVec.ofNat 32 l]) []) 4 2 = some 6 := by decide +kernel
theorem test_qex_vertical : vAfter (.qex false false 2 0 1) (holding (fun l => [BitVec.ofNat 32 l]) []) 1 2 = some 3 := by decide +kernel

-- 06, 09, 22: branches, the link, traps and the return.
theorem test_ubra_back : pcAfter (.ubra 0x7FFFFF) user 0 = some 0xFFFFFFFC := by decide +kernel
theorem test_ucall_links : sAfter (.ucall 12) user 31 = some 4 := by decide +kernel
theorem test_uret_misaligned : trapAfter (.uret 64) (holding (fun _ => []) [2]) = some (6, 0, 0) := by decide +kernel
theorem test_brk_not_taken : pcAfter (.brk 2 true 2) user 0 = some 4 := by decide +kernel
theorem test_wait_of_a_clear_mask : pcAfter (.wait 3) user 9 = some 4 := by decide +kernel
theorem test_trap_value : trapAfter (.trap 5) user = some (19, 0, 5) := by decide +kernel
theorem test_bkpt_cause : trapAfter (.bkpt 0) user = some (18, 0, 0) := by decide +kernel
theorem test_trap_raises_level : (ran (.trap 5) user).threads[4].lvl = true := by decide +kernel
theorem test_mtsr_at_user_level : trapAfter (.mtsr 68 1) user = some (10, 0, 0xE1804401) := by decide +kernel
theorem test_mfsr_partid : sAfter (.mfsr false false 70 10) user 6 = some 0 := by decide +kernel
theorem test_eret_resumes :
    pcAfter .eret (supervisor { user with trapPc := 0x40, trapMask := 0xFFFFFFFF, handlerSet := 0xFFFFFFFF }) 0 = some 0x40 := by decide +kernel
theorem test_illegal_operand : trapAfter (.add false false 120 0 1) user = some (2, 0, 0x003C0002) := by decide +kernel
theorem test_exit_ends_lanes : (ran .exit (half user)).threads[3].standing = .exited := by decide +kernel

-- 14: an issued load leaves its register pending; a store to a lane slice is done; alignment is judged.
theorem test_ld32_pends : (ran (.ld32 false false 2 0 0) (pair 0 0)).threads[0].vPend = 4 := by decide +kernel
theorem test_ld32_misaligned : trapAfter (.ld32 false false 2 0 0) (pair 2 0) = some (6, 0, 0) := by decide +kernel
theorem test_st32_bytes :
    after (.st32 false 2 0 1) (seated (holding (fun _ => [0, 0, 0xAABBCCDD]) [])) (fun t => t.coreByte 0 ⟨.local, 0x400005⟩) = some 0xCC := by
  decide +kernel
theorem test_aadd_pends : (ran (.aadd false 2 0 0 0) (pair 0 0)).threads[0].vPend = 4 := by decide +kernel

-- 18: a command enters its queue; an empty status queue; a queue that PUSH may not name.
theorem test_push_enters : (ran (.push 64 13) (holding (fun _ => []) [5, 6])).queues[14] = [0x600000005] := by decide +kernel
theorem test_push_of_a_status_queue : trapAfter (.push 64 1) user = some (13, 0, 0xD8004008) := by decide +kernel
theorem test_qtry_of_none : (ran (.qtry false 72 1) user).sPend = 0x700 := by decide +kernel
theorem test_qstat_counts : sAfter (.qstat false false 70 1) { user with queues := user.queues.set 1 [9, 9] } 6 = some 2 := by decide +kernel

-- 24, 27: PRIVSEM, a sensor above its bound, the loss of power.
theorem test_privsem_taken : after (.privsemTake 1) { demo with ready := true } (fun t => (t.semHeld, t.semOwner)) = some (true, 1) := by decide +kernel
theorem test_thermal_limit : after (.thermalStep 3 800) demo (fun t => (t.die 2).limit) = some 448 := by decide +kernel
theorem test_power_loss : after .powerLoss { demo with mgr := { demo.mgr with powered := true } } (fun t => t.mgr.powered) = some false := by decide +kernel

-- A step fetches, decodes and executes the placed word.
theorem test_step_runs_the_word :
    (match step (State.reset.withFetchWord 32 0x14010002) with
      | .next t => (t.group 0 0).map fun g => ((g.th 7).pc, (g.th 7).v[1]?.getD 0)
      | _ => none) = some (4, 2) := by decide +kernel

/-! ## For each statement with hypotheses, states and operands that meet them -/

/-- The context of the run of group `g` on core `c`. -/
def ctxIn (s : State) (c g : Nat) : Ctx :=
  let x := (s.group c g).getD Group.reset
  ⟨c, g, s.core c, x, x.run.getD (runOf 0)⟩

theorem ctx_in (s : State) (c g : Nat) (h : s.focus = some (c, g) ∧ (((s.group c g).bind (·.run)).isSome = true) := by decide +kernel) :
    s.ctx = some (ctxIn s c g) := by
  obtain ⟨hf, hr⟩ := h
  cases hg : s.group c g with
  | none => rw [hg] at hr; cases hr
  | some x =>
    rw [hg] at hr
    obtain ⟨r, hr⟩ := Option.isSome_iff_exists.mp hr
    have hr : x.run = some r := hr
    have hk : (s.core c).group g = some x := hg
    simp only [State.ctx, ctxIn, hf, hk, hg, hr, Option.getD_some]

/-- What evaluates to true. -/
theorem ok {p : Prop} [Decidable p] (h : p := by decide +kernel) : p := h

theorem lane_in (s : State) (c g : Nat) (uses : List Use)
    (h : s.focus = some (c, g) ∧ (((s.group c g).bind (·.run)).isSome = true) ∧ (ctxIn s c g).real ≠ 0 ∧
      judgeUses false (ctxIn s c g) uses = none := by decide +kernel) : LaneReady s (ctxIn s c g) uses :=
  ⟨ctx_in s c g ⟨h.1, h.2.1⟩, h.2.2.1, h.2.2.2⟩

theorem uniform_in (s : State) (c g : Nat) (uses : List Use)
    (h : s.focus = some (c, g) ∧ (((s.group c g).bind (·.run)).isSome = true) ∧ judgeUses true (ctxIn s c g) uses = none := by decide +kernel) :
    UniformReady s (ctxIn s c g) uses :=
  ⟨ctx_in s c g ⟨h.1, h.2.1⟩, h.2.2⟩

theorem trap_free (s : State) (x : Ctx)
    (h : x.grp.handlerSet = 0 ∧ x.grp.heldTraps = [] ∧ (∀ l, l < 32 → x.run.mask.getLsbD l → (x.grp.th l).lvl = false) ∧
      (s.launch x.grp.launch).isSome = true ∧ (s.partition ((s.launch x.grp.launch).getD Launch.reset).part).trapPolicy = false := by decide +kernel) :
    TrapFree s x := by
  refine ⟨h.1, h.2.1, h.2.2.1, (s.launch x.grp.launch).getD Launch.reset, ?_, h.2.2.2.2⟩
  obtain ⟨l, hl⟩ := Option.isSome_iff_exists.mp h.2.2.2.1
  simp [hl]

/-- No group of a state waits at a barrier object, checked entry by entry. -/
def noneWaits (s : State) : Bool :=
  s.cores.all fun k => k.2.groups.all fun q => match q.2 with
    | some y => (match y.hold with | some (_, .bwait _ _) => false | _ => true)
    | none => true

theorem tget_mem {α : Type} (d : α) (t : Tbl α) (k : Nat) : tget d t k = d ∨ (k, tget d t k) ∈ t := by
  induction t with
  | nil => exact .inl rfl
  | cons p t ih =>
    obtain ⟨j, a⟩ := p
    by_cases h : j = k
    · subst h; right; simp [tget]
    · simp only [tget, h, if_false]
      exact ih.imp id (List.mem_cons_of_mem _)

theorem no_waiters (s : State) (h : noneWaits s = true := by decide +kernel) : s.NoWaiters := by
  intro c g y m a p hg hh
  unfold State.group Core.group State.core at hg
  have h1 := tget_mem Core.reset s.cores c
  have h2 := tget_mem (none : Option Group) (tget Core.reset s.cores c).groups g
  rw [hg] at h2
  rcases h2 with h2 | h2
  · exact absurd h2 (by simp)
  · rcases h1 with h1 | h1
    · rw [h1] at h2; exact absurd h2 (by simp [Core.reset])
    · have := List.all_eq_true.mp (List.all_eq_true.mp h _ h1) _ h2
      simp [hh] at this


/-- What a read answers, once it is known to be bytes. -/
def bytesGot (g : Got) : Option (List Byte) := match g with | .ok bs => some bs | _ => none

theorem got (s : State) (w : Who) (a : Dword) (n : Nat) (h : (bytesGot (s.readAs w a n)).isSome = true) :
    s.readAs w a n = .ok ((bytesGot (s.readAs w a n)).getD []) := by
  cases hr : s.readAs w a n <;> simp_all [bytesGot]

theorem opened {α : Type} (o : Option α) (d : α) (h : o.isSome = true) : o = some (o.getD d) := by
  cases o <;> simp_all
/-! Decoding, the step, memory, operands. -/

theorem witness_DecodeReadsWhatEncodeWrites :
    (Instr.add true true 127 127 127).wellFormed = true ∧ encode (.add true true 127 127 127) = some 0x407FFFFE := by decide +kernel

theorem witness_EncodeGivesBackTheWord : decode 0xD4000000 = some .uexit := by decide +kernel

/-- The demo's group with another run. -/
def running (r : Run) (g : Group) : Group := { g with run := some r }
/-- A run of `k` instructions so far, of which word `k` is `w`. -/
def runAt (k : Nat) (w : Word) : Run := { runOf 0xFFFFFFFF with count := k, words := List.replicate k 0 ++ [w] }

theorem witness_StepRunsTheDecodedInstruction :
    (let s := seated (running (runAt 23 0) user)
      let x := ctxIn s.passTime 0 0
      s.agenda = [] ∧ s.passTime.ctx = some x ∧ x.run.count < 24 ∧ x.run.words[x.run.count]? = some 0 ∧
        decode 0 = some (.add false false 0 0 0)) ∧
    isEvent .powerLoss = true ∧
    (let s := { seated (running (runAt 0 0) user) with agenda := [.issue 0 0] }
      let u := { s.passTime with agenda := [], focus := some (0, 0) }
      let x := ctxIn u 0 0
      s.running 0 0 = some 0 ∧ u.ctx = some x ∧ x.run.count < 24 ∧ x.run.words[x.run.count]? = some 0) :=
  ⟨⟨ok, ctx_in _ 0 0, ok⟩, ok, ok, ctx_in _ 0 0, ok⟩

theorem witness_RunOverflowAndBadFetchesTrap :
    (let s := seated (running (runAt 24 0) user)
      let x := ctxIn s.passTime 0 0
      s.agenda = [] ∧ s.passTime.ctx = some x ∧ 24 ≤ x.run.count ∧ TrapFree s x) ∧
    (let s := seated user
      let x := ctxIn s.passTime 0 0
      s.agenda = [] ∧ s.passTime.ctx = some x ∧ x.run.count < 24 ∧ x.run.words[x.run.count]? = none ∧ TrapFree s x) ∧
    (let s := seated (running (runAt 23 0x15000000) user)
      let x := ctxIn s.passTime 0 0
      s.agenda = [] ∧ s.passTime.ctx = some x ∧ x.run.words[x.run.count]? = some 0x15000000 ∧ decode 0x15000000 = none ∧
        x.real ≠ 0 ∧ TrapFree s x) ∧
    (let s := seated (running (runAt 0 0x94000000) (helpers user))
      let x := ctxIn s.passTime 0 0
      s.agenda = [] ∧ s.passTime.ctx = some x ∧ x.run.words[x.run.count]? = some 0x94000000 ∧ decode 0x94000000 = none ∧
        (0x94000000 : Word).getLsbD 31 = true ∧ TrapFree s x) ∧
    (let s := seated (running (runAt 0 0x15000000) (helpers user))
      let x := ctxIn s.passTime 0 0
      s.agenda = [] ∧ s.passTime.ctx = some x ∧ x.run.words[x.run.count]? = some 0x15000000 ∧ decode 0x15000000 = none ∧
        (0x15000000 : Word).getLsbD 31 = false ∧ x.real = 0) :=
  ⟨⟨ok, ctx_in _ 0 0, ok, trap_free _ _⟩, ⟨ok, ctx_in _ 0 0, ok, ok, trap_free _ _⟩, ⟨ok, ctx_in _ 0 0, ok, ok, ok, trap_free _ _⟩,
    ⟨ok, ctx_in _ 0 0, ok, ok, ok, trap_free _ _⟩, ⟨ok, ctx_in _ 0 0, ok⟩⟩

/-- What the fetch of a run meets: a word, an unmapped page, a refused place. -/
theorem witness_fetch_of_a_run :
    demo.fetchPlace 0 0 0 0 = .ok ⟨.local, 0x400000⟩ ∧ demo.fetchPlace 0 0 0 0x200000 = .unmapped ∧
    demo.fetchPlace 0 0 0xF000000000000000 0 = .bad 9 ∧
    (demo.setDword ⟨.local, 0x200008⟩ 3).fetchPlace 0 0 0x8000000000 0 = .bad 7 ∧
    ((demo.fetchRun 0 0 0 0x1FFFFC 2).2 = ⟨[0], 7, some 0x200000⟩) ∧ (((demo.fillTlb 0 0 0).core 0).tlbHit 0 0x1FFFFF).isSome = true := ok

theorem witness_StepKeepsMemoriesCanonical : demo.memoriesWf ∧ ∃ t, step demo = .next t := by
  refine ⟨⟨ok, ok, ok, fun _ => rfl⟩, ?_⟩
  have : (match step demo with | .next _ => true | _ => false) = true := by decide +kernel
  revert this
  cases h : step demo <;> simp

theorem witness_ReadAfterWrite : demo.Exists ⟨.local, 0xFFFFFFFFFFFFF⟩ ∧ demo.Exists ⟨.tiles 0, 0⟩ := by
  exact ⟨trivial, by show (demo.block 0).isSome = true; decide +kernel⟩

/-- A run with one uniform and one per-lane latch entry. -/
def latched (g : Group) : Group :=
  { g with run := some { runOf 0xFFFFFFFF with count := 2, latches := [.uniform 5, .lanes (Vector.replicate 32 6)] } }

theorem witness_OperandCodesRead :
    (31 < 32 ∧ (63#7).toNat = (63 : Fin 64).val ∧ (95#7).toNat = 64 + (31 : Fin 32).val ∧ (62#7).toNat < 63) ∧
    (let x := ctxIn (seated (latched user)) 0 0;
      x.run.latches[0]? = some (.uniform 5) ∧ x.run.latches[1]? = some (.lanes (Vector.replicate 32 6)) ∧
      (demo.launch x.grp.launch).isSome = true ∧ (demo.block x.grp.block).isSome = true) := by decide +kernel

theorem witness_OperandTrapsAndHelperPaths :
    (let s := seated user
      let x := ctxIn s 0 0
      s.ctx = some x ∧ TrapFree s x ∧ x.real ≠ 0 ∧ judgeUses false x [.src 120, .src 1, .dst 2 false] = some 2 ∧
      judgeUses false x [.src 96, .src 1, .dst 63 false] = some 4 ∧ judgeUses false x [dataUse false 120 1, .pair 0] = some 2 ∧
      judgeUses true x [.src 0, .src 64, .dst 64 false] = some 2) ∧
    (let x := ctxIn (seated { user with sPend := 1, threads := user.threads.map fun t => { t with vPend := 1 } }) 0 0;
      judgeUses false x [.src 0, .src 1, .dst 2 false] = some 5 ∧ judgeUses true x [.src 64, .src 65, .dst 66 false] = some 5) ∧
    (let s := seated (helpers user);
      s.ctx = some (ctxIn s 0 0) ∧ (ctxIn s 0 0).real = 0) := by
  refine ⟨⟨ctx_in _ 0 0, trap_free _ _, ok⟩, ok,
    ctx_in _ 0 0, ok⟩
/-! Lane and uniform forms, branches, traps, system registers. -/

theorem witness_TwoSourceIntegerForms :
    (let s := seated user; let x := ctxIn s 0 0
     LaneReady s x [.src 63, .src 119, .dst 63 false] ∧ LaneReady s x [.src 0, .src 95, .dst 0 true] ∧
     LaneReady s x [.src 0, .src 1, .src 2, .dst 2 false] ∧ UniformReady s x [.src 95, .src 100, .dst 95 false]) := by
  refine ⟨lane_in _ 0 0 _, lane_in _ 0 0 _, lane_in _ 0 0 _,
    uniform_in _ 0 0 _⟩

theorem witness_UnaryImmediateAndConstantForms :
    (let s := seated user; let x := ctxIn s 0 0
     LaneReady s x [.src 0, .src 63, .dst 63 false] ∧ LaneReady s x [.src 101, .dst 0 false] ∧ LaneReady s x [.dst 63 false] ∧
     LaneReady s x [.dst 63 true] ∧ UniformReady s x [.dst 64 false] ∧ UniformReady s x [.src 95, .dst 95 false]) := by
  refine ⟨lane_in _ 0 0 _, lane_in _ 0 0 _, lane_in _ 0 0 _,
    lane_in _ 0 0 _, uniform_in _ 0 0 _, uniform_in _ 0 0 _⟩

theorem witness_WideAddressForms :
    (let s := seated user; let x := ctxIn s 0 0
     LaneReady s x [.pair 62, .pair 94, .dstPair 62 false] ∧ LaneReady s x [.src 63, .src 1, .dstPair 0 false] ∧
     LaneReady s x [.pair 118, .src 1, .dstPair 0 true] ∧ LaneReady s x [.pair 100, .dstPair 0 false] ∧
     UniformReady s x [.pair 64, .pair 119, .dstPair 94 false] ∧ UniformReady s x [.src 64, .src 65, .dstPair 66 false] ∧
     UniformReady s x [.pair 94, .dstPair 94 false]) := by
  refine ⟨lane_in _ 0 0 _, lane_in _ 0 0 _, lane_in _ 0 0 _,
    lane_in _ 0 0 _, uniform_in _ 0 0 _, uniform_in _ 0 0 _,
    uniform_in _ 0 0 _⟩

theorem witness_CompareAndPredicateForms :
    (let s := seated user; let x := ctxIn s 0 0
     LaneReady s x [.src 0, .src 63] ∧ LaneReady s x [.src 63] ∧ LaneReady s x [.pair 0, .pair 62] ∧ LaneReady s x [] ∧
     UniformReady s x [.src 64, .src 95, .dst 64 false] ∧ UniformReady s x [.pair 64, .pair 94, .dst 95 false] ∧
     UniformReady s x [.anyLane 63, .dst 64 false]) := by
  refine ⟨lane_in _ 0 0 _, lane_in _ 0 0 _, lane_in _ 0 0 _,
    lane_in _ 0 0 _, uniform_in _ 0 0 _, uniform_in _ 0 0 _,
    uniform_in _ 0 0 _⟩

theorem witness_EventsAreCounted :
    (demo.launch 0).isSome = true ∧ 5 < 6 ∧ (∀ e ∈ ([3, 0, 3] : List Nat), e < 4) := by decide +kernel

theorem witness_FloatFormsCountTheirEvents :
    (let s := seated user; let x := ctxIn s 0 0
     LaneReady s x [.src 0, .src 63, .dst 63 false] ∧ LaneReady s x [.src 0, .src 1, .src 63, .dst 63 false] ∧
     LaneReady s x [.src 119, .dst 0 true]) := by
  refine ⟨lane_in _ 0 0 _, lane_in _ 0 0 _, lane_in _ 0 0 _⟩

theorem witness_QuietFloatForms :
    (let s := seated (half user); let x := ctxIn s 0 0
     LaneReady s x [.src 0, .src 63] ∧ LaneReady s x [.src 63, .dst 0 false] ∧ LaneReady s x [.src 0, .src 64, .dst 63 false]) := by
  refine ⟨lane_in _ 0 0 _, lane_in _ 0 0 _, lane_in _ 0 0 _⟩

theorem witness_QuantizerForms :
    (let s := seated user; let x := ctxIn s 0 0
     LaneReady s x [.src 0, .src 100, .dst 63 false] ∧ LaneReady s x [.src 0, .src 1, .dst 2 true] ∧
     LaneReady s x [.src 63, .dst 0 false]) := by
  refine ⟨lane_in _ 0 0 _, lane_in _ 0 0 _, lane_in _ 0 0 _⟩

theorem witness_FloatSpecialOperands :
    (f32 0xFFFFFFFF).isNan = true ∧ (f32 0x7F800001).isNan = true ∧ f32 0xFF800000 = .inf true ∧ f32 0x7F800000 = .inf false ∧
    (f32 0x80000000).isZero = true ∧ (f32 0x7F800000).isNan = false ∧ (f32 0x80000001).lt (f32 1) = true := by decide +kernel

theorem witness_RepresentableValuesRoundToThemselves :
    ((f32 0x80000000).isNan = false ∧ (f32 0x80000000).isInf = false) ∧ ((f32 1).isNan = false ∧ (f32 1).isInf = false) ∧
    ((f32 0x807FFFFF).isNan = false ∧ (f32 0x807FFFFF).isInf = false) ∧
    ((f32 0x7F7FFFFF).isNan = false ∧ (f32 0x7F7FFFFF).isInf = false) := by decide +kernel

theorem witness_CrossLaneForms :
    (let s := seated (half user); let x := ctxIn s 0 0
     LaneReady s x [.src 0, .src 102, .dst 63 false] ∧ LaneReady s x [.src 63, .dst 0 true] ∧ LaneReady s x [.src 0] ∧
     (8#8).toNat ≤ 8 ∧ (2#8).toNat ≤ 2) := by
  refine ⟨lane_in _ 0 0 _, lane_in _ 0 0 _, lane_in _ 0 0 _,
    ok⟩

theorem witness_UniformBranches :
    (let s := seated (holding (fun _ => []) [2, 4]); let x := ctxIn s 0 0
     s.ctx = some x ∧ UniformReady s x [.src 64] ∧ ¬Aligned (s.usrc x 64) ∧ UniformReady s x [.src 65] ∧ Aligned (s.usrc x 65) ∧
     UniformReady s x [.dst 95 false] ∧ TrapFree s x) ∧
    (let s := seated { user with sPend := 0x80000000 }; let x := ctxIn s 0 0
     s.ctx = some x ∧ judgeUses true x [.dst 95 false] = some 5 ∧ TrapFree s x) := by
  refine ⟨⟨ctx_in _ 0 0, uniform_in _ 0 0 _, by unfold Aligned; decide +kernel,
    uniform_in _ 0 0 _, by unfold Aligned; decide +kernel, uniform_in _ 0 0 _,
    trap_free _ _⟩, ctx_in _ 0 0, ok, trap_free _ _⟩

theorem witness_LaneBranches :
    (let s := seated (holding (fun l => [BitVec.ofNat 32 (4 * l)]) []); let x := ctxIn s 0 0
     s.ctx = some x ∧ LaneReady s x [.src 0, .dst 63 false] ∧ judgeUses false x [.src 0] = none ∧
     (maskOf fun l => x.real.getLsbD l && decide ((s.src x l 0).toNat % 4 ≠ 0)) = 0) ∧
    (let s := seated (holding (fun l => [BitVec.ofNat 32 l]) []); let x := ctxIn s 0 0
     s.ctx = some x ∧ LaneReady s x [.src 0, .dst 63 false] ∧ TrapFree s x ∧ judgeUses false x [.src 0] = none ∧
     (maskOf fun l => x.real.getLsbD l && decide ((s.src x l 0).toNat % 4 ≠ 0)) = 0xEEEEEEEE) :=
  ⟨⟨ctx_in _ 0 0, lane_in _ 0 0 _, ok⟩, ctx_in _ 0 0, lane_in _ 0 0 _, trap_free _ _, ok⟩

/-- A table entry reads as `w`, checked. -/
def readsAs (s : State) (x : Ctx) (l : Nat) (a : Dword) (w : Word) : Bool :=
  match s.judge (x.who l) .load 4 a with
  | .va v cst => match s.translate x.c x.grp.launch .load v with
    | .ok p =>
      let k := s.core x.c
      if cst then snapGets (tget [] s.constants (hwCluster x.c)) p 4 == none && w == s.wordAt p
      else !k.logHolds k.nextId (s.partOf x.grp.launch) v 4 && k.ownClear k.nextId p 4 && !s.atomBefore x.c k.nextId p 4 &&
        snapGets k.snap p 4 == none && w == BitVec.ofNat 32 (leNat (s.bytesBefore x.c k.nextId p 4))
    | _ => false
  | _ => false

theorem entry_reads (s : State) (x : Ctx) (l : Nat) (a : Dword) (w : Word) (h : readsAs s x l a w = true) : EntryReads s x l a w := by
  unfold readsAs at h
  split at h
  · split at h
    · refine ⟨_, _, _, ‹_›, ‹_›, ?_⟩
      split <;> simp_all
    · cases h
  · cases h

/-- Where lane `l`'s entry stands in a table at s0, s1, and the table's words. -/
def entriesRead (s : State) (n : Nat) (word : Nat → Word) : Bool :=
  let x := ctxIn s 0 0
  (List.range 32).all fun l => !x.run.mask.getLsbD l || decide (n ≤ (s.src x l 0).toNat) ||
    readsAs s x l (s.src64 x (lowestLane x.run.mask) 64 + BitVec.ofNat 64 (4 * (s.src x l 0).toNat)) (word l)

/-- A JMPT with the table at address 0, whose second word is misaligned, or elsewhere. -/
def jumping (sv : List Word) : State := (seated (holding (fun l => [BitVec.ofNat 32 (l % 4)]) sv)).setWord ⟨.local, 0x400004⟩ 2

theorem witness_TableJumpMovesEachThread :
    (let s := seated (holding (fun l => [BitVec.ofNat 32 (l % 4)]) []); let x := ctxIn s 0 0
     LaneReady s x [.sPair 64, .src 0] ∧ TrapFree s x ∧ entriesRead s 4 (fun _ => 0) = true ∧
     (maskOf fun l => x.real.getLsbD l && decide (3 ≤ (s.src x l 0).toNat)) = 0x88888888) ∧
    (let s := jumping []; let x := ctxIn s 0 0
     LaneReady s x [.sPair 64, .src 0] ∧ TrapFree s x ∧ entriesRead s 4 (fun l => if l % 4 = 1 then 2 else 0) = true) ∧
    pathOf ((jumping [0, 0xD0000000]).src64 (ctxIn (jumping [0, 0xD0000000]) 0 0) 0 64) = 13 ∧
    pathOf ((jumping [0, 0x80000000]).src64 (ctxIn (jumping [0, 0x80000000]) 0 0) 0 64) = 8 ∧
    ((jumping [2]).src64 (ctxIn (jumping [2]) 0 0) 0 64).toNat % 4 = 2 ∧
    (let s := jumping [0, 0x02000000]; let x := ctxIn s 0 0
     s.judge (x.who 0) .load 4 (s.src64 x 0 64) = .fails 1) :=
  ⟨⟨lane_in _ 0 0 _, trap_free _ _, ok, ok⟩, ⟨lane_in _ 0 0 _, trap_free _ _, ok⟩, ok, ok, ok, ok⟩

theorem witness_RejoinMasksAreJudged : (seated (half user)).ctx = some (ctxIn (seated (half user)) 0 0) :=
  ctx_in _ 0 0

theorem witness_ExitEndsThePathsThreads :
    (let s := seated (half user); let x := ctxIn s 0 0
     s.ctx = some x ∧ (∃ l, l < 32 ∧ x.run.mask.getLsbD l = false ∧ (x.grp.th l).kind = .real ∧ (x.grp.th l).standing = .ready) ∧
     x.g < 32 ∧ (s.block x.grp.block).map (·.core) = some x.c) ∧
    (let s := (seated user).setGroup 0 31 { user with grp := 1, run := none }; let x := ctxIn s 0 0
     s.ctx = some x ∧ x.g < 32 ∧ (s.block x.grp.block).map (·.core) = some x.c ∧ Mate s x 31 { user with grp := 1, run := none } ∧
     ({ user with grp := 1, run := none } : Group).spent = false ∧ ∀ l, l < 32 → x.run.mask.getLsbD l) ∧
    (let s := seated user; let x := ctxIn s 0 0
     s.ctx = some x ∧ x.g < 32 ∧ (s.block x.grp.block).map (fun b => (b.core, b.ended)) = some (x.c, false) ∧
     (∀ l, l < 32 → x.run.mask.getLsbD l) ∧ (∀ g z, Mate s x g z → z.spent) ∧ ∀ q ∈ commandQueues, x.grp.queue q = []) := by
  refine ⟨⟨ctx_in _ 0 0, ⟨16, ok⟩, ok⟩, ⟨ctx_in _ 0 0, ok, ok, ⟨by decide, by decide, ok⟩, ok⟩, ctx_in _ 0 0, ok, ok, ok, ?_, ok⟩
  intro g z h
  have : ∀ g, g < 32 → g ≠ 0 → (seated user).group 0 g = none := by decide +kernel
  have h2 := h.2.2.1
  rw [show ctxIn (seated user) 0 0 = ⟨0, 0, _, _, _⟩ from rfl] at h2
  rw [this g h.1 h.2.1] at h2
  cases h2

/-- Every group of a state on core 0 is in slot 0. -/
theorem lone (s : State) (g : Nat) (y : Group) (hg : g < 32) (hy : s.group 0 g = some y)
    (h : ∀ g, g < 32 → (s.group 0 g).isSome = true → g = 0 := by decide +kernel) : g = 0 := h g hg (by simp [hy])

theorem witness_BarriersBlockThePath :
    (let s := seated (half user); let x := ctxIn s 0 0
     s.ctx = some x ∧ x.g < 32 ∧ (s.block x.grp.block).map (fun b => (b.core, b.cluster)) = some (x.c, 0) ∧
     (x.grp.block, x.c) ∈ s.clusterBlocks 0 ∧ (∃ l, l < 32 ∧ x.run.mask.getLsbD l ∧ (x.grp.th l).kind ≠ .absent) ∧
     ¬Arrived x .bar x.c 0 x.grp ∧ ¬Arrived x .barc x.c 0 x.grp ∧
     ∃ j, j < 32 ∧ x.run.mask.getLsbD j = false ∧ (x.grp.th j).kind ≠ .absent ∧ (x.grp.th j).standing = .ready) ∧
    (let s := seated user; let x := ctxIn s 0 0
     s.ctx = some x ∧ (s.block x.grp.block).map (fun b => (b.core, b.cluster)) = some (x.c, 0) ∧
     (∀ g y, g < 32 → s.group x.c g = some y → Arrived x .bar x.c g y ∧ Arrived x .barc x.c g y) ∧
     (∀ p ∈ s.clusterBlocks 0, p.2 = x.c) ∧ NothingOwed s x 0 (.bar x.grp.block) ∧ NothingOwed s x 1 (.barc x.grp.block) ∧
     ∀ p ∈ s.clusterBlocks 0, ∀ r ∈ (s.core p.2).releases, r.why ≠ .barc p.1) := by
  refine ⟨⟨ctx_in _ 0 0, ok, ok, ok, ⟨0, ok⟩, ?_, ?_, 16, ok⟩, ctx_in _ 0 0, ok, ?_, ok, ?_, ?_, ok⟩
  · exact fun h => absurd (h 16 (by decide)) (by unfold Claims.Out; decide +kernel)
  · exact fun h => absurd (h 16 (by decide)) (by unfold Claims.Out; decide +kernel)
  · intro g y hg hy
    cases lone _ g y hg hy
    have h : ∀ l, l < 32 → (ctxIn (seated user) 0 0).run.mask.getLsbD l = true := by decide +kernel
    exact ⟨fun l hl => .inl ⟨rfl, h l hl⟩, fun l hl => .inl ⟨rfl, h l hl⟩⟩
  · unfold NothingOwed; decide +kernel
  · unfold NothingOwed; decide +kernel

theorem witness_RegionUnopFenceAndPhase :
    (let s := seated user; let x := ctxIn s 0 0
     s.ctx = some x ∧ (1#8).getLsbD 1 = false ∧
       (s.core x.c).releaseMet (s.partOf x.grp.launch) (s.core x.c).nextId (2#2).toNat (.phase x.g) = true) :=
  ⟨ctx_in _ 0 0, ok⟩

theorem witness_SystemReads :
    (let s := seated (supervisor user); let x := ctxIn s 0 0
     s.ctx = some x ∧ x.supervisor = true ∧ (12#8).toNat ≤ 12 ∧ judgeUses true x [.dstPair 94 false] = none ∧
     judgeUses true x [.dst 95 false] = none ∧ UniformReady s x [.dst 64 true] ∧ (s.launch x.grp.launch).isSome = true ∧
     (3#8).toNat ≤ 3 ∧ UniformReady s x [.dstPair 64 false] ∧ x.core.atoms = [] ∧ x.core.sideLog = []) ∧
    (let a : AtomRec := { id := 0, instr := 0, slot := 0, launch := 0, aop := 1, ord := 0, scope := 1, ea := 0, loc := none,
                          lanes := [], d := 0, n := true, waits := false, roots := none }
     let s := demo.setCore 0 { demo.core 0 with atoms := [a] }; let x := ctxIn s 0 0
     UniformReady s x [.dst 64 false] ∧ a ∈ x.core.atoms ∧ a.slot = x.g) ∧
    (let s := seated user; let x := ctxIn s 0 0
     s.ctx = some x ∧ x.supervisor = false ∧ judgeUses true x [.dst 64 false] = none) := by
  refine ⟨⟨ctx_in _ 0 0, ok, ok, ok, ok,
    uniform_in _ 0 0 _, ok, ok, uniform_in _ 0 0 _, ok⟩, ⟨uniform_in _ 0 0 _, ok⟩,
    ctx_in _ 0 0, ok⟩

theorem witness_SystemWrites :
    (let s := seated (supervisor user); let x := ctxIn s 0 0
     UniformReady s x [.src 95] ∧ x.supervisor = true ∧ (s.launch x.grp.launch).isSome = true ∧ UniformReady s x [.pair 94]) ∧
    (let g := { user with run := none, hold := some (0xFFFFFFFF, .mtsr 9 0x200000) }
     (seated g).group 0 0 = some g ∧ g.hold = some (0xFFFFFFFF, .mtsr 9 0x200000) ∧ ((seated g).launch g.launch).isSome = true) := by
  refine ⟨⟨uniform_in _ 0 0 _, ok, ok, uniform_in _ 0 0 _⟩,
    ok⟩

theorem witness_TrapInstructionsEnterTheHandler :
    (let s := seated user; let x := ctxIn s 0 0
     s.ctx = some x ∧ TrapFree s x) :=
  ⟨ctx_in _ 0 0, trap_free _ _⟩

theorem witness_PrivilegedInstructionsTrapAtUserLevel :
    (let s := seated user; let x := ctxIn s 0 0
     s.ctx = some x ∧ x.supervisor = false ∧ TrapFree s x ∧ ¬((13#8) = 10 ∨ (13#8) = 11 ∨ (13#8) = 12)) :=
  ⟨ctx_in _ 0 0, ok, trap_free _ _, ok⟩

theorem witness_ReturnFromTrapResumes :
    (let s := seated (supervisor { user with trapPc := 0x40, trapMask := 0xFFFF, handlerSet := 0xFFFFFFFF }); let x := ctxIn s 0 0
     s.ctx = some x ∧ x.supervisor = true ∧ x.g < 32 ∧ (s.block x.grp.block).map (·.core) = some x.c ∧
     ∃ l, l < 32 ∧ (x.run.mask &&& x.grp.trapMask).getLsbD l ∧ (x.grp.th l).kind = .real ∧ (x.grp.th l).standing = .ready) :=
  ⟨ctx_in _ 0 0, ok, ok, ok, 15, ok⟩
/-! Loads, stores, atomics, translation. -/

/-- The demo's core 0 changed. -/
def coreDemo (f : Core → Core) : State := (seated user).setCore 0 (f ((seated user).core 0))

/-- A pair of lane addresses from v0 on, the data after them. -/
def lanesAt (a : Nat → Nat) : Group :=
  holding (fun l => [BitVec.ofNat 32 (a l), BitVec.ofNat 32 (a l / 2 ^ 32), 0, 0, 1, 2, 3, 4]) []

theorem witness_LoadsAreIssued :
    (let s := seated (lanesAt fun l => if l = 31 then 0x200000 else if l = 30 then 0x1FFFF0 else 16 * l); let x := ctxIn s 0 0
     LaneReady s x [.pair 0, .dstVregs 60 4 false] ∧ LaneReady s x [.pair 0, .dstVregs 63 1 true] ∧
     LaneReady s x [.pair 0, .dstVregs 62 2 false] ∧
     (∀ l, l < 32 → x.real.getLsbD l → fails (s.access (x.who l) .load 16 (s.src64 x l 0 + (0#8).signExtend 64 * BitVec.ofNat 64 16)) = false) ∧
     s.access (x.who 31) .load 16 (s.src64 x 31 0) = .unmapped 0x200000 ∧
     s.access (x.who 30) .load 16 (s.src64 x 30 0) = .loc ⟨.local, 0x5FFFF0⟩ false) ∧
    (let s := seated (lanesAt fun _ => 0x8000000000000000); let x := ctxIn s 0 0
     s.access (x.who 0) .load 4 (s.src64 x 0 0) = .loc ⟨.slice 0 0, 0⟩ false ∧ (Place.slice 0 0).shared = false) := by
  refine ⟨⟨lane_in _ 0 0 _, lane_in _ 0 0 _, lane_in _ 0 0 _,
    ok, ok, ok⟩, ok⟩

theorem witness_LoadsReturn :
    (let r : LoadRec := { id := 1, slot := 0, lanes := 0x80000001, ea := 0x1FFFF0, loc := none, size := 16, signed := false, d := 60,
                          n := false, waits := false, parts := [], roots := none, tied := false }
     let l : Loc := ⟨.local, 0x5FFFF0⟩
     let g := { user with run := none }
     let s := (seated g).setCore 0 { (seated g).core 0 with loads := [r] }
     (s.core 0).loads[0]? = some r ∧ s.group 0 r.slot = some g ∧ g.run = none ∧ s.logHeld 0 r.id user.launch r.ea r.size = false ∧
       s.absent l = false ∧ r.waits = false ∧ s.olderLoads 0 r.slot r.id l r.size = [] ∧ s.siblings 0 r l = [] ∧ s.atomBefore 0 r.id l r.size = false ∧ (s.core 0).ownClear r.id l r.size = true ∧
       (∀ i, partOf r i = (0, 16)) ∧ s.loadPlace 0 r = .loc l false) ∧
    (let r : LoadRec := { id := 1, slot := 0, lanes := 8, ea := 0xD0000000001FFFFC, loc := none, size := 4, signed := false, d := 60,
                          n := false, waits := false, parts := [(3, 2, 2)], roots := none, tied := false }
     let s := coreDemo fun k => { k with loads := [r] }
     (s.core 0).loads[0]? = some r ∧ s.group 0 r.slot = some user ∧ user.run ≠ none ∧
       partOf r 3 = (2, 2) ∧ (∀ i, i ≠ 3 → partOf r i = (0, 4)) ∧ s.loadPlace 0 r = .loc ⟨.local, 0x5FFFFC⟩ true) ∧
    (let r : RetRec := { slot := 0, vals := [(31, 63, 7)], svals := [(31, 9)] }
     let s := (seated { user with run := none }).setCore 0 { (seated { user with run := none }).core 0 with rets := [r] }
     (s.core 0).rets[0]? = some r ∧ s.group 0 r.slot = some { user with run := none }) := by
  refine ⟨⟨ok, ok, ok, ok, ok, ok, ok, ok, ok, ok, fun _ => rfl, ok⟩, ⟨ok, ok, ok, ok, ?_, ok⟩, ok⟩
  intro i hi
  have : ((3 : Nat) == i) = false := by simp; omega
  simp [partOf, this]

theorem witness_StoresAreIssued :
    (let s := seated (lanesAt fun l => if l = 31 then 0x200000 else 16 * l); let x := ctxIn s 0 0
     let as := s.accesses x .store 16 x.real fun l => s.src64 x l 0 + (0#8).signExtend 64 * BitVec.ofNat 64 16
     LaneReady s x [.quad 4, .pair 0] ∧ LaneReady s x [.quad 100, .pair 0] ∧ LaneReady s x [.src 63, .pair 0] ∧ LaneReady s x [.pair 62, .pair 0] ∧
     (∀ b ∈ as, fails b.acc = false ∧ ∀ w, b.acc ≠ .window w) ∧
     (pagesOf (as.filter (s.retires x 16))).length ≤ x.run.logRoom ∧ as.filter (s.retires x 16) ≠ []) ∧
    (let s := seated (supervisor (lanesAt fun _ => 0xF000000000010108)); let x := ctxIn s 0 0
     LaneReady s x [.src 4, .pair 0] ∧ LaneReady s x [.pair 4, .pair 0] ∧ s.partOf x.grp.launch < 32 ∧
     (∀ b ∈ s.accesses x .store 8 x.real (fun l => s.src64 x l 0 + (0#8).signExtend 64 * BitVec.ofNat 64 8), b.acc = .window 0x10108) ∧
     x.real.getLsbD 31) := by
  refine ⟨⟨lane_in _ 0 0 _, lane_in _ 0 0 _, lane_in _ 0 0 _,
    lane_in _ 0 0 _, ?_, ok, ok⟩, lane_in _ 0 0 _, lane_in _ 0 0 _, ok, ok, ok⟩
  have h : ∀ b ∈ (let s := seated (lanesAt fun l => if l = 31 then 0x200000 else 16 * l); let x := ctxIn s 0 0
      s.accesses x .store 16 x.real fun l => s.src64 x l 0 + (0#8).signExtend 64 * BitVec.ofNat 64 16),
      fails b.acc = false ∧ (match b.acc with | .window _ => false | _ => true) = true := by decide +kernel
  exact fun b hb => ⟨(h b hb).1, fun w e => by have := (h b hb).2; rw [e] at this; cases this⟩

theorem witness_StoresArePerformed :
    (let st : StoreRec := { id := 0, slot := 0, launch := 0, loc := ⟨.local, 0x5FFFFF⟩, bytes := [1], level := 3 }
     let s := coreDemo fun k => { k with stores := [st] }
     (s.core 0).stores[0]? = some st ∧ st.level < 4 ∧ 4 ≤ 4 ∧ (s.core 0).storeBefore st.id 4 st.loc 1 = false ∧
       s.atomBefore 0 st.id st.loc 1 = false ∧ s.loadBefore 0 st.id st.loc 1 = false ∧ s.NoWaiters ∧ s.Exists st.loc) := by
  exact ⟨ok, by decide, by decide, ok, ok, ok,
    no_waiters _, trivial⟩

theorem witness_FailedAccessesTrapAndTakeNoEffect :
    (let s := seated (lanesAt fun _ => 1); let x := ctxIn s 0 0
     LaneReady s x [.pair 0, .dstVregs 63 1 false] ∧ LaneReady s x [dataUse false 62 2, .pair 0] ∧ TrapFree s x ∧
     FirstFailure x (fun l => s.access (x.who l) .load 2 (s.src64 x l 0 + (0#8).signExtend 64 * BitVec.ofNat 64 2)) 4 0 ∧
     FirstFailure x (fun l => s.access (x.who l) .atomic 8 (s.src64 x l 0)) 4 0) ∧
    (let s := seated { lanesAt (fun _ => 0x200000) with run := some { runOf 0x80000000 with logRoom := 0 } }
     let x := ctxIn s 0 0
     let as := s.accesses x .store 4 x.real fun l => s.src64 x l 0 + (0#8).signExtend 64 * BitVec.ofNat 64 4
     LaneReady s x [.src 4, .pair 0] ∧ TrapFree s x ∧ (∀ b ∈ as, fails b.acc = false) ∧
       x.run.logRoom < (pagesOf (as.filter (s.retires x 4))).length) := by
  have first : ∀ (x : Ctx) acc, (∀ j, j < 32 → acc j = Access.fails 4) → x.real.getLsbD 0 = true → FirstFailure x acc 4 0 :=
    fun x acc h r => ⟨by decide, r, h 0 (by decide), fun j i hj _ hi => by
      rw [h j hj] at hi; cases hi; exact .inr ⟨rfl, Nat.zero_le _⟩⟩
  exact ⟨⟨lane_in _ 0 0 _, lane_in _ 0 0 _, trap_free _ _,
    first _ _ (by decide +kernel) (by decide +kernel), first _ _ (by decide +kernel) (by decide +kernel)⟩,
    lane_in _ 0 0 _, trap_free _ _, ok, ok⟩

theorem witness_AddressesAreJudgedInOrder :
    (((0xFFFFFFFFFFFFFFFF : Dword).extractLsb' 60 4).toNat = 15 ∧ ((0x1000000000000000 : Dword).extractLsb' 60 4).toNat = 1) ∧
    (0xF000000000FFFFFF : Dword).extractLsb' 24 36 = 0 ∧ (0xD1FFFFFFFFFFFFF0 : Dword).extractLsb' 57 3 = 0 ∧
    (0x8000000000003FF0 : Dword).extractLsb' 14 46 = 0 ∧ (0x01FFFFFFFFFFFFF0 : Dword).extractLsb' 57 3 = 0 ∧
    (0xB00000003FFFFFF0 : Dword).extractLsb' 30 30 = 0 ∧ (0xC0000000003FFFF0 : Dword).extractLsb' 22 38 = 0 ∧
    (demo.launch 0).isSome = true ∧ (demo.block 0).isSome = true ∧ (0xB00000003FFFFFF0 : Dword).toNat % 16 = 0 := by decide +kernel

theorem witness_TranslationFollowsTheTables :
    (let s := demo.setLaunch 0 { Launch.placed 0 with heapBase := 0x200000, heapLim := 0x400000 }
     ∃ l, s.launch 0 = some l ∧ l.heapBase.toNat ≤ 0x200000 ∧ 0x200000 < l.heapLim.toNat) ∧
    (let s := demo
     let e1 := s.dwordAt ⟨.local, 0x200000 + 8 * (0x1FFFFF / 2 ^ 39 % 2 ^ 18)⟩
     let e2 := s.dwordAt ⟨.local, (e1.extractLsb' 12 40).toNat * 2 ^ 12 + 8 * (0x1FFFFF / 2 ^ 21 % 2 ^ 18)⟩
     (∃ l, s.launch 0 = some l ∧ ¬(l.heapBase.toNat ≤ 0x1FFFFF ∧ 0x1FFFFF < l.heapLim.toNat) ∧ l.ptroot = 0x200000) ∧
     (s.core 0).tlbHit 0 0x1FFFFF = none ∧ e1.getLsbD 0 = true ∧ e1.extractLsb' 1 11 = 0 ∧ e1.extractLsb' 52 12 = 0 ∧
     e2.getLsbD 0 = true ∧ e2.getLsbD 1 = true ∧ e2.extractLsb' 5 16 = 0 ∧ e2.extractLsb' 52 12 = 0 ∧
     (s.dwordAt ⟨.local, 0x200008⟩).getLsbD 0 = false) := by
  refine ⟨⟨_, rfl, ok, ok⟩, ⟨{ Launch.placed 0 with liveBlocks := [0] }, ok, ok, ok⟩, ok⟩

theorem witness_AtomicsAreIssued :
    (let s := seated (lanesAt fun l => if l = 31 then 0x200000 else 4 * l); let x := ctxIn s 0 0
     let ea := fun l => s.src64 x l 0
     let logged := (s.accesses x .atomic 4 x.run.mask ea).filter fun b => x.real.getLsbD b.lane && s.retires x 4 b
     LaneReady s x [dataUse true 4 1, .pair 0] ∧ LaneReady s x [dataUse false 63 1, .pair 0] ∧
     (∀ l, l < 32 → x.real.getLsbD l → fails (s.access (x.who l) .atomic 4 (ea l)) = false) ∧
     (pagesOf logged).length ≤ x.run.logRoom ∧ logged ≠ []) ∧
    (let s := seated (lanesAt fun l => 8 * l); let x := ctxIn s 0 0
     LaneReady s x [dataUse false 60 4, .pair 0] ∧ LaneReady s x [dataUse true 100 4, .pair 0] ∧
     ∀ l, l < 32 → x.real.getLsbD l → fails (s.access (x.who l) .atomic 8 (s.src64 x l 0)) = false) := by
  refine ⟨⟨lane_in _ 0 0 _, lane_in _ 0 0 _, ok, ok,
    ok⟩, lane_in _ 0 0 _, lane_in _ 0 0 _, ok⟩

theorem witness_AtomicsArePerformed :
    (let a : AtomRec := { id := 0, instr := 0, slot := 0, launch := 0, aop := 14, ord := 3, scope := 4, ea := 0x1FFFF8, loc := none,
                          lanes := [⟨0, 0, 1⟩, ⟨31, 1, 2⟩], d := 60, n := false, waits := false,
                          roots := none }
     let l : Loc := ⟨.local, 0x5FFFF8⟩
     let s := coreDemo fun k => { k with atoms := [a] }
     (s.core 0).atoms[0]? = some a ∧ (∀ ln ∈ a.lanes, ln.lane < 32) ∧ a.aop < 15 ∧ a.waits = false ∧ (s.core 0).releaseOwed a = false ∧
       s.logHeld 0 a.id a.launch a.ea 8 = false ∧ s.atomPlace 0 a = .loc l false ∧ s.absent l = false ∧
       (s.core 0).storeBefore a.id 1 l 8 = false ∧ s.atomBefore 0 a.id l 8 = false ∧ s.loadBefore 0 a.id l 8 = false ∧
       s.NoWaiters ∧ s.Exists l ∧ s.group 0 a.slot = some user ∧ (user.th 31).standing ≠ .exited) := by
  refine ⟨ok, by decide, by decide, ok, ok, ok, ok, ok,
    ok, ok, ok, no_waiters _, trivial, ok, ok⟩

theorem witness_ReleasesAndReplaysComplete :
    (let r : ReleaseRec := { part := 0, limit := 5, scope := 4, why := .phase 0 }
     let g := { user with run := none, hold := some (0xFFFFFFFF, .phase 5 4 true) }
     let s := (seated g).setCore 0 { (seated g).core 0 with releases := [r] }
     (s.core 0).releases[0]? = some r ∧ (s.core 0).stores.all (fun t => decide (r.limit ≤ t.id) || decide (r.scope ≤ t.level)) = true ∧
       (s.core 0).atoms.all (fun a => decide (r.limit ≤ a.id)) = true ∧ (s.core 0).sideLog.all (fun e => e.part != r.part) = true ∧
       r.why = .phase 0 ∧ s.group 0 0 = some g) ∧
    (let en : SideEntry := { id := 0, part := 0, launch := 0, slot := 0, page := 0x1F0000, writes := [(0x1FFFFC, [1, 2, 3, 4])], atoms := [],
                             waits := false, roots := none }
     let s := coreDemo fun k => { k with sideLog := [en] }
     (s.core 0).sideLog[0]? = some en ∧ en.waits = false ∧ ((s.core 0).sideLog.take 0).any (·.overlaps en) = false ∧
       en.atoms.any (s.core 0).releaseOwed = false ∧ s.entryTrouble 0 en = none ∧ s.entryBehind 0 en = false ∧ s.NoWaiters ∧
       s.translateBy 0 en.launch en.roots .store 0x1FFFFC = .ok ⟨.local, 0x5FFFFC⟩) := by
  refine ⟨ok, ok, ok, ok, ok, ok, ok, no_waiters _, ok⟩

theorem witness_PrefetchesChangeNoByte :
    (let s := seated (lanesAt fun l => 256 * l); let x := ctxIn s 0 0
     LaneReady s x [.pair 0]) := lane_in _ 0 0 _
/-! Queues, barrier objects, stitched tensors, requests to the units. -/

/-- A group that an instruction holds, in slot 0 of core 0. -/
def holds (h : Hold) (g : Group) : Group := { g with run := none, hold := some (0xFFFFFFFF, h) }
/-- A queue of a group filled. -/
def queued (q n : Nat) (e : Dword) (g : Group) : Group := { g with queues := g.queues.setIfInBounds q (List.replicate n e) }

theorem witness_CommandsEnterTheirQueues :
    (let s := seated (holding (fun _ => [5, 0, 0x1FFFA0, 0]) []); let x := ctxIn s 0 0
     let low := lowestLane x.real
     LaneReady s x [.src 0, .pair 2] ∧ (∀ l, l < 32 → x.real.getLsbD l → s.src x l 0 = s.src x low 0) ∧
     s.judgeBlock (x.grp.reader x.c x.supervisor) [0, 9, 10, 11] 32 96 (s.src64 x low 2) = none ∧
     s.judgeBlock (x.grp.reader x.c x.supervisor) [0, 9, 10, 11] 64 64 (s.src64 x low 2) = some 4 ∧ TrapFree s x ∧
     (x.grp.queue 2).length < 8) ∧
    (let s := seated (holding (fun l => [if l = 31 then 1 else 0, 0, 0, 0]) []); let x := ctxIn s 0 0
     LaneReady s x [.src 0, .pair 2] ∧ s.src x 31 0 ≠ s.src x (lowestLane x.real) 0 ∧
     (∀ j, j < 31 → x.real.getLsbD j → s.src x j 0 = s.src x (lowestLane x.real) 0) ∧ TrapFree s x) ∧
    (let s := seated (helpers user); s.ctx = some (ctxIn s 0 0) ∧ (ctxIn s 0 0).real = 0) ∧
    (let s := seated (queued 4 7 0 (queued 6 8 0 user)); let x := ctxIn s 0 0
     UniformReady s x [.pair 94] ∧ UniformReady s x [.pair 64, .dst 95 false] ∧ (x.grp.queue 4).length < 8 ∧ ¬(x.grp.queue 6).length < 8 ∧
     ¬((0 : BitVec 5) = 4 ∨ (0 : BitVec 5) = 6 ∨ (0 : BitVec 5) = 13) ∧ TrapFree s x ∧
     s.judgeBlock (x.grp.reader x.c x.supervisor) [0, 9, 10, 11] 64 64 (s.usrc64 x 64) = none) ∧
    (let s := seated (holding (fun _ => []) [1, 0x10000000]); let x := ctxIn s 0 0
     UniformReady s x [.pair 64, .dst 66 true] ∧ s.judgeBlock (x.grp.reader x.c x.supervisor) [0, 9, 10, 11] 64 64 (s.usrc64 x 64) = some 1 ∧
     TrapFree s x) ∧
    (let g := holds (.push 14 1 0) (queued 14 7 0 user)
     (seated g).group 0 0 = some g ∧ g.hold = some (0xFFFFFFFF, .push 14 1 0) ∧ (g.queue 14).length < 8) ∧
    (let g := holds (.rego 0 70 false) (queued 8 7 0 user)
     (seated g).group 0 0 = some g ∧ g.hold = some (0xFFFFFFFF, .rego 0 70 false) ∧ (g.queue 8).length < 8) ∧
    (let g := holds (.cego true 0 false 70 false) (queued 6 7 0 user)
     (seated g).group 0 0 = some g ∧ g.hold = some (0xFFFFFFFF, .cego true 0 false 70 false) ∧ (g.queue 6).length < 8) := by
  refine ⟨⟨lane_in _ 0 0 _, ok, ok, ok, trap_free _ _,
    ok⟩, ⟨lane_in _ 0 0 _, ok, ok, trap_free _ _⟩,
    ⟨ctx_in _ 0 0, ok⟩, ⟨uniform_in _ 0 0 _, uniform_in _ 0 0 _,
    ok, ok, by decide, trap_free _ _, ok⟩,
    ⟨uniform_in _ 0 0 _, ok, trap_free _ _⟩, ok, ok,
    ok⟩

theorem witness_StatusEntriesAreTaken :
    (let s := seated (queued 13 2 7 user); let x := ctxIn s 0 0
     UniformReady s x [.dstPair 94 false] ∧ UniformReady s x [.quadDst 92] ∧ UniformReady s x [.dst 95 false] ∧ ¬commandQueue (13 : BitVec 5).toNat ∧
     x.real ≠ 0 ∧ x.grp.queue (13 : BitVec 5).toNat = 7 :: [7] ∧ ¬commandQueue (1 : BitVec 5).toNat ∧ x.grp.queue (1 : BitVec 5).toNat = [] ∧
     commandQueue (8 : BitVec 5).toNat ∧ TrapFree s x) ∧
    (let s := seated (helpers user); let x := ctxIn s 0 0
     UniformReady s x [.dstPair 64 true] ∧ UniformReady s x [.quadDst 64] ∧ x.real = 0) ∧
    (let g := holds (.pop 1 94 false) (queued 1 1 9 user)
     (seated g).group 0 0 = some g ∧ g.hold = some (0xFFFFFFFF, .pop 1 94 false) ∧ g.queue 1 = 9 :: []) ∧
    (let w : WaitingEntry := { launch := 0, block := 0, grp := 0, q := 1, entry := 3 }
     let g := queued 1 7 0 user
     let s := { seated g with waitingEntries := [w] }
     s.waitingEntries[0]? = some w ∧ s.groupLives w.launch w.block w.grp = true ∧ s.findGroup w.launch w.block w.grp = some (0, 0) ∧
       s.group 0 0 = some g ∧ (s.waitingEntries.take 0).any (·.isFor w.launch w.block w.grp w.q) = false ∧ (g.queue w.q).length < 8) := by
  refine ⟨⟨uniform_in _ 0 0 _, uniform_in _ 0 0 _, uniform_in _ 0 0 _,
    by unfold commandQueue; decide, ok, ok, by unfold commandQueue; decide, ok,
    by unfold commandQueue; decide, trap_free _ _⟩,
    ⟨uniform_in _ 0 0 _, uniform_in _ 0 0 _, ok⟩, ok, ok⟩

/-- A group with a barrier object address in s0 and s1, and the state with the object's words at it. -/
def barrierState (g : Group) (b : BarrierWords) (sv : List Word) : State :=
  ((seated { g with s := Vector.ofFn fun r : Fin 32 => sv.getD r.val 0 }).setBarrier ⟨.scratch 0, 16⟩ b).setWord ⟨.scratch 0, 28⟩ b.init

theorem witness_BarrierObjectsCount :
    (let s := barrierState user ⟨0, 1, 1, 0x7FFFFFFF⟩ [16, 0x90000000]; let x := ctxIn s 0 0
     let l : Loc := ⟨.scratch 0, 16⟩
     UniformReady s x [.pair 64, .src 66, .dst 95 false] ∧ UniformReady s x [.pair 64, .dst 95 true] ∧ UniformReady s x [.pair 64] ∧
     s.barrierPlace (x.grp.reader x.c x.supervisor) (s.usrc64 x 64) = .inr l ∧ Settled s x.c ∧ wellFormedObject (s.barrierAt l) ∧
     x.real ≠ 0 ∧ s.NoWaiters ∧ s.Exists l) ∧
    (let s := barrierState (helpers user) ⟨0, 1, 0, 1⟩ [16, 0x90000000]; let x := ctxIn s 0 0
     UniformReady s x [.pair 64, .dst 95 true] ∧ x.real = 0 ∧ wellFormedObject (s.barrierAt ⟨.scratch 0, 16⟩)) ∧
    (let s := barrierState user ⟨0, 1, 2, 1⟩ [16, 0x90000000]; let x := ctxIn s 0 0
     UniformReady s x [.pair 64, .dst 95 false] ∧ s.barrierPlace (x.grp.reader x.c x.supervisor) (s.usrc64 x 64) = .inr ⟨.scratch 0, 16⟩ ∧
     Settled s x.c ∧ ¬wellFormedObject (s.barrierAt ⟨.scratch 0, 16⟩) ∧ TrapFree s x) ∧
    (let s := barrierState user ⟨0, 1, 0, 1⟩ [8, 0x90000000]; let x := ctxIn s 0 0
     UniformReady s x [.pair 64, .dst 95 false] ∧ s.barrierPlace (x.grp.reader x.c x.supervisor) (s.usrc64 x 64) = .inl 17 ∧ TrapFree s x) ∧
    (pathOk 0x1000000000000000 = false ∧ pathOk 0x9000000000000010 = true ∧ pathOk 0x9000000000000008 = true ∧
      (0x9000000000000008 : Dword).toNat % 16 ≠ 0 ∧ pathOk 0 = true ∧ ¬(pathOf 0 = 9 ∨ pathOf 0 = 10 ∨ pathOf 0 = 11) ∧
      demo.window ((user.reader 0 false)) 0x9000010000000010 = none ∧
      (demo.window ((user.reader 0 false)) 0x9000000000000010).isSome = true) := by
  refine ⟨⟨uniform_in _ 0 0 _, uniform_in _ 0 0 _, uniform_in _ 0 0 _,
    ok, by unfold Settled; decide +kernel, by unfold wellFormedObject; decide +kernel, ok,
    no_waiters _, by unfold State.Exists; decide +kernel⟩,
    ⟨uniform_in _ 0 0 _, ok, by unfold wellFormedObject; decide +kernel⟩,
    ⟨uniform_in _ 0 0 _, ok, by unfold Settled; decide +kernel, by unfold wellFormedObject; decide +kernel,
      trap_free _ _⟩,
    ⟨uniform_in _ 0 0 _, ok, trap_free _ _⟩, ok⟩
/-! Stitched tensors and requests to the units. -/

/-- Words written from a local physical address on. -/
def words (a : Nat) (ws : List Word) (s : State) : State :=
  ws.zipIdx.foldl (fun s w => s.setWord ⟨.local, a + 4 * w.2⟩ w.1) s

/-- A consist of 64-byte rows whose table area is at 0x10000, as its manager keeps it. -/
def stitchedOf (gens : List (Nat × List (Nat × Nat))) (pins : Tbl Nat) : Consist :=
  { Consist.reset with gens := gens, pinCounts := pins, rowBytes := 64, area := 0x10000 }

/-- A consist of generation 0, in use, whose header stands at address 0x1000 (0x40_1000), with its table area at 0x10000. -/
def stitched (s : State) : State :=
  (words 0x401000 [0, 16, 64, 1, 0x10000, 0, 4096, 1, 0] s).setConsist 0x401000 (stitchedOf [(0, [(0x2000, 16)])] [])

/-- A pin of it in slot `i` of core 0. -/
def pinned (i : Nat) (s : State) : State :=
  s.setCore 0 { s.core 0 with pins := tput (s.core 0).pins i (some ⟨0, 0, 0x401000, 0⟩) }

/-- Every pin slot of core 0 is taken, but for those from `n` on. -/
def pinsUpTo (n : Nat) (s : State) : State :=
  s.setCore 0 { s.core 0 with pins := (List.range n).map fun i => (i, some ⟨1, 0, 0x401000, 0⟩) }

theorem globalAt_iff (a : Dword) (n : Nat) (h : a.extractLsb' 57 7 = 0 ∧ a.toNat % n = 0) : globalAt a n := h

theorem witness_ConsistRequestsAreSent :
    (let s := seated (holding (fun _ => []) [0xFFFFFFC0, 0x01FFFFFF, 32, 0]); let x := ctxIn s 0 0
     UniformReady s x [.pair 64, .pair 66, .dst 95 false] ∧ globalAt (s.usrc64 x 64) 64 ∧ globalAt (s.usrc64 x 66) 32 ∧ x.real ≠ 0) ∧
    (let s := seated (holding (fun _ => []) [32, 0, 0, 0x02000000, 0, 0, 16, 0]); let x := ctxIn s 0 0
     UniformReady s x [.pair 64, .pair 66, .dst 95 false] ∧ TrapFree s x ∧ (s.usrc64 x 66).extractLsb' 57 7 ≠ 0 ∧
     (s.usrc64 x 64).extractLsb' 57 7 = 0 ∧ (s.usrc64 x 64).toNat % 64 ≠ 0 ∧ globalAt (s.usrc64 x 68) 64 ∧
     (s.usrc64 x 70).extractLsb' 57 7 = 0 ∧ (s.usrc64 x 70).toNat % 32 ≠ 0) ∧
    (let s := pinsUpTo 255 (seated user); let x := ctxIn s 0 0
     UniformReady s x [.pair 64, .dst 95 false] ∧ globalAt (s.usrc64 x 64) 64 ∧ x.real ≠ 0 ∧ tget none (s.core x.c).pins 255 = none ∧
     ∀ j, j < 255 → tget none (s.core x.c).pins j ≠ none) ∧
    (let s := pinsUpTo 256 (seated user); let x := ctxIn s 0 0
     UniformReady s x [.pair 64, .dst 95 false] ∧ TrapFree s x ∧ ∀ j, j < 256 → tget none (s.core x.c).pins j ≠ none) ∧
    (let s := pinned 255 (seated (holding (fun _ => []) [255])); let x := ctxIn s 0 0
     UniformReady s x [.src 64, .dst 95 false] ∧ x.core.granted x.grp.block (s.usrc x 64) = some ⟨0, 0, 0x401000, 0⟩ ∧ x.real ≠ 0) ∧
    (let s := pinsUpTo 1 (seated (holding (fun _ => []) [256, 0])); let x := ctxIn s 0 0
     UniformReady s x [.src 64, .dst 95 false] ∧ TrapFree s x ∧ 256 ≤ (s.usrc x 64).toNat ∧
     (∃ p, tget none x.core.pins (s.usrc x 65).toNat = some p ∧ p.block ≠ x.grp.block)) ∧
    (let s := pinned 0 (seated (helpers user)); let x := ctxIn s 0 0
     s.ctx = some x ∧ x.real = 0 ∧ judgeUses true x [.pair 64, .pair 66, .dst 95 false] = none ∧ globalAt (s.usrc64 x 64) 64 ∧
     globalAt (s.usrc64 x 66) 32 ∧ x.core.freePinSlot ≠ none ∧ x.core.granted x.grp.block (s.usrc x 64) ≠ none) := by
  refine ⟨⟨uniform_in _ 0 0 _, globalAt_iff _ _ (by decide +kernel), globalAt_iff _ _ (by decide +kernel), ok⟩,
    ⟨uniform_in _ 0 0 _, trap_free _ _, ok, ok, ok,
      globalAt_iff _ _ (by decide +kernel), ok, ok⟩,
    ⟨uniform_in _ 0 0 _, globalAt_iff _ _ (by decide +kernel), ok, ok, ok⟩,
    ⟨uniform_in _ 0 0 _, trap_free _ _, ok⟩,
    ⟨uniform_in _ 0 0 _, ok, ok⟩,
    ⟨uniform_in _ 0 0 _, trap_free _ _, ok, ⟨⟨1, 0, 0x401000, 0⟩, ok⟩⟩,
    ctx_in _ 0 0, ok, ok, globalAt_iff _ _ (by decide +kernel),
    globalAt_iff _ _ (by decide +kernel), ok, ok⟩

/-- A request of group 0 on core 0. -/
def asked (kind : Nat) : ConsistReq :=
  { id := 0, kind := kind, core := 0, slot := 0, launch := 0, block := 0, grp := 0, header := if kind = 2 then 0x401000 else 0x1000, desc := 0x3000,
    pin := 0, gen := 0, ready := true, d := 70, n := false }

/-- The consist with requests, a SPLICE descriptor at 0x3000 that inserts the one piece of the list at 0x4000. -/
def asking (rs : List ConsistReq) : State :=
  words 0x404000 [0x8000, 0, 32, 0] (words 0x403000 [0, 0, 0, 1, 0x4000, 0, 0xFFFFFFFF, 0] (stitched { demo with consistReqs := rs }))

/-- Addresses from 0x200000 on are translated beyond what the partition holds. -/
def refusing (s : State) : State :=
  s.setLaunch 0 { (s.launch 0).getD Launch.reset with heapBase := 0x200000, heapLim := 0x400000, heapOfs := 0x10000000000 }

theorem key_of (g : HeaderGot) (h : (match g with | .key _ _ => true | _ => false) = true := by decide +kernel) : ∃ k a, g = .key k a := by
  cases g <;> simp_all

/-- The one piece that the list at 0x4000 names. -/
def onePiece : List (Nat × Nat) := [(0x8000, 32)]
def descOf (row remove expect : Nat) : SpliceDesc :=
  { op := 0, row := row, remove := remove, count := 1, list := 0x4000, expect := expect, reserved := 0 }

theorem witness_ConsistRequestsArePerformed :
    (let r := { asked 0 with desc := 0x200000 }
     let q := { asked 0 with header := 0x200000 }
     let s := refusing (asking [r, q, asked 0])
     s.consistReqs[0]? = some r ∧ s.readAs r.who (BitVec.ofNat 64 r.desc) 32 = .refused 9 ∧
     s.consistReqs[1]? = some q ∧ s.headerGot q.who q.header (fun h => s.spliceNeed h 16 0 1) = .refused ∧ s.consistReqs[2]? = some (asked 0) ∧
     (∃ h a, s.headerGot (asked 0).who (asked 0).header (fun h => s.spliceNeed h 16 0 1) = .key h a) ∧
     ∃ bs list, s.readAs q.who (BitVec.ofNat 64 q.desc) 32 = .ok bs ∧ (spliceDesc bs).ok = true ∧ (spliceDesc bs).count = 1 ∧
       s.readAs q.who (spliceDesc bs).list (16 * (spliceDesc bs).count) = .ok list) ∧
    (∀ s, s = asking [] ∨ s = (asking []).setConsist 0x401000 (stitchedOf [(0, [(0x2000, 16)])] [(0, 1)]) →
      spliceAnswer s 0x401000 [] (descOf 16 0 0) onePiece true = 1 ∧
      editOf s 0x401000 [] (descOf 16 0 0) onePiece = some [(0x2000, 16), (0x8000, 32)]) ∧
    (let s := asking []
     (s.header 0x401000).live ≠ 0 ∧ (s.header 0x401000).ok = true ∧
     spliceAnswer s 0x401000 [] (descOf 0 16 0) onePiece true = 1 ∧ spliceAnswer s 0x401000 [] (descOf 16 0 1) onePiece true = 0x80000003 ∧
     spliceAnswer s 0x401000 [] (descOf 16 0 0) onePiece false = 0x80000004 ∧
     spliceAnswer s 0x401000 [] (descOf 17 0 0) onePiece true = 0x80000005 ∧ spliceAnswer s 0x401000 [] (descOf 0 17 0) onePiece true = 0x80000005) ∧
    (let full := words 0x40101C [64, 0] (asking [])
     spliceAnswer full 0x401000 [] (descOf 16 0 0) onePiece true = 1 ∧
     spliceAnswer (full.setConsist 0x401000 (stitchedOf [(0, [(0x2000, 16)])] [(0, 1)])) 0x401000 [] (descOf 16 0 0) onePiece true = 0x80000008) ∧
    (let waits := fun h (s : State) => s.setCore 0 { s.core 0 with pins := [(0, some ⟨0, 0, h, unboundGen⟩)] }
     let s := waits 0 (asking [asked 1])
     s.consistReqs[0]? = some (asked 1) ∧ s.pinWaits (asked 1) = true ∧ (∃ h a, s.headerGot (asked 1).who (asked 1).header s.areaNeed = .key h a) ∧
       (s.header 0x401000).ok = true ∧ (asking [asked 1]).pinWaits (asked 1) = false ∧
       (refusing s).headerGot (asked 1).who 0x200000 (refusing s).areaNeed = .refused ∧
       (let bad := words 0x401008 [63] s
        (∃ h a, bad.headerGot (asked 1).who (asked 1).header bad.areaNeed = .key h a) ∧ (bad.header 0x401000).ok = false)) ∧
    (let s := (words 0x401000 [1] (asking [asked 2])).setConsist 0x401000 (stitchedOf [(0, [(0x2000, 16)]), (1, [(0x8000, 16)])] [(0, 1)])
     s.consistReqs[0]? = some (asked 2) ∧ TurnOf s (asked 2) ∧ (∃ h a, s.areaGot (asked 2).who (asked 2).header (s.areaNeed 0x401000) = .key h a) ∧
       (s.consistNow 0x401000).pins 0 - 1 = 0 ∧ (0 : Nat) ≠ (s.header 0x401000).gen ∧ ((s.consistNow 0x401000).piecesOf 0).isSome = true ∧
       ((asking []).header 0x401000).gen = 0 ∧ (∃ h a, (asking [asked 2]).areaGot (asked 2).who (asked 2).header ((asking [asked 2]).areaNeed 0x401000) = .key h a) ∧
       (refusing (words 0x401010 [0x200000] s)).areaGot (asked 2).who (asked 2).header ((refusing (words 0x401010 [0x200000] s)).areaNeed 0x401000) = .refused) ∧
    (let ws : List Reclaim := [⟨0x2000, 9, 9, 0, 0⟩, ⟨0x8000, 0, 0, 0, 1⟩]
     let con := { stitchedOf [] [] with waiting := ws }
     let s := (words 0x401020 [2] (asking [])).setConsist 0x401000 con
     s.consists[0]? = some (0x401000, con) ∧ s.recordFirst ⟨0x8000, 0, 0, 0, 1⟩ = true ∧
       (s.takesRecord ⟨0x8000, 0, 0, 0, 1⟩).isSome = true ∧ s.takesRecord ⟨0x2000, 9, 9, 0, 0⟩ = none ∧ 0 < (s.header 0x401000).pending) := by
  refine ⟨⟨ok, ok, ok, ok, ok, key_of _, _, _, got _ _ _ _ (by decide +kernel), ok, ok, got _ _ _ _ (by decide +kernel)⟩,
    ?_, ok, ok, ⟨ok, ok, key_of _, ok, ok, ok, key_of _, ok⟩, ⟨ok, by unfold TurnOf; decide +kernel, key_of _, ok, ok, ok, ok, key_of _, ok⟩, ok⟩
  rintro s (rfl | rfl) <;> exact ok

theorem witness_RowAddressesAreComputed :
    (let s := pinned 255 (stitched (seated (holding (fun l => [255, if l = 31 then 15 else 0, 254, 16]) []))); let x := ctxIn s 0 0
     let p : Pin := ⟨0, 0, 0x401000, 0⟩
     let far := words 0x401010 [0x200000] s
     LaneReady s x [.src 0, .src 1, .dstPair 62 false] ∧ TrapFree s x ∧ LaneReady far (ctxIn far 0 0) [.src 0, .src 1, .dstPair 62 false] ∧
     (∀ l, l < 32 → x.core.granted x.grp.block (s.src x l 0) = some p) ∧ s.areaWaits x p = none ∧
     far.areaWaits (ctxIn far 0 0) p = some 0x200000 ∧
     (s.consistNow p.header).astray = false ∧ (s.consistNow p.header).piecesOf p.gen = some [(0x2000, 16)] ∧
     pieceAddress (s.header p.header).rowBytes [(0x2000, 16)] (s.src x 31 1).toNat = some 0x23C0 ∧
     (∀ l, l < 32 → pieceAddress (s.header p.header).rowBytes [(0x2000, 16)] (s.src x l 3).toNat = none) ∧
     (∀ l, l < 32 → x.core.granted x.grp.block (s.src x l 2) = none)) ∧
    (let s := words 0x401008 [128] (pinned 255 (stitched (seated user)))
     (s.consistNow 0x401000).astray = true) := by
  refine ⟨⟨lane_in _ 0 0 _, trap_free _ _, lane_in _ 0 0 _, ok⟩, ok⟩
/-! Requests to the units, the engines of a core, the copy engines, the update units. -/

/-- Bytes written from a place on. -/
def bytesIn (l : Loc) (ws : List Word) (s : State) : State :=
  ws.zipIdx.foldl (fun s w => s.setWord (l.add (4 * w.2)) w.1) s

/-- A DRAIN block at 0x1000 for a tensor block at 0x2000 of one row of 64 columns, and both places. -/
def drainWords : List Word := [0, 1, 0x2000, 0, 0, 0, 0, 0]
def tensorWords : List Word := [0x4000, 0, 0, 0, 0, 0, 1, 64, 0, 0, 0, 0, 0, 0, 0, 0]
def drainable (s : State) : State := words 0x402000 tensorWords (words 0x401000 drainWords s)

/-- What a DRAIN's blocks come to. -/
def drainWordsOf (g : DrainGot) : Option (List Word × List Word) := match g with | .ok a b => some (a, b) | _ => none
def drainWaits (g : DrainGot) : Option Nat := match g with | .waits v => some v | _ => none
theorem drain_got (g : DrainGot) (a b : List Word) (h : drainWordsOf g = some (a, b)) : g = .ok a b := by
  cases g <;> simp_all [drainWordsOf]

/-- The operator's partition. -/
def operators (s : State) : State := s.setPartition 0 { s.partition 0 with operator := true }
/-- A die that serves. -/
def served (n : Nat) (s : State) : State := s.setDie n { s.die n with up := true }

/-- An APGO descriptor at 0x1000 for die 15 and one array, listed at 0x2000. -/
def programming (s : State) : State :=
  words 0x402000 [65535] (words 0x401000 [15, 1, 0x2000, 0, 0x3000, 0, 7, 0, 0, 0, 0, 0, 0, 0, 0, 0] (served 15 s))

theorem witness_RequestsToTheUnits :
    (let s := seated (holding (fun _ => []) [0x100, 0x90000000, 15, 0, 0x1FFFF00, 0, 1, 16, 8, 0, 4095, 4096]); let x := ctxIn s 0 0
     UniformReady s x [.pair 68, .src 70, .dst 95 false] ∧ 1 ≤ (s.usrc x 66).toNat ∧ (s.usrc x 66).toNat < 16 ∧
     (s.usrc64 x 68).extractLsb' 57 7 = 0 ∧ (s.usrc64 x 68).toNat % 256 = 0 ∧ (s.usrc x 67).toNat = 0 ∧ 16 ≤ (s.usrc x 71).toNat ∧
     TrapFree s x ∧ 1 ≤ (s.usrc x 70).toNat ∧ pathOf (s.usrc64 x 72) = 0 ∧ pathOk (s.usrc64 x 72) = true ∧ (s.usrc64 x 72).toNat % 256 ≠ 0 ∧
     (s.usrc x 74).toNat < 4096 ∧ 4096 ≤ (s.usrc x 75).toNat ∧ x.real ≠ 0) ∧
    (let s := refusing (seated (helpers (holding (fun _ => []) [0x200000, 0, 1, 0, 0x1FFF00, 0]))); let x := ctxIn s 0 0
     UniformReady s x [.pair 64, .src 66, .dst 95 false] ∧ UniformReady s x [.pair 68, .src 66, .dst 95 false] ∧ TrapFree s x ∧ x.real = 0 ∧
     (s.usrc x 66).toNat = 1 ∧ (s.resolve (x.grp.reader x.c x.supervisor) .load (s.usrc64 x 64)).2 = .bad 9 ∧
     (s.resolve (x.grp.reader x.c x.supervisor) .load (s.usrc64 x 68)).2 = .ok ⟨.local, 0x5FFF00⟩ ∧
     (s.resolve (x.grp.reader x.c x.supervisor) .load (s.usrc64 x 68 + 4095)).2 = .bad 9) ∧
    (let s := operators (seated (supervisor user)); let x := ctxIn s 0 0
     UniformReady s x [.pair 64, .dst 95 false] ∧ x.supervisor = true ∧ (s.partition (s.partOf x.grp.launch)).operator = true ∧
     globalAt (s.usrc64 x 64) 64) ∧
    (let s := drainable (seated (holding (fun _ => []) [0x1000, 0, 0, 0xC0000000])); let x := ctxIn s 0 0
     UniformReady s x [.pair 64, .dst 95 false] ∧ s.judgeBlock (x.grp.reader x.c x.supervisor) [0, 9, 10, 11] 32 32 (s.usrc64 x 64) = none ∧
     x.real ≠ 0 ∧ s.drainGot (engineWho x.c x.grp.launch x.grp.block) ((s.launch x.grp.launch).getD Launch.reset).accTiles (s.usrc64 x 64) =
       .ok drainWords tensorWords ∧
     TrapFree s x ∧ s.judgeBlock (x.grp.reader x.c x.supervisor) [0, 9, 10, 11] 32 32 (s.usrc64 x 66) = some 3 ∧
     s.judgeBlock (x.grp.reader x.c x.supervisor) [0, 9, 10, 11] 32 32 0x200000 = none ∧
     drainWaits (s.drainGot (engineWho 0 0 0) ((s.launch 0).getD Launch.reset).accTiles 0x200000) = some 0x200000) ∧
    (let g := holds (.tbld 0x9000000000000000 15 70 false) user
     let s := seated g
     s.group 0 0 = some g ∧ (∃ bs, s.readAs (g.reader 0 (g.th (lowestLane 0xFFFFFFFF)).lvl) 0x9000000000000000 4096 = .ok bs) ∧
       (s.core 0).bankFree 15 (!((s.core 0).table 15).active) = true) ∧
    (let g := holds (.apgo 0x1000 70 false) (supervisor user)
     let s := programming (seated g)
     s.group 0 0 = some g ∧ (∃ bs list, s.readAs (g.reader 0 true) 0x1000 64 = .ok bs ∧ apgoFieldsOk bs = true ∧
       s.readAs (g.reader 0 true) (BitVec.ofNat 64 (dwordIn bs 8)) (4 * wordIn bs 4) = .ok list ∧ (s.die (wordIn bs 0)).up = true ∧
       (s.die (wordIn bs 0)).apgoAnswer (wordIn bs 0x1C == 1) (wordsIn list (wordIn bs 4)) = 0)) ∧
    (let g := holds (.drain 0x1000 70 false) user
     let s := drainable (seated g)
     s.group 0 0 = some g ∧ s.drainGot (engineWho 0 g.launch g.block) ((s.launch g.launch).getD Launch.reset).accTiles 0x1000 =
       .ok drainWords tensorWords) := by
  refine ⟨⟨uniform_in _ 0 0 _, ok, ok, ok, ok,
    ok, ok, trap_free _ _, ok⟩,
    ⟨uniform_in _ 0 0 _, uniform_in _ 0 0 _, trap_free _ _, ok⟩,
    ⟨uniform_in _ 0 0 _, ok, ok, globalAt_iff _ _ (by decide +kernel)⟩,
    ⟨uniform_in _ 0 0 _, ok, ok, drain_got _ _ _ (by decide +kernel),
      trap_free _ _, ok⟩,
    ⟨ok, ⟨_, got _ _ _ _ (by decide +kernel)⟩, ok⟩,
    ⟨ok, _, _, got _ _ _ _ (by decide +kernel), ok, got _ _ _ _ (by decide +kernel), ok,
      ok⟩,
    ok, drain_got _ _ _ (by decide +kernel)⟩
/-! The engines of a core, the copy engines, the update units. -/

/-- A launch of 64 accumulator tiles. -/
def roomy (s : State) : State := s.setLaunch 0 { Launch.placed 0 with record := smallRecord.set 16 64, liveBlocks := [0] }

/-- An MXGO block: BF16 operands of one block of 32 in the core scratchpad, tile `t`. -/
def mxWords (t : Nat) : List Word :=
  [0, 0x90000000, 0, 0x90000000, 0, 0, 0, 0, 64, 128, BitVec.ofNat 32 (1 + 65536 * t), 0, 0, 0, 0, 0]
/-- A group whose matrix queue holds one block at 0x1000. -/
def matrixGroup : Group := { queued 0 1 0x1000 user with mxFmt := [0xA5000000] }
def matrixState (t : Nat) : State := words 0x401000 (mxWords t) (roomy (seated matrixGroup))
/-- An accepted matrix command, its operands read as zeros. -/
def mxCmd (started : Bool) : MxCmd :=
  { order := 0, slot := 0, launch := 0, block := 0, seq := 1, fmt := 0xA5000000, words := mxWords 63, src := List.replicate 8192 (some 0),
    wanted := [], upTo := 0, bank := false, started := started }
def withMx (m : MxCmd) : State := (roomy (seated user)).setCore 0 { (seated user).core 0 with mx := [m] }

/-- A started command whose result also goes to the core scratchpad, a byte for each element. -/
def mxOutCmd : MxCmd := { mxCmd true with words := (((((mxWords 63).set 11 8).set 12 0).set 13 0x90000000).set 14 64).set 15 2 }

/-- Every byte of the output is in a window of the cluster or the chip, checked one by one. -/
def outHere (s : State) (w : Who) (m : MxBlock) : Bool :=
  (List.range 64).all fun i => (List.range 64).all fun j => (List.range m.outSize).all fun b =>
    match (s.resolve w .store (outAt m i j + BitVec.ofNat 64 b)).2 with
    | .ok q => (match q.place with | .scratch k => (s.block k).isSome | _ => false)
    | _ => false

theorem out_here (s : State) (w : Who) (m : MxBlock) (h : outHere s w m = true := by decide +kernel) : OutHere s w m := by
  intro i j b hi hj hb
  have h := List.all_eq_true.mp (List.all_eq_true.mp (List.all_eq_true.mp h i (by simpa using hi)) j (by simpa using hj)) b (by simpa using hb)
  cases hq : (s.resolve w .store (outAt m i j + BitVec.ofNat 64 b)).2 with
  | ok q =>
    simp only [hq] at h
    cases hp : q.place <;> simp_all [State.Exists]
  | _ => simp [hq] at h

theorem head_got (s : State) (c g q n : Nat) (h : ((s.headBlock c g q n).bind bytesGot).isSome = true) :
    s.headBlock c g q n = some (.ok (((s.headBlock c g q n).bind bytesGot).getD [])) := by
  cases hr : s.headBlock c g q n with
  | none => simp [hr] at h
  | some x => cases x <;> simp_all [bytesGot]

/-- An AEGO block for layer 0 on die 0: one token, operands in the core scratchpad, tile 48. -/
def aeWords (f : Word) : List Word :=
  [0, f, 0, 0x90000000, 0, 0x90000000, 1024, 1 + 65536 * 48, 0, 0, 0, 0, 0, 0, 0, 0, 0, 0, 0, 0, 0, 0, 0, 0]
def tinyLayer : Layer := { handle := 0, die := 0, nIn := 1024, nOut := 1024, arrays := [0, 1], scales := [0x3F800000] }
def arrayGroup : Group := { queued 2 1 0x1000 user with aeFmt := [0xA5000104] }
/-- The layer's arrays are programmed and covered. -/
def online (s : State) : State :=
  ({ s with layers := [tinyLayer] } : State).setDie 0 { s.die 0 with
    up := true
    arrays := [(0, { ArrayRec.reset with state := 0, closed := true }), (1, { ArrayRec.reset with state := 0, closed := true })]
    bank0 := [⟨false, 0, [], false⟩, ⟨false, 1, [], false⟩, ⟨true, 0, [], false⟩] } |>.setPartition 0 { s.partition 0 with images := 1 }
def arrayState (f : Word) : State := online (words 0x401000 (aeWords f) (roomy (seated arrayGroup)))
/-- An accepted array command. -/
def aeCmd (ph : AePhase) (waiting running : List ArrayOp) : AeCmd :=
  { order := 0, slot := 0, launch := 0, block := 0, seq := 1, words := aeWords 0, src := List.replicate 1026 (some 0), wanted := [], upTo := 0, layer := tinyLayer,
    bank := false, bound := [], weights := [], waiting := waiting, running := running, done := [], linkbound := false, phase := ph, answer := 0 }
def someOp : ArrayOp := { token := 0, stripe := 0, part := 1, array := 1, code := none }
def withAe (m : AeCmd) : State :=
  let s := (roomy (seated user)).setCore 0 { (seated user).core 0 with ae := [m] }
  s.setDie 0 { s.die 0 with order := [(0, 0)], lateAnswers := 1 }

/-- The fault that a matrix block meets. -/
def mxVerdict (s : State) : Option Nat :=
  s.mxFault (engineWho 0 0 0) ((s.launch 0).getD Launch.reset).accTiles 0xA5000000 (mxBlock (((s.headBlock 0 0 0 64).bind bytesGot).getD []))
/-- What an array block comes to. -/
def aeVerdict (s : State) : Sum Dword Layer :=
  let la := (s.launch 0).getD Launch.reset
  s.aeJudge (engineWho 0 0 0) la.part la.accTiles 0xA5000104 1 (((s.headBlock 0 0 2 96).bind bytesGot).getD [])

theorem stays (s : State) (x : Group) (h : x.over = false ∧ ((s.block x.block).map (·.core)).getD 0 = 0) : Stays s 0 x := by
  refine ⟨h.1, fun b hb => ?_⟩
  have := h.2; rw [hb] at this; exact this

theorem witness_MatrixAndArrayCommandsRun :
    (let s := matrixState 63
     s.engineTurn 0 = some 0 ∧ (∃ bs, s.headBlock 0 0 0 64 = some (.ok bs)) ∧ s.group 0 0 = some matrixGroup ∧ mxVerdict s = none ∧
       Stays s 0 matrixGroup) ∧
    (let s := matrixState 64
     s.engineTurn 0 = some 0 ∧ (∃ bs, s.headBlock 0 0 0 64 = some (.ok bs)) ∧ s.group 0 0 = some matrixGroup ∧ mxVerdict s = some 0x2A) ∧
    (let s := withMx (mxCmd false)
     (s.core 0).mx[0]? = some (mxCmd false) ∧ s.engineTurn 0 = some 0 ∧ s.mxStartable 0 (mxCmd false) = true) ∧
    (let s := withMx (mxCmd true)
     let m := mxCmd true
     (s.core 0).mx[0]? = some m ∧ m.started = true ∧ m.wanted = [] ∧ m.block_.outWait s (m.who 0) = none ∧
       m.block_.outBehind s (m.who 0) = false ∧ s.NoWaiters ∧ s.Exists ⟨.tiles 0, 16384 * m.block_.tile⟩ ∧
       m.block_.epilogue = false ∧ s.group 0 0 = some user ∧ user.over = false) ∧
    (let s := withMx mxOutCmd
     let m := mxOutCmd
     (s.core 0).mx[0]? = some m ∧ m.started = true ∧ m.wanted = [] ∧ m.block_.outWait s (m.who 0) = none ∧
       m.block_.outBehind s (m.who 0) = false ∧ s.NoWaiters ∧ s.Exists ⟨.tiles 0, 16384 * m.block_.tile⟩ ∧
       m.block_.epilogue = true ∧ Settled s 0 ∧ OutHere s (m.who 0) m.block_ ∧ 64 * m.block_.outSize ≤ m.block_.outStride) ∧
    (let s := arrayState 0
     (rotation (s.core 0).aeLast).find? (fun g => ((s.headBlock 0 g 2 96).map Got.settled).getD false) = some 0 ∧
       (∃ bs, s.headBlock 0 0 2 96 = some (.ok bs)) ∧ s.group 0 0 = some arrayGroup ∧ aeVerdict s = .inr tinyLayer) ∧
    (let s := arrayState 0x20
     (rotation (s.core 0).aeLast).find? (fun g => ((s.headBlock 0 g 2 96).map Got.settled).getD false) = some 0 ∧
       (∃ bs, s.headBlock 0 0 2 96 = some (.ok bs)) ∧ s.group 0 0 = some arrayGroup ∧ (∃ e, aeVerdict s = .inl e) ∧
       Stays s 0 arrayGroup ∧ ∀ a ∈ (s.core 0).ae, a.slot ≠ 0) ∧
    (let m := aeCmd .analogue [someOp] []
     let s := withAe m
     s.slotsFree 0 1 = true ∧ (s.die 0).order[0]? = some (0, 0) ∧ s.aeOf (0, 0) = some (0, m) ∧ s.startableOp m = some 0) ∧
    (let m := aeCmd .analogue [] [someOp]
     let s := withAe m
     (s.running_ 0)[0]? = some (0, 0, 0) ∧ (s.core 0).ae[0]? = some m ∧ m.running[0]? = some someOp ∧ (s.die 0).lateAnswers ≠ 0) ∧
    (let m := aeCmd .arrived [] []
     let s := withAe m
     (s.core 0).ae[0]? = some m ∧ s.engineTurn 0 = some m.slot ∧ s.aeStartable 0 m = true) ∧
    (let m := aeCmd .started [] []
     let s := withAe m
     (s.core 0).ae[0]? = some m ∧ m.phase = .started ∧ (s.supplyAe 0 m).1.wanted = [] ∧
       s.NoWaiters ∧ s.Exists ⟨.tiles 0, 0⟩ ∧ (aeBlock (wordBytes m.words)).tokens ≤ 64) := by
  refine ⟨⟨ok, ⟨_, head_got _ _ _ _ _ (by decide +kernel)⟩, ok, ok, stays _ _ (by decide +kernel)⟩,
    ⟨ok, ⟨_, head_got _ _ _ _ _ (by decide +kernel)⟩, ok, ok⟩, ok,
    ⟨ok, ok, ok, ok, ok, no_waiters _, by unfold State.Exists; decide +kernel, ok⟩,
    ⟨ok, ok, ok, ok, ok, no_waiters _, by unfold State.Exists; decide +kernel, ok, by unfold Settled; decide +kernel, out_here _ _ _,
      by decide +kernel⟩,
    ⟨ok, ⟨_, head_got _ _ _ _ _ (by decide +kernel)⟩, ok, ok⟩,
    ⟨ok, ⟨_, head_got _ _ _ _ _ (by decide +kernel)⟩, ok, ?_, stays _ _ (by decide +kernel), ok⟩,
    ok, ok, ok,
    ⟨ok, ok, ok, no_waiters _, by unfold State.Exists; decide +kernel,
      ok⟩⟩
  have h : (match aeVerdict (arrayState 0x20) with | .inl _ => true | _ => false) = true := by decide +kernel
  revert h
  cases aeVerdict (arrayState 0x20) <;> simp
/-! The copy engines, the update units, the array dies. -/

/-- A copy of one row of 16 bytes within the core scratchpad, from offset 512 to offset 1040; `r` rows. -/
def copyWords (r : Word) : List Word := [512, 0x90000000, 1040, 0x90000000, r, 16, 0, 16, 0, 0, 0, 0, 0, 0, 0, 0]
def copyGroup : Group := queued 6 1 0x1000 user
def copyState (r : Word) : State := words 0x401000 (copyWords r) (seated copyGroup)
/-- A copy in progress, its source bytes awaited. -/
def copyCmd : CopyCmd :=
  { slot := 0, launch := 0, block := 0, seq := 1, words := copyWords 1, gather := [], src := List.replicate 16 none,
    wanted := [⟨0, 0x9000000000000200, some ⟨.scratch 0, 512⟩, 16⟩], upTo := 0, chunks := [(0, 0, 16)],
    sectors := [⟨.scratch 0, 1024⟩], landed := 0, written := [], counted := 0, badBarrier := false }
def copying : State := (seated user).setCore 0 { (seated user).core 0 with ceB := some copyCmd }

/-- A copy of one row of 32 bytes to offset 1056. -/
def wideCmd : CopyCmd :=
  { copyCmd with words := [512, 0x90000000, 1056, 0x90000000, 1, 32, 0, 32, 0, 0, 0, 0, 0, 0, 0, 0], src := List.replicate 32 (some 0), wanted := [],
                 chunks := [(0, 0, 32)] }
def copyingWide : State := (seated user).setCore 0 { (seated user).core 0 with ceB := some wideCmd }

/-- A DRAIN of one tile on one line of weights. -/
def drainCmd (tiles : List Nat) : DrainCmd :=
  { order := 0, core := 0, launch := 0, block := 0, grp := 0, seq := 1, unread := none, src := [], wanted := [], upTo := 0, words := drainWords, tensor := tensorWords, tilesLeft := tiles,
    grads := if tiles = [] then (List.range 64).map fun i => (i, 0x3F800000) else [], linesLeft := [0], written := [], clipped := 0, refused := none }

theorem witness_CopiesAndUpdatesRun :
    (let s := copyState 1
     (s.core 0).copyOf true = none ∧
       (rotation ((s.core 0).copyLast true)).find? (fun g => ((s.copyHead 0 g true).map CopyGot.settled).getD false) = some 0 ∧
       (match s.copyHead 0 0 true with | some (.block _ _ _) => true | _ => false) = true ∧ s.group 0 0 = some copyGroup ∧ Stays s 0 copyGroup) ∧
    (let s := copyState 0
     (rotation ((s.core 0).copyLast true)).find? (fun g => ((s.copyHead 0 g true).map CopyGot.settled).getD false) = some 0 ∧
       s.copyHead 0 0 true = some (.fault 0x10) ∧ s.group 0 0 = some copyGroup ∧ Stays s 0 copyGroup) ∧
    (let s := copying
     let w := engineWho 0 0 0
     (s.core 0).copyOf true = some copyCmd ∧ copyCmd.chunks[0]? = some (0, 0, 16) ∧
       (∀ q ∈ (s.supplyChunk 0 copyCmd 0 16).1.wanted, q.pos < 0 ∨ 0 + 16 ≤ q.pos) ∧
       ((((s.supplyChunk 0 copyCmd 0 16).1.src.drop 0).take 16).filterMap id).length = 16 ∧
       s.rangeTrouble w .store 32 (copyCmd.block_.target (0, 0, 16)) 16 = none ∧
       s.writeBehind w 32 (copyCmd.block_.target (0, 0, 16)) 16 = false ∧ s.NoWaiters ∧ Settled s 0 ∧ copyCmd.block_.barrier = 0 ∧
       (s.resolve w .store (copyCmd.block_.target (0, 0, 16))).2 = .ok ⟨.scratch 0, 1040⟩ ∧ s.Exists ⟨.scratch 0, 1040⟩ ∧
       16 - (copyCmd.block_.target (0, 0, 16)).toNat % 16 = 16) ∧
    (let s := copyingWide
     let w := engineWho 0 0 0
     let l : Loc := ⟨.scratch 0, 1056⟩
     (s.core 0).copyOf true = some wideCmd ∧ wideCmd.chunks[0]? = some (0, 0, 32) ∧
       (∀ q ∈ (s.supplyChunk 0 wideCmd 0 32).1.wanted, q.pos < 0 ∨ 0 + 32 ≤ q.pos) ∧
       ((((s.supplyChunk 0 wideCmd 0 32).1.src.drop 0).take 32).filterMap id).length = 32 ∧
       s.rangeTrouble w .store 32 (wideCmd.block_.target (0, 0, 32)) 32 = none ∧
       s.writeBehind w 32 (wideCmd.block_.target (0, 0, 32)) 32 = false ∧ s.NoWaiters ∧ Settled s 0 ∧ wideCmd.block_.barrier = 0 ∧
       (s.resolve w .store (wideCmd.block_.target (0, 0, 32))).2 = .ok l ∧ s.Exists l ∧ (wideCmd.block_.target (0, 0, 32)).toNat % 16 = 0 ∧
       ((s.setBytes l (List.replicate 16 0)).resolve w .store (wideCmd.block_.target (0, 0, 32) + 16)).2 = .ok (l.add 16)) ∧
    (let d := { drainCmd [] with unread := some 0x1000, src := (wordBytes drainWords ++ wordBytes tensorWords).map some }
     let s := drainable { seated user with drains := [d] }
     let d' := (s.supplyDrain d).1
     s.drains[0]? = some d ∧ d'.wanted = [] ∧ ((d'.src.take 32).filterMap id).length = 32 ∧
       s.drainJudge (engineWho d.core d.launch d.block) ((s.launch d.launch).getD Launch.reset).accTiles ((d'.src.take 32).filterMap id)
         (.ok ((d'.src.drop 32).filterMap id)) = .ok drainWords tensorWords) ∧
    (let d := drainCmd [0]
     let s := { seated user with drains := [d] }
     s.drains[0]? = some d ∧ d.unread = none ∧ d.tilesLeft = 0 :: [] ∧ s.tileBusy d.core d.order d.block (0, 1) = false ∧ s.Exists ⟨.tiles d.block, 0⟩) ∧
    (let d := drainCmd []
     let s := { seated user with drains := [d] }
     let ts := tensorBlock (wordBytes d.tensor)
     s.drains[0]? = some d ∧ d.unread = none ∧ d.tilesLeft = [] ∧ 0 ∈ d.linesLeft ∧ tensorsOf ts = [0x4000] ∧ s.lineGot d 0x4000 0 = .place ⟨.local, 0x404000⟩ ∧
       (drainBlock (wordBytes d.words)).barrier = 0 ∧ ts.opt = 0 ∧ ts.weights = 0x4000 ∧
       (63, 0x3F800000) ∈ ((covered d 0).map (·.1)).zip (clipLine ts.clip ((covered d 0).map (·.2))).1) := by
  refine ⟨⟨ok, ok, ok, ok, stays _ _ (by decide +kernel)⟩,
    ⟨ok, ok, ok, stays _ _ (by decide +kernel)⟩,
    ⟨ok, ok, ok, ok, ok, ok, no_waiters _, by unfold Settled; decide +kernel, ok, ok,
      by unfold State.Exists; decide +kernel, ok⟩,
    ⟨ok, ok, ok, ok, ok, ok, no_waiters _, by unfold Settled; decide +kernel, ok, ok,
      by unfold State.Exists; decide +kernel, ok, ok⟩,
    ⟨ok, ok, ok, drain_got _ _ _ (by decide +kernel)⟩,
    ⟨ok, ok, ok, ok, by unfold State.Exists; decide +kernel⟩, ok⟩

/-- A state with one array of die 15, and one job on it where `job` says. -/
def arrayAt (a : Nat) (x : ArrayRec) (jobs : List ApgoJob) (s : State) : State :=
  s.setDie 15 { s.die 15 with up := true, arrays := [(a, x)], jobs := jobs }
def someJob : ApgoJob :=
  { number := 1, desc := 0, launch := 0, arrays := [65535], left := [65535], silent := false, source := 0x3000, staged := 0, doneAddr := 0x2000, closed := 0, failed := 0 }
/-- An array in programming whose row 0 is staged, with `n` tries. -/
def staged (n : Nat) : ArrayRec :=
  { ArrayRec.reset with
    state := 1, records := [(1, 0)], rows := [(0, { RowJournal.reset with records := [(3, 2), (2, 1)], tries := n, codes := [1] })] }
/-- The same once the row is verified. -/
def verified : ArrayRec :=
  { staged 0 with writing := true, rows := [(0, { RowJournal.reset with records := [(5, 4), (4, 3), (3, 2), (2, 1)], codes := [1] })] }
/-- Launch 0 reaches the placed page by its heap triple. -/
def heaped (s : State) : State :=
  s.setLaunch 0 { Launch.placed 0 with heapLim := 0x200000, heapOfs := 0x400000, liveBlocks := [0] }
/-- An array whose rows a job stages. -/
def staging : State := arrayAt 65535 { ArrayRec.reset with state := 1, records := [(1, 0)], apgo := some 1 } [someJob] (heaped demo)
def stagingBad : State := words 0x403000 [16] staging
/-- A property of the bytes a read answers, and that it answers bytes. -/
theorem got_with (s : State) (w : Who) (a : Dword) (n : Nat) (p : List Byte → Bool)
    (h : (match s.readAs w a n with | .ok bs => p bs | _ => false) = true) : ∃ bs, s.readAs w a n = .ok bs ∧ p bs = true := by
  cases hr : s.readAs w a n <;> simp_all

/-- The byte is a weight code. -/
def isCode (b : Byte) : Bool := decide (-15 ≤ b.toInt) && decide (b.toInt ≤ 15)
theorem is_code (b : Byte) : isCode b = true ↔ -15 ≤ b.toInt ∧ b.toInt ≤ 15 := by simp [isCode]
theorem staging_reads : ∃ bs, staging.readAs (launchWho someJob.launch) (BitVec.ofNat 64 (someJob.source + 524288 * 0 + 512 * 0)) 512 =
    .ok bs ∧ bs.all isCode = true := got_with _ _ _ _ _ (by decide +kernel)
theorem stagingBad_reads : ∃ bs, stagingBad.readAs (launchWho someJob.launch) (BitVec.ofNat 64 (someJob.source + 524288 * 0 + 512 * 0)) 512 =
    .ok bs ∧ bs.any (fun b => !isCode b) = true := got_with _ _ _ _ _ (by decide +kernel)
def fitted (a : Nat) (s : State) : State :=
  let s1 := { s with layers := [{ tinyLayer with die := 15, arrays := [a, a + 1] }] }
  s1.setDie 15 { s1.die 15 with
    up := true
    arrays := [(a, { ArrayRec.reset with state := 1, closed := true }), (a + 1, { ArrayRec.reset with closed := true })]
    fits := [⟨false, a, [], false⟩, ⟨true, a, [], false⟩] }

/-- The two arrays of a transpose group, fitted and not yet published. -/
def fit : State := { fitted 0 demo with ready := true }
theorem fit_news : ∃ f ∈ (fit.die 15).fits, f.news ((fit.die 15).bankOf (fit.die 15).active) = true := List.any_eq_true.mp (by decide +kernel)
theorem fit_free : fit.bankUnheld 15 (!(fit.die 15).active) = true := by decide +kernel
theorem fit_found : ((fit.die 15).array 0).closed = true ∧ ((fit.die 15).array 0).state = 1 ∧ (fitIn (fit.die 15).fits false 0).isSome = true ∧
    fit.firstOf 15 0 = some 0 ∧ (fitIn (fit.die 15).fits true 0).isSome = true := by decide +kernel
theorem fit_pair : (fit.die 15).up = true ∧ fit.pairOf 15 0 = some 1 ∧ fit.probeable 15 0 = true ∧ fit.probeable 15 1 = true ∧
    fit.runningOps 15 + (fit.die 15).programming + 2 ≤ (fit.die 15).limit ∧ fit.ready = true := by decide +kernel

theorem witness_DiesAndOboe :
    (((staging.die 15).array 65535).apgo.bind (staging.die 15).job = some someJob ∧ (staging.die 15).toStage someJob = some (0, 65535, 0) ∧
       ∃ bs, staging.readAs (launchWho someJob.launch) (BitVec.ofNat 64 (someJob.source + 524288 * 0 + 512 * 0)) 512 = .ok bs ∧
         ∀ b ∈ bs, -15 ≤ b.toInt ∧ b.toInt ≤ 15) ∧
    (((stagingBad.die 15).array 65535).apgo.bind (stagingBad.die 15).job = some someJob ∧
       (stagingBad.die 15).toStage someJob = some (0, 65535, 0) ∧
       ∃ bs, stagingBad.readAs (launchWho someJob.launch) (BitVec.ofNat 64 (someJob.source + 524288 * 0 + 512 * 0)) 512 = .ok bs ∧
         ∃ b ∈ bs, ¬(-15 ≤ b.toInt ∧ b.toInt ≤ 15)) ∧
    (∀ n ∈ [2, 3],
      let s := arrayAt 0 (staged n) [] demo
      let x := (s.die 15).array 0
      x.journalOpen = true ∧ x.state = 1 ∧ x.nextRow = some 0 ∧ (x.row 0).stage = true ∧ (s.die 15).mayWrite 0 = true ∧
        s.arrayIdle 15 0 = true ∧ (s.die 15).up = true ∧ s.slotsFree 15 1 = true ∧ (x.row 0).verify = false ∧ (x.row 0).tries = n) ∧
    (let s := arrayAt 0 verified [] demo
     let x := (s.die 15).array 0
     x.journalOpen = true ∧ x.nextRow = some 0 ∧ (x.row 0).stage = true ∧ (s.die 15).mayWrite 0 = true ∧
       s.arrayIdle 15 0 = true ∧ x.writing = true ∧ (x.row 0).verify = true) ∧
    (15 < 16 ∧ 2 < 3) ∧
    ((demo.die 15).applying = none ∧ (demo.die 15).pendRate = none) ∧
    (∀ r ∈ [true, false],
      let s := demo.setDie 15 { demo.die 15 with applying := some (some 2, none), retried := r }
      (s.die 15).applying = some (some 2, none) ∧ (s.die 15).retried = r) ∧
    ((fit.die 15).up = true ∧ fit.pairOf 15 0 = some 1 ∧ fit.probeable 15 0 = true ∧ fit.probeable 15 1 = true ∧
       fit.runningOps 15 + (fit.die 15).programming + 2 ≤ (fit.die 15).limit ∧ fit.ready = true ∧
       (∃ f ∈ (fit.die 15).fits, f.news ((fit.die 15).bankOf (fit.die 15).active) = true) ∧ fit.bankUnheld 15 (!(fit.die 15).active) = true ∧
       (fit.die 15).replaying = false ∧ ((fit.die 15).array 0).closed = true ∧ ((fit.die 15).array 0).state = 1 ∧
       (fitIn (fit.die 15).fits false 0).isSome = true ∧ fit.firstOf 15 0 = some 0 ∧
       (fitIn (fit.die 15).fits true 0).isSome = true) := by
  obtain ⟨bs, hb, hc⟩ := staging_reads
  obtain ⟨bs', hb', hc'⟩ := stagingBad_reads
  refine ⟨⟨ok, ok, bs, hb, fun b h => (is_code b).mp (List.all_eq_true.mp hc b h)⟩,
    ⟨ok, ok, bs', hb', ?_⟩, ok, ok, by decide, ok, ok,
    fit_pair.1, fit_pair.2.1, fit_pair.2.2.1, fit_pair.2.2.2.1, fit_pair.2.2.2.2.1, fit_pair.2.2.2.2.2, fit_news, fit_free, ok, fit_found⟩
  obtain ⟨b, h, hn⟩ := List.any_eq_true.mp hc'
  exact ⟨b, h, fun hi => by simp [(is_code b).mpr hi] at hn⟩
/-! Junction, the departure stations, the control window, the Stationmaster. -/

theorem stays_here (s : State) (c : Nat) (x : Group) (h : x.over = false ∧ (match s.block x.block with | some b => b.core == c | none => true) = true) :
    Stays s c x := by
  refine ⟨h.1, fun b hb => ?_⟩
  have := h.2
  simp only [hb, beq_iff_eq] at this
  exact this

/-- Interface `i` with a record at 0x1000 in a ring of one slot. -/
def ringFace : Iface :=
  { Iface.reset with
    state := 2, ptroot := 0x200000, ringBase := 0x1000, ringSize := 1, wrIdx := 1, bound := true, heapLim := 0x200000, heapOfs := 0x400000 }
/-- Interfaces 0 to 3 belong to partition 0, which has every hardware cluster. -/
def owning (s : State) : State := s.setPartition 0 { s.partition 0 with qifCount := 4, clusters := 0xFFFFFFFFFF }
/-- A record waits in the ring of interface 0. -/
def queueState (ws : List Word) : State := words 0x401000 ws ((owning demo).setIface 0 ringFace)
def taken (s : State) (bs : List Byte) : Launch := launchOf s 0 (blockWords bs 64)

/-- A launch of two blocks of 2 x 4 cores with one group each, none dispatched, its waits over. -/
def wideLaunch : Launch :=
  { Launch.placed 0 with record := (smallRecord.set 10 16).set 13 0x703, nextBlock := 0, waitMet := true, migrated := true }
def ofLaunch (n : Nat) : Iface := { ringFace with wrIdx := 0, current := some n }
def dispatching : State := ((owning demo).setLaunch 0 wideLaunch).setIface 0 (ofLaunch 0)
/-- A launch whose blocks have ended, with a done_barrier at byte 16 of its grant. -/
def endedLaunch : Launch :=
  { Launch.placed 0 with record := (smallRecord.set 22 16).set 23 0xB0000000, liveBlocks := [] }
def ending : State :=
  let s := { demo.setPartition 0 { demo.partition 0 with cspLen := 1 } with carveout := 1 }
  ((s.setLaunch 0 endedLaunch).setBarrier ⟨.chip, 16⟩ ⟨0, 1, 0, 1⟩).setWord ⟨.chip, 28⟩ 1
/-- Three LAUNCH requests: to a queue that is not in RUN, to one that is full, to one with room. -/
def reqTo (q : Nat) : LaunchReq := { id := 0, core := 0, slot := 0, launch := 0, addr := 0x1000, queue := q, ready := true, d := 64, n := false }
def appending : State :=
  let s := (((owning (heaped demo)).setIface 0 { ringFace with state := 1 }).setIface 1 ringFace).setIface 2 { ringFace with wrIdx := 0xFFFFFFFF, rdIdx := 0xFFFFFFFF }
  { s with launchReqs := [reqTo 0, reqTo 1, reqTo 2] }
theorem appending_reads : ∃ bs, appending.readAs { core := 0, launch := 0, block := 0, thread := 0, supervisor := true, engine := true }
    (BitVec.ofNat 64 0x1000) 256 = .ok bs ∧ (fun _ => true) bs = true := got_with _ _ _ _ _ (by decide +kernel)

/-- Launch 0 resident, launch 1 of higher priority on interface 1 with no core for it. -/
def crowded (p0 : Word) : State :=
  let s := (seated { user with run := none }).setPartition 0 { demo.partition 0 with qifCount := 4, clusters := 0 }
  let t := (s.setIface 0 (ofLaunch 0)).setIface 1 (ofLaunch 1)
  (t.setLaunch 0 { Launch.placed 0 with record := smallRecord.set 13 p0, liveBlocks := [0] }).setLaunch 1
    { wideLaunch with record := smallRecord.set 13 0x700, iface := 1 }
/-- The only block of launch 0 pre-empted. -/
def preempted : State :=
  let (s, cl) := ((owning (seated { user with run := none })).setIface 0 (ofLaunch 0)).saveBlocks [0]
  { s with saved := [cl] }

/-- Two eligible groups of issue slot 0; that of slot 7 has waited longer. -/
def waitingFrom (n : Nat) : Group := { user with run := none, since := n }
def twoGroups : State :=
  let s := seated (waitingFrom 5)
  { s.setCore 0 ((s.core 0).setGroup 7 (some (waitingFrom 4))) with focus := none }
def trapped : Group :=
  { user with
    run := none
    heldTraps := [⟨0x80000000, 6, 0, 0⟩]
    threads := user.threads.set 31 { user.threads[31] with standing := .held } }

theorem queue_reads (ws : List Word) (p : List Byte → Bool)
    (h : (match ((queueState ws).asQueue 0).recordAt (launchWho (queueState ws).nextLaunch)
        (((queueState ws).iface 0).slotAddr ((queueState ws).iface 0).rdIdx) with | .ok bs => p bs | _ => false) = true) :
    ∃ bs, ((queueState ws).asQueue 0).recordAt (launchWho (queueState ws).nextLaunch)
        (((queueState ws).iface 0).slotAddr ((queueState ws).iface 0).rdIdx) = .ok bs ∧ p bs = true := by
  cases hr : ((queueState ws).asQueue 0).recordAt (launchWho (queueState ws).nextLaunch)
        (((queueState ws).iface 0).slotAddr ((queueState ws).iface 0).rdIdx) <;> simp_all
theorem good_record : ∃ bs, ((queueState smallRecord).asQueue 0).recordAt (launchWho (queueState smallRecord).nextLaunch)
    (((queueState smallRecord).iface 0).slotAddr ((queueState smallRecord).iface 0).rdIdx) = .ok bs ∧
    ((queueState smallRecord).recordFault (taken (queueState smallRecord) bs) false == none) = true :=
  queue_reads smallRecord (fun bs => (queueState smallRecord).recordFault (taken (queueState smallRecord) bs) false == none) (by decide +kernel)
def badRecord : List Word := smallRecord.set 16 193
theorem bad_record : ∃ bs, ((queueState badRecord).asQueue 0).recordAt (launchWho (queueState badRecord).nextLaunch)
    (((queueState badRecord).iface 0).slotAddr ((queueState badRecord).iface 0).rdIdx) = .ok bs ∧
    ((queueState badRecord).recordFault (taken (queueState badRecord) bs) false == some 0x40) = true :=
  queue_reads badRecord (fun bs => (queueState badRecord).recordFault (taken (queueState badRecord) bs) false == some 0x40) (by decide +kernel)

theorem witness_LaunchesAndSlots :
    (let s := { demo with ifaces := (List.range 63).map (fun i => (i, { Iface.reset with bound := true })) ++ [(4095, { ringFace with bound := false })] }
     let f := s.iface 4095
     f.waiting = true ∧ f.bound = false ∧ (s.ifaces.filter fun x => x.2.bound).length < 64 ∧
       ∀ x ∈ s.ifaces, x.2.waiting = true → x.2.bound = false → s.boundFirst 4095 x.1 = true) ∧
    (let s := queueState smallRecord; let f := s.iface 0
     f.bound = true ∧ f.waiting = true ∧ s.currentOver 0 = true ∧
       ∃ bs, (s.asQueue 0).recordAt (launchWho s.nextLaunch) (f.slotAddr f.rdIdx) = .ok bs ∧
         s.recordFault (launchOf s 0 (blockWords bs 64)) f.sealOnly = none) ∧
    (let s := queueState badRecord; let f := s.iface 0
     f.bound = true ∧ f.waiting = true ∧ s.currentOver 0 = true ∧ s.NoWaiters ∧
       ∃ bs, (s.asQueue 0).recordAt (launchWho s.nextLaunch) (f.slotAddr f.rdIdx) = .ok bs ∧
         s.recordFault (launchOf s 0 (blockWords bs 64)) f.sealOnly = some 0x40) ∧
    (let s := dispatching; let l := wideLaunch
     s.launch 0 = some l ∧ (s.iface l.iface).current = some 0 ∧ l.ended = false ∧ l.doubleTrap = false ∧ l.nextBlock < l.clusterCount ∧
       l.waitMet = true ∧ l.migrated = true ∧ s.waitingCluster l.iface = some (.fresh 0) ∧ s.outranked l.part l.iface l.priority = false ∧
       s.place l 296 = some [296, 297, 298, 299, 316, 317, 318, 319] ∧ l.roleList[0]? = some 0) ∧
    (let s := ending; let l := endedLaunch
     s.launch 0 = some l ∧ l.ended = false ∧ l.liveBlocks = [] ∧ l.clusterCount ≤ l.nextBlock ∧ s.launchQuiet 0 = true ∧ s.NoWaiters ∧
       (∀ k ∈ s.keys, ¬(k.handle = l.keyHandle ∧ k.part = l.part)) ∧ s.chipObject l.part (l.dword 0x58) = some ⟨.chip, 16⟩ ∧
       wellFormedObject (s.barrierAt ⟨.chip, 16⟩)) ∧
    (let s := appending
     (∃ bs, s.readAs { core := 0, launch := 0, block := 0, thread := 0, supervisor := true, engine := true } (BitVec.ofNat 64 0x1000) 256 = .ok bs) ∧
       (∀ q, q < 3 → s.launchReqs[q]? = some (reqTo q) ∧ s.partOfIface q = some (s.partOf 0)) ∧ (s.iface 0).state ≠ 2 ∧
       (s.iface 1).state = 2 ∧ (s.iface 1).ringSize < ((s.iface 1).wrIdx + 1 - (s.iface 1).rdIdx).toNat ∧ (s.iface 2).state = 2 ∧
       ((s.iface 2).wrIdx + 1 - (s.iface 2).rdIdx).toNat ≤ (s.iface 2).ringSize ∧
       (s.asQueue 2).rangeTrouble (launchWho s.nextLaunch) .store 32 ((s.iface 2).slotAddr (s.iface 2).wrIdx) 256 = none) ∧
    (let s := crowded 0x600
     s.clusterBlocks 0 = (0, 0) :: [] ∧ s.block 0 = some (Block.placed 0 0) ∧ (Block.placed 0 0).launch = 0 ∧
       (Block.placed 0 0).stopping = false ∧ s.isVictim 0 (Block.placed 0 0).started = true ∧ (Block.placed 0 0).core = 0 ∧
       (Block.placed 0 0).ended = false ∧ s.group 0 0 = some { user with run := none } ∧ user.launch = 0) ∧
    (let b := { Block.placed 0 0 with stopping := true }
     let g := { user with run := none, stopped := true }
     let s := ((crowded 0x600).setCore 0 (((crowded 0x600).core 0).setGroup 0 (some g))).setBlock 0 b
     s.clusterBlocks 0 = (0, 0) :: [] ∧ s.block 0 = some b ∧ b.launch = 0 ∧ s.landed 0 0 0 = true ∧ (s.core 0).slotsOf 0 = [0] ∧
       s.group 0 0 = some g ∧ s.slotSavable 0 0 g = true) ∧
    (∃ cl, preempted.saved[0]? = some cl ∧ preempted.launch (launchOfSaved cl) = some { Launch.placed 0 with liveBlocks := [0] } ∧
       preempted.waitingCluster 0 = some (.saved 0) ∧ preempted.outranked 0 0 0 = false ∧
       preempted.placeSaved { Launch.placed 0 with liveBlocks := [0] } cl 319 = some [319] ∧ (cl.map (·.number)).Nodup) ∧
    (let s := crowded 0x700
     s.holder 0 7 = some 0 ∧ s.nextSlice 0 7 0 = some 1) ∧
    (let s := twoGroups
     0 ∉ s.removedCores ∧ s.running 0 0 = none ∧ 32 ≤ (s.core 0).logFree ∧ (7, waitingFrom 4) ∈ s.eligible 0 0 ∧
       (∀ b ∈ s.eligible 0 0, b ≠ (7, waitingFrom 4) → servedFirst s (7, waitingFrom 4) b) ∧
       (s.core 0).choosePath 7 (waitingFrom 4) = some 0xFFFFFFFF ∧ (waitingFrom 4).jumps = [] ∧
       (s.fetchRun 0 0 ((waitingFrom 4).th 0).codeBase ((waitingFrom 4).th 0).pc 25).2.unmapped = none ∧
       (s.fetchRun 0 0 ((waitingFrom 4).th 0).codeBase 0x200000 25).2.unmapped ≠ none ∧
       (let t := words 0x400000 [(encode (.fpev true false 64 0)).getD 0] s
        (t.fetchRun 0 0 ((waitingFrom 4).th 0).codeBase ((waitingFrom 4).th 0).pc 25).2.words.any isFpev = true)) ∧
    (let s := seated trapped
     s.group 0 0 = some trapped ∧ trapped.heldTraps = ⟨0x80000000, 6, 0, 0⟩ :: [] ∧ trapped.handlerSet = 0 ∧ trapped.run = none ∧
       s.launch trapped.launch = some { Launch.placed 0 with liveBlocks := [0] } ∧ (s.partition 0).trapPolicy = false) := by
  obtain ⟨bs, hb, hc⟩ := good_record
  obtain ⟨bs', hb', hc'⟩ := bad_record
  obtain ⟨as, ha, -⟩ := appending_reads
  refine ⟨ok, ⟨ok, ok, ok, bs, hb, beq_iff_eq.mp hc⟩,
    ⟨ok, ok, ok, no_waiters _, bs', hb', beq_iff_eq.mp hc'⟩, ok,
    ⟨ok, ok, ok, ok, ok, no_waiters _,
      ok, ok, by unfold wellFormedObject; decide +kernel⟩,
    ⟨⟨as, ha⟩, ok⟩, ok, ok, ⟨_, opened _ [] (by decide +kernel), ok⟩, ok,
    ⟨ok, ok, ok, ok, by unfold servedFirst; decide +kernel, ok⟩, ok⟩

/-- A collective of two contributors: number 1 at station 0, a child of the root station 5, where number 0 is. -/
def collective : Collective :=
  { part := 0, handle := 0x500000001, id := 5, module := 0, n := 2, bytes := 16, op := 2, contributors := [(5, 0), (0, 3)],
    stations := [(5, 0xFFFF, 0, 2), (0, 5, 1, 2)], destroying := false }
/-- A REGO block of contributor 1 at 0x1000, its data at 0x2000, and the group that has pushed it. -/
def regoWords (h : Word) : List Word := [h, 5, 0x2000, 0, 16, 2, 1, 0, 0, 0, 7, 0, 0, 0, 0, 0]
def contributing (h : Word) : State :=
  words 0x401000 (regoWords h) { seated (queued 8 1 0x1000 user) with collectives := [collective] }
def arriving : Packet :=
  { id := 5, part := 0, toStation := 5, child := 1, round := 7, deadline := 0, late := false, manifest := [1], repeats := 0, data := [1, 2, 3, 4] }
def someRound (st : Nat) (dep : Bool) : RoundState :=
  { RoundState.new st 5 0 7 9 with
    departed := dep, onTime := if dep then [] else [⟨3, [1], 0, [1, 2, 3, 4]⟩], lateHeld := if dep then [⟨3, [1], 0, [1, 2, 3, 4]⟩] else []
    lateCounting := dep, seen := [(3, [1])] }
/-- A record at the root for a group of block 0, to be written at `a`. -/
def rooted (late : Bool) (a : Nat) : State :=
  { demo with
    collectives := [collective]
    rounds := [{ someRound 5 true with root := some (a, 2, a, 0, 0, 0), lateNumber := 2 }]
    rootRecords := [{ station := 5, id := 5, part := 0, round := 7, late := late, manifest := [1], repeats := 0, data := [1, 2, 3, 4] }] }

theorem rego_with (x : RegoGot) (p : Collective → RegoBlock → Bool)
    (h : (match x with | .ok k b _ => p k b | _ => false) = true) : ∃ k b d, x = .ok k b d ∧ p k b = true := by
  cases x with
  | ok k b d => exact ⟨k, b, d, rfl, h⟩
  | _ => cases h
theorem rego_good : ∃ k b d, (contributing 1).regoGot (engineWho 0 (queued 8 1 0x1000 user).launch (queued 8 1 0x1000 user).block)
    ((contributing 1).partOf (queued 8 1 0x1000 user).launch) (hwCluster 0) 0x1000 = .ok k b d ∧
    (k == collective && b.contributor == 1 && b.round == 7 && b.deadline == 0 && b.src == 0x2000 && b.bytes == 16) = true :=
  rego_with _ (fun k b => k == collective && b.contributor == 1 && b.round == 7 && b.deadline == 0 && b.src == 0x2000 && b.bytes == 16)
    (by decide +kernel)
/-- The same with the contributor's station on module 1. -/
def spread : Collective := { collective with contributors := [(5, 0), (1024, 3)], stations := [(5, 0xFFFF, 0, 2), (1024, 5, 1, 2)] }
/-- A state in which peer port 7 admits partition 0 of the sender. -/
def peered : State :=
  ({ demo with ready := true, collectives := [spread] } : State).setPartition 0 { demo.partition 0 with peers := (Vector.replicate 8 0).set 7 1 }
theorem rooted_facts (late : Bool) : ∃ rec r, (rooted late 0x3000).rootRecords[0]? = some rec ∧ rec.late = late ∧
    (rooted late 0x3000).collectiveOf rec.id rec.part = some collective ∧
    (rooted late 0x3000).roundOf rec.station rec.id rec.part rec.round = some r ∧ r.root = some (0x3000, 2, 0x3000, 0, 0, 0) ∧
    (∀ x ∈ (rooted late 0x3000).rootRecords.take 0, ¬(x.station = rec.station ∧ x.id = rec.id ∧ x.part = rec.part ∧ x.round = rec.round)) := by
  refine ⟨{ station := 5, id := 5, part := 0, round := 7, late := late, manifest := [1], repeats := 0, data := [1, 2, 3, 4] },
    { someRound 5 true with root := some (0x3000, 2, 0x3000, 0, 0, 0), lateNumber := 2 }, ?_⟩
  cases late <;> decide +kernel

theorem witness_DepartureStations :
    (let s := contributing 1; let x := queued 8 1 0x1000 user
     s.group 0 0 = some x ∧ x.queue 8 = 0x1000 :: [] ∧ Stays s 0 x ∧
       ∃ k b data, s.regoGot (engineWho 0 x.launch x.block) (s.partOf x.launch) (hwCluster 0) 0x1000 = .ok k b data ∧
         k.contributors[b.contributor]? = some (0, 3) ∧ k.station 0 = some (5, 1, 2) ∧
         k.rootContributor ≠ some b.contributor ∧
         (let s1 := ((s.hasRead (engineWho 0 x.launch x.block) 0x1000 64).hasRead (engineWho 0 x.launch x.block) b.src b.bytes).setGroup 0 0
            { x with queues := x.queues.setIfInBounds 8 [] }
          roundFor s1 k 0 b.round b.deadline { s1 with rounds := s1.rounds ++ [RoundState.new 0 5 0 b.round b.deadline] }
            (RoundState.new 0 5 0 b.round b.deadline))) ∧
    (let s := contributing 2; let x := queued 8 1 0x1000 user
     s.group 0 0 = some x ∧ x.queue 8 = 0x1000 :: [] ∧ Stays s 0 x ∧
       s.regoGot (engineWho 0 x.launch x.block) (s.partOf x.launch) (hwCluster 0) 0x1000 = .fault 0 1) ∧
    (let s := { demo with collectives := [collective], packets := [arriving, { arriving with id := 6 }], rounds := [someRound 5 false] }
     s.packets[0]? = some arriving ∧ s.packets[1]? = some { arriving with id := 6 } ∧ NoneEnding s ∧ s.collectiveOf 6 0 = none ∧
       s.collectiveOf arriving.id arriving.part = some collective ∧ arriving.toStation / 1024 = collective.module ∧
       collective.station arriving.toStation = some (0xFFFF, 0, 2) ∧ NamesSender collective arriving.toStation arriving.child true ∧
       ¬NamesSender collective arriving.toStation 2 true ∧
       roundFor { s with packets := ldrop s.packets 0 } collective 5 arriving.round arriving.deadline
         { s with packets := ldrop s.packets 0 } (someRound 5 false)) ∧
    (let s := peered
     let r := RoundState.new 5 5 0 7 0
     s.ready = true ∧ (∃ q ∈ s.partitions, q.2.active = true ∧ (q.2.peers[7]?.getD 0).getLsbD arriving.part = true) ∧
       ¬(∃ q ∈ s.partitions, q.2.active = true ∧ (q.2.peers[2]?.getD 0).getLsbD arriving.part = true) ∧
       s.collectiveOf arriving.id arriving.part = some spread ∧ arriving.toStation / 1024 = spread.module ∧
       spread.station arriving.toStation = some (0xFFFF, 0, 2) ∧ NamesSender spread arriving.toStation arriving.child false ∧
       ¬NamesSender spread arriving.toStation 2 false ∧
       roundFor s spread 5 arriving.round arriving.deadline { s with rounds := s.rounds ++ [r] } r) ∧
    (∀ dep ∈ [false, true],
      let s := { demo with collectives := [collective], rounds := [someRound 0 dep] }; let r := someRound 0 dep
      s.rounds[0]? = some r ∧ s.collectiveOf r.id r.part = some collective ∧ collective.station r.station = some (5, 1, 2) ∧ r.kept = true ∧
        r.departed = dep ∧ (dep = false → r.counting = true ∧ r.lateHeld = []) ∧ (dep = true → r.lateCounting = true ∧ r.lateHeld ≠ []) ∧
        ∀ c ∈ s.collectives, c.destroying = false) ∧
    (∀ late, (∃ rec r, (rooted late 0x3000).rootRecords[0]? = some rec ∧ rec.late = late ∧
        (rooted late 0x3000).collectiveOf rec.id rec.part = some collective ∧
        (rooted late 0x3000).roundOf rec.station rec.id rec.part rec.round = some r ∧ r.root = some (0x3000, 2, 0x3000, 0, 0, 0) ∧
        ∀ x ∈ (rooted late 0x3000).rootRecords.take 0, ¬(x.station = rec.station ∧ x.id = rec.id ∧ x.part = rec.part ∧ x.round = rec.round)) ∧
      (rooted late 0x3000).isSaved 0 = false ∧ (rooted late 0x3000).slotOpen 0 0 0x3000 = true ∧
      (rooted late 0x3000).recordTrouble 0 0 (collective.dataAt + collective.bytes) 0x3000 = none) ∧
    (let s := rooted false 0x0200000000003000
     s.recordTrouble 0 0 (collective.dataAt + collective.bytes) 0x0200000000003000 = some (.refused 1) ∧ s.isSaved 0 = false) := by
  obtain ⟨k, b, data, hg, hp⟩ := rego_good
  simp only [Bool.and_eq_true, beq_iff_eq] at hp
  obtain ⟨⟨⟨⟨⟨rfl, hb⟩, hr⟩, hd⟩, hs⟩, hn⟩ := hp
  refine ⟨⟨ok, ok, stays_here _ _ _ (by decide +kernel), collective, b, data, hg, ?_, ok, ?_, ?_⟩,
    ⟨ok, ok, stays_here _ _ _ (by decide +kernel), ok⟩,
    ⟨ok, ok, by unfold NoneEnding; decide +kernel, ok, ok, ok, ok, by unfold NamesSender; decide, by unfold NamesSender; decide, ?_⟩,
    ⟨ok, ok, ok, ok, ok, ok, by unfold NamesSender; decide, by unfold NamesSender; decide, ?_⟩,
    ok, fun late => ⟨rooted_facts late, by cases late <;> decide +kernel⟩, ok⟩
  · rw [hb]; decide +kernel
  · rw [hb]; decide +kernel
  · rw [hr, hd, hs, hn]; exact .inr ⟨ok, ok, rfl, rfl⟩
  · exact .inl ⟨ok, rfl⟩
  · exact .inr ⟨ok, ok, rfl, rfl⟩

/-- Partition 0 has a host's interface 4095 in RUN with PASID 9, whose tables are those of the placed launch. -/
def hosted : State :=
  (({ demo with ready := true } : State).setPartition 0 { demo.partition 0 with qifCount := 4096 }).setIface 4095 { ringFace with pasid := 9 }
/-- MBOXIN of partition 0 names group 0 of block 0 of launch 0, whose inbound half holds `n` entries. -/
def mailed (n : Nat) : State :=
  let s := seated (queued 13 n 0 user)
  { s.setPartition 0 { s.partition 0 with mboxIn := Vector.replicate 6 0 } with ready := true }
/-- The outbound half of the group holds one entry, and the ring has one slot, free. -/
def outward : State :=
  let s := seated (queued 14 1 5 user)
  s.setPartition 0 { s.partition 0 with mboxOut := 0x8000, mboxN := 1 }
def aRecord : FaultRec := { va := 0x10000, kind := 0, refused := false, launch := 0 }
def targeted (x : Option (Nat × Nat × Group)) : Option (Nat × Nat × Nat) := x.map fun p => (p.1, p.2.1, (p.2.2.queue 13).length)
theorem targets (x : Option (Nat × Nat × Group)) (a b n : Nat) (h : targeted x = some (a, b, n)) :
    ∃ g, x = some (a, b, g) ∧ (g.queue 13).length = n := by
  cases x with
  | none => cases h
  | some p =>
    obtain ⟨a', b', g⟩ := p
    simp only [targeted, Option.map_some, Option.some.injEq, Prod.mk.injEq] at h
    obtain ⟨rfl, rfl, rfl⟩ := h
    exact ⟨g, rfl, rfl⟩

/-- Host port 1 holds PRIVSEM. -/
def privileged : State := { hosted with semHeld := true, semOwner := 1 }
/-- A fetch-and-compare of 8 bytes by port 7, whose operands are zeros. -/
def atomicOf (aop n : Nat) : PeerAccess := { port := 7, q := 0, pa := 0x7FFFF8, write := true, atomic := some aop, data := List.replicate n 0 }

theorem witness_ControlWindow :
    (let ready : State := { demo with ready := true }
     (2 ^ 24 - 8) % 8 = 0 ∧ 2 ^ 24 - 8 < 2 ^ 24 ∧ demo.ready = false ∧ ready.ready = true ∧ winBlock 0x2F0FC = .partition 31 0xFC ∧
       0x2F0FC % 4 = 0 ∧ ¬(ready.semHeld = true ∧ ready.semOwner = 1) ∧ demo.windowCause 31 0x10100 true ≠ none ∧ 0x10100 % 4 = 0 ∧
       winBlock 0x2F134 = .partition 31 0x134 ∧ ((ready.setPartition 31 { ready.partition 31 with pcmdBusy := true }).partition 31).pcmdBusy = true) ∧
    (mayWrite hosted (.core 31) (0x2F000 + 0x108) ∧ winBlock (0x2F000 + 0x108) = .partition 31 0x108 ∧ 0x108 ∈ plainPart ∧
       mayWrite hosted (.core 31) (0x2F000 + 0x100) ∧ winBlock (0x2F000 + 0x100) = .partition 31 0x100) ∧
    (let s := privileged
     s.semHeld = true ∧ s.semOwner = 1 ∧ (∀ x ∈ (s.partition 31).ranges.toList, x.1 < 2 ^ 31) ∧ (s.partition 31).active = false ∧
       (s.partition 0).active = true ∧ (∀ o ∈ [8, 0x10, 0x84, 0x90], whileInactive o ∧ winBlock (0x2F000 + o) = .partition 31 o ∧
         winBlock (0x10000 + o) = .partition 0 o ∧ mayWrite s (.port 1) (0x2F000 + o) ∧ mayWrite s (.port 1) (0x10000 + o)) ∧
       ∀ o ∈ [0xA0, 0xC0, 0xC8, 0xDC], atAnyTime o ∧ winBlock (0x10000 + o) = .partition 0 o ∧ mayWrite s (.port 1) (0x10000 + o)) ∧
    ((∀ i ∈ [0, 4095], ∀ o ∈ [8, 0x18, 0x54], winBlock (0x100000 + 128 * i + o) = .iface i o ∧ (configBits o 1).isSome = true ∧
         mayWrite hosted (.port 1) (0x100000 + 128 * i + o)) ∧
       isLocked hosted (hosted.iface 4095) 8 ∧ ¬isLocked hosted (hosted.iface 0) 8) ∧
    (winBlock 0x2F0000 = .port 15 0 ∧ mayWrite hosted (.port 1) 0x2F0000) ∧
    (let s := (hosted.setPartition 31 { hosted.partition 31 with qifFirst := 4095, qifCount := 1 })
     mayWrite s (.core 31) (0x100000 + 128 * 4095 + 4) ∧ mayWrite s (.port 1) (0x100000 + 128 * 4095 + 0x30) ∧ 8191 < 2 ^ 13 ∧
       (s.iface 4095).state = 2 ∧ (s.iface 0).state ≠ 2 ∧
       (let f := (s.setIface 4095 { ringFace with wrIdx := 0 }).iface 4095
        f.state = 2 ∧ 1 ≤ 1 ∧ (f.wrIdx + BitVec.ofNat 32 1 - f.rdIdx).toNat ≤ f.ringSize) ∧
       ¬((s.iface 4095).wrIdx + BitVec.ofNat 32 8191 - (s.iface 4095).rdIdx).toNat ≤ (s.iface 4095).ringSize ∧ demo.ready = false) ∧
    (mayWrite hosted (.port 0) (0x10000 + 0x1000 * 31 + 0x11C) ∧ mayWrite hosted (.core 31) (0x10000 + 0x1000 * 31 + 0x120) ∧
       mayWrite hosted (.core 31) (0x10000 + 0x1000 * 31 + 0x124) ∧ mayWrite hosted (.port 1) (0x10000 + 0x1000 * 0 + 0x174) ∧
       hosted.mailTarget 31 = none ∧ (∃ y, hosted.group 0 0 = some y ∧ hosted.inPart 0 y.launch = true) ∧
       (∃ x, (mailed 7).mailTarget 0 = some (0, 0, x) ∧ (x.queue 13).length = 7) ∧
       ∃ x, (mailed 8).mailTarget 0 = some (0, 0, x) ∧ (x.queue 13).length = 8) ∧
    (let s := (demo.setCore 0 { demo.core 0 with stores := [⟨0, 0, 0, ⟨.local, 0x400000⟩, [1], 1⟩] }).setPartition 0
       { demo.partition 0 with shoots := [0x10000, 0x20000] }
     (s.partition 0).shoots = 0x10000 :: [0x20000] ∧ ∀ k ∈ s.cores, ∀ st ∈ k.2.stores, s.inPart 0 st.launch = true → st.level ≠ 0) ∧
    (let s := outward; let x := queued 14 1 5 user
     s.group 0 0 = some x ∧ x.queue 14 = 5 :: [] ∧ (s.partition (s.partOf x.launch)).mboxN ≠ 0 ∧
       (s.partition (s.partOf x.launch)).mboxTail - (s.partition (s.partOf x.launch)).mboxHead ≠ (s.partition (s.partOf x.launch)).mboxN ∧
       0 < 32) ∧
    (let o : LeftMail := { launch := 9, part := 0, index := 0, grp := 0, entry := 5 }
     let s := { outward with outbox := [{ o with grp := 1 }, o] }
     s.outbox[1]? = some o ∧ (∀ m ∈ s.outbox.take 1, ¬(m.launch = o.launch ∧ m.index = o.index ∧ m.grp = o.grp)) ∧
       (s.partition o.part).mboxN ≠ 0 ∧ (s.partition o.part).mboxTail - (s.partition o.part).mboxHead ≠ (s.partition o.part).mboxN) ∧
    (1 < 2 ∧ hosted.ready = true ∧ demo.ready = false) ∧
    (let s : State := { hosted with semHeld := true, semOwner := 1 }
     (s.partition 31).active = false ∧ s.ready = true ∧ s.semHeld = true ∧ s.semOwner = 1 ∧
       (let t := { s with launches := [], ifaces := [] }
        (t.partition 0).active = true ∧ t.noLaunch 0 = true)) ∧
    (let s := demo.setPartition 31 { demo.partition 31 with faultsWaiting := [aRecord], faultN := 1 }
     let q := s.partition 31
     q.faultsWaiting = aRecord :: [] ∧ q.faultTail - q.faultHead ≠ q.faultN ∧ q.faultN ≠ 0) ∧
    (let s := hosted
     (∀ x ∈ s.ifaces, ¬(x.2.state = 2 ∧ x.2.pasid = 8)) ∧
       (s.ifaces.find? fun x => x.2.state == 2 && x.2.pasid == 9) = some (4095, { ringFace with pasid := 9 }) ∧
       s.hostPlace 4095 (0x1FFFFF + 0) .store = some ⟨.local, 0x5FFFFF⟩ ∧ s.hostPlace 4095 (0x200000 + 0) .load = none ∧
       s.hostPlace 4095 (0x1FFFFF + 0) .load ≠ none ∧ s.Exists ⟨.local, 0x5FFFFF⟩ ∧ (∀ n, Place.local ≠ .peer n) ∧ s.NoWaiters) ∧
    ((∀ x ∈ demo.partitions, ¬(x.2.active = true ∧ x.2.qifFirst ≤ 4095 ∧ 4095 < x.2.qifFirst + x.2.qifCount)) ∧ peered.ready = true ∧
      (∃ q ∈ peered.partitions, q.2.active = true ∧ (q.2.peers[7]?.getD 0).getLsbD 0 = true ∧ holdsAll q.2 0x7FFFFF 1) ∧
      (∃ q ∈ peered.partitions, q.2.active = true ∧ (q.2.peers[7]?.getD 0).getLsbD 0 = true ∧ holdsAll q.2 0x7FFFF8 8) ∧
      ∀ a ∈ [atomicOf 0 4, atomicOf 11 8, atomicOf 12 8, atomicOf 13 8, atomicOf 14 16], ∀ aop, a.atomic = some aop →
        aop < 15 ∧ a.data.length = 4 * (if aop < 11 then 1 else if aop < 14 then 2 else 4) ∧ a.pa % (if aop < 12 then 4 else 8) = 0) := by
  refine ⟨ok,
    ⟨by unfold mayWrite; decide +kernel, ok, ok, by unfold mayWrite; decide +kernel, ok⟩,
    ⟨ok, ok, ok, ok, ok, by unfold mayWrite whileInactive; decide +kernel, by unfold mayWrite atAnyTime; decide +kernel⟩,
    ⟨by unfold mayWrite; decide +kernel, by unfold isLocked; decide +kernel, by unfold isLocked; decide +kernel⟩,
    ⟨ok, by unfold mayWrite; decide +kernel⟩, ⟨by unfold mayWrite; decide +kernel, by unfold mayWrite; decide +kernel, ok⟩,
    ⟨by unfold mayWrite; decide +kernel, by unfold mayWrite; decide +kernel, by unfold mayWrite; decide +kernel, by unfold mayWrite; decide +kernel,
      ok, ⟨_, opened _ Group.reset (by decide +kernel), ok⟩, targets _ 0 0 7 (by decide +kernel),
      targets _ 0 0 8 (by decide +kernel)⟩,
    ok, ok, ok,
    ok, ok, ok,
    ⟨ok, ok, ok, ok, ok, by unfold State.Exists; decide +kernel, fun n => by simp,
      no_waiters _⟩,
    ⟨ok, ok, by unfold holdsAll inRanges; decide +kernel, by unfold holdsAll inRanges; decide +kernel, fun a ha aop hop => ?_⟩⟩
  simp only [List.mem_cons, List.not_mem_nil, or_false] at ha
  rcases ha with rfl | rfl | rfl | rfl | rfl <;> cases hop <;> decide +kernel

/-- An SMCMD descriptor of command `k` at byte 64 of host memory. -/
def smWords (k : Nat) : List Word := [BitVec.ofNat 32 k, if k ∈ [1, 4, 5, 6, 8] then 7 else 0, if k ∈ [1, 4, 5, 6, 7] then 0x1000 else 0, 0, 0, 0,
   if k ∈ [4, 6] then 1 else 0] ++ zeros 9
def smState (k : Nat) (held : Bool) : State :=
  bytesIn ⟨.host, 64⟩ (smWords k) { demo with ready := true, semHeld := held, semOwner := 1 }
def aRequest : SpdmRequest := { route := .partition 31, request := [0x13, 0x83, 0, 0], buffer := 0x1000 }

/-- The Stationmaster with `n` attempts of a pending slot B, whose image is good where `good` says so. -/
def booting (n : Nat) (good : Bool) : Manager :=
  { State.reset.mgr with pending := true, attempts := n, slotB := { svn := 0, image := [], verified := good } }

theorem witness_ManagementAndAttestation :
    ((∀ n ∈ [0, 2, 3], ∀ good ∈ [true, false], (booting n good).powered = false ∧ (booting n good).rollback = some 0 ∧
        (booting n good).pending = true ∧ ((booting n good).slot false).verified = true ∧ ((booting n good).slot true).verified = good) ∧
       (let m := { State.reset.mgr with roll1 := { bits := 0, clean := false }, roll2 := { bits := 2, clean := true } }
        m.powered = false ∧ m.rollback = none) ∧
       (∀ d, d < 16 → (demo.die d).replaying = false) ∧
       (∃ d, d < 16 ∧ ((arrayAt 0 (staged 0) [] demo).die d).replaying = true)) ∧
    (let s : State := { demo with mgr := { demo.mgr with powered := true, raising := some 1 } }
     s.mgr.powered = true ∧ s.mgr.raising = some 1 ∧ demo.mgr.raising = none ∧ ¬1 ≤ runLength s.mgr.roll1.bits) ∧
    (let s : State := { staging with mgr := { demo.mgr with powered := true, raising := some 1, roll1 := rollOf 1, roll2 := rollOf 1 } }
     s.mgr.powered = true ∧ s.mgr.raising = some 1 ∧ 1 ≤ runLength s.mgr.roll1.bits ∧ 1 ≤ runLength s.mgr.roll2.bits ∧
       ∃ x ∈ s.dies, x.1 = 15) ∧
    (1 ≤ 33 ∧ 33 < 34 ∧ 1 ≤ 16 ∧ 95 * 8 < 95 * 8 + 1 ∧ demo.opsOn (16 - 1) ≤ max 256 ((demo.die (16 - 1)).limit - 64)) ∧
    (319 < 320 ∧ 63 < 64) ∧
    (demo.ownerOf ⟨.local, 0x7FFFFF⟩ = some 0 ∧ demo.hasPlace ⟨.local, 0x7FFFFF⟩ = true ∧ Struck (.cache 0x7FFFFF) ⟨.local, 0x7FFFFF⟩ true 32 ∧
       demo.dirty.contains (0x7FFFFF / 256) = false) ∧
    ((seated user).group 0 0 = some user ∧ plainReg (.k 31 3)) ∧
    ({ demo with mgr := { demo.mgr with carveTarget := some 8 } } : State).mgr.carveTarget = some 8 ∧
    (∀ k ∈ [1, 2, 3, 4, 5, 6, 7, 8], ∀ held ∈ [true, false],
      let s := smState k held; let d := wordBytes (smWords k)
      s.ready = true ∧ s.mgr.raising = none ∧ s.smDescriptor 64 = some d ∧ wordIn d 0 = k ∧ s.semHeld = held ∧ s.semOwner = 1 ∧
        s.mgr.smBusy = false) ∧
    isSmcmd 1 64 1 (.writeImage 1 64) ∧
    isSpdm { aRequest with request := [0x10, 0x84, 0, 0] } 0x84 (.getVersion { aRequest with request := [0x10, 0x84, 0, 0] }) ∧
    (let s : State := { demo with ready := true }
     s.ready = true ∧ aRequest.route = .partition 31 ∧ (s.partition 31).pcmdBusy = false ∧ routeSecret s aRequest = [] ∧
       codeOf (messageOf s aRequest) = 0x83) ∧
    (∀ code ∈ [0x81, 0x82, 0x84, 0xE0, 0xE1, 0xE3, 0xE4, 0xE5, 0xE8, 0xE9, 0xEC], codeOf (messageOf { demo with ready := true }
       { aRequest with request := [0x13, BitVec.ofNat 8 code, 0, 0] }) = code) ∧
    (∀ r ∈ [{ aRequest with route := .host 1 }, aRequest],
      ({ demo with mgr := { demo.mgr with challenges := [(7, r)] } } : State).mgr.challenges = (7, r) :: []) := by
  have hs : routeSecret ({ demo with ready := true } : State) aRequest = [] := by decide +kernel
  refine ⟨ok, ok, ok, ok, by decide, ⟨ok, ok, ⟨rfl, rfl, rfl⟩, ok⟩, ⟨ok, by decide, by decide⟩, ok, ok,
    by simp [isSmcmd], by simp [isSpdm], ⟨rfl, rfl, ok, hs, ?_⟩, ?_, fun r _ => rfl⟩
  · simp only [messageOf, Claims.opened, hs, if_true, Option.getD_none]
    decide
  · intro code hc
    have hs' : routeSecret ({ demo with ready := true } : State) { aRequest with request := [0x13, BitVec.ofNat 8 code, 0, 0] } = [] := hs
    simp only [messageOf, Claims.opened, hs', if_true, Option.getD_none]
    revert code
    decide

/-- Partition 0's interface 0 gives its tables, and a PCMD descriptor stands at 0x1000. -/
def commanding (ws : List Word) : State := words 0x401000 ws { demo.setIface 0 ringFace with ready := true }
def openSession (b : Bool) (s : State) : State := s.setPartition 0 { s.partition 0 with sessionOpen := b }
def aKey (b : Option (Nat × Nat)) : KeyHandle := { handle := 0xFFFF, part := 0, blob := [], bound := b }
def keyWords (k a : Word) : List Word := [k, 0xFFFF, a, 0, 1] ++ zeros 11
def collectiveWords (n : Word) : List Word := [4, 63, 5, 0, n, 4, 2, 1, 0x2000, 0, 0x3000, 0] ++ zeros 4
/-- One contributor at the root station, whose lists stand at 0x2000 and 0x3000. -/
def creating (n : Word) : State := words 0x403000 [0xFFFF0000, 0x10000] (commanding (collectiveWords n))
def destroyWords : List Word := [5, 0, 1, 5] ++ zeros 12
def layerWords : List Word := [6, 15, 1, 1024, 1024, 0, 0x2000, 0, 0x3000, 0] ++ zeros 6
/-- Arrays `a` and `b` and one scale. -/
def defining (a b : Word) : State := operators (words 0x403000 [0x3F800000] (words 0x402000 [a, b] (commanding layerWords)))
def spdmWords (a : Word) : List Word := [8, 4, a, 0, 0x3000, 0] ++ zeros 10
/-- The descriptor of a state's command. -/
def described (s : State) (ws : List Word) : Bool := s.descriptor 0 0x1000 == some (wordBytes ws)
theorem descr_of (s : State) (ws : List Word) (h : described s ws = true) : s.descriptor 0 0x1000 = some (wordBytes ws) := beq_iff_eq.mp h

theorem witness_PartitionCommands :
    (∀ b ∈ [true, false],
      let s := openSession b (commanding (keyWords 1 0x2000)); let d := wordBytes (keyWords 1 0x2000)
      s.ready = true ∧ s.descriptor 0 0x1000 = some d ∧ wordIn d 0 = 1 ∧ (s.partition 0).pcmdBusy = false ∧ (s.partition 0).sessionOpen = b ∧
      dwordIn d 8 = 0x2000 ∧ s.partBytes 0 0x2000 96 = some (List.replicate 96 0)) ∧
    (commanding (keyWords 1 0x2000)).freeHandle = some 1 ∧
    (let s := commanding (keyWords 1 0x200000); let d := wordBytes (keyWords 1 0x200000)
     s.descriptor 0 0x1000 = some d ∧ wordIn d 0 = 1 ∧ dwordIn d 8 = 0x200000 ∧ s.partBytes 0 0x200000 96 = none) ∧
    (∀ b ∈ [none, some (0, 1)],
      let s := { commanding (keyWords 2 0x7F0000) with keys := [aKey b] }; let d := wordBytes (keyWords 2 0x7F0000)
      s.descriptor 0 0x1000 = some d ∧ wordIn d 0 = 2 ∧ ((∃ h ∈ s.keys, h.handle = wordIn d 4 ∧ h.part = 0 ∧ h.bound = none) ↔ b = none) ∧
      dwordIn d 8 = 0x7F0000 ∧ wordIn d 16 = 1 ∧ (s.partition 0).holds 0x7F0000 65536 = true) ∧
    (∀ b ∈ [none, some (0, 1)],
      let s := { commanding (keyWords 3 0) with keys := [aKey b] }; let d := wordBytes (keyWords 3 0)
      s.descriptor 0 0x1000 = some d ∧ wordIn d 0 = 3 ∧ ((∃ h ∈ s.keys, h.handle = wordIn d 4 ∧ h.part = 0 ∧ h.bound = none) ↔ b = none)) ∧
    (∀ cs ∈ [[], List.replicate 256 collective],
      let s := { creating 1 with collectives := cs }; let d := wordBytes (collectiveWords 1)
      s.descriptor 0 0x1000 = some d ∧ wordIn d 0 = 4 ∧ wordIn d 0x10 = 1 ∧ wordIn d 0x1C = 1 ∧ dwordIn d 0x20 = 0x2000 ∧ dwordIn d 0x28 = 0x3000 ∧
      s.partBytes 0 0x2000 4 = some (wordBytes [0]) ∧ s.partBytes 0 0x3000 8 = some (wordBytes [0xFFFF0000, 0x10000]) ∧
      collectiveOk (wordIn d 4) 1 (wordIn d 0x14) (wordIn d 0x18) 1 (contributorsOf (wordBytes [0]) 1)
        (stationsOf (wordBytes [0xFFFF0000, 0x10000]) 1) = true ∧
      (∀ i, i < 16 → d.getD (0x30 + i) 0 = 0) ∧ (256 ≤ s.collectives.length ↔ cs ≠ [])) ∧
    (let s := creating 0; let d := wordBytes (collectiveWords 0)
     s.descriptor 0 0x1000 = some d ∧ wordIn d 0 = 4 ∧ wordIn d 0x10 = 0 ∧ wordIn d 0x1C = 1 ∧ dwordIn d 0x28 = 0x3000 ∧
     s.partBytes 0 0x3000 8 = some (wordBytes [0xFFFF0000, 0x10000]) ∧
     collectiveOk (wordIn d 4) 0 (wordIn d 0x14) (wordIn d 0x18) 1 [] (stationsOf (wordBytes [0xFFFF0000, 0x10000]) 1) = false) ∧
    (∀ ps ∈ [[], [arriving]], ∀ cs ∈ [[], [collective]],
      let s := { commanding destroyWords with collectives := cs, packets := ps }; let d := wordBytes destroyWords
      s.descriptor 0 0x1000 = some d ∧ wordIn d 0 = 5 ∧ (∀ c ∈ s.collectives, c.destroying = false) ∧
      s.collectives.any (fun c => c.handle == BitVec.ofNat 64 (dwordIn d 8) && c.part == 0) = !cs.isEmpty ∧
      ∀ c ∈ s.collectives, s.roundOpen c = !ps.isEmpty) ∧
    (let d := wordBytes layerWords
     (commanding layerWords).descriptor 0 0x1000 = some d ∧ ((commanding layerWords).partition 0).operator = false ∧ wordIn d 0 = 6 ∧
     wordIn d 4 = 15 ∧ wordIn d 0xC = 1024 ∧ wordIn d 0x10 = 1024 ∧ layerDim 1024 = true ∧ wordIn d 0x14 = 0 ∧ dwordIn d 0x18 = 0x2000 ∧
     dwordIn d 0x20 = 0x3000 ∧ zeroIn d 0x28 24 = true) ∧
    (let s := defining 65535 0
     s.descriptor 0 0x1000 = some (wordBytes layerWords) ∧ (s.partition 0).operator = true ∧
     s.partBytes 0 0x2000 8 = some (wordBytes [65535, 0]) ∧ s.partBytes 0 0x3000 4 = some (wordBytes [0x3F800000]) ∧
     (wordsIn (wordBytes [65535, 0]) 2).Nodup ∧ (∀ a ∈ wordsIn (wordBytes [65535, 0]) 2, a < 65536) ∧
     (∀ x ∈ wordsIn (wordBytes [0x3F800000]) 1, finiteNonzero x = true) ∧ s.layers = []) ∧
    (let s := { defining 65535 65535 with layers := [{ tinyLayer with handle := 1 }] }
     s.descriptor 0 0x1000 = some (wordBytes layerWords) ∧ s.partBytes 0 0x2000 8 = some (wordBytes [65535, 65535]) ∧
     ¬(wordsIn (wordBytes [65535, 65535]) 2).Nodup ∧ (∃ l ∈ s.layers, l.handle = wordIn (wordBytes layerWords) 8) ∧ ∀ l ∈ s.layers, l.die ≠ 15) ∧
    (let s := operators (commanding (7 :: zeros 15))
     s.descriptor 0 0x1000 = some (wordBytes (7 :: zeros 15)) ∧ wordIn (wordBytes (7 :: zeros 15)) 0 = 7) ∧
    (let s := commanding (spdmWords 0x2000); let d := wordBytes (spdmWords 0x2000)
     s.descriptor 0 0x1000 = some d ∧ wordIn d 0 = 8 ∧ wordIn d 4 = 4 ∧ dwordIn d 8 = 0x2000 ∧ s.partBytes 0 0x2000 4 = some [0, 0, 0, 0] ∧
       s.partBytes 0 0x1FFFFD 4 = none) ∧
    (let s := (commanding (keyWords 1 0)).setPartition 0 { (commanding (keyWords 1 0)).partition 0 with pcmdBusy := true }
     s.descriptor 0 0x1000 = some (wordBytes (keyWords 1 0)) ∧ (s.partition 0).pcmdBusy = true ∧
       isPcmd (.port 1) 0 0x1000 1 (.pcmdCreateKeyHandle (.port 1) 0 0x1000)) := by
  refine ⟨ok, ok, ok, ok, ok, ok, ok,
    ok, ok, ok, ok, ok, ok,
    ok, ok, by simp [isPcmd]⟩

end Sys2Proof.Tests
end

section
/-! SUPPORT. Every instruction and event, and so every step, keeps every memory in canonical form. -/

namespace Sys2Proof.Machine

/-- An instruction or event keeps the canonical form: the arms of the dispatch, each by the law of its meaning. -/
theorem exec_wf (i : Instr) {s : State} (hw : s.memoriesWf) : Out.wf (exec i s) :=
  match i with
  | .add e n d a b => execAdd_wf e n d a b hw
  | .sub e n d a b => execSub_wf e n d a b hw
  | .mul e n d a b => execMul_wf e n d a b hw
  | .mulh e n d a b => execMulh_wf e n d a b hw
  | .mulhn e n d a b => execMulhn_wf e n d a b hw
  | .and e n d a b => execAnd_wf e n d a b hw
  | .or e n d a b => execOr_wf e n d a b hw
  | .xor e n d a b => execXor_wf e n d a b hw
  | .andn e n d a b => execAndn_wf e n d a b hw
  | .shl e n d a b => execShl_wf e n d a b hw
  | .shr e n d a b => execShr_wf e n d a b hw
  | .sar e n d a b => execSar_wf e n d a b hw
  | .min e n d a b => execMin_wf e n d a b hw
  | .max e n d a b => execMax_wf e n d a b hw
  | .minn e n d a b => execMinn_wf e n d a b hw
  | .maxn e n d a b => execMaxn_wf e n d a b hw
  | .addsat e n d a b => execAddsat_wf e n d a b hw
  | .subsat e n d a b => execSubsat_wf e n d a b hw
  | .addsatn e n d a b => execAddsatn_wf e n d a b hw
  | .subsatn e n d a b => execSubsatn_wf e n d a b hw
  | .absd e n d a b => execAbsd_wf e n d a b hw
  | .bfx e n d a b => execBfx_wf e n d a b hw
  | .bfxn e n d a b => execBfxn_wf e n d a b hw
  | .bfi e n d a b => execBfi_wf e n d a b hw
  | .sel e n d a p => execSel_wf e n d a p hw
  | .mov e n d a => execMov_wf e n d a hw
  | .not e n d a => execNot_wf e n d a hw
  | .neg e n d a => execNeg_wf e n d a hw
  | .abs e n d a => execAbs_wf e n d a hw
  | .clz e n d a => execClz_wf e n d a hw
  | .popc e n d a => execPopc_wf e n d a hw
  | .brev e n d a => execBrev_wf e n d a hw
  | .sextb e n d a => execSextb_wf e n d a hw
  | .sexth e n d a => execSexth_wf e n d a hw
  | .zextb e n d a => execZextb_wf e n d a hw
  | .zexth e n d a => execZexth_wf e n d a hw
  | .addx e n d a b => execAddx_wf e n d a b hw
  | .subx e n d a b => execSubx_wf e n d a b hw
  | .mulwx e n d a b => execMulwx_wf e n d a b hw
  | .mulwxn e n d a b => execMulwxn_wf e n d a b hw
  | .leax e n d a b => execLeax_wf e n d a b hw
  | .addxi e n d a im => execAddxi_wf e n d a im hw
  | .addi e n d a im => execAddi_wf e n d a im hw
  | .andi e n d a im => execAndi_wf e n d a im hw
  | .ori e n d a im => execOri_wf e n d a im hw
  | .xori e n d a im => execXori_wf e n d a im hw
  | .shli e n d a im => execShli_wf e n d a im hw
  | .shri e n d a im => execShri_wf e n d a im hw
  | .sari e n d a im => execSari_wf e n d a im hw
  | .muli e n d a im => execMuli_wf e n d a im hw
  | .ldi e d im => execLdi_wf e d im hw
  | .ldh e d im => execLdh_wf e d im hw
  | .cmpeq e k a b => execCmpeq_wf e k a b hw
  | .cmpne e k a b => execCmpne_wf e k a b hw
  | .cmplt e k a b => execCmplt_wf e k a b hw
  | .cmple e k a b => execCmple_wf e k a b hw
  | .cmpltn e k a b => execCmpltn_wf e k a b hw
  | .cmplen e k a b => execCmplen_wf e k a b hw
  | .cmpeqi e k a im => execCmpeqi_wf e k a im hw
  | .cmplti e k a im => execCmplti_wf e k a im hw
  | .cmpltni e k a im => execCmpltni_wf e k a im hw
  | .cmpltx e k a b => execCmpltx_wf e k a b hw
  | .cmpeqx e k a b => execCmpeqx_wf e k a b hw
  | .kand e k a b => execKand_wf e k a b hw
  | .kor e k a b => execKor_wf e k a b hw
  | .kxor e k a b => execKxor_wf e k a b hw
  | .kandn e k a b => execKandn_wf e k a b hw
  | .kset e k a im => execKset_wf e k a im hw
  | .kget e n d k => execKget_wf e n d k hw
  | .fadd e n d a b => execFadd_wf e n d a b hw
  | .fsub e n d a b => execFsub_wf e n d a b hw
  | .fmul e n d a b => execFmul_wf e n d a b hw
  | .ffma e n d a b => execFfma_wf e n d a b hw
  | .fmin e n d a b => execFmin_wf e n d a b hw
  | .fmax e n d a b => execFmax_wf e n d a b hw
  | .faddz e n d a b => execFaddz_wf e n d a b hw
  | .fmulz e n d a b => execFmulz_wf e n d a b hw
  | .ffmaz e n d a b => execFfmaz_wf e n d a b hw
  | .fcmpeq e k a b => execFcmpeq_wf e k a b hw
  | .fcmplt e k a b => execFcmplt_wf e k a b hw
  | .fcmple e k a b => execFcmple_wf e k a b hw
  | .fcmpun e k a b => execFcmpun_wf e k a b hw
  | .fabs e n d a => execFabs_wf e n d a hw
  | .fneg e n d a => execFneg_wf e n d a hw
  | .ffloor e n d a => execFfloor_wf e n d a hw
  | .fceil e n d a => execFceil_wf e n d a hw
  | .frint e n d a => execFrint_wf e n d a hw
  | .ftrunc e n d a => execFtrunc_wf e n d a hw
  | .fexp2 e n d a => execFexp2_wf e n d a hw
  | .flog2 e n d a => execFlog2_wf e n d a hw
  | .frcp e n d a => execFrcp_wf e n d a hw
  | .frsq e n d a => execFrsq_wf e n d a hw
  | .fsqrt e n d a => execFsqrt_wf e n d a hw
  | .fsinp e n d a => execFsinp_wf e n d a hw
  | .fcosp e n d a => execFcosp_wf e n d a hw
  | .ftanh e n d a => execFtanh_wf e n d a hw
  | .fsig e n d a => execFsig_wf e n d a hw
  | .cvtfi e n d a => execCvtfi_wf e n d a hw
  | .cvtfiz e n d a => execCvtfiz_wf e n d a hw
  | .cvtfn e n d a => execCvtfn_wf e n d a hw
  | .cvtif e n d a => execCvtif_wf e n d a hw
  | .cvtnf e n d a => execCvtnf_wf e n d a hw
  | .cvtbf e n d a => execCvtbf_wf e n d a hw
  | .cvtbfh e n d a => execCvtbfh_wf e n d a hw
  | .cvthf e n d a => execCvthf_wf e n d a hw
  | .cvthfh e n d a => execCvthfh_wf e n d a hw
  | .cvtfb e n d a b => execCvtfb_wf e n d a b hw
  | .cvtfbs e n d a b => execCvtfbs_wf e n d a b hw
  | .cvtfh e n d a b => execCvtfh_wf e n d a b hw
  | .badd2 e n d a b => execBadd2_wf e n d a b hw
  | .bmul2 e n d a b => execBmul2_wf e n d a b hw
  | .bfma2 e n d a b => execBfma2_wf e n d a b hw
  | .bmax2 e n d a b => execBmax2_wf e n d a b hw
  | .bmin2 e n d a b => execBmin2_wf e n d a b hw
  | .qntf8 e n d a b => execQntf8_wf e n d a b hw
  | .qntf6 e n d a b => execQntf6_wf e n d a b hw
  | .qntf4 e n d a b => execQntf4_wf e n d a b hw
  | .qnti8 e n d a b => execQnti8_wf e n d a b hw
  | .dqn e n d a im => execDqn_wf e n d a im hw
  | .rnd e n d a b => execRnd_wf e n d a b hw
  | .shfl e n d a b => execShfl_wf e n d a b hw
  | .shflu e n d a im => execShflu_wf e n d a im hw
  | .shfld e n d a im => execShfld_wf e n d a im hw
  | .shflx e n d a im => execShflx_wf e n d a im hw
  | .qex e n d a im => execQex_wf e n d a im hw
  | .voteb e n d a => execVoteb_wf e n d a hw
  | .votean e k a => execVotean_wf e k a hw
  | .voteal e k a => execVoteal_wf e k a hw
  | .gred e n d a im => execGred_wf e n d a im hw
  | .gscan e n d a im => execGscan_wf e n d a im hw
  | .brk k t d => execBrk_wf k t d hw
  | .jmpi a => execJmpi_wf a hw
  | .jmpt d a im => execJmpt_wf d a im hw
  | .calli n d a => execCalli_wf n d a hw
  | .wait im => execWait_wf im hw
  | .exit => execExit_wf hw
  | .ld8 e n d a o => execLd8_wf e n d a o hw
  | .ld8s e n d a o => execLd8s_wf e n d a o hw
  | .ld16 e n d a o => execLd16_wf e n d a o hw
  | .ld16s e n d a o => execLd16s_wf e n d a o hw
  | .ld32 e n d a o => execLd32_wf e n d a o hw
  | .ld64 e n d a o => execLd64_wf e n d a o hw
  | .ld128 e n d a o => execLd128_wf e n d a o hw
  | .st8 e d a o => execSt8_wf e d a o hw
  | .st16 e d a o => execSt16_wf e d a o hw
  | .st32 e d a o => execSt32_wf e d a o hw
  | .st64 e d a o => execSt64_wf e d a o hw
  | .st128 e d a o => execSt128_wf e d a o hw
  | .aadd n d a sc r => execAadd_wf n d a sc r hw
  | .aaddf n d a sc r => execAaddf_wf n d a sc r hw
  | .aaddb2 n d a sc r => execAaddb2_wf n d a sc r hw
  | .amin n d a sc r => execAmin_wf n d a sc r hw
  | .amax n d a sc r => execAmax_wf n d a sc r hw
  | .aminn n d a sc r => execAminn_wf n d a sc r hw
  | .amaxn n d a sc r => execAmaxn_wf n d a sc r hw
  | .aand n d a sc r => execAand_wf n d a sc r hw
  | .aor n d a sc r => execAor_wf n d a sc r hw
  | .axor n d a sc r => execAxor_wf n d a sc r hw
  | .axch n d a sc r => execAxch_wf n d a sc r hw
  | .acas n d a sc r => execAcas_wf n d a sc r hw
  | .aaddx n d a sc r => execAaddx_wf n d a sc r hw
  | .axchx n d a sc r => execAxchx_wf n d a sc r hw
  | .acasx n d a sc r => execAcasx_wf n d a sc r hw
  | .pfNormal e a o => execPfNormal_wf e a o hw
  | .pfEvictFirst e a o => execPfEvictFirst_wf e a o hw
  | .pfEvictLast e a o => execPfEvictLast_wf e a o hw
  | .pfLlcOnly e a o => execPfLlcOnly_wf e a o hw
  | .stad e n d a b => execStad_wf e n d a b hw
  | .mxgo a b => execMxgo_wf a b hw
  | .aego a b => execAego_wf a b hw
  | .uadd e n d a b => execUadd_wf e n d a b hw
  | .usub e n d a b => execUsub_wf e n d a b hw
  | .umul e n d a b => execUmul_wf e n d a b hw
  | .uand e n d a b => execUand_wf e n d a b hw
  | .uor e n d a b => execUor_wf e n d a b hw
  | .uxor e n d a b => execUxor_wf e n d a b hw
  | .ushl e n d a b => execUshl_wf e n d a b hw
  | .ushr e n d a b => execUshr_wf e n d a b hw
  | .usar e n d a b => execUsar_wf e n d a b hw
  | .umin e n d a b => execUmin_wf e n d a b hw
  | .umax e n d a b => execUmax_wf e n d a b hw
  | .umov e n d a => execUmov_wf e n d a hw
  | .unot e n d a => execUnot_wf e n d a hw
  | .uneg e n d a => execUneg_wf e n d a hw
  | .uclz e n d a => execUclz_wf e n d a hw
  | .upopc e n d a => execUpopc_wf e n d a hw
  | .uaddx e n d a b => execUaddx_wf e n d a b hw
  | .umulwx e n d a b => execUmulwx_wf e n d a b hw
  | .uaddi e n d a im => execUaddi_wf e n d a im hw
  | .uandi e n d a im => execUandi_wf e n d a im hw
  | .uori e n d a im => execUori_wf e n d a im hw
  | .ushli e n d a im => execUshli_wf e n d a im hw
  | .ushri e n d a im => execUshri_wf e n d a im hw
  | .uaddxi e n d a im => execUaddxi_wf e n d a im hw
  | .uldi e d im => execUldi_wf e d im hw
  | .uldh e d im => execUldh_wf e d im hw
  | .ucmpeq e n d a b => execUcmpeq_wf e n d a b hw
  | .ucmpne e n d a b => execUcmpne_wf e n d a b hw
  | .ucmplt e n d a b => execUcmplt_wf e n d a b hw
  | .ucmpltn e n d a b => execUcmpltn_wf e n d a b hw
  | .ucmpltx e n d a b => execUcmpltx_wf e n d a b hw
  | .rdl e n d a => execRdl_wf e n d a hw
  | .ubra d => execUbra_wf d hw
  | .ubz a d => execUbz_wf a d hw
  | .ubnz a d => execUbnz_wf a d hw
  | .ucall d => execUcall_wf d hw
  | .uret a => execUret_wf a hw
  | .region => execRegion_wf hw
  | .mset e im => execMset_wf e im hw
  | .mclr e im => execMclr_wf e im hw
  | .uexit => execUexit_wf hw
  | .bar => execBar_wf hw
  | .barc => execBarc_wf hw
  | .phase sc k => execPhase_wf sc k hw
  | .ifence => execIfence_wf hw
  | .unop e => execUnop_wf e hw
  | .push a q => execPush_wf a q hw
  | .pop n d q => execPop_wf n d q hw
  | .qtry n d q => execQtry_wf n d q hw
  | .qstat e n d q => execQstat_wf e n d q hw
  | .bwait a im => execBwait_wf a im hw
  | .bexp n d a b => execBexp_wf n d a b hw
  | .barv n d a => execBarv_wf n d a hw
  | .cego n d a im => execCego_wf n d a im hw
  | .rego n d a => execRego_wf n d a hw
  | .splice n d a b => execSplice_wf n d a b hw
  | .pin n d a => execPin_wf n d a hw
  | .unpin n d a => execUnpin_wf n d a hw
  | .drain n d a => execDrain_wf n d a hw
  | .launch n d a b => execLaunch_wf n d a b hw
  | .trap im => execTrap_wf im hw
  | .eret => execEret_wf hw
  | .mfsr e n d im => execMfsr_wf e n d im hw
  | .mtsr a im => execMtsr_wf a im hw
  | .fpev e n d im => execFpev_wf e n d im hw
  | .errc e n d im => execErrc_wf e n d im hw
  | .cyc e d => execCyc_wf e d hw
  | .bkpt im => execBkpt_wf im hw
  | .apgo n d a => execApgo_wf n d a hw
  | .tbld n d a b => execTbld_wf n d a b hw
  | .runIssue c slot => execRunIssue_wf c slot hw
  | .loadReturn c ret k stale => execLoadReturn_wf c ret k stale hw
  | .atomicPerform c k => execAtomicPerform_wf c k hw
  | .storePerform c k scope => execStorePerform_wf c k scope hw
  | .sideLogReplay c k => execSideLogReplay_wf c k hw
  | .releaseComplete c k => execReleaseComplete_wf c k hw
  | .queueEntryAppend c g => execQueueEntryAppend_wf c g hw
  | .queueEntryTake c g => execQueueEntryTake_wf c g hw
  | .trapEntry c g => execTrapEntry_wf c g hw
  | .faultRecordPost p => execFaultRecordPost_wf p hw
  | .tbldBankSwap c g => execTbldBankSwap_wf c g hw
  | .mxAccept c => execMxAccept_wf c hw
  | .mxStart c k => execMxStart_wf c k hw
  | .mxCommandComplete c k => execMxCommandComplete_wf c k hw
  | .aeAccept c => execAeAccept_wf c hw
  | .arrayOperationStart die => execArrayOperationStart_wf die hw
  | .arrayOperationComplete die k => execArrayOperationComplete_wf die k hw
  | .aeDigitalPartStart c k => execAeDigitalPartStart_wf c k hw
  | .aeDigitalPartComplete c k => execAeDigitalPartComplete_wf c k hw
  | .ceAccept c eng => execCeAccept_wf c eng hw
  | .ceChunkWrite c eng k => execCeChunkWrite_wf c eng k hw
  | .drainDeferredAccept c g => execDrainDeferredAccept_wf c g hw
  | .drainTileTake k => execDrainTileTake_wf k hw
  | .nmuLineUpdate k line => execNmuLineUpdate_wf k line hw
  | .splicePerform k => execSplicePerform_wf k hw
  | .pinPerform k => execPinPerform_wf k hw
  | .unpinPerform k => execUnpinPerform_wf k hw
  | .reclaimRecordDelivery k => execReclaimRecordDelivery_wf k hw
  | .statusEntryDelivery k => execStatusEntryDelivery_wf k hw
  | .stationAcceptRego c g => execStationAcceptRego_wf c g hw
  | .stationPacketArrival src => execStationPacketArrival_wf src hw
  | .stationDeadlineExpiry k => execStationDeadlineExpiry_wf k hw
  | .lateCountdownExpiry k => execLateCountdownExpiry_wf k hw
  | .rootRecordDelivery k => execRootRecordDelivery_wf k hw
  | .oboeGroupFit die a transpose => execOboeGroupFit_wf die a transpose hw
  | .oboePublish die => execOboePublish_wf die hw
  | .oboeStarvationTimeout die => execOboeStarvationTimeout_wf die hw
  | .queueBind im => execQueueBind_wf im hw
  | .launchTake im => execLaunchTake_wf im hw
  | .clusterDispatch l c0 => execClusterDispatch_wf l c0 hw
  | .launchEnd l => execLaunchEnd_wf l hw
  | .launchAppend k => execLaunchAppend_wf k hw
  | .preempt l k => execPreempt_wf l k hw
  | .restart k c0 => execRestart_wf k c0 hw
  | .timeSliceExpiry p prio => execTimeSliceExpiry_wf p prio hw
  | .apgoAnswer c g => execApgoAnswer_wf c g hw
  | .rowStage die a row => execRowStage_wf die a row hw
  | .rowWriteComplete die a row ok => execRowWriteComplete_wf die a row ok hw
  | .dieReset die => execDieReset_wf die hw
  | .dieWatchdogExpiry die => execDieWatchdogExpiry_wf die hw
  | .linkFailure die => execLinkFailure_wf die hw
  | .linkRateChangeRequest die rate => execLinkRateChangeRequest_wf die rate hw
  | .linkWidthChangeRequest die narrow => execLinkWidthChangeRequest_wf die narrow hw
  | .retrainComplete die ok => execRetrainComplete_wf die ok hw
  | .powerGood r => execPowerGood_wf r hw
  | .powerLoss => execPowerLoss_wf hw
  | .thermalStep sensor t => execThermalStep_wf sensor t hw
  | .scrubError loc lost => execScrubError_wf loc lost hw
  | .hostMemoryAccess acc => execHostMemoryAccess_wf acc hw
  | .peerAccess acc => execPeerAccess_wf acc hw
  | .hostLinkDown port => execHostLinkDown_wf port hw
  | .privsemTake port => execPrivsemTake_wf port hw
  | .privsemGive port => execPrivsemGive_wf port hw
  | .ifcmdLock w im => execIfcmdLock_wf w im hw
  | .ifcmdStart w im => execIfcmdStart_wf w im hw
  | .ifcmdStop w im => execIfcmdStop_wf w im hw
  | .ifcmdNone w im => execIfcmdNone_wf w im hw
  | .doorbell w im n => execDoorbell_wf w im n hw
  | .resolve w p => execResolve_wf w p hw
  | .shoot w p va => execShoot_wf w p va hw
  | .shootdownComplete p => execShootdownComplete_wf p hw
  | .pcmdCreateKeyHandle w p desc => execPcmdCreateKeyHandle_wf w p desc hw
  | .pcmdBindKeyHandle w p desc => execPcmdBindKeyHandle_wf w p desc hw
  | .pcmdDestroyKeyHandle w p desc => execPcmdDestroyKeyHandle_wf w p desc hw
  | .pcmdCreateCollective w p desc => execPcmdCreateCollective_wf w p desc hw
  | .pcmdDestroyCollective w p desc => execPcmdDestroyCollective_wf w p desc hw
  | .pcmdDefineLayer w p desc => execPcmdDefineLayer_wf w p desc hw
  | .pcmdRetireLayer w p desc => execPcmdRetireLayer_wf w p desc hw
  | .pcmdSpdm w p desc => execPcmdSpdm_wf w p desc hw
  | .mboxinDeliver w p => execMboxinDeliver_wf w p hw
  | .mailboxOutRecord c g => execMailboxOutRecord_wf c g hw
  | .partitionCreate port p => execPartitionCreate_wf port p hw
  | .partitionDissolve port p => execPartitionDissolve_wf port p hw
  | .controlRegisterWrite w off width value => execControlRegisterWrite_wf w off width value hw
  | .writeImage port desc => execWriteImage_wf port desc hw
  | .activate port desc => execActivate_wf port desc hw
  | .confirm port desc => execConfirm_wf port desc hw
  | .readLog port desc => execReadLog_wf port desc hw
  | .spdm port desc => execSpdm_wf port desc hw
  | .setCert port desc => execSetCert_wf port desc hw
  | .readSensors port desc => execReadSensors_wf port desc hw
  | .setCarveout port desc => execSetCarveout_wf port desc hw
  | .getVersion r => execGetVersion_wf r hw
  | .getCapabilities r => execGetCapabilities_wf r hw
  | .negotiateAlgorithms r => execNegotiateAlgorithms_wf r hw
  | .getDigests r => execGetDigests_wf r hw
  | .getCertificate r => execGetCertificate_wf r hw
  | .challenge r => execChallenge_wf r hw
  | .getMeasurements r => execGetMeasurements_wf r hw
  | .keyExchange r => execKeyExchange_wf r hw
  | .finish r => execFinish_wf r hw
  | .keyUpdate r => execKeyUpdate_wf r hw
  | .heartbeat r => execHeartbeat_wf r hw
  | .endSession r => execEndSession_wf r hw
  | .challengeTimeout => execChallengeTimeout_wf hw
  | .carveoutChangeComplete => execCarveoutChangeComplete_wf hw
  | .mtsrComplete c g => execMtsrComplete_wf c g hw

/-- The fetch within a run keeps the form, whether it traps the path, passes over a word that no real thread executes, or
gives an instruction. -/
theorem State.fetchInstr_wf {s : State} (x : Ctx) (hw : s.memoriesWf) :
    (∀ t, s.fetchInstr x = .inl t → t.memoriesWf) ∧ ∀ t i, s.fetchInstr x = .inr (t, i) → t.memoriesWf := by
  have hc : (s.cycleMoves x.c x.g).memoriesWf := State.cycleMoves_wf x.c x.g hw
  have ht : ∀ cause v, ((s.cycleMoves x.c x.g).trapPath x cause v).memoriesWf := fun cause v => State.trapPath_wf x cause v hc
  unfold State.fetchInstr
  dsimp only
  generalize s.cycleMoves x.c x.g = u at hc ht
  split
  · simpa using ht 3 0
  · split
    · simpa using ht x.run.refusal 0
    · rename_i w _
      split
      · simpa using hc
      · split
        · simpa using State.passOver_wf x (w.getLsbD 30) hc
        · simpa using ht 1 w

theorem State.advance_wf {s : State} (x : Ctx) (hw : s.memoriesWf) : Out.wf (s.advance x) := by
  obtain ⟨hl, hr⟩ := State.fetchInstr_wf x hw
  unfold State.advance
  split
  · exact hl _ ‹_›
  · exact exec_wf _ (hr _ _ ‹_›)

/-- A step keeps the form, by what it is: an entry of the agenda, the next instruction of the run in focus, or what the
part does of itself. -/
theorem step_wf {s : State} (hw : s.memoriesWf) : Out.wf (step s) := by
  have hp : s.passTime.memoriesWf := State.passTime_wf hw
  unfold step
  dsimp only
  generalize s.passTime = u at hp
  split
  · exact Out.wf_ite (exec_wf _ hp) trivial
  · exact State.withIssue_wf _ _ _ hp fun _ x h => State.advance_wf x h
  · exact State.meetMemError_wf _ _ _ _ hp
  · exact State.meetRegError_wf _ _ _ _ hp
  · exact State.writeBack_wf _ hp
  · exact State.decay_wf _ _ _ _ hp
  · exact State.cacheError_wf _ _ _ hp
  · exact State.pageCopy_wf _ _ _ hp
  · split
    · exact State.advance_wf _ hp
    · exact State.auto_wf hp

end Sys2Proof.Machine

namespace Sys2Proof.Claims

open Sys2Proof.Machine

/-- Settles O6: the dispatch, arm by arm, and the other kinds of step each keep the canonical form. -/
theorem stepKeepsMemoriesCanonical : Obligations.StepKeepsMemoriesCanonical := by
  unfold Obligations.StepKeepsMemoriesCanonical
  intro s t hw h
  have ht : Out.wf (step s) := step_wf hw
  rwa [h] at ht

/-- Settles O7: at reset nothing is listed in any memory. -/
theorem resetMemoriesAreCanonical : Obligations.ResetMemoriesAreCanonical :=
  ⟨Memory.wf_nil, Memory.wf_nil, Memory.wf_nil, fun _ => Memory.wf_nil⟩

end Sys2Proof.Claims
end

section
/-! SUPPORT. The memory behind each place, byte by byte: what a write of one byte and of a list of bytes makes of it
(R6, R172, R191). -/

namespace Sys2Proof.Machine

/-- A byte of a memory into which a list of bytes was put. -/
theorem mget_mputs (m : Mem) (a b : Nat) (bs : List Byte) :
    mget (mputs m a bs) b = if a ≤ b ∧ b < a + bs.length then bs.getD (b - a) 0 else mget m b := by
  induction bs generalizing m a with
  | nil => rw [if_neg (by simp only [List.length_nil]; omega), mputs]
  | cons v bs ih =>
    rw [mputs, ih, mget_mput, List.length_cons]
    rcases Nat.lt_trichotomy a b with h | rfl | h
    · rw [if_neg (Nat.ne_of_lt h), show b - a = b - (a + 1) + 1 by omega, List.getD_cons_succ]
      exact ite_congr (by simp only [eq_iff_iff]; omega) (fun _ => rfl) fun _ => rfl
    · rw [if_neg (by omega), if_pos rfl, if_pos (by omega), Nat.sub_self, List.getD_cons_zero]
    · rw [if_neg (by omega), if_neg (Nat.ne_of_gt h), if_neg (by omega)]

/-- A block after a block is set. -/
theorem State.block_setBlock (s : State) (i j : Nat) (x : Block) :
    (s.setBlock i x).block j = if i = j then some x else s.block j := by
  split
  · subst_vars; exact State.block_setBlock_same ..
  · exact State.block_setBlock_ne _ _ ‹_›

/-- The memory that a place's bytes lie in. -/
def State.memAt (s : State) : Place → Mem
  | .local => s.mem
  | .host => s.hostMem
  | .peer p => tget [] s.peerMem p
  | .chip => s.chip
  | .scratch b => (s.block b).elim [] Block.scratch
  | .share b => (s.block b).elim [] Block.share
  | .slice b t => (s.block b).elim [] fun x => tget [] x.slices t
  | .tiles b => (s.block b).elim [] Block.tiles

theorem State.byteAt_eq_mget (s : State) (l : Loc) : s.byteAt l = mget (s.memAt l.place) l.off := by
  obtain ⟨p, a⟩ := l
  cases p with
  | scratch b | share b | slice b | tiles b => cases h : s.block b <;> simp [State.byteAt, State.memAt, h]
  | _ => rfl

/-- No write of a byte takes a block away. -/
theorem State.block_setByte_isSome {s : State} (l : Loc) (v : Byte) {i : Nat} (h : (s.block i).isSome) :
    ((s.setByte l v).block i).isSome := by
  obtain ⟨p, a⟩ := l
  cases p with
  | scratch j | share j | slice j | tiles j =>
    simp only [State.setByte]
    split
    · rw [State.block_setBlock]
      split
      · rfl
      · exact h
    · exact h
  | _ => exact h

theorem State.exists_setByte {s : State} (l : Loc) (v : Byte) {m : Loc} (h : s.Exists m) : (s.setByte l v).Exists m := by
  obtain ⟨q, b⟩ := m
  cases q with
  | scratch i | share i | slice i | tiles i => exact State.block_setByte_isSome l v h
  | _ => trivial

/-- A byte that is set changes the memory of its place and no other. -/
theorem State.memAt_setByte {s : State} {l : Loc} (v : Byte) (q : Place) (h : s.Exists l) :
    (s.setByte l v).memAt q = if l.place = q then mput (s.memAt q) l.off v else s.memAt q := by
  obtain ⟨p, a⟩ := l
  cases p with
  | peer i =>
    cases q with
    | peer j => simp only [State.setByte, State.memAt, tget_tput, Place.peer.injEq]; split <;> simp_all
    | _ => rfl
  | scratch i | share i | slice i | tiles i =>
    obtain ⟨x, hx⟩ := Option.isSome_iff_exists.mp h
    cases q <;> simp only [State.setByte, State.memAt, hx, State.block_setBlock] <;> split <;> simp_all [tget_tput]
  | _ => cases q <;> rfl

/-- So does a list of bytes. -/
theorem State.memAt_layBytes {s : State} {l : Loc} (bs : List Byte) (q : Place) (h : s.Exists l) :
    (s.layBytes l bs).memAt q = if l.place = q then mputs (s.memAt q) l.off bs else s.memAt q := by
  induction bs generalizing s l with
  | nil => exact (ite_self _).symm
  | cons v bs ih =>
    have hl : (s.setByte l v).Exists (l.add 1) := State.exists_setByte l v h
    rw [State.layBytes, ih hl, State.memAt_setByte v q h]
    by_cases hq : l.place = q
    · simp only [Loc.add, hq, if_true, mputs]
    · simp only [Loc.add, hq, if_false]

/-- What the consists' managers note of a store is in no memory: a byte after a write is that of the bytes laid. -/
theorem State.byteAt_setBytes (s : State) (l m : Loc) (bs : List Byte) :
    (s.setBytes l bs).byteAt m = (s.layBytes l bs).byteAt m := by
  obtain ⟨_, _, h⟩ := s.setBytes_eq l bs
  rw [h]
  rfl

end Sys2Proof.Machine

namespace Sys2Proof.Claims

open Sys2Proof.Machine

/-- Settles O8: the bytes go into the memory of their place one after the other, and into no other. -/
theorem readAfterWrite : Obligations.ReadAfterWrite := by
  unfold Obligations.ReadAfterWrite
  intro s l bs m h
  rw [State.byteAt_setBytes, State.byteAt_eq_mget, State.byteAt_eq_mget, State.memAt_layBytes bs m.place h]
  by_cases hp : l.place = m.place
  · simp only [hp, if_true, true_and, mget_mputs]
  · rw [if_neg hp, if_neg fun e => hp e.1.symm]

end Sys2Proof.Claims
end

section
/-! SUPPORT. What a source code reads, by the range it lies in (R25, R26, R27, R32). -/

namespace Sys2Proof.Machine

/-! ## Words -/

section
variable (s : State) (x : Ctx) (l : Nat) {c : Code}

theorem State.src_v {r : Nat} (hr : r < 64) (h : c.toNat = r) : s.src x l c = (x.grp.th l).reg r := by
  simp only [State.src, h, hr, if_true]

theorem State.src_s {r : Nat} (hr : r < 32) (h : c.toNat = 64 + r) : s.src x l c = x.grp.sreg r := by
  simp only [State.src, h]
  rw [if_neg (by omega), if_pos (by omega), Nat.add_sub_cancel_left]

theorem State.src_latch {j : Nat} (hj : j < 4) (h : c.toNat = 96 + j) : s.src x l c = (s.latch x.run j l).setWidth 32 := by
  simp only [State.src, h]
  rw [if_neg (by omega), if_neg (by omega), if_pos (by omega), Nat.add_sub_cancel_left]

theorem State.src_special {k : Nat} (hk : 100 ≤ k) (h : c.toNat = k) : s.src x l c = s.special x l k := by
  simp only [State.src, h]
  rw [if_neg (by omega), if_neg (by omega), if_neg (by omega)]

/-! ## Pairs -/

theorem State.src64_v {r : Nat} (hr : r < 64) (h : c.toNat = r) :
    s.src64 x l c = (x.grp.th l).reg (r + 1) ++ (x.grp.th l).reg r := by
  simp only [State.src64, h, hr, if_true]

theorem State.src64_s {r : Nat} (hr : r < 32) (h : c.toNat = 64 + r) :
    s.src64 x l c = x.grp.sreg (r + 1) ++ x.grp.sreg r := by
  simp only [State.src64, h]
  rw [if_neg (by omega), if_pos (by omega), Nat.add_sub_cancel_left, show 64 + r - 63 = r + 1 by omega]

theorem State.src64_latch {j : Nat} (hj : j < 4) (h : c.toNat = 96 + j) : s.src64 x l c = s.latch x.run j l := by
  simp only [State.src64, h]
  rw [if_neg (by omega), if_neg (by omega), if_pos (by omega), Nat.add_sub_cancel_left]

theorem State.src64_special {k : Nat} (hk : 100 ≤ k) (h : c.toNat = k) : s.src64 x l c = pairSpecial k := by
  simp only [State.src64, h]
  rw [if_neg (by omega), if_neg (by omega), if_neg (by omega)]

end

/-! ## Latch entries (R32) -/

theorem State.latch_uniform (s : State) {r : Run} {j : Nat} {v : Dword} (l : Nat) (h : r.latches[j]? = some (.uniform v)) :
    s.latch r j l = v := by rw [State.latch, h]

theorem State.latch_lanes (s : State) {r : Run} {j l : Nat} {v : Vector Dword 32} (h : r.latches[j]? = some (.lanes v))
    (hl : l < 32) : s.latch r j l = v[l] := by
  rw [State.latch, h]
  exact congrArg (Option.getD · 0) (Vector.getElem?_eq_getElem hl)

/-! ## Numbers of a launch (R145) -/

theorem Launch.groupsOf_eq (la : Launch) (r : Nat) : la.groupsOf r = (la.word (0x18 + 4 * r)).toNat % 256 := by
  simp [Launch.groupsOf, Launch.roleCfg, BitVec.extractLsb'_toNat]

theorem Launch.lastThreads_eq (la : Launch) (r : Nat) :
    la.lastThreads r = (la.word (0x18 + 4 * r)).toNat / 65536 % 64 := by
  simp [Launch.lastThreads, Launch.roleCfg, BitVec.extractLsb'_toNat, Nat.shiftRight_eq_div_pow]

/-! ## Specials (R26) -/

theorem State.special_ofBlock (s : State) (x : Ctx) (l : Nat) {b : Block} (hb : s.block x.grp.block = some b) :
    s.special x l 106 = BitVec.ofNat 32 b.bx ∧ s.special x l 107 = BitVec.ofNat 32 b.by_ ∧
      s.special x l 108 = BitVec.ofNat 32 b.bz ∧ s.special x l 109 = BitVec.ofNat 32 b.crank := by
  simp [State.special, hb]

theorem State.special_ofLaunch (s : State) (x : Ctx) (l : Nat) {la : Launch} (hla : s.launch x.grp.launch = some la) :
    s.special x l 110 = BitVec.ofNat 32 la.nthr ∧ s.special x l 111 = BitVec.ofNat 32 la.ngrp ∧
      s.special x l 112 = la.word 0x28 ∧ s.special x l 113 = la.word 0x2C ∧ s.special x l 114 = la.word 0x30 ∧
      s.special x l 117 = BitVec.ofNat 32 la.part := by
  simp [State.special, hla]

end Sys2Proof.Machine

namespace Sys2Proof.Claims

open Sys2Proof.Machine

/-- Settles O10: the ranges of codes, then the specials one by one, from where the lane lies, from its block and from
the record of its launch. -/
theorem operandCodesRead : Obligations.OperandCodesRead := by
  unfold Obligations.OperandCodesRead
  intro s x l hl c
  refine ⟨fun r h => ?_, fun r h => ?_, fun j v hj h hv => ?_, fun j v hj h hv hl => ?_, fun la b hla hb => ?_,
    fun r hr _ h => State.src64_v s x l (by omega) h, fun r hr _ h => State.src64_s s x l (by omega) h, ?_, ?_, ?_⟩
  · simp [State.src_v s x l r.isLt h, Thread.reg]
  · simp [State.src_s s x l r.isLt h, Group.sreg]
  · rw [State.src_latch s x l hj h, State.src64_latch s x l hj h, State.latch_uniform s l hv]
    exact ⟨rfl, rfl⟩
  · rw [State.src_latch s x l hj h, State.src64_latch s x l hj h, State.latch_lanes s hv hl]
    exact ⟨rfl, rfl⟩
  · simp only [← Launch.groupsOf_eq, ← Launch.lastThreads_eq]
    have sp : ∀ k : Code, 100 ≤ k.toNat → ∀ w, s.special x l k.toNat = w → c = k → s.src x l c = w := by
      rintro _ hk _ rfl rfl
      exact State.src_special s x l hk rfl
    obtain ⟨hx, hy, hz, hr⟩ := State.special_ofBlock s x l hb
    obtain ⟨ht, hg, h0, h1, h2, hp⟩ := State.special_ofLaunch s x l hla
    exact ⟨sp 100 (by decide) _ rfl, sp 101 (by decide) _ rfl, sp 102 (by decide) _ rfl, sp 103 (by decide) _ rfl,
      sp 104 (by decide) _ rfl, sp 105 (by decide) _ rfl, sp 106 (by decide) _ hx, sp 107 (by decide) _ hy,
      sp 108 (by decide) _ hz, sp 109 (by decide) _ hr, sp 110 (by decide) _ ht, sp 111 (by decide) _ hg,
      sp 112 (by decide) _ h0, sp 113 (by decide) _ h1, sp 114 (by decide) _ h2, sp 115 (by decide) _ rfl,
      sp 116 (by decide) _ rfl, sp 117 (by decide) _ hp, sp 118 (by decide) _ rfl, sp 119 (by decide) _ rfl⟩
  · rintro rfl; exact State.src64_special s x l (by decide) rfl
  · rintro rfl; exact State.src64_special s x l (by decide) rfl
  · rintro rfl; exact State.src64_special s x l (by decide) rfl

end Sys2Proof.Claims
end

section
/-! SUPPORT. The judging of operand uses before anything else, and the path of helper lanes that passes over an instruction
(R73, R74, R137). -/

namespace Sys2Proof.Machine

/-! ## The first trap that some use meets (R73) -/

section
variable {u : Bool} {x : Ctx} {uses : List Use}

theorem judgeUses_of_illegal (hi : ∃ c ∈ uses, c.illegal u x.grp.cls x.run = true) : judgeUses u x uses = some 2 := by
  rw [judgeUses, if_pos (List.any_eq_true.mpr hi)]

theorem judgeUses_of_stale (hi : ∀ c ∈ uses, c.illegal u x.grp.cls x.run = false) (hs : ∃ c ∈ uses, c.stale x.run = true) :
    judgeUses u x uses = some 4 := by
  rw [judgeUses, if_neg (by simpa using hi), if_pos (List.any_eq_true.mpr hs)]

theorem judgeUses_of_pending (h : ∀ c ∈ uses, c.illegal u x.grp.cls x.run = false ∧ c.stale x.run = false)
    (hp : ∃ c ∈ uses, c.pending x = true) : judgeUses u x uses = some 5 := by
  rw [judgeUses, if_neg (by simpa using fun c hc => (h c hc).1), if_neg (by simpa using fun c hc => (h c hc).2),
    if_pos (List.any_eq_true.mpr hp)]

end

/-! ## The shapes, where a use is at fault and where no thread is real -/

section
variable {s : State} {x : Ctx} {uses : List Use} {cause : Nat} (i : Instr) (e : Bool) (k : Ctx → Out)

theorem State.vform_trap (hx : s.ctx = some x) (hr : x.real ≠ 0) (hj : judgeUses false x uses = some cause) :
    s.vform i e uses k = .next (s.trapPath x cause (wordOf i)) := by
  rw [State.vform, State.withRun_eq hx, if_neg hr, hj]

theorem State.vcommit_trap (hx : s.ctx = some x) (hr : x.real ≠ 0) (hj : judgeUses false x uses = some cause) :
    s.vcommit i uses k = .next (s.trapPath x cause (wordOf i)) := by
  rw [State.vcommit, State.withRun_eq hx, if_neg hr, hj]

theorem State.uform_trap (hx : s.ctx = some x) (hj : judgeUses true x uses = some cause) :
    s.uform i uses k = .next (s.trapPath x cause (wordOf i)) := by
  rw [State.uform, State.withRun_eq hx, hj]

theorem State.vform_helpers (hx : s.ctx = some x) (hr : x.real = 0) : s.vform i e uses k = .next (s.passOver x e) := by
  rw [State.vform, State.withRun_eq hx, if_pos hr]

theorem State.vcommit_helpers (hx : s.ctx = some x) (hr : x.real = 0) :
    s.vcommit i uses k = .next (s.finishCommit x x.grp) := by
  rw [State.vcommit, State.withRun_eq hx, if_pos hr]

end

/-! ## A path that moves on and writes nothing -/

/-- The run ends, its path's threads moved by `f`, as one path. -/
theorem State.branch_mapLanes_moves (s : State) (x : Ctx) (f : Nat → Thread → Thread) :
    Moves s (s.branch x (x.grp.mapLanes x.run.mask f) [x.run.mask]) x f x.grp.s fun _ => [x.run.mask] :=
  State.branch_moves (back := fun _ => [x.run.mask]) (Group.mapLanes_eq ..) fun _ hl => Group.th_mapLanes _ _ _ hl

/-- A commit-class instruction that is performed without a register written (R72, R100). -/
theorem State.finishCommit_moves (s : State) (x : Ctx) :
    Moves s (s.finishCommit x x.grp) x (fun _ th => { th with pc := th.pc + 4, regionStart := th.pc + 4 }) x.grp.s
      fun _ => [x.run.mask] :=
  State.branch_mapLanes_moves s x fun _ th => { th with pc := th.pc + 4, regionStart := th.pc + 4 }

/-- Passed over at the end of its run, an instruction is a branch to PC + 4. -/
theorem State.passOver_end (s : State) (x : Ctx) :
    s.passOver x true = s.branch x (x.grp.mapLanes x.run.mask fun _ th => th.next) [x.run.mask] := rfl

/-- Passed over within its run, it counts. -/
theorem State.passOver_within (s : State) (x : Ctx) :
    s.passOver x false = s.setGroup x.c x.g
      { x.grp.mapLanes x.run.mask fun _ th => th.next with run := some { x.run with count := x.run.count + 1 } } := rfl

end Sys2Proof.Machine

namespace Sys2Proof.Claims

open Sys2Proof.Machine

theorem passOver_passes (s : State) (x : Ctx) (e : Bool) : PassesOver s (s.passOver x e) x e := by
  cases e with
  | false =>
    have hl := fun l (h : l < 32) => Group.th_mapLanes x.grp x.run.mask (fun _ th => th.next) h
    rw [State.passOver_within]
    rw [Group.mapLanes_eq] at hl ⊢
    exact ⟨.setGroup .., .setGroup .., _, State.group_setGroup_same .., rfl, ⟨rfl, hl⟩, rfl, rfl⟩
  | true =>
    rw [State.passOver_end]
    obtain ⟨hm, hc, y, hy, hg, hl, hback⟩ := State.branch_mapLanes_moves s x fun _ th => th.next
    exact ⟨hm, hc, y, hy, hg, hl, hback⟩

/-! ## What the operand positions accept (R27, R32, R78, R227) -/

theorem uniformLatch_iff (r : Run) (j : Nat) :
    r.uniformLatch j = true ↔ ¬∃ b, r.latches[j]? = some b ∧ ∀ w, b ≠ .uniform w := by
  unfold Run.uniformLatch
  cases r.latches[j]? with
  | none => simp
  | some b => cases b <;> simp

theorem laneSpecial_iff (c : Code) : laneSpecial c.toNat = true ↔ c = 101 ∨ c = 102 ∨ c = 103 := by
  simp [laneSpecial, BitVec.toNat_eq, or_assoc]

/-- The sources by the range the code lies in (v, s, latch, special, none); a destination or a fixed range of registers
by its one condition. -/
theorem illegal_iff_not_accepts (u : Bool) (cls : Nat) (r : Run) (use : Use) :
    use.illegal u cls r = true ↔ ¬accepts u cls r use := by
  cases use with
  | src c =>
    simp only [Use.illegal, accepts, ← uniformLatch_iff, ← laneSpecial_iff]
    (repeat' split) <;> grind
  | pair c =>
    simp only [Use.illegal, accepts, ← uniformLatch_iff, vRange, BitVec.toNat_eq]
    (repeat' split) <;> grind
  | anyLane c =>
    simp only [Use.illegal, accepts, ← laneSpecial_iff]
    (repeat' split) <;> grind
  | quad c =>
    simp only [Use.illegal, accepts, vRange, BitVec.toNat_eq]
    (repeat' split) <;> grind
  | dst c | dstPair c => cases u <;> simp only [Use.illegal, accepts, vRange] <;> grind
  | sPair c | vregs c k | dstVregs c k | quadDst c =>
    simp only [Use.illegal, accepts, vRange]
    grind

/-! ## Stale latches (R15) -/

theorem read_eq_sourceOf (use : Use) : use.read = (sourceOf use).map BitVec.toNat := by cases use <;> rfl

theorem stale_iff (r : Run) (use : Use) : use.stale r = true ↔
    ∃ c j : Nat, (sourceOf use).map BitVec.toNat = some c ∧ c = 96 + j ∧ j < 4 ∧ r.count ≤ j := by
  rw [← read_eq_sourceOf, Use.stale]
  cases use.read with
  | none => simp
  | some c =>
    simp only [Bool.and_eq_true, decide_eq_true_eq, Option.some.injEq]
    constructor
    · rintro ⟨⟨h96, h100⟩, hc⟩
      exact ⟨c, c - 96, rfl, by omega, by omega, hc⟩
    · rintro ⟨_, j, rfl, rfl, hj, hc⟩
      omega

/-! ## The forms and their shapes -/

section
variable (s : State) (e n : Bool) (d a b : Code)

/-- Each V-form of the list judges its listed uses as the shared shape does, whatever it then computes. -/
theorem laneForms_vform (i8 : BitVec 8) (i7 : BitVec 7) (i16 : BitVec 16) :
    ∀ f ∈ laneForms e n d a b i8 i7 i16, ∃ k, exec f.1 s = s.vform f.1 f.2.1 f.2.2 k := by
  simp only [laneForms, List.flatten_cons, List.flatten_nil, List.forall_mem_append, List.forall_mem_map,
    List.forall_mem_cons, List.not_mem_nil, false_imp_iff, implies_true, and_true]
  and_intros <;> exact ⟨_, rfl⟩

/-- Each atomic judges its data and its address. -/
theorem atomForms_vcommit (sc r : BitVec 2) :
    ∀ f ∈ atomForms n d a sc r, ∃ k, exec f.1 s = s.vcommit f.1 [dataUse n d f.2, .pair a] k := by
  simp only [atomForms, List.forall_mem_append, List.forall_mem_map, List.forall_mem_cons, List.not_mem_nil,
    false_imp_iff, implies_true, and_true]
  and_intros <;> exact ⟨_, rfl⟩

/-- Each U-form of the list judges its listed uses as the shared shape does. -/
theorem uniformForms_uform (i8 : BitVec 8) (i16 d16 : BitVec 16) (q : BitVec 5) :
    ∀ f ∈ uniformForms e n d a b i8 i16 d16 q, ∃ k, exec f.1 s = s.uform f.1 f.2 k := by
  simp only [uniformForms, List.flatten_cons, List.flatten_nil, List.forall_mem_append, List.forall_mem_map,
    List.forall_mem_cons, List.not_mem_nil, false_imp_iff, implies_true, and_true]
  and_intros <;> exact ⟨_, rfl⟩

end

/-- Settles O11: the lists of uses are those of the shared shapes, which judge the uses first, and before them whether any
thread is real; a trap of the path is what `EntersTrap` says. -/
theorem operandTrapsAndHelperPaths : Obligations.OperandTrapsAndHelperPaths := by
  unfold Obligations.OperandTrapsAndHelperPaths
  refine ⟨illegal_iff_not_accepts, stale_iff, ?_, ?_, ?_, ?_⟩
  · intro s x e n d a b i8 i7 i16 hx f hf
    obtain ⟨k, hk⟩ := laneForms_vform s e n d a b i8 i7 i16 f hf
    rw [hk]
    exact ⟨fun cause hr hj ht => ⟨_, State.vform_trap _ _ _ hx hr hj, State.trapPath_enters ht cause _⟩,
      fun hr => ⟨_, State.vform_helpers _ _ _ hx hr, passOver_passes s x _⟩⟩
  · intro s x n d a sc r hx f hf
    obtain ⟨k, hk⟩ := atomForms_vcommit s n d a sc r f hf
    rw [hk]
    exact ⟨fun cause hr hj ht => ⟨_, State.vcommit_trap _ _ hx hr hj, State.trapPath_enters ht cause _⟩,
      fun hr => ⟨_, State.vcommit_helpers _ _ hx hr, State.finishCommit_moves s x⟩⟩
  · intro s x e n d a b i8 i16 d16 q hx f hf cause hj ht
    obtain ⟨k, hk⟩ := uniformForms_uform s e n d a b i8 i16 d16 q f hf
    exact ⟨_, hk.trans (State.uform_trap _ _ hx hj), State.trapPath_enters ht cause _⟩
  · exact fun u x uses => ⟨judgeUses_of_illegal, judgeUses_of_stale, judgeUses_of_pending⟩

end Sys2Proof.Claims
end

section
/-! SUPPORT. A word as its fields side by side (R61, R62), and so what the encoder and the rows of the decoder say of one
another: of a word and an instruction, both say the same. -/

namespace Sys2Proof.Laws

/-! ## The fields of a word -/

/-- The bits of `w` from bit `lo` up are those of `x`. -/
def HoldsAt (w : Word) (lo : Nat) {k : Nat} (x : BitVec k) : Prop := fieldAt w lo k = x

section
variable (w : Word) (lo : Nat)

theorem holdsAt_zero_iff (x : Word) : HoldsAt w 0 x ↔ x = w := by
  rw [HoldsAt, fieldAt, BitVec.extractLsb'_eq_self, eq_comm]

/-- Fields side by side are held one above the other. (`no_index`: the widths of a word's fields add up to a numeral, by
which `simp` would not find the pattern.) -/
theorem holdsAt_append {m n : Nat} (x : BitVec m) (y : BitVec n) :
    HoldsAt w lo (no_index (x ++ y)) ↔ HoldsAt w (lo + n) x ∧ HoldsAt w lo y := by
  simp only [HoldsAt, fieldAt]
  rw [← BitVec.extractLsb'_append_extractLsb'_eq_extractLsb' rfl]
  constructor
  · intro h
    have hx := congrArg (BitVec.extractLsb' n m) h
    have hy := congrArg (BitVec.extractLsb' 0 n) h
    rw [BitVec.extractLsb'_append_eq_left, BitVec.extractLsb'_append_eq_left] at hx
    rw [BitVec.extractLsb'_append_eq_right, BitVec.extractLsb'_append_eq_right] at hy
    exact ⟨hx, hy⟩
  · rintro ⟨rfl, rfl⟩
    rfl

theorem holdsAt_bit (b : BitVec 1) : HoldsAt w lo b ↔ BitVec.ofBool (bitAt w lo) = b := by
  have h : fieldAt w lo 1 = BitVec.ofBool (bitAt w lo) := by
    ext i hi
    obtain rfl : i = 0 := by omega
    simp [fieldAt, bitAt]
  rw [HoldsAt, h]

theorem holdsAt_ofBool (b : Bool) : HoldsAt w lo (BitVec.ofBool b) ↔ bitAt w lo = b := by
  rw [holdsAt_bit, BitVec.ofBool_eq_iff_eq]

/-- Bit 31 clear is the V-set (R61). -/
theorem holdsAt_31_zero : HoldsAt w 31 0#1 ↔ bitAt w 31 = false := holdsAt_ofBool w 31 false

/-- Bit 31 set is the U-set (R61). -/
theorem holdsAt_31_one : HoldsAt w 31 1#1 ↔ bitAt w 31 = true := holdsAt_ofBool w 31 true

/-- The decoder goes by the major opcode as a number. -/
theorem holdsAt_opcode (op : BitVec 7) : HoldsAt w 23 op ↔ (fieldAt w 23 7).toNat = op.toNat :=
  BitVec.toNat_inj.symm

end

/-! ## From the decoder's rows to the word -/

/-- The rows of the set that bit 31 names (R61). -/
def setRows (w : Word) : Option Instr := if bitAt w 31 then decodeU w else decodeV w

theorem decode_eq_filter (w : Word) : decode w = (setRows w).filter Instr.wellFormed := rfl

theorem setRows_of_true {w : Word} (h : bitAt w 31 = true) : setRows w = decodeU w := if_pos h

theorem setRows_of_false {w : Word} (h : bitAt w 31 = false) : setRows w = decodeV w :=
  if_neg (ne_true_of_eq_false h)

/-- Every instruction that `r` may be is encoded as `w`. -/
def EncodesTo (w : Word) (r : Option Instr) : Prop := ∀ i, r = some i → encode i = some w

/-- The rows of one opcode, judged in turn. -/
theorem encodesTo_ite {w : Word} {c : Prop} [Decidable c] {a b : Option Instr} (ha : c → EncodesTo w a)
    (hb : EncodesTo w b) : EncodesTo w (if c then a else b) := by
  split
  · exact ha ‹_›
  · exact hb

/-- Row by row: the set, the opcode, the fields the row fixes and the operands it reads make up the whole word. -/
theorem setRows_encodesTo (w : Word) : EncodesTo w (setRows w) := by
  cases hset : bitAt w 31
  case' false => rw [setRows_of_false hset, decodeV]
  case' true => rw [setRows_of_true hset, decodeU]
  all_goals split
  all_goals
    rename_i hop
    repeat' refine encodesTo_ite (fun hrow => ?_) ?_
  all_goals rintro _ ⟨⟩
  all_goals
    refine congrArg some ((holdsAt_zero_iff ..).mp ?_)
    simp only [holdsAt_append, holdsAt_ofBool, holdsAt_31_zero, holdsAt_31_one, holdsAt_opcode, hset, hop, Nat.reduceAdd]
    simp [HoldsAt, *]

/-! ## From the word to the decoder's row -/

/-- Instruction by instruction: its word holds the set and the opcode of its row, the fields the row fixes and its own
operands. The rows of the first group fix no field but the opcode. -/
theorem setRows_of_encode {i : Instr} {w : Word} (h : encode i = some w) : setRows w = some i := by
  generalize hr : setRows w = r -- the table stays out of the goals until the opcode is known
  cases i
  all_goals injection h
  all_goals
    rename_i h
    have h := (holdsAt_zero_iff ..).mpr h
    simp only [holdsAt_append, holdsAt_ofBool, holdsAt_31_zero, holdsAt_31_one, Nat.reduceAdd, and_assoc] at h
    obtain ⟨hset, -, hop, -⟩ := id h
    have hop := (holdsAt_opcode ..).mp hop
    simp only [HoldsAt] at h
    simp only [setRows, hset, ↓reduceIte, Bool.false_eq_true] at hr
    subst hr
    delta decodeU decodeV
    rewrite [hop]
  case addxi | addi | andi | ori | xori | shli | shri | sari | muli | ldi | ldh | dqn | shflu | shfld | shflx | qex | gred
    | gscan | ld8 | ld8s | ld16 | ld16s | ld32 | ld64 | ld128 | uaddi | uandi | uori | ushli | ushri | uaddxi | uldi
    | uldh =>
    change some _ = _
    simp only [h]
  all_goals
    change ite _ _ _ = _
    simp only [h, BitVec.ofNat_eq_ofNat, BitVec.reduceEq, and_self, and_true, and_false, ↓reduceIte]

/-! ## Decoder and encoder -/

/-- The decoder reads `i` from `w` exactly when `i` is well formed and `w` is its word. -/
theorem decode_eq_some_iff (w : Word) (i : Instr) : decode w = some i ↔ i.wellFormed = true ∧ encode i = some w := by
  rw [decode_eq_filter, Option.filter_eq_some_iff, and_comm]
  exact and_congr_right fun _ => ⟨setRows_encodesTo w i, setRows_of_encode⟩

end Sys2Proof.Laws

namespace Sys2Proof.Claims

open Sys2Proof.Laws

/-- Settles O1: of a well-formed instruction and its word, the decoder says what the encoder says. -/
theorem decodeReadsWhatEncodeWrites : Obligations.DecodeReadsWhatEncodeWrites := by
  unfold Obligations.DecodeReadsWhatEncodeWrites
  exact fun i w hi h => (decode_eq_some_iff w i).mpr ⟨hi, h⟩

/-- Settles O2: the same equivalence read the other way. -/
theorem encodeGivesBackTheWord : Obligations.EncodeGivesBackTheWord := by
  unfold Obligations.EncodeGivesBackTheWord
  exact fun w i => (decode_eq_some_iff w i).mp

/-- Settles O3: each of the twelve words is what the encoder gives for its instruction; of the three others, the missing E
bit, the reserved opcode and the nonzero zero-field each leave no row to read. -/
theorem wordsLaidOutByHandDecode : Obligations.WordsLaidOutByHandDecode := by
  unfold Obligations.WordsLaidOutByHandDecode
  have read {i : Instr} {w : Word} (hi : i.wellFormed = true) (h : encode i = some w) : decode w = some i :=
    decodeReadsWhatEncodeWrites i w hi h
  exact ⟨read rfl rfl, read rfl rfl, read rfl rfl, read rfl rfl, read rfl rfl, read rfl rfl, read rfl rfl, read rfl rfl,
    read rfl rfl, read rfl rfl, read rfl rfl, read rfl rfl, rfl, rfl, rfl⟩

end Sys2Proof.Claims
end

section
/-! SUPPORT. The privileged instructions at user level: the level is judged before the operands (R67, R73, R104, R108,
R109, R316). -/

namespace Sys2Proof.Machine

section
variable {s : State} {x : Ctx}

theorem execEret_user (hx : s.ctx = some x) (hu : x.supervisor = false) :
    execEret s = .next (s.trapPath x 10 (wordOf .eret)) := by
  rw [execEret, State.withRun_eq hx, hu, if_neg Bool.false_ne_true]

theorem execMfsr_user (hx : s.ctx = some x) (hu : x.supervisor = false) (e n : Bool) (d : Code) {i : BitVec 8}
    (hi : userReg i.toNat = false) : execMfsr e n d i s = .next (s.trapPath x 10 (wordOf (.mfsr e n d i))) := by
  rw [execMfsr, State.withRun_eq hx, hu, hi]
  rfl

theorem execMtsr_user (hx : s.ctx = some x) (hu : x.supervisor = false) (a : Code) (i : BitVec 8) :
    execMtsr a i s = .next (s.trapPath x 10 (wordOf (.mtsr a i))) := by
  rw [execMtsr, State.withRun_eq hx, hu]
  rfl

theorem execApgo_user (hx : s.ctx = some x) (hu : x.supervisor = false) (n : Bool) (d a : Code) :
    execApgo n d a s = .next (s.trapPath x 10 (wordOf (.apgo n d a))) := by
  rw [execApgo, State.withRun_eq hx, hu]
  rfl

end

/-- The three registers that user code may read (R67). -/
theorem userReg_eq_false {i : BitVec 8} (h : ¬(i = 10 ∨ i = 11 ∨ i = 12)) : userReg i.toNat = false := by
  simpa [userReg, BitVec.toNat_eq, and_assoc] using h

end Sys2Proof.Machine

namespace Sys2Proof.Claims

open Sys2Proof.Machine

/-- Settles O33: each of the four answers a trap of the path at user level, whatever its operands; a trap of the path is
what `EntersTrap` says. -/
theorem privilegedInstructionsTrapAtUserLevel : Obligations.PrivilegedInstructionsTrapAtUserLevel := by
  unfold Obligations.PrivilegedInstructionsTrapAtUserLevel
  intro s x hx hu ht
  have enters (i : Instr) : EntersTrap s (s.trapPath x 10 (wordOf i)) x 10 (wordOf i) :=
    State.trapPath_enters ht 10 (wordOf i)
  exact ⟨⟨_, execEret_user hx hu, enters _⟩, fun e n d i hi => ⟨_, execMfsr_user hx hu e n d (userReg_eq_false hi), enters _⟩,
    fun a i => ⟨_, execMtsr_user hx hu a i, enters _⟩, fun n d a => ⟨_, execApgo_user hx hu n d a, enters _⟩⟩

end Sys2Proof.Claims
end

section
/-! SUPPORT. The word functions of the integer forms, each as the claims write it (R81 to R83, R85, R87 to R90). -/

namespace Sys2Proof.Claims

open Sys2Proof.Machine

section
variable (a b d : Word)

/-! ## Shifts (R82) -/

theorem shiftLeft_eq_ofNat (n : Nat) : a <<< n = BitVec.ofNat 32 (a.toNat * 2 ^ n) :=
  BitVec.eq_of_toNat_eq (by rw [BitVec.toNat_shiftLeft, Nat.shiftLeft_eq, BitVec.toNat_ofNat])

theorem ushiftRight_eq_ofNat (n : Nat) : a >>> n = BitVec.ofNat 32 (a.toNat / 2 ^ n) := by
  refine BitVec.eq_of_toNat_eq ?_
  rw [BitVec.toNat_ushiftRight, Nat.shiftRight_eq_div_pow, BitVec.toNat_ofNat]
  exact (Nat.mod_eq_of_lt (Nat.lt_of_le_of_lt (Nat.div_le_self ..) a.isLt)).symm

theorem shl32_eq_left : shl32 a b = left a b.toNat := by
  unfold shl32 left
  split
  · rw [if_neg (by omega)]
  · rw [if_pos (by omega), shiftLeft_eq_ofNat]

theorem shr32_eq_right : shr32 a b = right a b.toNat := by
  unfold shr32 right
  split
  · rw [if_neg (by omega)]
  · rw [if_pos (by omega), ushiftRight_eq_ofNat]

theorem sar32_eq_arith : sar32 a b = arith a b.toNat := by
  rw [sar32, sarNat, arith]
  by_cases h : 32 ≤ b.toNat
  · rw [if_pos h, if_neg (Nat.not_lt.mpr h)]
  · rw [if_neg h, if_pos (Nat.not_le.mp h), BitVec.sshiftRight, Int.shiftRight_eq_div_pow]
    rfl

/-- An immediate count, extended with zeros, is the same number (R87). -/
theorem toNat_immCount (i : BitVec 8) : (i.setWidth 32).toNat = i.toNat := BitVec.toNat_setWidth_of_le (by decide)

theorem shl32_imm_eq_left (i : BitVec 8) : shl32 a (i.setWidth 32) = left a i.toNat := by
  rw [shl32_eq_left, toNat_immCount]

theorem shr32_imm_eq_right (i : BitVec 8) : shr32 a (i.setWidth 32) = right a i.toNat := by
  rw [shr32_eq_right, toNat_immCount]

theorem sar32_imm_eq_arith (i : BitVec 8) : sar32 a (i.setWidth 32) = arith a i.toNat := by
  rw [sar32_eq_arith, toNat_immCount]

/-! ## Order and saturation (R41, R81) -/

theorem min32_eq : min32 a b = if a.toInt < b.toInt then a else b := by
  simp only [min32, BitVec.slt_iff_toInt_lt]

theorem max32_eq : max32 a b = if a.toInt < b.toInt then b else a := by
  simp only [max32, BitVec.slt_iff_toInt_lt]

theorem minn32_eq : minn32 a b = if a.toNat < b.toNat then a else b := by
  simp only [minn32, BitVec.ult_iff_toNat_lt]

theorem maxn32_eq : maxn32 a b = if a.toNat < b.toNat then b else a := by
  simp only [maxn32, BitVec.ult_iff_toNat_lt]

theorem satS_eq_clamped (i : Int) : satS i = clamped (-2 ^ 31) (2 ^ 31 - 1) i :=
  congrArg (BitVec.ofInt 32) (by omega)

theorem satN_eq_clamped (i : Int) : satN i = clamped 0 (2 ^ 32 - 1) i :=
  congrArg (BitVec.ofInt 32) (by omega)

/-! ## Bit fields (R83) -/

theorem fieldPos_eq_pos : fieldPos b = pos b := by simp [fieldPos, pos]

theorem fieldWidth_eq_width : fieldWidth b = width b := by
  simp [fieldWidth, width, fieldPos_eq_pos, Nat.shiftRight_eq_div_pow]

theorem fieldMask_eq_maskAt : fieldMask b = maskAt b := by rw [fieldMask, maskAt, fieldPos_eq_pos, fieldWidth_eq_width]

theorem width_le_32 : width b ≤ 32 := Nat.le_trans (Nat.min_le_right ..) (Nat.sub_le ..)

theorem bfxn32_eq_field : bfxn32 a b = BitVec.ofNat 32 (field a b) := by
  rw [bfxn32, fieldMask_eq_maskAt, fieldPos_eq_pos, ushiftRight_eq_ofNat, field]

/-- The sign bit of the field lies within the word; less 2 to the width, the field is its signed value. -/
theorem bfx32_eq_signedField : bfx32 a b = signedField a b := by
  have hbit : 1 ≤ width b → (BitVec.ofNat 32 (field a b)).getLsbD (width b - 1) = (field a b).testBit (width b - 1) := by
    have := width_le_32 b
    intro h
    rw [BitVec.getLsbD_ofNat, decide_eq_true (by omega), Bool.true_and]
  have hpow : BitVec.ofInt 32 (2 ^ width b) = BitVec.ofNat 32 (2 ^ width b) :=
    mod_cast BitVec.ofInt_natCast 32 (2 ^ width b)
  have hsub : BitVec.ofNat 32 (field a b) - BitVec.ofNat 32 (2 ^ width b) =
      BitVec.ofInt 32 ((field a b : Int) - 2 ^ width b) := by
    rw [BitVec.sub_eq_add_neg, Int.sub_eq_add_neg, BitVec.ofInt_add, BitVec.ofInt_neg, BitVec.ofInt_natCast, hpow]
  simp only [bfx32, signedField, bfxn32_eq_field, fieldWidth_eq_width, hsub]
  exact ite_congr (propext (and_congr_right fun h => by rw [hbit h])) (fun _ => rfl) fun _ => rfl

theorem bfi32_eq_inserted : bfi32 d a b = inserted d a b := by
  rw [bfi32, inserted, fieldMask_eq_maskAt, fieldPos_eq_pos, shiftLeft_eq_ofNat]

/-! ## Unary forms and constants (R85, R88) -/

theorem zero_sub_eq_ofInt_neg : 0 - a = BitVec.ofInt 32 (-a.toInt) := by
  rw [BitVec.ofInt_neg, BitVec.ofInt_toInt]
  exact BitVec.zero_sub a

theorem abs32_eq : abs32 a = if a.msb then BitVec.ofInt 32 (-a.toInt) else a := by rw [abs32, zero_sub_eq_ofInt_neg]

theorem clz32_eq : clz32 a = BitVec.ofNat 32 (if a = 0 then 32 else 31 - Nat.log2 a.toNat) := by
  rw [clz32]
  split <;> rfl

theorem popc32_eq : popc32 a = BitVec.ofNat 32 ((List.range 32).countP fun i => a.getLsbD i) := by
  rw [popc32, List.countP_eq_length_filter]

theorem brev32_eq_reverse : brev32 a = a.reverse := by
  refine BitVec.eq_of_getLsbD_eq fun i hi => ?_
  rw [brev32, maskOf_getLsbD _ hi, BitVec.getLsbD_reverse, BitVec.getMsbD, decide_eq_true hi, Bool.true_and]

theorem extractLsb'_zero_eq_setWidth {k : Nat} (h : k ≤ 32) : a.extractLsb' 0 k = a.setWidth k :=
  (BitVec.setWidth_eq_extractLsb' h).symm

theorem sextb32_eq : sextb32 a = (a.setWidth 8).signExtend 32 := by rw [sextb32, extractLsb'_zero_eq_setWidth a (by decide)]

theorem sexth32_eq : sexth32 a = (a.setWidth 16).signExtend 32 := by rw [sexth32, extractLsb'_zero_eq_setWidth a (by decide)]

theorem zextb32_eq : zextb32 a = (a.setWidth 8).setWidth 32 := by rw [zextb32, extractLsb'_zero_eq_setWidth a (by decide)]

theorem zexth32_eq : zexth32 a = (a.setWidth 16).setWidth 32 := by rw [zexth32, extractLsb'_zero_eq_setWidth a (by decide)]

theorem ldh32_eq (i : Half) : ldh32 i a = BitVec.ofNat 32 (i.toNat * 2 ^ 16 + a.toNat % 2 ^ 16) := by
  have hi := i.isLt
  refine BitVec.eq_of_toNat_eq ?_
  rw [ldh32, extractLsb'_zero_eq_setWidth a (by decide), BitVec.toNat_append, BitVec.toNat_setWidth,
    ← Nat.shiftLeft_add_eq_or_of_lt (Nat.mod_lt _ (by decide)), Nat.shiftLeft_eq, BitVec.toNat_ofNat]
  omega

/-! ## Compares (R89, R90) -/

theorem slt_signExtend (i : BitVec 7) : a.slt (i.signExtend 32) = decide (a.toInt < i.toInt) := by
  rw [BitVec.slt_eq_decide, BitVec.toInt_signExtend_of_le (by decide)]

theorem ult_setWidth (i : BitVec 7) : a.ult (i.setWidth 32) = decide (a.toNat < i.toNat) := by
  rw [BitVec.ult, BitVec.toNat_setWidth_of_le (by decide)]

theorem word01_decide (p : Prop) [Decidable p] : word01 (decide p) = if p then 1 else 0 := by
  simp only [word01, decide_eq_true_eq]

theorem word01_beq : word01 (a == b) = if a = b then 1 else 0 := by simp only [word01, beq_iff_eq]

theorem word01_bne : word01 (a != b) = if a = b then 0 else 1 := by simp only [word01, bne_iff_ne, ne_eq, ite_not]

theorem word01_slt {w : Nat} (a b : BitVec w) : word01 (a.slt b) = if a.toInt < b.toInt then 1 else 0 := word01_decide _

theorem word01_ult : word01 (a.ult b) = if a.toNat < b.toNat then 1 else 0 := word01_decide _

end

end Sys2Proof.Claims
end

section
/-! SUPPORT. The integer, address, compare and predicate forms, shape by shape: an instruction that the dispatch runs as a
shape of the model, with a function `g` of its sources, answers the results of the `f` that is equal to `g` (R77, R81, R89). -/

namespace Sys2Proof.Claims

open Sys2Proof.Machine

/-! ## The shapes -/

theorem lane2_of_exec {c : Bool → Bool → Code → Code → Code → Instr} (g : Word → Word → Word) {f : Word → Word → Word}
    (hfg : ∀ a b, g a b = f a b)
    (hexec : ∀ e n d a b (s : State), exec (c e n d a b) s = s.lane2 (c e n d a b) e n d a b g := by intros; rfl) :
    Lane2 c f := by
  obtain rfl : g = f := funext fun a => funext (hfg a)
  intro s x e n d a b h
  rw [hexec]
  exact State.laneOp_writes (uses := [.src a, .src b]) h _

theorem lane1_of_exec {c : Bool → Bool → Code → Code → Instr} (g : Word → Word) {f : Word → Word} (hfg : ∀ a, g a = f a)
    (hexec : ∀ e n d a (s : State), exec (c e n d a) s = s.lane1 (c e n d a) e n d a g := by intros; rfl) : Lane1 c f := by
  obtain rfl : g = f := funext hfg
  intro s x e n d a h
  rw [hexec]
  exact State.laneOp_writes (uses := [.src a]) h _

theorem lane1i_of_exec {c : Bool → Bool → Code → Code → BitVec 8 → Instr} (g : Word → BitVec 8 → Word)
    {f : Word → BitVec 8 → Word} (hfg : ∀ a i, g a i = f a i)
    (hexec : ∀ e n d a i (s : State), exec (c e n d a i) s = s.lane1 (c e n d a i) e n d a (g · i) := by intros; rfl) :
    Lane1i c f := by
  obtain rfl : g = f := funext fun a => funext (hfg a)
  intro s x e n d a i h
  rw [hexec]
  exact State.laneOp_writes (uses := [.src a]) h _

theorem uniform2_of_exec {c : Bool → Bool → Code → Code → Code → Instr} (g : Word → Word → Word) {f : Word → Word → Word}
    (hfg : ∀ a b, g a b = f a b)
    (hexec : ∀ e n d a b (s : State), exec (c e n d a b) s = s.uni2 (c e n d a b) e n d a b g := by intros; rfl) :
    Uniform2 c f := by
  obtain rfl : g = f := funext fun a => funext (hfg a)
  intro s x e n d a b h
  rw [hexec]
  exact State.uniOp_writes (uses := [.src a, .src b]) h _

theorem uniform1_of_exec {c : Bool → Bool → Code → Code → Instr} (g : Word → Word) {f : Word → Word} (hfg : ∀ a, g a = f a)
    (hexec : ∀ e n d a (s : State), exec (c e n d a) s = s.uni1 (c e n d a) e n d a g := by intros; rfl) : Uniform1 c f := by
  obtain rfl : g = f := funext hfg
  intro s x e n d a h
  rw [hexec]
  exact State.uniOp_writes (uses := [.src a]) h _

theorem uniform1i_of_exec {c : Bool → Bool → Code → Code → BitVec 8 → Instr} (g : Word → BitVec 8 → Word)
    {f : Word → BitVec 8 → Word} (hfg : ∀ a i, g a i = f a i)
    (hexec : ∀ e n d a i (s : State), exec (c e n d a i) s = s.uni1 (c e n d a i) e n d a (g · i) := by intros; rfl) :
    Uniform1i c f := by
  obtain rfl : g = f := funext fun a => funext (hfg a)
  intro s x e n d a i h
  rw [hexec]
  exact State.uniOp_writes (uses := [.src a]) h _

theorem pred2_of_exec {c : Bool → Code → Code → Code → Instr} (g : Word → Word → Bool) {f : Word → Word → Bool}
    (hfg : ∀ a b, g a b = f a b)
    (hexec : ∀ e k a b (s : State), exec (c e k a b) s = s.lanePred2 (c e k a b) e k a b g := by intros; rfl) :
    Pred2 c f := by
  obtain rfl : g = f := funext fun a => funext (hfg a)
  intro s x e k a b h
  rw [hexec]
  exact State.lanePred_writes h _

theorem pred1i_of_exec {c : Bool → Code → Code → BitVec 7 → Instr} (g : Word → BitVec 7 → Bool) {f : Word → BitVec 7 → Bool}
    (hfg : ∀ a i, g a i = f a i)
    (hexec : ∀ e k a i (s : State), exec (c e k a i) s =
      s.lanePred (c e k a i) e k [.src a] fun x l => g (s.src x l a) i := by intros; rfl) : Pred1i c f := by
  obtain rfl : g = f := funext fun a => funext (hfg a)
  intro s x e k a i h
  rw [hexec]
  exact State.lanePred_writes h _

theorem pred2x_of_exec {c : Bool → Code → Code → Code → Instr} (g : Dword → Dword → Bool) {f : Dword → Dword → Bool}
    (hfg : ∀ a b, g a b = f a b)
    (hexec : ∀ e k a b (s : State), exec (c e k a b) s =
      s.lanePred (c e k a b) e k [.pair a, .pair b] fun x l => g (s.src64 x l a) (s.src64 x l b) := by intros; rfl) :
    Pred2x c f := by
  obtain rfl : g = f := funext fun a => funext (hfg a)
  intro s x e k a b h
  rw [hexec]
  exact State.lanePred_writes h _

theorem predK_of_exec {c : Bool → Code → Code → Code → Instr} (f : Bool → Bool → Bool)
    (hexec : ∀ e k a b (s : State), exec (c e k a b) s = s.lanePred (c e k a b) e k [] fun x l =>
      f ((x.grp.th l).k.getLsbD a.toNat) ((x.grp.th l).k.getLsbD b.toNat) := by intros; rfl) : PredK c f := by
  intro s x e k a b h
  rw [hexec]
  exact State.lanePred_writes h _

/-! ## The families of chapter 05 -/

/-- Settles O12: each form runs as the shape of two sources, with the model's word function, which is the stated one. -/
theorem twoSourceIntegerForms : Obligations.TwoSourceIntegerForms := by
  unfold Obligations.TwoSourceIntegerForms
  refine ⟨?_, ?_, ?_, ?_, ?_, ?_⟩
  · exact ⟨lane2_of_exec _ fun _ _ => rfl, lane2_of_exec _ fun _ _ => rfl, lane2_of_exec _ fun _ _ => rfl,
      lane2_of_exec mulh32 fun _ _ => rfl, lane2_of_exec mulhn32 fun _ _ => rfl, lane2_of_exec _ fun _ _ => rfl,
      lane2_of_exec _ fun _ _ => rfl, lane2_of_exec _ fun _ _ => rfl, lane2_of_exec _ fun _ _ => rfl⟩
  · exact ⟨lane2_of_exec shl32 shl32_eq_left, lane2_of_exec shr32 shr32_eq_right, lane2_of_exec sar32 sar32_eq_arith⟩
  · exact ⟨lane2_of_exec min32 min32_eq, lane2_of_exec max32 max32_eq, lane2_of_exec minn32 minn32_eq,
      lane2_of_exec maxn32 maxn32_eq, lane2_of_exec _ fun _ _ => satS_eq_clamped _,
      lane2_of_exec _ fun _ _ => satS_eq_clamped _, lane2_of_exec _ fun _ _ => satN_eq_clamped _,
      lane2_of_exec _ fun _ _ => satN_eq_clamped _, lane2_of_exec absd32 fun _ _ => rfl⟩
  · refine ⟨lane2_of_exec bfxn32 bfxn32_eq_field, lane2_of_exec bfx32 bfx32_eq_signedField, ?_⟩
    intro s x e n d a b h
    simp only [← bfi32_eq_inserted]
    exact State.laneOp_writes (uses := [.src a, .src b, .src d]) h _
  · exact ⟨uniform2_of_exec _ fun _ _ => rfl, uniform2_of_exec _ fun _ _ => rfl, uniform2_of_exec _ fun _ _ => rfl,
      uniform2_of_exec _ fun _ _ => rfl, uniform2_of_exec _ fun _ _ => rfl, uniform2_of_exec _ fun _ _ => rfl,
      uniform2_of_exec shl32 shl32_eq_left, uniform2_of_exec shr32 shr32_eq_right, uniform2_of_exec sar32 sar32_eq_arith,
      uniform2_of_exec min32 min32_eq, uniform2_of_exec max32 max32_eq⟩
  · intro e n d a i
    simp only [List.forall_mem_cons, List.not_mem_nil, false_imp_iff, implies_true, and_true]
    and_intros <;> rfl

/-- Settles O13: the same for one source and for an immediate; SEL, KGET and the constants have their own list of uses. -/
theorem unaryImmediateAndConstantForms : Obligations.UnaryImmediateAndConstantForms := by
  unfold Obligations.UnaryImmediateAndConstantForms
  refine ⟨?_, ?_, ?_, ?_, ?_, ?_, ?_, ?_, ?_, ?_, ?_⟩
  · exact fun s x e n d a k h => State.laneOp_writes (uses := [.src a, .src d]) h _
  · exact ⟨lane1_of_exec _ fun _ => rfl, lane1_of_exec _ fun _ => rfl, lane1_of_exec _ zero_sub_eq_ofInt_neg,
      lane1_of_exec abs32 abs32_eq, lane1_of_exec clz32 clz32_eq, lane1_of_exec popc32 popc32_eq,
      lane1_of_exec brev32 brev32_eq_reverse, lane1_of_exec sextb32 sextb32_eq, lane1_of_exec sexth32 sexth32_eq,
      lane1_of_exec zextb32 zextb32_eq, lane1_of_exec zexth32 zexth32_eq⟩
  · exact ⟨uniform1_of_exec _ fun _ => rfl, uniform1_of_exec _ fun _ => rfl, uniform1_of_exec _ zero_sub_eq_ofInt_neg,
      uniform1_of_exec clz32 clz32_eq, uniform1_of_exec popc32 popc32_eq⟩
  · exact ⟨lane1i_of_exec _ fun _ _ => rfl, lane1i_of_exec _ fun _ _ => rfl, lane1i_of_exec _ fun _ _ => rfl,
      lane1i_of_exec _ fun _ _ => rfl, lane1i_of_exec _ shl32_imm_eq_left, lane1i_of_exec _ shr32_imm_eq_right,
      lane1i_of_exec _ sar32_imm_eq_arith, lane1i_of_exec _ fun _ _ => rfl⟩
  · exact ⟨uniform1i_of_exec _ fun _ _ => rfl, uniform1i_of_exec _ fun _ _ => rfl, uniform1i_of_exec _ fun _ _ => rfl,
      uniform1i_of_exec _ shl32_imm_eq_left, uniform1i_of_exec _ shr32_imm_eq_right⟩
  · exact fun s x e d i h => State.laneOp_writes (uses := []) h _
  · intro s x e d i h
    simp only [← ldh32_eq]
    exact State.laneOp_writes (uses := [.src d]) h _
  · exact fun s x e d i h => State.uniOp_writes (uses := []) h _
  · intro s x e d i h
    simp only [← ldh32_eq]
    exact State.uniOp_writes (uses := [.src d]) h _
  · exact fun s x e n d k h => State.laneOp_writes (uses := []) h _
  · exact fun e n d a k => ⟨rfl, rfl⟩

/-- Settles O14: each form runs as the 64-bit shape, lane by lane or uniform, with the stated sum or product. -/
theorem wideAddressForms : Obligations.WideAddressForms := by
  unfold Obligations.WideAddressForms
  refine ⟨?_, ?_, ?_, ?_, ?_, ?_, ?_, ?_⟩
  · exact fun s x e n d a b h => ⟨State.laneOp64_writes (uses := [.pair a, .pair b]) h _,
      State.laneOp64_writes (uses := [.pair a, .pair b]) h _⟩
  · exact fun s x e n d a b h => ⟨State.laneOp64_writes (uses := [.src a, .src b]) h _,
      State.laneOp64_writes (uses := [.src a, .src b]) h _⟩
  · exact fun s x e n d a b h => State.laneOp64_writes (uses := [.pair a, .src b]) h _
  · exact fun s x e n d a i h => State.laneOp64_writes (uses := [.pair a]) h _
  · exact fun s x e n d a b h => State.uniOp64_writes (uses := [.pair a, .pair b]) h _
  · exact fun s x e n d a b h => State.uniOp64_writes (uses := [.src a, .src b]) h _
  · exact fun s x e n d a i h => State.uniOp64_writes (uses := [.pair a]) h _
  · intro e n d a b i
    simp only [List.forall_mem_cons, List.not_mem_nil, false_imp_iff, implies_true, and_true]
    and_intros <;> rfl

/-- Settles O15: the compares run as the predicate shape or the uniform one, with the stated relation; a U-form reads in the
lowest lane of the path, so RDL's value is what it reads. -/
theorem compareAndPredicateForms : Obligations.CompareAndPredicateForms := by
  unfold Obligations.CompareAndPredicateForms
  refine ⟨?_, ?_, ?_, ?_, ?_, ?_⟩
  · exact ⟨pred2_of_exec _ fun _ _ => rfl, pred2_of_exec _ fun _ _ => decide_not.symm, pred2_of_exec _ fun _ _ => rfl,
      pred2_of_exec _ fun _ _ => rfl, pred2_of_exec _ fun _ _ => rfl, pred2_of_exec _ fun _ _ => rfl,
      pred1i_of_exec _ fun _ _ => rfl, pred1i_of_exec _ slt_signExtend, pred1i_of_exec _ ult_setWidth,
      pred2x_of_exec _ fun _ _ => rfl, pred2x_of_exec _ fun _ _ => rfl⟩
  · refine ⟨uniform2_of_exec _ word01_beq, uniform2_of_exec _ word01_bne, uniform2_of_exec _ word01_slt,
      uniform2_of_exec _ word01_ult, ?_⟩
    intro s x e n d a b h
    rw [← word01_slt]
    exact State.uniOp_writes (uses := [.pair a, .pair b]) h _
  · exact ⟨predK_of_exec _, predK_of_exec _, predK_of_exec _, predK_of_exec _⟩
  · exact fun s x e k a i h => State.lanePred_writes (uses := [.src a]) h _
  · exact fun s x e n d a h => State.uniOp_writes (uses := [.anyLane a]) h _
  · intro e k a b i
    simp only [List.forall_mem_cons, List.not_mem_nil, false_imp_iff, implies_true, and_true]
    and_intros <;> rfl

end Sys2Proof.Claims
end

section
/-! SUPPORT. Uniform branches, and the instructions that only go on: one target for the whole path, a new region, an empty
instruction cache (R98, R100, R102, R113, R240). -/

namespace Sys2Proof.Machine

/-- An instruction that judges no operand runs wherever a run is in focus. -/
theorem UniformReady.of_ctx {s : State} {x : Ctx} (h : s.ctx = some x) : UniformReady s x [] := ⟨h, rfl⟩

/-- A uniform branch moves the path to its target, with the s registers it may have written (R96, R98). -/
theorem State.moveAll_moves (s : State) (x : Ctx) (sv : Vector Word 32) (target : Word) :
    MovesTo s (s.moveAll x { x.grp with s := sv } target) x target sv :=
  State.branch_moves (back := fun _ => [x.run.mask]) rfl fun _ hl => Group.th_mapLanes { x.grp with s := sv } _ _ hl

/-- A path at PC + 4 by a U-form without result. -/
theorem State.finish_next (s : State) (x : Ctx) (e : Bool) (b : Latch) :
    Ran s (s.finish x x.grp e b) x e b (fun _ th => th.next) x.grp.s :=
  State.finish_ran (f := fun _ th => th) rfl fun _ _ => (ite_self _).symm

/-- What an acquire at a scope of a PHASE discards (R195, R203, R240). -/
theorem State.acquireAt_toNat (s : State) (c : Nat) (sc : BitVec 3) : s.acquireAt c sc.toNat =
    if sc = 0 then s.setCore c { s.core c with snap := [], old := [] }
    else { s.setCore c { s.core c with snap := [], old := [] } with
      constants := tput s.constants (hwCluster c) []
      constantsOld := tput s.constantsOld (hwCluster c) [] } :=
  ite_congr (propext (BitVec.toNat_inj (y := 0))) (fun _ => rfl) fun _ => rfl

end Sys2Proof.Machine

namespace Sys2Proof.Claims

open Sys2Proof.Machine

/-- The low two bits of a target tell whether it is a multiple of 4. -/
theorem low_bits_iff_not_aligned (w : Word) : (w.getLsbD 0 || w.getLsbD 1) = true ↔ ¬Aligned w := by
  simp only [Aligned, BitVec.getLsbD, Nat.testBit_eq_decide_div_mod_eq, Bool.or_eq_true, decide_eq_true_eq]
  omega

/-- Settles O23: each form judges its uses and then moves the whole path, or traps. -/
theorem uniformBranches : Obligations.UniformBranches := by
  unfold Obligations.UniformBranches
  refine ⟨fun s x d h => ⟨_, State.uform_eq (i := .ubra d) (.of_ctx h) _, State.moveAll_moves ..⟩, fun s x a d h => ⟨?_, ?_⟩,
    fun s x d h => ⟨_, State.uform_eq h _, State.moveAll_moves ..⟩,
    fun s x d c h hj hf => ⟨_, State.uform_trap _ _ h hj, State.trapPath_enters hf ..⟩,
    fun s x a h ha => ?_, fun s x a h ha hf => ?_⟩
  · exact ⟨_, State.uform_eq h _, State.moveAll_moves ..⟩
  · exact ⟨_, State.uform_eq h _, State.moveAll_moves ..⟩
  · exact ⟨_, (State.uform_eq h _).trans (if_neg fun e => (low_bits_iff_not_aligned _).mp e ha), State.moveAll_moves ..⟩
  · exact ⟨_, (State.uform_eq h _).trans (if_pos ((low_bits_iff_not_aligned _).mpr ha)), State.trapPath_enters hf ..⟩

/-- Settles O29: the forms that go on, in the run or at its end, from the state as their own effect leaves it. -/
theorem regionUnopFenceAndPhase : Obligations.RegionUnopFenceAndPhase := by
  unfold Obligations.RegionUnopFenceAndPhase
  refine ⟨fun s x h => ⟨_, State.withRun_eq h _, State.finishCommit_moves s x⟩,
    fun s x e h => ⟨_, State.withRun_eq h _, State.finish_next ..⟩, fun e => ?_, fun s x h => ⟨_, State.withRun_eq h _, ?_⟩,
    fun s x sc k h hmet => ?_⟩
  · cases e <;> rfl
  · have hran := State.finish_next (s.setCore x.c { s.core x.c with icache := [] }) x true (.uniform 0)
    refine ⟨?_, hran⟩
    have hcore := congrArg Core.icache (hran.2.1.rest x.c)
    rwa [State.core_setCore_same] at hcore
  · have hgo : (k.getLsbD 1 && !(s.core x.c).releaseMet (s.partOf x.grp.launch) (s.core x.c).nextId sc.toNat (.phase x.g)) ≠ true := by
      rcases hmet with hk | hr
      · rw [hk, Bool.false_and]; exact Bool.false_ne_true
      · rw [hr, Bool.not_true, Bool.and_false]; exact Bool.false_ne_true
    refine ⟨_, (State.uform_eq (i := .phase sc k) (.of_ctx h) _).trans (if_neg hgo), ?_⟩
    cases k.getLsbD 0 with
    | false => exact State.finishCommit_moves s x
    | true =>
      rw [if_neg (by decide), ← State.acquireAt_toNat]
      exact State.finishCommit_moves _ x

/-- Settles O9: at reset no table of the state lists anything, so each unit holds its own reset values. -/
theorem resetLeavesWhatTheRulesGive : Obligations.ResetLeavesWhatTheRulesGive := by
  unfold Obligations.ResetLeavesWhatTheRulesGive
  refine ⟨fun c => ⟨rfl, rfl, rfl, fun g => rfl⟩, fun c t => ⟨rfl, fun a => ⟨rfl, rfl⟩⟩,
    fun d a => ⟨rfl, rfl, rfl, rfl, rfl, rfl, rfl⟩, fun p => ?_,
    fun i => ⟨rfl, rfl, rfl, rfl, rfl, rfl, rfl, rfl, rfl, rfl, rfl, rfl, rfl⟩, rfl, rfl, rfl, rfl, rfl⟩
  have hp : State.reset.partition p = Partition.reset := rfl
  rw [hp]
  exact ⟨rfl, rfl, rfl, rfl, rfl, rfl, rfl, rfl, rfl, rfl, rfl, fun k => Vector.getElem_replicate _, rfl, rfl, rfl, rfl, rfl, rfl, rfl, rfl, rfl,
    rfl, rfl, rfl, rfl, fun k => Vector.getElem_replicate _⟩

end Sys2Proof.Claims
end

section
/-! SUPPORT. What the exit of threads brings about, once: the judging of masks and barriers lets waiting threads go on and
changes no other thread, no byte and no block; then the block ends, or stands whole (R153, R167, R169, R170). -/

namespace Sys2Proof.Machine

open Sys2Proof.Claims (released OthersKeep)

/-! ## Threads that wait go on -/

/-- A group as the judging of its masks and barriers leaves it: what `KeepsGroup` says, and a thread that is not as it was
did wait and has been released. -/
structure WaitersGoOn (a b : Group) : Prop where
  keeps : KeepsGroup a b
  th : ∀ l, l < 32 → b.th l = a.th l ∨ (a.th l).standing.waiting = true ∧ b.th l = released (a.th l)

namespace WaitersGoOn

theorem refl (a : Group) : WaitersGoOn a a := ⟨.refl a, fun _ _ => .inl rfl⟩

theorem trans {a b c : Group} (h : WaitersGoOn a b) (k : WaitersGoOn b c) : WaitersGoOn a c where
  keeps := h.keeps.trans k.keeps
  th l hl := by
    rcases h.th l hl with e | ⟨hw, e⟩
    · rw [← e]; exact k.th l hl
    · exact .inr ⟨hw, (k.keeps.th l hl (by rw [e]; rfl)).trans e⟩

theorem since (a : Group) (n : Nat) : WaitersGoOn a { a with since := n } := ⟨.since a n, fun _ _ => .inl rfl⟩

theorem kind {a b : Group} (h : WaitersGoOn a b) {l : Nat} (hl : l < 32) : (b.th l).kind = (a.th l).kind := by
  rcases h.th l hl with e | ⟨_, e⟩
  · rw [e]
  · rw [e]; rfl

/-- No thread exits by it, and none comes back. -/
theorem exited_iff {a b : Group} (h : WaitersGoOn a b) {l : Nat} (hl : l < 32) :
    (b.th l).standing = .exited ↔ (a.th l).standing = .exited := by
  rcases h.th l hl with e | ⟨hw, e⟩
  · rw [e]
  · rw [e]
    refine ⟨fun k => ?_, fun k => ?_⟩
    · cases k
    · rw [k] at hw; cases hw

theorem block {a b : Group} (h : WaitersGoOn a b) : b.block = a.block := by
  obtain ⟨_, _, _, _, _, rfl⟩ := h.keeps.rest; rfl

theorem queue {a b : Group} (h : WaitersGoOn a b) (q : Nat) : b.queue q = a.queue q := by
  obtain ⟨_, _, _, _, _, rfl⟩ := h.keeps.rest; rfl

end WaitersGoOn

theorem Group.release_goOn (g : Group) (m : LaneMask) (h : ∀ l, l < 32 → m.getLsbD l → (g.th l).standing.waiting = true) :
    WaitersGoOn g (g.release m) where
  keeps := Group.release_keeps g m h
  th l hl := by
    rw [Group.release_th g m hl]
    split
    · exact .inr ⟨h l hl ‹_›, rfl⟩
    · exact .inl rfl

theorem Group.judge_goOn (g : Group) (i : Nat) : WaitersGoOn g (g.judge i) where
  keeps := g.judge_keeps i
  th l hl := by
    rw [Group.judge_eq]
    split
    · split
      · exact .inl rfl
      · refine (Group.release_goOn g _ fun j hj hm => ?_).th l hl
        rw [BitVec.getLsbD_and, Group.lanesWith_getLsbD _ _ hj, Bool.and_eq_true, beq_iff_eq] at hm
        rw [hm.2]; rfl
    · exact .inl rfl

theorem Group.judgeAll_goOn (g : Group) : WaitersGoOn g g.judgeAll :=
  List.foldlRecOn _ _ (WaitersGoOn.refl g) fun b hb i _ => hb.trans (b.judge_goOn i)

theorem Group.releaseAt_goOn (g : Group) {st : Standing} (h : st.waiting = true) : WaitersGoOn g (g.releaseAt st) := by
  unfold Group.releaseAt
  extract_lets m
  split
  · exact .refl g
  · exact Group.release_goOn g m fun l hl hm => by
      rw [Group.lanesWith_getLsbD _ _ hl, beq_iff_eq] at hm; rw [hm]; exact h

/-! ## Groups that are over and spent -/

/-- A group is over where every lane that holds a thread has exited (R169). -/
theorem Group.over_iff (g : Group) : g.over = true ↔ ∀ l, l < 32 → (g.th l).kind ≠ .absent → (g.th l).standing = .exited := by
  have bit : ∀ l, l < 32 → ((g.presentMask &&& ~~~(g.lanesWith fun t => t.standing == .exited)).getLsbD l = false ↔
      ((g.th l).kind ≠ .absent → (g.th l).standing = .exited)) := by
    intro l hl
    rw [BitVec.getLsbD_and, BitVec.getLsbD_not, Group.presentMask, Group.lanesWith_getLsbD _ _ hl, Group.lanesWith_getLsbD _ _ hl]
    simp [hl]
  rw [Group.over, beq_iff_eq]
  refine ⟨fun h l hl => (bit l hl).mp ?_, fun h => BitVec.eq_of_getLsbD_eq fun l hl => ?_⟩
  · rw [h]; exact BitVec.getLsbD_zero
  · exact ((bit l hl).mpr (h l hl)).trans BitVec.getLsbD_zero.symm

theorem WaitersGoOn.over {a b : Group} (h : WaitersGoOn a b) : b.over = a.over := by
  rw [Bool.eq_iff_iff, Group.over_iff, Group.over_iff]
  refine forall_congr' fun l => forall_congr' fun hl => ?_
  rw [h.kind hl, h.exited_iff hl]

theorem WaitersGoOn.spent {a b : Group} (h : WaitersGoOn a b) : b.spent = a.spent := by
  simp only [Group.spent, h.over, h.queue]

theorem Group.spent_iff (g : Group) : g.spent = true ↔ g.over = true ∧ ∀ q ∈ commandQueues, g.queue q = [] := by
  simp [Group.spent]

/-! ## The barriers of a block -/

/-- The places of bytes: the memories, and the blocks with theirs. -/
def State.places (s : State) : Mem × Mem × Tbl Mem × Mem × Tbl (Option Block) := (s.mem, s.hostMem, s.peerMem, s.chip, s.blocks)

theorem State.block_of_places {s t : State} (h : t.places = s.places) (b : Nat) : t.block b = s.block b := by
  simp only [State.places, Prod.mk.injEq] at h
  simp only [State.block, h]

theorem State.byteAt_of_places {s t : State} (h : t.places = s.places) (l : Loc) : t.byteAt l = s.byteAt l := by
  have hb := State.block_of_places h
  simp only [State.places, Prod.mk.injEq] at h
  simp only [State.byteAt, h, hb]

/-- What holds of a state holds after a change of some blocks' groups, if it holds after one group is put back changed. -/
theorem State.mapGroups_rec {P : State → Prop} {f : Group → Group} (bs : List (Nat × Nat))
    (put : ∀ t c g x, t.group c g = some x → P t → P (t.putGroup c g (f x))) {s : State} (h : P s) : P (s.mapGroups bs f) := by
  refine List.foldlRecOn _ _ h fun t ht p _ => List.foldlRecOn _ _ ht fun u hu g _ => ?_
  split
  · exact put _ _ _ _ ‹_› hu
  · exact hu

/-- The judging of a block's barriers is made of acquires, and of groups whose waiting threads are released (R170). -/
theorem State.judgeBarriers_rec {P : State → Prop} (acquire : ∀ t c scope, P t → P (t.acquireAt c scope))
    (put : ∀ t c g x st, st.waiting = true → t.group c g = some x → P t → P (t.putGroup c g (x.releaseAt st)))
    {s : State} (b : Nat) (h : P s) : P (s.judgeBarriers b) := by
  unfold State.judgeBarriers
  split
  · exact h
  · rename_i blk _
    have hbar : P (s.judgeBar b) := by
      unfold State.judgeBar
      split
      · exact h
      · extract_lets bs owed
        split
        · exact State.mapGroups_rec _ (fun t c g x hx => put t c g x .bar rfl hx) (acquire _ _ _ h)
        · exact h
    unfold State.judgeBarc
    extract_lets bs owed
    split
    · exact State.mapGroups_rec _ (fun t c g x hx => put t c g x .barc rfl hx)
        (List.foldlRecOn _ _ hbar fun t ht p _ => acquire t p.2 1 ht)
    · exact hbar

theorem State.places_setGroup (s : State) (c g : Nat) (x : Group) : (s.setGroup c g x).places = s.places := rfl
theorem State.places_putGroup (s : State) (c g : Nat) (x : Group) : (s.putGroup c g x).places = s.places := rfl

theorem State.places_setLaunch (s : State) (n : Nat) (x : Launch) : (s.setLaunch n x).places = s.places := rfl

theorem State.places_acquireAt (s : State) (c scope : Nat) : (s.acquireAt c scope).places = s.places := by
  unfold State.acquireAt
  extract_lets s1
  split <;> rfl

theorem State.places_judgeBarriers (s : State) (b : Nat) : (s.judgeBarriers b).places = s.places :=
  State.judgeBarriers_rec (P := fun t => t.places = s.places) (fun t c scope h => (t.places_acquireAt c scope).trans h)
    (fun t c g _ _ _ _ h => (t.places_putGroup c g _).trans h) b rfl

theorem exists_of_rel_some_left {α : Type} {r : α → α → Prop} {a : α} {o : Option α} (h : Option.Rel r (some a) o) :
    ∃ b, o = some b ∧ r a b := by
  cases h with | some h => exact ⟨_, rfl, h⟩

theorem exists_of_rel_some_right {α : Type} {r : α → α → Prop} {b : α} {o : Option α} (h : Option.Rel r o (some b)) :
    ∃ a, o = some a ∧ r a b := by
  cases h with | some h => exact ⟨_, rfl, h⟩

/-- In every slot the group stands, and at most its waiting threads go on; an empty slot is empty. -/
def OnlyWaitersGoOn (s t : State) : Prop := ∀ c g, Option.Rel WaitersGoOn (s.group c g) (t.group c g)

theorem OnlyWaitersGoOn.refl (s : State) : OnlyWaitersGoOn s s := by
  intro c g
  cases s.group c g with
  | none => exact .none
  | some x => exact .some (.refl x)

theorem OnlyWaitersGoOn.trans {s t u : State} (h : OnlyWaitersGoOn s t) (k : OnlyWaitersGoOn t u) : OnlyWaitersGoOn s u := by
  intro c g
  have hc := h c g
  have kc := k c g
  generalize s.group c g = a at hc
  generalize t.group c g = b at hc kc
  generalize u.group c g = d at kc
  cases hc with
  | none => exact kc
  | some hab => cases kc with | some hbd => exact .some (hab.trans hbd)

theorem OnlyWaitersGoOn.putGroup {s : State} {c g : Nat} {x y : Group} (hx : s.group c g = some x) (h : WaitersGoOn x y) :
    OnlyWaitersGoOn s (s.putGroup c g y) := by
  intro c' g'
  by_cases e : c = c' ∧ g = g'
  · obtain ⟨rfl, rfl⟩ := e
    obtain ⟨n, hn⟩ := s.putGroup_group c g y
    rw [hx, hn]
    exact .some (h.trans (.since y n))
  · rw [State.putGroup_group_ne s y e]
    exact OnlyWaitersGoOn.refl s c' g'

theorem State.acquireAt_group (s : State) (c scope c' g : Nat) : (s.acquireAt c scope).group c' g = s.group c' g := by
  unfold State.acquireAt
  extract_lets
  have h1 := State.group_setCore s c { s.core c with snap := [], old := [] } rfl c' g
  split
  · exact h1
  · exact h1

theorem State.judgeBarriers_goOn (s : State) (b : Nat) : OnlyWaitersGoOn s (s.judgeBarriers b) := by
  refine State.judgeBarriers_rec (P := OnlyWaitersGoOn s) (fun t c scope h => h.trans fun c' g => ?_)
    (fun t c g x st hst hx h => h.trans (.putGroup hx (x.releaseAt_goOn hst))) b (.refl s)
  rw [State.acquireAt_group]
  exact OnlyWaitersGoOn.refl t c' g

/-! ## The end of a block -/

theorem Core.mem_slotsOf (k : Core) (b g : Nat) : g ∈ k.slotsOf b ↔ g < 32 ∧ ∃ x, k.group g = some x ∧ x.block = b := by
  rw [Core.slotsOf, List.mem_filter, List.mem_range]
  cases k.group g with
  | none => simp
  | some x => simp

/-- A slot of a block that ends becomes free, and what its group left for the host stays (R153, R169). -/
def State.quitSlot (b c : Nat) (s : State) (g : Nat) : State :=
  let t := (s.group c g).elim s fun x => s.leaveMail x (s.blockIndex b)
  t.setCore c ((t.core c).freeSlot g)

/-- A block ends: its pins are released, its slots become free, and its core may take up what it had stopped. -/
def State.blockEnds (s : State) (b : Nat) (blk : Block) : State :=
  ((((s.core blk.core).slotsOf b).foldl (State.quitSlot b blk.core) (s.releasePins blk.core b)).setBlock b
    { blk with ended := true }).restop blk.core

/-- The groups of a block on a core are all spent. -/
def State.allSpent (s : State) (b c : Nat) : Prop :=
  ∀ g x, g < 32 → s.group c g = some x → x.block = b → x.spent = true

theorem State.slots_spent_iff (s : State) (b c : Nat) :
    ((s.core c).slotsOf b).all (fun g => match s.group c g with | some x => x.spent | none => true) = true ↔ s.allSpent b c := by
  rw [List.all_eq_true]
  refine ⟨fun h g x hg hx hb => ?_, fun h g hg => ?_⟩
  · have := h g ((Core.mem_slotsOf _ _ _).mpr ⟨hg, x, hx, hb⟩)
    rwa [hx] at this
  · obtain ⟨hl, x, hx, hb⟩ := (Core.mem_slotsOf _ _ _).mp hg
    have hx : s.group c g = some x := hx
    rw [hx]
    exact h g x hl hx hb

/-- A block that has ended, and one of which some group is not spent, stands. -/
theorem State.endBlock_stands {s : State} {b : Nat} (h : ∀ blk, s.block b = some blk → blk.ended = false → ¬s.allSpent b blk.core) :
    s.endBlock b = s := by
  unfold State.endBlock
  split
  · rfl
  · rename_i blk hb
    refine if_pos ?_
    cases he : blk.ended with
    | true => rfl
    | false =>
      have := h blk hb he
      rw [← State.slots_spent_iff, Bool.not_eq_true] at this
      rw [Bool.false_or, Bool.not_eq_true']
      exact this

/-- Where all are spent, it ends. -/
theorem State.endBlock_ends {s : State} {b : Nat} {blk : Block} (hb : s.block b = some blk) (he : blk.ended = false)
    (hs : s.allSpent b blk.core) :
    s.endBlock b = s.blockEnds b blk ∨ ∃ n l, s.endBlock b = (s.blockEnds b blk).setLaunch n l := by
  unfold State.endBlock
  split
  · rename_i h
    cases h.symm.trans hb
  · rename_i blk' h
    cases h.symm.trans hb
    extract_lets slots spent s1 s2 s3
    have h2 : s2 = slots.foldl (State.quitSlot b blk.core) s1 := by
      refine congrArg (fun f => slots.foldl f s1) (funext fun u => funext fun g => ?_)
      unfold State.quitSlot
      cases u.group blk.core g with
      | none => rfl
      | some x => rfl
    have h3 : s3 = s.blockEnds b blk := congrArg (fun u => (u.setBlock b { blk with ended := true }).restop blk.core) h2
    have hspent : spent = true := (State.slots_spent_iff ..).mpr hs
    rw [if_neg (by rw [he, hspent]; decide), ← h3]
    clear_value s3
    cases s3.launch blk.launch with
    | none => exact .inl rfl
    | some l => exact .inr ⟨_, _, rfl⟩

theorem State.places_startRelease (s : State) (c part scope : Nat) (why : ReleaseFor) :
    (s.startRelease c part scope why).places = s.places := by
  unfold State.startRelease
  extract_lets k
  split
  · rfl
  · rfl

theorem State.places_dropPin (s : State) (c slot : Nat) (p : Pin) : (s.dropPin c slot p).places = s.places := by
  unfold State.dropPin State.askManager
  extract_lets core met s1
  rw [if_pos rfl, State.places_startRelease]
  rfl

theorem State.places_releasePins (s : State) (c b : Nat) : (s.releasePins c b).places = s.places := by
  refine List.foldlRecOn (motive := fun t : State => t.places = s.places) _ _ rfl fun t ht i _ => ?_
  split
  · split
    · rw [State.places_dropPin]; exact ht
    · exact ht
  · exact ht

theorem State.places_quitSlot (s : State) (b c g : Nat) : (State.quitSlot b c s g).places = s.places := by
  unfold State.quitSlot
  cases s.group c g with
  | none => rfl
  | some x => rfl

theorem State.places_restop (s : State) (c : Nat) : (s.restop c).places = s.places := by
  refine List.foldlRecOn (motive := fun t : State => t.places = s.places) _ _ rfl fun t ht g _ => ?_
  split
  · exact (State.places_putGroup ..).trans ht
  · exact ht

theorem State.quitSlot_group_same (s : State) (b c g : Nat) : (State.quitSlot b c s g).group c g = none := by
  unfold State.quitSlot
  extract_lets t
  rw [State.group, State.core_setCore_same]
  exact Core.group_setGroup_same ..

theorem State.quitSlot_group_ne (s : State) (b : Nat) {c g c' g' : Nat} (h : ¬(c = c' ∧ g = g')) :
    (State.quitSlot b c s g).group c' g' = s.group c' g' := by
  unfold State.quitSlot
  extract_lets t
  rw [State.freeSlot_group t h]
  show ((s.group c g).elim s fun x => s.leaveMail x (s.blockIndex b)).group c' g' = _
  cases s.group c g with
  | none => rfl
  | some x => rfl

/-- The slots that are quit are empty, and an empty slot is empty still. -/
theorem State.quitSlots_group {b c g : Nat} {gs : List Nat} {s : State} (h : g ∈ gs ∨ s.group c g = none) :
    (gs.foldl (State.quitSlot b c) s).group c g = none := by
  induction gs generalizing s with
  | nil => exact h.resolve_left List.not_mem_nil
  | cons i is ih =>
    refine ih ?_
    by_cases hi : i = g
    · subst hi; exact .inr (State.quitSlot_group_same ..)
    · rw [State.quitSlot_group_ne s b fun e => hi e.2]
      exact h.imp_left fun hm => (List.mem_cons.mp hm).resolve_left fun e => hi e.symm

theorem State.restop_group_none {s : State} (c : Nat) {c' g : Nat} (h : s.group c' g = none) : (s.restop c).group c' g = none := by
  refine List.foldlRecOn (motive := fun t : State => t.group c' g = none) _ _ h fun t ht i _ => ?_
  split
  · rename_i x hx
    rwa [State.putGroup_group_ne]
    rintro ⟨rfl, rfl⟩
    cases hx.symm.trans ht
  · exact ht

/-- When a block ends its record says so, and its slots are empty. -/
theorem State.blockEnds_block (s : State) (b : Nat) (blk : Block) : (s.blockEnds b blk).block b = some { blk with ended := true } := by
  rw [State.blockEnds, State.block_of_places (State.places_restop ..), State.block_setBlock_same]

theorem State.blockEnds_group {s : State} {b g : Nat} (blk : Block) (hg : g < 32)
    (h : ∀ x, s.group blk.core g = some x → x.block = b) : (s.blockEnds b blk).group blk.core g = none := by
  refine State.restop_group_none _ (State.quitSlots_group ?_)
  cases hx : s.group blk.core g with
  | none => exact .inr ((State.releasePins_group ..).trans hx)
  | some x => exact .inl ((Core.mem_slotsOf _ _ _).mpr ⟨hg, x, hx, h x hx⟩)

theorem State.endBlock_ended {s : State} {b : Nat} {blk : Block} (hb : s.block b = some blk) (he : blk.ended = false)
    (hs : s.allSpent b blk.core) : (s.endBlock b).block b = some { blk with ended := true } ∧
      ∀ g, g < 32 → (∀ x, s.group blk.core g = some x → x.block = b) → (s.endBlock b).group blk.core g = none := by
  have hends : (s.blockEnds b blk).block b = some { blk with ended := true } ∧
      ∀ g, g < 32 → (∀ x, s.group blk.core g = some x → x.block = b) → (s.blockEnds b blk).group blk.core g = none :=
    ⟨s.blockEnds_block b blk, fun _ hg h => State.blockEnds_group blk hg h⟩
  rcases State.endBlock_ends hb he hs with h | ⟨n, la, h⟩
  · rwa [h]
  · simp only [h, State.block_setLaunch, State.group_setLaunch]
    exact hends

/-- A block that is marked ended keeps its bytes. -/
theorem State.byteAt_setBlock_ended {s : State} {b : Nat} {blk : Block} (h : s.block b = some blk) (l : Loc) :
    (s.setBlock b { blk with ended := true }).byteAt l = s.byteAt l := by
  obtain ⟨p, a⟩ := l
  cases p with
  | scratch i | share i | slice i t | tiles i =>
    simp only [State.byteAt, State.block_setBlock]
    by_cases e : b = i
    · subst e; simp only [if_true, h]
    · simp only [e, if_false]
  | _ => rfl

theorem State.blockEnds_byteAt {s : State} {b : Nat} {blk : Block} (h : s.block b = some blk) (l : Loc) :
    (s.blockEnds b blk).byteAt l = s.byteAt l := by
  have hq : (((s.core blk.core).slotsOf b).foldl (State.quitSlot b blk.core) (s.releasePins blk.core b)).places = s.places :=
    List.foldlRecOn (motive := fun t : State => t.places = s.places) _ _ (State.places_releasePins ..) fun t ht g _ =>
      (t.places_quitSlot b blk.core g).trans ht
  rw [State.blockEnds, State.byteAt_of_places (State.places_restop ..),
    State.byteAt_setBlock_ended ((State.block_of_places hq b).trans h), State.byteAt_of_places hq]

/-- The end of a block changes no byte. -/
theorem State.endBlock_byteAt (s : State) (b : Nat) (l : Loc) : (s.endBlock b).byteAt l = s.byteAt l := by
  by_cases h : ∃ blk, s.block b = some blk ∧ blk.ended = false ∧ s.allSpent b blk.core
  · obtain ⟨blk, hb, he, hs⟩ := h
    rw [← State.blockEnds_byteAt hb]
    rcases State.endBlock_ends hb he hs with e | ⟨n, la, e⟩
    · rw [e]
    · rw [e]; exact State.byteAt_of_places (State.places_setLaunch ..) l
  · rw [State.endBlock_stands fun blk hb he hs => h ⟨blk, hb, he, hs⟩]

/-! ## A group of which threads have exited -/

/-- The queues that a dead group discards: its status queues and hqm's inbound half (R169). -/
def statusQueues : List Nat := [1, 3, 5, 7, 9, 10, 11, 12, 13]

theorem Group.queue_of_le (g : Group) {q : Nat} (h : 15 ≤ q) : g.queue q = [] := by
  rw [Group.queue, Vector.getElem?_eq_none h]; rfl

/-- Some queues of a group are emptied. -/
def Group.emptied (g : Group) (qs : List Nat) : Group := qs.foldl (fun g q => g.setQueue q []) g

theorem Group.emptyStatus_eq (g : Group) : g.emptyStatus = g.emptied statusQueues := rfl

theorem Group.emptied_eq (g : Group) (qs : List Nat) : g.emptied qs = { g with queues := (g.emptied qs).queues } := by
  induction qs generalizing g with
  | nil => rfl
  | cons q qs ih => exact ih (g.setQueue q [])

theorem Group.emptied_th (g : Group) (qs : List Nat) (l : Nat) : (g.emptied qs).th l = g.th l := by
  refine Group.th_congr ?_ l
  rw [Group.emptied_eq]

theorem Group.emptied_over (g : Group) (qs : List Nat) : (g.emptied qs).over = g.over := by
  rw [Bool.eq_iff_iff, Group.over_iff, Group.over_iff]
  simp only [Group.emptied_th]

theorem Group.emptied_queue (g : Group) (qs : List Nat) (q : Nat) :
    (g.emptied qs).queue q = if q ∈ qs then [] else g.queue q := by
  induction qs generalizing g with
  | nil => rfl
  | cons p ps ih =>
    refine (ih (g.setQueue p [])).trans ?_
    rw [Group.queue_setQueue]
    by_cases hq : q ∈ ps
    · simp only [hq, List.mem_cons, or_true, if_true]
    · by_cases e : p = q
      · subst e
        by_cases hl : p < 15
        · simp only [hl, and_self, if_true, ite_self, List.mem_cons, true_or]
        · simp only [hl, and_false, Group.queue_of_le _ (Nat.le_of_not_lt hl), ite_self]
      · simp only [hq, e, Ne.symm e, false_and, if_false, List.mem_cons, or_self]

/-- A group after threads of it have exited, before its block's barriers are judged: settled, its masks judged, its status
queues emptied if none is left (R136, R167, R169). -/
def Group.exitJudged (a : Group) : Group :=
  if a.settle.judgeAll.over then a.settle.judgeAll.emptyStatus else a.settle.judgeAll

/-- What then stands of a group: `y` is `a` settled but for its threads, their lists and its queues; a thread that does not wait
is as it was. -/
structure StandsAfterExit (a y : Group) : Prop where
  rest : ∃ ts ps hs ar si qs, y = { a.settle with
    threads := ts, paths := ps, handler := hs, arrived := ar, since := si, queues := qs }
  th : ∀ l, l < 32 → (a.th l).standing.waiting = false → y.th l = a.th l
  over_eq : y.over = a.over
  queue_eq : ∀ q, y.queue q = if a.over = true ∧ q ∈ statusQueues then [] else a.queue q

theorem Group.settle_over (a : Group) : a.settle.over = a.over := rfl

theorem Group.exitJudged_stands (a : Group) : StandsAfterExit a a.exitJudged := by
  have hj := a.settle.judgeAll_goOn
  have ho : a.settle.judgeAll.over = a.over := hj.over.trans a.settle_over
  unfold Group.exitJudged
  generalize a.settle.judgeAll = j at hj ho
  obtain ⟨⟨ts, ps, hs, ar, si, e⟩, hth⟩ := hj.keeps
  rw [ho]
  by_cases h : a.over = true
  · rw [if_pos h, Group.emptyStatus_eq]
    refine ⟨⟨ts, ps, hs, ar, si, _, (Group.emptied_eq ..).trans (by rw [e])⟩, fun l hl hw => ?_, ?_, fun q => ?_⟩
    · rw [Group.emptied_th]; exact hth l hl hw
    · rw [Group.emptied_over, ho]
    · rw [Group.emptied_queue, hj.queue]
      simp only [h, true_and]
      rfl
  · rw [if_neg h]
    refine ⟨⟨ts, ps, hs, ar, si, a.queues, e⟩, hth, ho, fun q => ?_⟩
    rw [if_neg fun k => h k.1]
    exact hj.queue q

theorem StandsAfterExit.goOn {a y z : Group} (h : StandsAfterExit a y) (k : WaitersGoOn y z) : StandsAfterExit a z where
  rest := by
    obtain ⟨_, _, _, _, _, qs, rfl⟩ := h.rest
    obtain ⟨ts, ps, hs, ar, si, rfl⟩ := k.keeps.rest
    exact ⟨ts, ps, hs, ar, si, qs, rfl⟩
  th l hl hw := by
    have e := h.th l hl hw
    rw [k.keeps.th l hl (by rw [e]; exact hw), e]
  over_eq := k.over.trans h.over_eq
  queue_eq q := (k.queue q).trans (h.queue_eq q)

/-! ## The run is over, and threads of its group have exited -/

/-- A group stands as `a` at the end of its run, and threads of it have exited: the end of EXIT and of ERET. -/
def State.leave (s : State) (c g : Nat) (a : Group) : State := ((s.setGroup c g a).afterExit c g).unfocus

/-- A core changed beside its groups, and one group set on it: the others are as they were. -/
theorem State.group_setCore_setGroup_ne (s : State) {c g c' g' : Nat} {k : Core} (y : Option Group)
    (hk : k.groups = (s.core c).groups) (h : ¬(c = c' ∧ g = g')) :
    (s.setCore c (k.setGroup g y)).group c' g' = s.group c' g' := by
  by_cases hc : c = c'
  · subst hc
    rw [State.group, State.core_setCore_same, Core.group_setGroup_ne _ _ fun e => h ⟨rfl, e⟩, Core.group, hk]
    rfl
  · rw [State.group, State.core_setCore_ne _ _ hc]
    rfl

/-- Up to the end of the block: the group stands as its exits leave it, of the others only threads that wait go on. -/
theorem State.leave_eq (s : State) (c g : Nat) (a : Group) : ∃ (u : State) (y : Group), s.leave c g a = (u.endBlock a.block).unfocus ∧
    u.places = s.places ∧ u.group c g = some y ∧ StandsAfterExit a y ∧
    ∀ c' g', ¬(c = c' ∧ g = g') → Option.Rel WaitersGoOn (s.group c' g') (u.group c' g') := by
  have h1 : (s.setGroup c g a).group c g = some a := State.group_setGroup_same ..
  unfold State.leave State.afterExit
  rw [h1]
  simp only
  generalize hk : ((s.setGroup c g a).core c).dropReturns g _ = k
  have hgroups : k.groups = ((s.setGroup c g a).core c).groups := by rw [← hk]; rfl
  change ∃ (u : State) (y : Group), ((((s.setGroup c g a).setCore c (k.setGroup g (some a.exitJudged))).judgeBarriers a.block).endBlock a.block).unfocus = _ ∧ _
  generalize hu : (s.setGroup c g a).setCore c (k.setGroup g (some a.exitJudged)) = u
  have hp : u.places = s.places := by rw [← hu]; rfl
  have hg : u.group c g = some a.exitJudged := by
    rw [← hu, State.group, State.core_setCore_same]
    exact Core.group_setGroup_same ..
  have hgo := u.judgeBarriers_goOn a.block
  obtain ⟨y, hy, hay⟩ := exists_of_rel_some_left (hg ▸ hgo c g)
  refine ⟨_, y, rfl, (State.places_judgeBarriers ..).trans hp, hy, a.exitJudged_stands.goOn hay, fun c' g' e => ?_⟩
  have hsame : u.group c' g' = s.group c' g' := by
    rw [← hu, State.group_setCore_setGroup_ne _ _ hgroups e, State.group_setGroup_ne _ _ e]
  exact hsame ▸ hgo c' g'

theorem State.leave_focus (s : State) (c g : Nat) (a : Group) : (s.leave c g a).focus = none := rfl

theorem State.leave_byteAt (s : State) (c g : Nat) (a : Group) (l : Loc) : (s.leave c g a).byteAt l = s.byteAt l := by
  obtain ⟨u, y, e, hp, _⟩ := s.leave_eq c g a
  rw [e, ← State.byteAt_of_places hp l]
  exact State.endBlock_byteAt u a.block l

theorem StandsAfterExit.block {a y : Group} (h : StandsAfterExit a y) : y.block = a.block := by
  obtain ⟨_, _, _, _, _, _, rfl⟩ := h.rest; rfl

theorem Group.spent_of_not_over {g : Group} (h : g.over = false) : g.spent = false := by rw [Group.spent, h, Bool.false_and]

/-- A group that is not over stands, whatever becomes of its block; its core may take it up again. -/
theorem State.leave_group (s : State) (c g : Nat) {a : Group} (h : a.over = false) :
    ∃ y st n, StandsAfterExit a y ∧ (s.leave c g a).group c g = some { y with stopped := st, since := n } := by
  obtain ⟨u, y, e, _, hy, hs, _⟩ := s.leave_eq c g a
  obtain ⟨st, n, hend⟩ := State.endBlock_group u a.block hy (Group.spent_of_not_over (hs.over_eq.trans h))
  exact ⟨y, st, n, hs, by rw [e]; exact hend⟩

section
variable {s : State} {c g : Nat} {a : Group}

/-- Of the groups of `a`'s block on its core, `a`'s own aside, one is not spent. -/
def State.mateLives (s : State) (c g : Nat) (a : Group) : Prop :=
  ∃ g' z, g' < 32 ∧ g' ≠ g ∧ s.group c g' = some z ∧ z.block = a.block ∧ z.spent = false

/-- While a group of the block is not over, or some other is not spent, the block goes on: the group stands, and of the
others only threads that wait go on. -/
theorem State.leave_stands (hg : g < 32) (hc : ∀ b, s.block a.block = some b → b.core = c) (h : a.over = false ∨ s.mateLives c g a) :
    ∃ y, StandsAfterExit a y ∧ (s.leave c g a).group c g = some y ∧ OthersKeep s (s.leave c g a) c g := by
  obtain ⟨u, y, e, hp, hy, hs, hothers⟩ := s.leave_eq c g a
  have hend : u.endBlock a.block = u := by
    refine State.endBlock_stands fun blk hb _ hall => ?_
    rw [State.block_of_places hp] at hb
    rw [hc blk hb] at hall
    rcases h with ho | ⟨g', z, hg', hne, hz, hzb, hzs⟩
    · have := hall g y hg hy hs.block
      rw [Group.spent_of_not_over (hs.over_eq.trans ho)] at this
      cases this
    · obtain ⟨z', hz', hzz⟩ := exists_of_rel_some_left (hz ▸ hothers c g' fun e => hne e.2.symm)
      have := hall g' z' hg' hz' (hzz.block.trans hzb)
      rw [hzz.spent, hzs] at this
      cases this
  rw [hend] at e
  refine ⟨y, hs, by rw [e]; exact hy, fun c' g' z hne hz => ?_⟩
  obtain ⟨z', hz', hzz⟩ := exists_of_rel_some_left (hz ▸ hothers c' g' fun e => hne (by rw [e.1, e.2]))
  obtain ⟨ts, ps, hs, ar, si, rfl⟩ := hzz.keeps.rest
  exact ⟨_, by rw [e]; exact hz', rfl, hzz.keeps.th⟩

/-- With the last group of the block spent, the block ends and its slots are empty. -/
theorem State.leave_ends {blk : Block} (hg : g < 32) (hb : s.block a.block = some blk) (hc : blk.core = c) (he : blk.ended = false)
    (ho : a.over = true) (hq : ∀ q ∈ commandQueues, a.queue q = [])
    (hm : ∀ g' z, g' < 32 → g' ≠ g → s.group c g' = some z → z.block = a.block → z.spent = true) :
    (s.leave c g a).block a.block = some { blk with ended := true } ∧
      ∀ g', g' < 32 → (g' = g ∨ ∃ z, s.group c g' = some z ∧ z.block = a.block) → (s.leave c g a).group c g' = none := by
  obtain ⟨u, y, e, hp, hy, hs, hothers⟩ := s.leave_eq c g a
  have hb' : u.block a.block = some blk := (State.block_of_places hp _).trans hb
  subst hc
  have hall : u.allSpent a.block blk.core := by
    intro g' z' hg' hz' hzb
    by_cases hne : g' = g
    · subst hne
      cases hy.symm.trans hz'
      refine (Group.spent_iff _).mpr ⟨hs.over_eq.trans ho, fun q hq' => ?_⟩
      rw [hs.queue_eq, hq q hq', ite_self]
    · obtain ⟨z, hz, hzz⟩ := exists_of_rel_some_right (hz' ▸ hothers blk.core g' fun e => hne e.2.symm)
      exact hzz.spent.trans (hm g' z hg' hne hz (hzz.block.symm.trans hzb))
  have hslot : ∀ g', (g' = g ∨ ∃ z, s.group blk.core g' = some z ∧ z.block = a.block) →
      ∀ z', u.group blk.core g' = some z' → z'.block = a.block := by
    intro g' hg' z' hz'
    by_cases hne : g' = g
    · subst hne
      cases hy.symm.trans hz'
      exact hs.block
    · obtain ⟨z, hz, hzb⟩ := hg'.resolve_left hne
      obtain ⟨z'', hz'', hzz⟩ := exists_of_rel_some_left (hz ▸ hothers blk.core g' fun e => hne e.2.symm)
      cases hz'.symm.trans hz''
      exact hzz.block.trans hzb
  obtain ⟨hblock, hgroup⟩ := State.endBlock_ended hb' he hall
  rw [e]
  exact ⟨hblock, fun g' hg' hin => hgroup g' hg' (hslot g' hin)⟩

end

/-! ## The lanes that exit -/

/-- Of the lanes that exit, the real threads have, and the helper lanes are finished until their quad is over (R136). -/
def Group.exitMarked (g : Group) (m : LaneMask) : Group :=
  (g.mapLanes (m &&& g.realMask) fun _ t => t.exit).mapLanes (m &&& ~~~g.realMask) fun _ t => { t with standing := .finished }

theorem Group.exitLanes_eq (g : Group) (m : LaneMask) : g.exitLanes m =
    (g.exitMarked m).mapLanes ((g.exitMarked m).lanesWith fun t => t.kind == .helper)
      fun l t => if (g.exitMarked m).quadOver l then t.exit else t := rfl

theorem Group.mapLanes_changed {g h : Group} {ts : Vector Thread 32} (e : h = { g with threads := ts }) (m : LaneMask)
    (f : Nat → Thread → Thread) : h.mapLanes m f = { g with threads := (h.mapLanes m f).threads } := by
  rw [Group.mapLanes_eq]
  generalize (h.mapLanes m f).threads = ts'
  subst e
  rfl

theorem Group.exitLanes_changed {g h : Group} {ts : Vector Thread 32} (e : h = { g with threads := ts }) (m : LaneMask) :
    h.exitLanes m = { g with threads := (h.exitLanes m).threads } := by
  rw [Group.exitLanes_eq]
  exact Group.mapLanes_changed (Group.mapLanes_changed (Group.mapLanes_changed e _ _) _ _) _ _

theorem Group.exitLanes_threads (g : Group) (m : LaneMask) : g.exitLanes m = { g with threads := (g.exitLanes m).threads } :=
  Group.exitLanes_changed (ts := g.threads) rfl m

section
variable (g : Group) (m : LaneMask) {l : Nat} (hl : l < 32)
include hl

theorem Group.exitMarked_th : (g.exitMarked m).th l =
    if m.getLsbD l then (if (g.th l).kind = .real then (g.th l).exit else { g.th l with standing := .finished }) else g.th l := by
  have hreal : g.realMask.getLsbD l = decide ((g.th l).kind = .real) := Group.lanesWith_getLsbD _ _ hl
  rw [Group.exitMarked, Group.th_mapLanes _ _ _ hl, Group.th_mapLanes _ _ _ hl, BitVec.getLsbD_and, BitVec.getLsbD_and,
    BitVec.getLsbD_not, hreal]
  cases m.getLsbD l with
  | false => rfl
  | true => by_cases h : (g.th l).kind = .real <;> simp [h, hl]

theorem Group.exitLanes_th : (g.exitLanes m).th l =
    if (g.th l).kind = .helper ∧ (g.exitMarked m).quadOver l = true then ((g.exitMarked m).th l).exit else (g.exitMarked m).th l := by
  have hkind : ((g.exitMarked m).th l).kind = (g.th l).kind := by
    rw [Group.exitMarked_th g m hl]
    split
    · split <;> rfl
    · rfl
  rw [Group.exitLanes_eq, Group.th_mapLanes _ _ _ hl, Group.lanesWith_getLsbD _ _ hl, hkind]
  by_cases hk : (g.th l).kind = .helper <;> simp [hk]

/-- A real thread exits where it is of the lanes that exit. -/
theorem Group.exitLanes_th_real (hk : (g.th l).kind = .real) :
    (g.exitLanes m).th l = if m.getLsbD l then (g.th l).exit else g.th l := by
  rw [Group.exitLanes_th g m hl, if_neg fun h => (by rw [hk] at h; cases h.1), Group.exitMarked_th g m hl, if_pos hk]

theorem Group.exitLanes_kind : ((g.exitLanes m).th l).kind = (g.th l).kind := by
  rw [Group.exitLanes_th g m hl, Group.exitMarked_th g m hl]
  (repeat' split) <;> rfl

end

/-- With its last real thread every thread of a group has exited, the helper lanes too (R136). -/
theorem Group.exitLanes_over {g : Group} {m : LaneMask}
    (h : ∀ l, l < 32 → (g.th l).kind = .real → m.getLsbD l = true ∨ (g.th l).standing = .exited) : (g.exitLanes m).over = true := by
  have hreal : ∀ l, l < 32 → (g.th l).kind = .real → ((g.exitMarked m).th l).standing = .exited := by
    intro l hl hk
    rw [Group.exitMarked_th g m hl]
    rcases h l hl hk with hm | he
    · rw [if_pos hm, if_pos hk]; rfl
    · split
      · rfl
      · exact he
  have hquad : ∀ l, l < 32 → (g.exitMarked m).quadOver l = true := by
    intro l hl
    refine List.all_eq_true.mpr fun j hj => ?_
    have hj : j < 32 := by simp [quadLanes] at hj; omega
    have hk : ((g.exitMarked m).th j).kind = (g.th j).kind := by
      rw [Group.exitMarked_th g m hj]
      (repeat' split) <;> rfl
    by_cases hr : (g.th j).kind = .real
    · simp [hreal j hj hr]
    · simp [hk, hr]
  refine (Group.over_iff _).mpr fun l hl hk => ?_
  rw [Group.exitLanes_kind g m hl] at hk
  rw [Group.exitLanes_th g m hl]
  cases hkind : (g.th l).kind with
  | absent => exact absurd hkind hk
  | real => rw [if_neg fun h => (by cases h.1)]; exact hreal l hl hkind
  | helper => rw [if_pos ⟨rfl, hquad l hl⟩]; rfl

/-! ## EXIT and ERET -/

/-- A run closes on a group that has changed in its threads and its handler's lanes alone. -/
theorem Group.closeRun_changed {g h : Group} {ts : Vector Thread 32} {hset : LaneMask} {hs : List LaneMask}
    (e : h = { g with threads := ts, handlerSet := hset, handler := hs }) (ran : LaneMask) (back : List LaneMask) :
    ∃ ps hs hn, h.closeRun ran back =
      { g with threads := ts, handlerSet := hset, run := none, paths := ps, handler := hs, handlerNext := hn } := by
  rw [Group.closeRun_eq]
  generalize (h.closeRun ran back).paths = ps
  generalize (h.closeRun ran back).handler = hs'
  generalize (!((ran &&& h.handlerSet) != 0)) = hn
  subst e
  exact ⟨ps, hs', hn, rfl⟩

/-- What stands of the path's group at the end of its run, before its exits are judged: `ts` are its threads, `hset` the
lanes of its handler. -/
structure RunIsOver (x : Ctx) (a : Group) (ts : Vector Thread 32) (hset : LaneMask) : Prop where
  threads : a.threads = ts
  run : a.run = none
  handlerSet : a.handlerSet = hset
  rest : ∃ ps hs hn n, a = { x.grp with
    threads := ts, handlerSet := hset, run := none, paths := ps, handler := hs, handlerNext := hn, since := n }

/-- EXIT: the run is over and the path's threads have exited (R101, R169). -/
theorem State.exitPath_eq (s : State) (x : Ctx) : ∃ a, s.exitPath x = s.leave x.c x.g a ∧
    RunIsOver x a (x.grp.exitLanes x.run.mask).threads x.grp.handlerSet := by
  obtain ⟨ps, hs, hn, e⟩ := Group.closeRun_changed (Group.exitLanes_threads x.grp x.run.mask) x.run.mask []
  refine ⟨{ (x.grp.exitLanes x.run.mask).closeRun x.run.mask [] with since := s.tick }, rfl, ?_⟩
  rw [e]
  exact ⟨rfl, rfl, rfl, ps, hs, hn, s.tick, rfl⟩

/-- The path's group at an ERET: the threads of TRAPMASK stand where they trapped, the others of the path have exited. -/
def Ctx.returned (x : Ctx) : Group :=
  (x.grp.mapLanes (x.run.mask &&& x.grp.trapMask) fun _ t =>
    { t with lvl := t.plvl, codeBase := x.grp.savedBase, pc := x.grp.trapPc, regionStart := x.grp.trapPc }).exitLanes
      (x.run.mask &&& ~~~(x.run.mask &&& x.grp.trapMask))

theorem Ctx.returned_threads (x : Ctx) : x.returned = { x.grp with threads := x.returned.threads } :=
  Group.exitLanes_changed (Group.mapLanes_eq x.grp _ _) _

/-- ERET: the run is over, and no lane of the path is in the handler (R104). -/
theorem State.returnTrap_eq (s : State) (x : Ctx) : ∃ a, s.returnTrap x = s.leave x.c x.g a ∧
    RunIsOver x a x.returned.threads (x.grp.handlerSet &&& ~~~x.run.mask) := by
  have he := x.returned_threads
  refine ⟨{ ({ x.returned with
      handlerSet := x.returned.handlerSet &&& ~~~x.run.mask
      handler := x.returned.handler.filter fun m => (m &&& x.run.mask) == 0 } : Group).closeRun x.run.mask
        [x.run.mask &&& x.grp.trapMask] with handlerNext := false, since := s.tick }, rfl, ?_⟩
  generalize x.returned = r at he ⊢
  generalize r.threads = ts at he ⊢
  subst he
  obtain ⟨ps, hs, hn, e⟩ := Group.closeRun_changed (g := x.grp) rfl x.run.mask [x.run.mask &&& x.grp.trapMask]
  rw [e]
  exact ⟨rfl, rfl, rfl, ps, hs, false, s.tick, rfl⟩

section
variable {x : Ctx} {a y : Group} {ts : Vector Thread 32} {hset : LaneMask} (h : RunIsOver x a ts hset)
include h

theorem RunIsOver.block : a.block = x.grp.block := by obtain ⟨_, _, _, _, e⟩ := h.rest; rw [e]
theorem RunIsOver.queue (q : Nat) : a.queue q = x.grp.queue q := by obtain ⟨_, _, _, _, e⟩ := h.rest; rw [e]; rfl

variable (k : StandsAfterExit a y)
include k

theorem StandsAfterExit.run : y.run = none := by obtain ⟨_, _, _, _, _, _, e⟩ := k.rest; rw [e]; exact h.run

theorem StandsAfterExit.sregs : y.s = x.grp.s := by
  obtain ⟨_, _, _, _, e⟩ := h.rest
  obtain ⟨_, _, _, _, _, _, rfl⟩ := k.rest
  rw [e]; rfl

theorem StandsAfterExit.trapRegs :
    y.trapCause = x.grp.trapCause ∧ y.trapPc = x.grp.trapPc ∧ y.trapMask = x.grp.trapMask ∧ y.trapVal = x.grp.trapVal := by
  obtain ⟨_, _, _, _, e⟩ := h.rest
  obtain ⟨_, _, _, _, _, _, rfl⟩ := k.rest
  rw [e]
  exact ⟨rfl, rfl, rfl, rfl⟩

/-- No lane joins the handler by an exit. -/
theorem StandsAfterExit.handlerSet_and {m : LaneMask} (hm : hset &&& m = 0) : y.handlerSet &&& m = 0 := by
  obtain ⟨_, _, _, _, _, _, rfl⟩ := k.rest
  change (a.handlerSet &&& ~~~a.exitedMask) &&& m = 0
  rw [h.handlerSet, BitVec.and_assoc, BitVec.and_comm (~~~_), ← BitVec.and_assoc, hm]
  exact BitVec.zero_and

end

/-! ## What an exit leaves of the path's group -/

section
variable {x : Ctx} {a : Group} {hset : LaneMask} (h : RunIsOver x a (x.grp.exitLanes x.run.mask).threads hset)
include h

theorem RunIsOver.th_exitLanes (l : Nat) : a.th l = (x.grp.exitLanes x.run.mask).th l := Group.th_congr h.threads l

/-- A real thread of the path has exited, and another that stands ready is as it was. -/
theorem StandsAfterExit.exits {y : Group} (k : StandsAfterExit a y) {l : Nat} (hl : l < 32) (hk : (x.grp.th l).kind = .real) :
    (x.run.mask.getLsbD l → y.th l = { x.grp.th l with standing := .exited, vPend := 0 }) ∧
    (x.run.mask.getLsbD l = false → (x.grp.th l).standing = .ready → y.th l = x.grp.th l) := by
  have ha := (h.th_exitLanes l).trans (Group.exitLanes_th_real x.grp x.run.mask hl hk)
  refine ⟨fun hm => ?_, fun hm hr => ?_⟩
  · rw [if_pos hm] at ha
    exact (k.th l hl (by rw [ha]; rfl)).trans ha
  · rw [if_neg (by simp [hm])] at ha
    exact (k.th l hl (by rw [ha, hr]; rfl)).trans ha

/-- While a real thread outside the path stands ready the group is not over. -/
theorem RunIsOver.not_over {l : Nat} (hl : l < 32) (hm : x.run.mask.getLsbD l = false) (hk : (x.grp.th l).kind = .real)
    (hr : (x.grp.th l).standing = .ready) : a.over = false := by
  have ha := (h.th_exitLanes l).trans (Group.exitLanes_th_real x.grp x.run.mask hl hk)
  rw [if_neg (by simp [hm])] at ha
  exact Group.not_over hl (by rw [ha, hk]; decide) (by rw [ha, hr])

/-- With the path's exit the last real thread of the group has exited, and so has every lane. -/
theorem RunIsOver.over_of_last
    (hlast : ∀ l, l < 32 → (x.grp.th l).kind = .real → x.run.mask.getLsbD l ∨ (x.grp.th l).standing = .exited) :
    a.over = true := by
  rw [Group.over_iff]
  simp only [h.th_exitLanes]
  exact (Group.over_iff _).mp (Group.exitLanes_over hlast)

/-- A group that is over has every thread exited and its status queues empty. -/
theorem StandsAfterExit.over_effects {y : Group} (k : StandsAfterExit a y) (ho : a.over = true) :
    (∀ l, l < 32 → (x.grp.th l).kind ≠ .absent → (y.th l).standing = .exited) ∧
      ∀ q, y.queue q = if q ∈ [1, 3, 5, 7, 9, 10, 11, 12, 13] then [] else x.grp.queue q := by
  refine ⟨fun l hl hk => ?_, fun q => ?_⟩
  · have ha : (a.th l).standing = .exited := (Group.over_iff a).mp ho l hl <| by
      rw [h.th_exitLanes l, Group.exitLanes_kind _ _ hl]; exact hk
    rw [k.th l hl (by rw [ha]; rfl), ha]
  · rw [k.queue_eq q, h.queue q]
    simp only [ho, true_and]
    rfl

end

/-- Both exits end the path's run as `exitPath` has it. -/
theorem exec_exit_eq {s : State} {x : Ctx} (hx : s.ctx = some x) {i : Instr} (hi : i = .exit ∨ i = .uexit) :
    exec i s = .next (s.exitPath x) := by
  rcases hi with rfl | rfl
  · exact State.withRun_eq hx _
  · exact State.withRun_eq hx _

/-- The real threads of the path's group at an ERET: those of TRAPMASK stand at TRAPPC, the path's others have exited. -/
theorem Ctx.returned_th (x : Ctx) {l : Nat} (hl : l < 32) (hk : (x.grp.th l).kind = .real) : x.returned.th l =
    if (x.run.mask &&& x.grp.trapMask).getLsbD l then
      { x.grp.th l with lvl := (x.grp.th l).plvl, codeBase := x.grp.savedBase, pc := x.grp.trapPc, regionStart := x.grp.trapPc }
    else if x.run.mask.getLsbD l then { x.grp.th l with standing := .exited, vPend := 0 } else x.grp.th l := by
  have hmap := Group.th_mapLanes x.grp (x.run.mask &&& x.grp.trapMask) (fun _ t =>
    { t with lvl := t.plvl, codeBase := x.grp.savedBase, pc := x.grp.trapPc, regionStart := x.grp.trapPc }) hl
  have hkind := congrArg Thread.kind hmap
  rw [Ctx.returned, Group.exitLanes_th_real _ _ hl (hkind.trans (by split <;> exact hk)), hmap, BitVec.getLsbD_and, BitVec.getLsbD_not]
  by_cases hb : (x.run.mask &&& x.grp.trapMask).getLsbD l
  · simp [hb]
  · simp only [hb, hl]
    cases x.run.mask.getLsbD l <;> rfl

end Sys2Proof.Machine

namespace Sys2Proof.Claims
open Sys2Proof.Machine

/-- Settles O27: the exits keep a thread that stands ready, and the judging of masks and barriers that follows changes no
thread but those that wait; the block ends only when all its groups are spent. -/
theorem exitEndsThePathsThreads : Obligations.ExitEndsThePathsThreads := by
  unfold Obligations.ExitEndsThePathsThreads
  intro s x hx i hi
  rw [exec_exit_eq hx hi]
  obtain ⟨a, he, h⟩ := s.exitPath_eq x
  rw [he]
  have hc (hcore : ∀ b, s.block x.grp.block = some b → b.core = x.c) : ∀ b, s.block a.block = some b → b.core = x.c := by
    rw [h.block]; exact hcore
  refine ⟨⟨_, rfl, State.leave_focus .., s.leave_byteAt x.c x.g a⟩, ?_, ?_⟩
  · rintro ⟨l, hl, hm, hk, hr⟩
    have ho := h.not_over hl hm hk hr
    obtain ⟨y, st, n, hy, hgroup⟩ := s.leave_group x.c x.g ho
    refine ⟨_, rfl, ⟨State.leave_focus .., _, hgroup, StandsAfterExit.sregs (y := y) h hy, fun l hl => ?_⟩, fun hg hcore => ?_⟩
    · exact ⟨fun hm hk => (hy.exits h hl hk).1 hm, fun hm hk => (hy.exits h hl hk).2 hm⟩
    · obtain ⟨_, _, _, hothers⟩ := State.leave_stands hg (hc hcore) (.inl ho)
      exact hothers
  · intro hg hcore
    refine ⟨?_, ?_⟩
    · rintro ⟨g, z, ⟨hg32, hne, hz, hb⟩, hs⟩
      obtain ⟨y, hy, hgroup, hothers⟩ := State.leave_stands hg (hc hcore) (.inr ⟨g, z, hg32, hne, hz, hb.trans h.block.symm, hs⟩)
      refine ⟨_, y, rfl, ⟨State.leave_focus .., y, hgroup, hy.sregs h, fun l hl => ?_⟩, hothers, hgroup, hy.run h, fun hlast => ?_⟩
      · exact ⟨fun hm hk => (hy.exits h hl hk).1 hm, fun hm hk => (hy.exits h hl hk).2 hm⟩
      · exact hy.over_effects h (h.over_of_last hlast)
    · intro blk hblk hended hlast hmates hqueues
      obtain ⟨hblock, hgone⟩ := State.leave_ends hg (h.block ▸ hblk) (hcore blk hblk) hended (h.over_of_last hlast)
        (fun q hq => (h.queue q).trans (hqueues q hq))
        fun g' z hg' hne hz hb => hmates g' z ⟨hg', hne, hz, hb.trans h.block⟩
      rw [h.block] at hblock
      exact ⟨_, _, rfl, hblock, rfl, hgone x.g hg (.inl rfl),
        fun g z ⟨hg32, _, hz, hb⟩ => hgone g hg32 (.inr ⟨z, hz, hb.trans h.block.symm⟩)⟩

/-- Settles O34: the threads of TRAPMASK stand ready where they trapped, so the group goes on; what the exits of the
others bring about changes no thread but those that wait. -/
theorem returnFromTrapResumes : Obligations.ReturnFromTrapResumes := by
  unfold Obligations.ReturnFromTrapResumes
  intro s x hx hsup
  have hexec : exec .eret s = .next (s.returnTrap x) := by
    change execEret s = _
    rw [execEret, State.withRun_eq hx, if_pos hsup]
  rw [hexec]
  obtain ⟨a, he, h⟩ := s.returnTrap_eq x
  rw [he]
  refine ⟨⟨_, rfl, State.leave_focus .., s.leave_byteAt x.c x.g a⟩, ?_⟩
  rintro ⟨l, hl, hm, hk, hr⟩
  have ha (l : Nat) (hl : l < 32) (hk : (x.grp.th l).kind = .real) := (Group.th_congr h.threads l).trans (x.returned_th hl hk)
  have ho : a.over = false := by
    have hal := ha l hl hk
    rw [if_pos hm] at hal
    exact Group.not_over hl (by rw [hal]; simp [hk]) (by rw [hal]; exact hr)
  obtain ⟨y, st, n, hy, hgroup⟩ := s.leave_group x.c x.g ho
  obtain ⟨hcause, hpc, hmask, hval⟩ := hy.trapRegs h
  have hrun := hy.run h
  have hsregs := hy.sregs h
  refine ⟨_, _, rfl, hgroup, StandsAfterExit.handlerSet_and (y := y) h hy ?_, hrun, hsregs, fun hg hcore => ?_, hcause, hpc, hmask, hval,
    fun l hl hk hr => ?_⟩
  · rw [BitVec.and_assoc, BitVec.and_comm (~~~_), BitVec.and_not_self]
    exact BitVec.and_zero
  · obtain ⟨_, _, _, hothers⟩ := State.leave_stands hg (h.block ▸ hcore) (.inl ho)
    exact hothers
  · have hal := ha l hl hk
    have hwaits : (a.th l).standing.waiting = false := by
      rw [hal]
      split
      · rw [hr]; rfl
      · split
        · rfl
        · rw [hr]; rfl
    exact (hy.th l hl hwaits).trans hal

end Sys2Proof.Claims
end

section
/-! SUPPORT. A group held by an APGO that its trap handler has issued: what the answer does to the handler's paths. -/

namespace Sys2Proof.Machine

/-- A group whose only thread stands in the trap handler, at supervisor level, and waits for the die's answer to an APGO of
the block at address 0 (R316, R328). -/
def apgoHandlerGroup : Group :=
  { Group.reset with
    threads := Group.reset.threads.set 0 { Thread.reset with kind := .real, standing := .ready, lvl := true }
    handlerSet := 1
    hold := some (1, .apgo 0 70 true) }

/-- The machine around it: the operator partition maps its first 2 MiB, die 0 is up, and the block at address 0 opens
the one array whose number stands at address 0. -/
def apgoHandlerState : State :=
  { State.reset.setGroup 0 0 apgoHandlerGroup with
    launches := [(0, some { Launch.reset with heapLim := 0x200000, ended := false })]
    partitions := [(0, { Partition.reset with operator := true, active := true, ranges := Partition.reset.ranges.set 0 (0, 1) })]
    dies := [(0, { Die.reset with up := true })]
    mem := [(4, 1)] }

/-- The block that the APGO names. -/
def apgoHandlerBlock : List Byte := [0, 0, 0, 0, 1] ++ List.replicate 59 0

/-- The handler's paths in slot 0 of core 0, after a step. -/
def handlerPaths : Out → Option (List LaneMask)
  | .next t => (t.group 0 0).map Group.handler
  | _ => none

theorem apgoHandler_reads_block :
    apgoHandlerState.readAs (apgoHandlerGroup.reader 0 true) 0 64 = .ok apgoHandlerBlock := by decide +kernel

theorem apgoHandler_reads_list :
    apgoHandlerState.readAs (apgoHandlerGroup.reader 0 true) (BitVec.ofNat 64 (dwordIn apgoHandlerBlock 8))
      (4 * wordIn apgoHandlerBlock 4) = .ok [0, 0, 0, 0] := by decide +kernel

/-- When the die has answered, the path goes on as a handler path (R39, R328). -/
theorem apgoHandler_answered : handlerPaths (exec (.apgoAnswer 0 0) apgoHandlerState) = some [1] := by decide +kernel

end Sys2Proof.Machine

namespace Sys2Proof.Claims
open Sys2Proof.Machine

/-- A completed hold, as the statements have it, leaves the list of handler paths as it was. -/
theorem Completed.handler {s t : State} {c g : Nat} {grp : Group} {m : LaneMask} {commit : Bool} {sv : Vector Word 32}
    (h : Completed s t c g grp m commit fun y => { y with s := sv }) : (t.group c g).map Group.handler = some grp.handler := by
  obtain ⟨y, hy, _, e, _⟩ := h
  rw [hy, e]
  rfl

/-- Refutes O52: an APGO that a trap handler issues. When the die has answered, its path is a handler path again and
stands in the group's list of them (R328), which `Completed` has as it was. -/
theorem not_requestsToTheUnits : ¬ Obligations.RequestsToTheUnits := by
  unfold Obligations.RequestsToTheUnits
  intro h
  obtain ⟨_, _, _, hapgo, _⟩ := h
  obtain ⟨t, ht, _, hdone, _⟩ := hapgo apgoHandlerState 0 0 apgoHandlerGroup 1 0 70 true apgoHandlerBlock [0, 0, 0, 0]
    (by rfl) (by rfl) apgoHandler_reads_block (by decide +kernel) apgoHandler_reads_list (by rfl)
  have hlist := apgoHandler_answered
  rw [ht] at hlist
  have hkept : (t.group 0 0).map Group.handler = some [] := Completed.handler hdone
  exact absurd (hkept.symm.trans hlist) (by decide)

end Sys2Proof.Claims
end

section
/-! SUPPORT. The floating-point forms that count no event: they run as the shapes of the integer forms, which touch no
counter (R121, R125, R126, R132). -/

namespace Sys2Proof.Claims

open Sys2Proof.Machine

theorem lowHalf_eq_mod (a : Word) : lowHalf a = a.toNat % 65536 := rfl

theorem highHalf_eq_div (a : Word) : highHalf a = a.toNat / 65536 := rfl

/-- Settles O18: the compares run as the predicate shape, the conversions and RND as the shapes of one and of two sources;
none of these counts an event, and the model's word functions are the stated ones. -/
theorem quietFloatForms : Obligations.QuietFloatForms := by
  unfold Obligations.QuietFloatForms
  refine ⟨?compares, ?integers, ?widenings, ?rnd⟩
  case compares =>
    exact ⟨pred2_of_exec _ fun _ _ => rfl, pred2_of_exec _ fun _ _ => rfl, pred2_of_exec _ fun _ _ => rfl,
      pred2_of_exec _ fun _ _ => rfl⟩
  case integers =>
    exact ⟨lane1_of_exec (toIntWord .near (-2147483648) 2147483647) fun _ => rfl,
      lane1_of_exec (toIntWord .trunc (-2147483648) 2147483647) fun _ => rfl,
      lane1_of_exec (toIntWord .near 0 4294967295) fun _ => rfl, lane1_of_exec _ fun _ => rfl, lane1_of_exec _ fun _ => rfl⟩
  case widenings =>
    exact ⟨lane1_of_exec _ fun a => congrArg (widen bf16) (lowHalf_eq_mod a),
      lane1_of_exec _ fun a => congrArg (widen bf16) (highHalf_eq_div a),
      lane1_of_exec _ fun a => congrArg (widen fp16) (lowHalf_eq_mod a),
      lane1_of_exec _ fun a => congrArg (widen fp16) (highHalf_eq_div a)⟩
  case rnd => exact lane2_of_exec rndHash fun _ _ => rfl

end Sys2Proof.Claims
end

section
/-! SUPPORT. The judging of rejoin masks: what JUDGE makes of a group, thread by thread, and WAIT, MSET and MCLR by it (R142,
R166, R167). -/

namespace Sys2Proof.Machine

open Sys2Proof.Claims

/-! ## Threads that count as exited, and the judged threads -/

theorem Group.exitedMask_eq_goneOf (g : Group) : g.exitedMask = goneOf g.th := rfl

theorem goneOf_congr {f f' : Nat → Thread} (h : ∀ l, l < 32 → f l = f' l) : goneOf f = goneOf f' :=
  BitVec.eq_of_getLsbD_eq fun l hl => by rw [goneOf, goneOf, maskOf_getLsbD _ hl, maskOf_getLsbD _ hl, h l hl]

theorem judged_congr {f f' : Nat → Thread} (h : ∀ l, l < 32 → f l = f' l) (m : Nat) (v arr : LaneMask) {l : Nat} (hl : l < 32) :
    judged m v arr f l = judged m v arr f' l := by
  rw [judged, judged, goneOf_congr h, h l hl]

/-! ## JUDGE -/

/-- JUDGE releases the threads that the statements have released; without an arrival there is none (R167). -/
theorem Group.judge_th (g : Group) (i : Nat) {l : Nat} (hl : l < 32) :
    (g.judge i).th l = judged i (g.rejoin i) (g.arrived[i]?.getD 0) g.th l := by
  rw [Group.judge_eq, judged, Group.exitedMask_eq_goneOf]
  generalize g.arrived[i]?.getD 0 = arr
  by_cases hall : g.rejoin i &&& ~~~(arr ||| goneOf g.th) = 0
  · by_cases hnone : arr = 0
    · have hbit : arr.getLsbD l = false := hnone ▸ BitVec.getLsbD_zero
      rw [if_pos hall, if_pos hnone, if_neg fun h => Bool.false_ne_true (hbit.symm.trans h.2.1)]
    · rw [if_pos hall, if_neg hnone]
      refine (Group.release_th g _ hl).trans (ite_congr (propext ?_) (fun _ => rfl) fun _ => rfl)
      rw [BitVec.getLsbD_and, Group.lanesWith_getLsbD _ _ hl, Bool.and_eq_true, beq_iff_eq]
      exact (and_iff_right hall).symm
  · rw [if_neg hall, if_neg fun h => hall h.1]

theorem setIfInBounds_of_getD {α : Type} {n i : Nat} {xs : Vector α n} {a : α} (h : xs[i]?.getD a = a) :
    xs.setIfInBounds i a = xs := by
  ext j hj
  rw [Vector.getElem_setIfInBounds hj]
  split
  · subst i
    rw [Vector.getElem?_eq_getElem hj, Option.getD_some] at h
    exact h.symm
  · rfl

/-- The arrivals of a mask that is judged complete are cleared (R167). -/
theorem Group.judge_arrived (g : Group) (i : Nat) : (g.judge i).arrived =
    if g.rejoin i &&& ~~~((g.arrived[i]?.getD 0) ||| goneOf g.th) = 0 then g.arrived.setIfInBounds i 0 else g.arrived := by
  rw [Group.judge_eq, Group.exitedMask_eq_goneOf]
  by_cases hall : g.rejoin i &&& ~~~((g.arrived[i]?.getD 0) ||| goneOf g.th) = 0
  · rw [if_pos hall, if_pos hall]
    by_cases hnone : g.arrived[i]?.getD 0 = 0
    · rw [if_pos hnone]
      exact (setIfInBounds_of_getD hnone).symm
    · rw [if_neg hnone]
  · rw [if_neg hall, if_neg hall]

@[simp] theorem Group.judge_m (g : Group) (i : Nat) : (g.judge i).m = g.m := by
  obtain ⟨_, _, _, _, _, e⟩ := (g.judge_keeps i).rest
  rw [e]

@[simp] theorem Group.judge_s (g : Group) (i : Nat) : (g.judge i).s = g.s := by
  obtain ⟨_, _, _, _, _, e⟩ := (g.judge_keeps i).rest
  rw [e]

@[simp] theorem Group.judge_run (g : Group) (i : Nat) : (g.judge i).run = g.run := by
  obtain ⟨_, _, _, _, _, e⟩ := (g.judge_keeps i).rest
  rw [e]

/-! ## What the end of a run leaves of its group -/

section
variable (g : Group) (ran : LaneMask) (back : List LaneMask)

theorem Group.closeRun_th (l : Nat) : (g.closeRun ran back).th l = g.th l :=
  Group.th_congr (by rw [Group.closeRun_eq]) l

@[simp] theorem Group.closeRun_m : (g.closeRun ran back).m = g.m := by rw [Group.closeRun_eq]

@[simp] theorem Group.closeRun_s : (g.closeRun ran back).s = g.s := by rw [Group.closeRun_eq]

@[simp] theorem Group.closeRun_arrived : (g.closeRun ran back).arrived = g.arrived := by rw [Group.closeRun_eq]

@[simp] theorem Group.closeRun_run : (g.closeRun ran back).run = none := by rw [Group.closeRun_eq]

end

/-! ## WAIT -/

/-- The path's threads have arrived at mask `m` and wait there. -/
def Ctx.arrives (x : Ctx) (m : Nat) : Group :=
  { x.grp.mapLanes x.run.mask fun _ t => { t with standing := .waits m } with
    arrived := x.grp.arrived.setIfInBounds m ((x.grp.arrived[m]?.getD 0) ||| x.run.mask) }

/-- The path's group as a WAIT on mask `m` judges it: the path's threads wait, and the run is over. -/
def Ctx.waiting (x : Ctx) (m : Nat) : Group := (x.arrives m).closeRun x.run.mask []

theorem exec_wait_eq {s : State} {x : Ctx} (hx : s.ctx = some x) (i : BitVec 8) : exec (.wait i) s =
    .next (s.setGroup x.c x.g { (x.waiting (i.toNat % 16)).judge (i.toNat % 16) with since := s.tick }).unfocus :=
  State.withRun_eq hx _

section
variable (x : Ctx) (m : Nat)

theorem Ctx.waiting_th {l : Nat} (hl : l < 32) : (x.waiting m).th l =
    if x.run.mask.getLsbD l then { x.grp.th l with standing := .waits m } else x.grp.th l :=
  calc (x.waiting m).th l
    _ = (x.arrives m).th l := by rw [Ctx.waiting, Group.closeRun_th]
    _ = (x.grp.mapLanes x.run.mask fun _ t => { t with standing := .waits m }).th l := Group.th_congr (by rw [Ctx.arrives]) l
    _ = _ := by rw [Group.th_mapLanes _ _ _ hl]

theorem Ctx.waiting_m : (x.waiting m).m = x.grp.m := by rw [Ctx.waiting, Group.closeRun_m, Ctx.arrives, Group.mapLanes_m]

theorem Ctx.waiting_s : (x.waiting m).s = x.grp.s := by rw [Ctx.waiting, Group.closeRun_s, Ctx.arrives, Group.mapLanes_s]

theorem Ctx.waiting_run : (x.waiting m).run = none := by rw [Ctx.waiting, Group.closeRun_run]

theorem Ctx.waiting_arrived :
    (x.waiting m).arrived = x.grp.arrived.setIfInBounds m ((x.grp.arrived[m]?.getD 0) ||| x.run.mask) := by
  rw [Ctx.waiting, Group.closeRun_arrived, Ctx.arrives]

theorem Ctx.waiting_rejoin : (x.waiting m).rejoin m = x.grp.rejoin m := by
  rw [Group.rejoin, x.waiting_m, Group.rejoin]

end

/-- At one of the sixteen masks the path's lanes have joined the arrivals. -/
theorem Ctx.waiting_arrivals (x : Ctx) {m : Nat} (hm : m < 16) :
    (x.waiting m).arrived[m]?.getD 0 = (x.grp.arrived[m]?.getD 0) ||| x.run.mask := by
  rw [x.waiting_arrived, Vector.getElem?_setIfInBounds, if_pos rfl, if_pos hm, Option.getD_some]

/-! ## MSET and MCLR -/

/-- The path's group with mask `m` written as `v`, before it is judged. -/
def Ctx.masked (x : Ctx) (m : Nat) (v : LaneMask) : Group := { x.grp with m := x.grp.m.setIfInBounds m v }

theorem Ctx.masked_th (x : Ctx) (m : Nat) (v : LaneMask) : (x.masked m v).th = x.grp.th := rfl

theorem Ctx.masked_rejoin (x : Ctx) {m : Nat} (v : LaneMask) (hm : m < 16) : (x.masked m v).rejoin m = v := by
  rw [Group.rejoin, Ctx.masked, Vector.getElem?_setIfInBounds, if_pos rfl, if_pos hm, Option.getD_some]

/-- MSET writes the path's lanes, MCLR none; the mask is judged, and the path goes on at PC + 4 (R166). -/
theorem exec_mask_eq {s : State} {x : Ctx} (hx : s.ctx = some x) {c : Bool → BitVec 8 → Instr} {v : LaneMask}
    (hc : c = .mset ∧ v = x.run.mask ∨ c = .mclr ∧ v = 0) (e : Bool) (i : BitVec 8) :
    exec (c e i) s = .next (s.finish x ((x.masked (i.toNat % 16) v).judge (i.toNat % 16)) e (.uniform 0)) := by
  rcases hc with ⟨rfl, rfl⟩ | ⟨rfl, rfl⟩
  · exact State.withRun_eq hx _
  · exact State.withRun_eq hx _

/-- The path goes on at PC + 4 in a group of which any part may have changed. -/
theorem State.finish_group (s : State) (x : Ctx) (grp : Group) (e : Bool) (b : Latch) :
    SameMachine s (s.finish x grp e b) ∧ SameCores s (s.finish x grp e b) x.c x.g ∧
    ∃ y, (s.finish x grp e b).group x.c x.g = some y ∧ y.m = grp.m ∧ y.s = grp.s ∧
      (∀ l, l < 32 → y.th l = if x.run.mask.getLsbD l then (grp.th l).next else grp.th l) ∧
      (if e then (s.finish x grp e b).focus = none ∧ y.run = none
       else (s.finish x grp e b).focus = s.focus ∧ y.run = some (x.run.fill b)) := by
  have hth : ∀ l, l < 32 → _ := fun _ hl => Group.th_mapLanes grp x.run.mask (fun _ t => { t with pc := t.pc + 4 }) hl
  have hm := Group.mapLanes_m grp x.run.mask fun _ t => { t with pc := t.pc + 4 }
  have hs := Group.mapLanes_s grp x.run.mask fun _ t => { t with pc := t.pc + 4 }
  unfold State.finish State.goOn
  generalize (grp.mapLanes x.run.mask fun _ t => { t with pc := t.pc + 4 }) = moved at hth hm hs ⊢
  cases e with
  | false =>
    exact ⟨.setGroup .., .setGroup .., _, State.group_setGroup_same .., hm, hs, hth, rfl, rfl⟩
  | true =>
    refine ⟨.setGroup_unfocus .., .setGroup_unfocus .., _, State.group_setGroup_same .., ?_, ?_, fun l hl => ?_, rfl, ?_⟩
    · exact (moved.closeRun_m x.run.mask [x.run.mask]).trans hm
    · exact (moved.closeRun_s x.run.mask [x.run.mask]).trans hs
    · exact (moved.closeRun_th x.run.mask [x.run.mask] l).trans (hth l hl)
    · exact moved.closeRun_run x.run.mask [x.run.mask]

end Sys2Proof.Machine

namespace Sys2Proof.Claims

open Sys2Proof.Machine

/-- Settles O26: WAIT, MSET and MCLR all end in JUDGE, which releases the threads that the statement has released; MSET and
MCLR then take the path on to PC + 4. -/
theorem rejoinMasksAreJudged : Obligations.RejoinMasksAreJudged := by
  unfold Obligations.RejoinMasksAreJudged
  refine ⟨fun s x i hx => ?wait, fun s x e i v hx c hc => ?mask⟩
  case wait =>
    have hm : i.toNat % 16 < 16 := Nat.mod_lt _ (by decide)
    generalize hmask : i.toNat % 16 = m at hm
    have hth : ∀ l, l < 32 → _ := fun _ hl => x.waiting_th m hl
    have harr := x.waiting_arrivals hm
    refine ⟨_, _, exec_wait_eq hx i, .setGroup_unfocus .., .setGroup_unfocus .., rfl, State.group_setGroup_same .., ?_⟩
    rw [hmask]
    refine ⟨?run, ?masks, ?sregs, fun l hl => ?threads, ?arrived⟩
    case run => exact (Group.judge_run ..).trans (x.waiting_run m)
    case masks => exact (Group.judge_m ..).trans (x.waiting_m m)
    case sregs => exact (Group.judge_s ..).trans (x.waiting_s m)
    case threads =>
      refine (Group.judge_th _ m hl).trans ?_
      rw [x.waiting_rejoin, harr]
      exact judged_congr hth m _ _ hl
    case arrived =>
      refine (Group.judge_arrived _ m).trans ?_
      rw [x.waiting_rejoin, harr, goneOf_congr hth, x.waiting_arrived, Vector.setIfInBounds_setIfInBounds]
      exact (apply_ite _ _ _ _).symm
  case mask =>
    have hm : i.toNat % 16 < 16 := Nat.mod_lt _ (by decide)
    rw [exec_mask_eq hx hc]
    generalize i.toNat % 16 = m at hm
    obtain ⟨hmach, hcores, y, hy, hym, hys, hth, hrun⟩ := s.finish_group x ((x.masked m v).judge m) e (.uniform 0)
    refine ⟨_, y, rfl, hmach, hcores, hy, ?masks, ?sregs, fun l hl => ?threads, hrun⟩
    case masks => exact hym.trans (Group.judge_m ..)
    case sregs => exact hys.trans (Group.judge_s ..)
    case threads =>
      have hj := Group.judge_th (x.masked m v) m hl
      rw [x.masked_rejoin v hm, x.masked_th] at hj
      rw [hth l hl, hj]
      rfl

end Sys2Proof.Claims
end
